-- ==== Sys2Proof/Word.lean ====
section
/-! DEFINITION. Word types and places of the device: the widths of R2 to R4 and the numbering of R9. -/

namespace Sys2Proof

/-- One byte of memory. -/
abbrev Byte := BitVec 8

/-- One 16-bit parcel of a code line (R33). -/
abbrev Parcel := BitVec 16

/-- A 32-bit word, lane or mask (R4). -/
abbrev W32 := BitVec 32

/-- A 64-bit word: a g register, an address, a control register (R4, R89). -/
abbrev W64 := BitVec 64

/-- A v register: 32 lanes of 32 bits, lane 0 first (R109). -/
abbrev Vec := Vector W32 32

/-- A physical cluster, 0 to 127 (R9). -/
abbrev ClusterIx := Fin 128

/-- A physical core: cluster × 8 + core (R9). -/
abbrev CoreIx := Fin 1024

/-- A physical thread slot: core × 16 + slot (R9). -/
abbrev SlotIx := Fin 16384

/-- A partition and the virtual function that owns it (R403: up to 64, one per partition). -/
abbrev PartIx := Fin 64

/-- A register page: the virtual functions 0 to 63 and the physical function 64 (R403). -/
abbrev FuncIx := Fin 65

/-- The core of a slot. -/
def SlotIx.core (w : SlotIx) : CoreIx := ⟨w.val / 16, by omega⟩

/-- The slot number within its core, 0 to 15. -/
def SlotIx.num (w : SlotIx) : Fin 16 := ⟨w.val % 16, by omega⟩

/-- The cluster of a core. -/
def CoreIx.cluster (c : CoreIx) : ClusterIx := ⟨c.val / 8, by omega⟩

/-- The core number within its cluster, 0 to 7. -/
def CoreIx.num (c : CoreIx) : Fin 8 := ⟨c.val % 8, by omega⟩

/-- The cluster of a slot. -/
def SlotIx.cluster (w : SlotIx) : ClusterIx := CoreIx.cluster (SlotIx.core w)

/-- The core of a cluster with a given number. -/
def coreOf (cl : ClusterIx) (n : Fin 8) : CoreIx := ⟨cl.val * 8 + n.val, by omega⟩

/-- The slot of a core with a given number. -/
def slotOf (c : CoreIx) (n : Fin 16) : SlotIx := ⟨c.val * 16 + n.val, by omega⟩

/-- The die of a cluster (R9). -/
def ClusterIx.die (c : ClusterIx) : Nat := c.val / 32

end Sys2Proof
end

