-- ==== Sys2Proof/Syntax.lean ====
section
/-! DEFINITION. The steps of the device: one constructor of Instr for each row of spec/opcode_table.json.
Rows 0 to 168 are the instructions of R48; rows 169 to 256 are the events of
spec/95_what_each_step_holds.md, which have no encoding and carry the place where they happen. -/

namespace Sys2Proof

/-- A register field of class G (R43). -/
abbrev GReg := Fin 32

/-- A register field of class V (R43): v0 to v31. -/
abbrev VReg := Fin 32

/-- A register field of class K (R43). -/
abbrev KReg := Fin 8

/-- A register field of class GV (R43, R110). -/
inductive GV where
  | g (r : GReg)
  | v (r : VReg)
deriving DecidableEq, Repr

/-- The write mask k[K] with the zeroing flag Z (R111). -/
structure Mask where
  k : KReg
  z : Bool
deriving DecidableEq, Repr

/-- Condition codes 0 to 9 (R47, R95). -/
inductive Cond where
  | eq | ne | lts | ges | ltn | gen | les | gts | len | gtn
deriving DecidableEq, Repr

/-- Float conditions of vcmp, FN5 16 to 23 (R120). -/
inductive FCond where
  | feq | fne | flt | fle | fgt | fge | funo | ford
deriving DecidableEq, Repr

/-- The condition of vcmp (R120). -/
inductive VCond where
  | int (c : Cond)
  | flt (c : FCond)
deriving DecidableEq, Repr

/-- Element types TY 0 to 6 (R47). -/
inductive ETy where
  | s32 | n32 | f32 | bf16 | f16 | s16 | s8
deriving DecidableEq, Repr

/-- Rounding modes RM (R47). -/
inductive RMode where
  | rne | rz | ru | rd
deriving DecidableEq, Repr

/-- Scalar width codes 0 to 6 (R47). -/
inductive LdW where
  | n8 | n16 | n32 | s8 | s16 | s32 | w64
deriving DecidableEq, Repr

/-- Source widths of ext (R97). -/
inductive ExtW where
  | s8 | s16 | s32 | n8 | n16 | n32
deriving DecidableEq, Repr

/-- Addressing of vld and vst (R144). -/
inductive VAddr where
  | unit (b : GReg)
  | str (b : GReg) (c : GReg)
  | gat (b : VReg)
deriving DecidableEq, Repr

/-- Atomic operations FN5 0 to 11 (R180). -/
inductive AmoOp where
  | add | and | or | xor | mins | maxs | minn | maxn | swap | fadd | fmin | fmax
deriving DecidableEq, Repr

/-- Atomic widths TY 0 to 2 (R180). -/
inductive AmoTy where
  | i32 | i64 | f32
deriving DecidableEq, Repr

/-- Region modes 1 to 5 (R201, R213). -/
inductive RgnMode where
  | r | w | rw | nc | a
deriving DecidableEq, Repr

/-- Kinds of fence (R148). -/
inductive FenceKind where
  | all | ld | st | posted
deriving DecidableEq, Repr

/-- Flags of tmac and tmacr (R262). -/
structure TFlags where
  promote : Bool
  first : Bool
  pop : Bool
deriving DecidableEq, Repr

/-- Kinds of tzero, F 1 to 5 (R262, R268). -/
inductive TzKind where
  | inner | outer | both | valid | invalid
deriving DecidableEq, Repr

/-- Activations of tepi, FN5 0 to 3 (R269). -/
inductive TepiAct where
  | none
  | relu
  | clamp (c : GReg)
  | leaky (c : GReg)
deriving DecidableEq, Repr

/-- Operations of grpred, FN5[1:0] (R346). -/
inductive GrpOp where
  | fsum | sum | min | max
deriving DecidableEq, Repr

/-- Contribution types of grpred, TY 0 to 2 (R346). -/
inductive GrpTy where
  | s64 | n64 | f32
deriving DecidableEq, Repr

/-- The register a REGISTER_WRITE names: a control register of a thread (R53), a register of a function's
page at a byte offset (R404, R412), or a register of the physical function's counter window (R421). -/
inductive RegTarget where
  | control (w : SlotIx) (index : BitVec 16)
  | page (f : FuncIx) (offset : Nat)
  | window (offset : Nat)
deriving DecidableEq, Repr

/-- A bandwidth band register (R401): the memory band or the band of one Carran port of a function's page. -/
inductive BandReg where
  | mem (f : FuncIx)
  | link (f : FuncIx) (port : Fin 16)
deriving DecidableEq, Repr

/-- One 256-byte Carran flit as it arrives (R415): its sequence number, the result of its CRC check and its
240 bytes of payload. -/
structure Flit where
  seq : Nat
  crcOk : Bool
  payload : List Byte
deriving DecidableEq, Repr

/-- One step of the device. -/
inductive Instr where
  /- Rows 0 to 14: no operation, control registers, system class. -/
  | nop
  | rlx
  | rdc (d : GReg) (index : BitVec 16)
  | wrc (d : GReg) (index : BitVec 16)
  | trap (code : BitVec 16)
  | rett
  | yield
  | exit
  | splock (a : GReg) (n : BitVec 16)
  | spunlock (d : GReg)
  | tlbinvPage (a : GReg)
  | tlbinvRange (a b : GReg)
  | tlbinvAll
  | cxsave (d a b : GReg)
  | cxload (d a : GReg)
  /- Rows 15 to 58: scalar integer, address and control flow. -/
  | add (d a b : GReg)
  | sub (d a b : GReg)
  | mul (d a b : GReg)
  | mulhs (d a b : GReg)
  | mulhn (d a b : GReg)
  | divs (d a b : GReg)
  | divn (d a b : GReg)
  | rems (d a b : GReg)
  | remn (d a b : GReg)
  | and (d a b : GReg)
  | or (d a b : GReg)
  | xor (d a b : GReg)
  | andn (d a b : GReg)
  | shl (d a b : GReg)
  | shr (d a b : GReg)
  | sar (d a b : GReg)
  | mins (d a b : GReg)
  | minn (d a b : GReg)
  | maxs (d a b : GReg)
  | maxn (d a b : GReg)
  | cmp (c : Cond) (d a b : GReg)
  | cmpi (c : Cond) (d a : GReg) (imm : BitVec 16)
  | sel (d a b c : GReg)
  | clz (d a : GReg)
  | ctz (d a : GReg)
  | popc (d a : GReg)
  | ext (w : ExtW) (d a : GReg)
  | addi (d a : GReg) (imm : BitVec 16)
  | andi (d a : GReg) (imm : BitVec 16)
  | ori (d a : GReg) (imm : BitVec 16)
  | xori (d a : GReg) (imm : BitVec 16)
  | shli (d a : GReg) (imm : BitVec 16)
  | shri (d a : GReg) (imm : BitVec 16)
  | sari (d a : GReg) (imm : BitVec 16)
  | li (d : GReg) (imm : BitVec 32)
  | lih (d : GReg) (imm : BitVec 32)
  | lea (d a b : GReg) (s : BitVec 2) (imm : BitVec 16)
  | b (target : BitVec 32)
  | bz (a : GReg) (target : BitVec 32)
  | bnz (a : GReg) (target : BitVec 32)
  | bcc (c : Cond) (a b : GReg) (target : BitVec 32)
  | call (d : GReg) (target : BitVec 32)
  | callr (d a : GReg)
  | jr (a : GReg)
  /- Rows 59 to 106: vector and mask class. -/
  | vadd (d : VReg) (a b : GV) (ty : ETy) (rm : RMode) (m : Mask)
  | vsub (d : VReg) (a b : GV) (ty : ETy) (rm : RMode) (m : Mask)
  | vmul (d : VReg) (a b : GV) (ty : ETy) (rm : RMode) (m : Mask)
  | vfma (d : VReg) (a b : GV) (c : VReg) (ty : ETy) (rm : RMode) (m : Mask)
  | vmin (d : VReg) (a b : GV) (ty : ETy) (m : Mask)
  | vmax (d : VReg) (a b : GV) (ty : ETy) (m : Mask)
  | vabs (d : VReg) (a : GV) (ty : ETy) (m : Mask)
  | vneg (d : VReg) (a : GV) (ty : ETy) (m : Mask)
  | vand (d : VReg) (a b : GV) (ty : ETy) (m : Mask)
  | vor (d : VReg) (a b : GV) (ty : ETy) (m : Mask)
  | vxor (d : VReg) (a b : GV) (ty : ETy) (m : Mask)
  | vshl (d : VReg) (a b : GV) (ty : ETy) (m : Mask)
  | vshr (d : VReg) (a b : GV) (ty : ETy) (m : Mask)
  | vsar (d : VReg) (a b : GV) (ty : ETy) (m : Mask)
  | vcvt (d a : VReg) (dst src : ETy) (rm : RMode) (part : BitVec 6) (m : Mask)
  | vcmp (c : VCond) (ty : ETy) (d : KReg) (a b : GV) (m : Mask)
  | vsel (d : VReg) (a b : GV) (ty : ETy) (k : KReg)
  | vperm (d a b : VReg) (m : Mask)
  | vrot (d a : VReg) (c : GReg) (m : Mask)
  | vext (d : GReg) (a : VReg) (c : GReg) (ty : ETy)
  | vins (d : VReg) (a c : GReg)
  | vrcp (d : VReg) (a : GV) (m : Mask)
  | vrsqrt (d : VReg) (a : GV) (m : Mask)
  | vsqrt (d : VReg) (a : GV) (m : Mask)
  | vdiv (d : VReg) (a b : GV) (m : Mask)
  | vlog2 (d : VReg) (a : GV) (m : Mask)
  | vexp2 (d : VReg) (a : GV) (m : Mask)
  | vredsum (d : GReg) (a : VReg) (ty : ETy) (k : KReg)
  | vredmin (d : GReg) (a : VReg) (ty : ETy) (k : KReg)
  | vredmax (d : GReg) (a : VReg) (ty : ETy) (k : KReg)
  | vmaxi (d : GReg) (a : VReg) (ty : ETy) (k : KReg)
  | vmini (d : GReg) (a : VReg) (ty : ETy) (k : KReg)
  | vrng (d : VReg) (uni : Bool) (m : Mask)
  | vresid (d a b : VReg) (m : Mask)
  | vscan (d a : VReg) (ty : ETy) (m : Mask)
  | vpopc (d a : VReg) (ty : ETy) (m : Mask)
  | vclass (d : KReg) (a : VReg) (classes : BitVec 5) (m : Mask)
  | vmov (d : VReg) (a : GV) (m : Mask)
  | vidx (d : VReg) (a : GReg) (m : Mask)
  | kand (d a b : KReg)
  | kor (d a b : KReg)
  | kxor (d a b : KReg)
  | knot (d a : KReg)
  | kmovKk (d a : KReg)
  | kmovKg (d : KReg) (a : GReg)
  | kmovGk (d : GReg) (a : KReg)
  | kpopc (d : GReg) (a : KReg)
  | rngadv (a : GReg)
  /- Rows 107 to 121: memory and atomic classes. -/
  | ld (d a b : GReg) (w : LdW) (imm : BitVec 16)
  | st (d a b : GReg) (w : LdW) (imm : BitVec 16)
  | vld (d : VReg) (a : GReg) (addr : VAddr) (imm : BitVec 16) (m : Mask)
  | vst (d : VReg) (a : GReg) (addr : VAddr) (imm : BitVec 16) (k : KReg)
  | ldsync (take : Bool) (d a b : GReg) (imm : BitVec 16)
  | stfill (wait : Bool) (d a b : GReg) (imm : BitVec 16)
  | femark (full : Bool) (a b : GReg) (imm : BitVec 16)
  | pref (mc : Bool) (a b : GReg) (imm : BitVec 16)
  | fence (kind : FenceKind)
  | mbput (d : GReg) (n : Fin 4)
  | mbget (d : GReg) (n : Fin 4)
  | amo (op : AmoOp) (ty : AmoTy) (det : Bool) (d a b c : GReg)
  | amocas (ty : AmoTy) (d a b c : GReg)
  | vamo (op : AmoOp) (ty : AmoTy) (det : Bool) (d : VReg) (a : GReg) (b c : VReg) (imm : BitVec 16) (k : KReg)
  | amodrain (d : GReg)
  /- Rows 122 to 132: task and meet classes. -/
  | rgn (mode : RgnMode) (a b : GReg)
  | rgnclr
  | rgnadd (mode : RgnMode) (a b : GReg)
  | spawn (target : BitVec 32)
  | fork (d a : GReg) (target : BitVec 32)
  | join (a : GReg)
  | frame (d a : GReg) (n : BitVec 16)
  | edge
  | meet (d a : GReg) (id : BitVec 8)
  | idset (hi : Bool) (d : GReg)
  | unmerge (d : GReg)
  /- Rows 133 to 142: tile class. -/
  | tmac (fl : TFlags) (a b c : GReg)
  | tmacr (fl : TFlags) (ch : Fin 4) (d a b c : GReg)
  | tzero (kind : TzKind) (a : GReg)
  | tepi (ty : ETy) (act : TepiAct) (rm : RMode) (d a b : GReg) (imm : BitVec 16)
  | taccGet (outer : Bool) (d : VReg) (a : GReg) (grp : Fin 4) (m : Mask)
  | taccPut (outer : Bool) (d : VReg) (a : GReg) (grp : Fin 4) (k : KReg)
  | tplane (d a : GReg) (seq : BitVec 16)
  | tsync
  | tscale (a : GReg) (tag : BitVec 16)
  | tscaleKey (a : GReg) (idx : Fin 8)
  /- Rows 143 to 152: temporal class. -/
  | gclaim (d : GReg)
  | gdelay (d : VReg) (a : GReg)
  | gdelayGet (d : VReg) (a : GReg)
  | glaunch (d : VReg) (grp : Bool)
  | glaunchGo (d : VReg) (grp : Bool)
  | gcap (d : VReg) (grp idx : Bool)
  | gcapScalar (d a : GReg)
  | greset
  | grelease
  | gmode (a : GReg)
  /- Rows 153 to 168: transfer, message, queue and barrier classes. -/
  | xgo (d a : GReg)
  | xwait (d a : GReg)
  | xstat (d a : GReg)
  | xcancel (d a : GReg)
  | send (ch : Fin 4) (d a b : GReg)
  | recv (ch : Fin 5) (d : GReg)
  | qmap (d a : GReg)
  | ringput (try_ : Bool) (d a b : GReg) (imm : BitVec 16)
  | ringget (d a : GReg) (status : Option GReg) (imm : BitVec 16)
  | migrate (d a : GReg)
  | barArv (edge : Bool) (d : GReg) (id : Fin 64)
  | barArvRem (edge : Bool) (d a : GReg) (id : Fin 64)
  | barWait (d : GReg) (id : Fin 64)
  | barExp (d a : GReg) (id : Fin 64)
  | barCfg (d a b : GReg) (id : Fin 64)
  | grpred (op : GrpOp) (ty : GrpTy) (edge : Bool) (d a b : GReg)
  /- Rows 169 to 211: events inside the clusters. -/
  | barrierReevaluate (cl : ClusterIx) (id : Fin 64)
  | remoteBarrierArrival (c : CoreIx) (entry : Nat)
  | exitRetire (w : SlotIx)
  | loadReturn (w : SlotIx) (i : Nat) (lanes : W64)
  | atomicPerform (w : SlotIx) (i lane : Nat)
  | postedStorePerform (c : CoreIx) (entry : Nat) (lanes : W32)
  | postedStoreAck (c : CoreIx) (entry : Nat)
  | postedRefused (c : CoreIx) (entry : Nat)
  | feWaiterService (cl : ClusterIx) (word : Nat)
  | bankQueueResend (w : SlotIx)
  | l1Eviction (c : CoreIx) (line : Nat)
  | icacheFill (c : CoreIx) (line : W64)
  | fetchAhead (c : CoreIx) (line : W64)
  | pageWalkComplete (c : CoreIx) (va : W64) (write : Bool)
  | detUpdateAccept (w : SlotIx) (i lane : Nat)
  | drainMarker (p : PartIx) (slice : Fin 64)
  | meetArrival (w : SlotIx)
  | meetWindowExpiry (cl : ClusterIx) (inst : Nat)
  | meetRelease (w : SlotIx)
  | skimmerActionComplete (cl : ClusterIx) (token : Nat)
  | rgnaddAppend (w : SlotIx)
  | dequePop (c : CoreIx)
  | stealRequest (c : CoreIx)
  | stealAnswer (c : CoreIx)
  | tileStart (c : CoreIx)
  | tileComplete (c : CoreIx)
  | tmacrCommand (i : Nat)
  | tmacrAck (i : Nat)
  | tileCap (i : Nat)
  | epiStore (c : CoreIx) (seg : Nat)
  | waveEnd (c : CoreIx)
  | copySector (c : CoreIx) (entry : Nat) (sector : Nat) (words : BitVec 8)
  | transferComplete (c : CoreIx) (entry : Nat)
  | transferError (c : CoreIx) (entry : Nat)
  | notifyDelivery (w : SlotIx)
  | messageArrival (c : CoreIx) (entry : Nat)
  | nack (c : CoreIx) (entry : Nat)
  | nackRetry (c : CoreIx) (entry : Nat)
  | targetGone (c : CoreIx) (kind : Bool) (entry : Nat)
  | forwardingRelease (c : CoreIx) (i : Nat)
  | splockHold (c : CoreIx)
  | barTimeout (w : SlotIx)
  | asyncTrapDelivery (w : SlotIx)
  /- Rows 212 to 220: register writes with a row of their own. -/
  | notifyReturn (w : SlotIx)
  | notifyEnable (w : SlotIx) (en : Bool)
  | tseqFlush (c : CoreIx)
  | epiReplay (c : CoreIx)
  | epiDiscard (c : CoreIx)
  | detmWrite (p : PartIx) (value : W64)
  | detspillWrite (p : PartIx) (value : W64)
  | detspillnWrite (p : PartIx) (value : W64)
  | registerWrite (t : RegTarget) (value : W64)
  /- Rows 221 to 255: pre-emption, host, partitions and the device around them. -/
  | preempt (c : CoreIx)
  | coreRestore (i : Nat) (c : CoreIx)
  | liveMigration (c target : CoreIx)
  | doorbell (f : FuncIx) (q : Fin 16) (tail : BitVec 16)
  | launch (f : FuncIx) (q : Fin 16)
  | launchPlacement (f : FuncIx) (q : Fin 16)
  | resume (f : FuncIx) (q : Fin 16)
  | kill (f : FuncIx) (q : Fin 16)
  | hinval (f : FuncIx) (q : Fin 16)
  | resolve (f : FuncIx) (q : Fin 16)
  | functionReset (f : FuncIx)
  | deviceReset
  | partitionCreate (p : PartIx) (node : W64) (clusters : BitVec 128)
  | partitionGrow (p : PartIx) (clusters : BitVec 128)
  | partitionShrink (p : PartIx) (n : Nat)
  | partitionDestroy (p : PartIx)
  | clusterDrain (cl : ClusterIx)
  | qosWrite (r : BandReg) (value : W64)
  | bandWindow (r : BandReg)
  | ladleTake (p : PartIx)
  | lheadWrite (p : PartIx) (value : W64)
  | ladleTimer (p : PartIx)
  | logheadWrite (p : PartIx) (value : W32)
  | logArm (p : PartIx) (on : Bool)
  | logFinal (p : PartIx) (on : Bool)
  | loglostClear (p : PartIx) (one : Bool)
  | hostMemWrite (f : FuncIx) (addr : W64) (bytes : List Byte)
  | carranFlit (port : Fin 16) (flit : Flit)
  | carranReplay (port : Fin 16)
  | landingZoneWrite (p : PartIx) (zone : Fin 16) (peer : BitVec 16) (offset : Nat) (bytes : List Byte)
  | clockBoost (c : CoreIx) (mhz : Nat)
  | thermalThrottle (c : CoreIx) (mhz : Nat)
  | thermalShutdown
  | bootVerify (stage : Nat) (image signature : List Byte)
  | attestationReport (nonce : List Byte)
  /- Row 256. -/
  | storeComplete (w : SlotIx) (i : Nat) (lanes : W64)
deriving DecidableEq, Repr

end Sys2Proof
end

