-- ==== Sys2Proof/WellFormed.lean ====
section
/-! DEFINITION. Which instructions the encodings admit beyond what their operand types already say: the reserved
pairings and ranges that raise ILLEGAL_OP (R46, R47 and the field tables of the chapters). -/

namespace Sys2Proof

/-- The control-register indices of R53. -/
def controlIndex (i : BitVec 16) : Bool :=
  let n := i.toNat
  (n ≤ 0x006) || (0x010 ≤ n && n ≤ 0x011) || (0x018 ≤ n && n ≤ 0x01A) || (0x020 ≤ n && n ≤ 0x023) ||
  (0x028 ≤ n && n ≤ 0x029) || (0x030 ≤ n && n ≤ 0x032) || (0x038 ≤ n && n ≤ 0x039) ||
  (0x040 ≤ n && n ≤ 0x046) || n == 0x050 || (0x058 ≤ n && n ≤ 0x059) || (0x060 ≤ n && n ≤ 0x06F)

/-- f32, bf16 and f16 (R69). -/
def ETy.isFloat : ETy → Bool
  | .f32 | .bf16 | .f16 => true
  | .s32 | .n32 | .s16 | .s8 => false

/-- One element per lane: s32, n32, f32 (R109). -/
def ETy.isWord : ETy → Bool
  | .s32 | .n32 | .f32 => true
  | .bf16 | .f16 | .s16 | .s8 => false

/-- The elements of a register under a type: 32, 64 or 128 (R109). -/
def ETy.count : ETy → Nat
  | .s32 | .n32 | .f32 => 32
  | .bf16 | .f16 | .s16 => 64
  | .s8 => 128

/-- RM is free for float types and 00 otherwise (R116). -/
def rmOk (ty : ETy) (rm : RMode) : Bool := ty.isFloat || rm == .rne

/-- The types of the vector shifts and of vpopc (R116). -/
def ETy.isShift : ETy → Bool
  | .s32 | .n32 | .s16 | .s8 => true
  | .f32 | .bf16 | .f16 => false

/-- The part numbers of vcvt (R119). -/
def partOk (dst src : ETy) (part : BitVec 6) : Bool :=
  let ns := src.count
  let nd := dst.count
  part.toNat < (if ns ≥ nd then ns / nd else nd / ns)

/-- The pairings of FN5 and TY, and the cells marked det (R180). -/
def amoOk (op : AmoOp) (ty : AmoTy) (det : Bool) : Bool :=
  match op, ty with
  | .add, .i32 => true
  | .fadd, .f32 => true
  | .swap, _ => !det
  | .fmin, .f32 | .fmax, .f32 => !det
  | .fadd, _ | .fmin, _ | .fmax, _ => false
  | _, .f32 => false
  | _, _ => !det

/-- The pairings of grpred (R346). -/
def grpOk : GrpOp → GrpTy → Bool
  | .fsum, .f32 => true
  | .sum, .s64 => true
  | .min, _ => true
  | .max, _ => true
  | .fsum, _ => false
  | .sum, _ => false

/-- An instruction that the encodings admit. An event has no encoding and is well formed. -/
def Instr.wf : Instr → Bool
  | .rdc _ i | .wrc _ i => controlIndex i
  | .splock _ n => 1 ≤ n.toNat && n.toNat ≤ 64
  | .shli _ _ n | .shri _ _ n | .sari _ _ n => n.toNat < 64
  | .vadd _ _ _ ty rm _ | .vsub _ _ _ ty rm _ | .vmul _ _ _ ty rm _ => rmOk ty rm
  | .vfma _ _ _ _ ty rm _ => rmOk ty rm
  | .vshl _ _ _ ty _ | .vshr _ _ _ ty _ | .vsar _ _ _ ty _ => ty.isShift
  | .vcvt _ _ dst src _ part _ => partOk dst src part
  | .vcmp (.int _) ty _ _ _ _ => ty == .s32 || ty == .n32
  | .vcmp (.flt _) ty _ _ _ _ => ty == .f32
  | .vext _ _ _ ty => ty.isWord
  | .vmaxi _ _ ty _ | .vmini _ _ ty _ => ty.isWord
  | .vpopc _ _ ty _ => ty.isShift
  | .st _ _ _ w _ => w == .n8 || w == .n16 || w == .n32 || w == .w64
  | .amo op ty det _ _ _ _ => amoOk op ty det
  | .amocas ty _ _ _ _ => ty != .f32
  | .vamo op ty det _ _ _ _ _ _ => ty != .i64 && amoOk op ty det
  | .frame _ _ n => 1 ≤ n.toNat && n.toNat ≤ 32767
  | .tepi ty _ _ _ _ _ _ => ty != .n32
  | .recv _ d => d.val != 31
  | .grpred op ty _ _ _ _ => grpOk op ty
  | _ => true

end Sys2Proof
end

