-- ==== Sys2Proof/Machine/Numbers.lean ====
section
/-! DEFINITION. Number formats and exact arithmetic (R64 to R88): numbers as exact dyadic values, the one rounding
RoundTo with its flags, conversions, the table reciprocals, the correctly rounded functions, the random stream
and the scale format. -/

namespace Sys2Proof

/-- The sticky flags of VSTAT (R112): RESZ, INX, UNF, OVF, DZ, INV from bit 5 down. -/
abbrev Flags := BitVec 6

def flagInv : Flags := 1
def flagDz : Flags := 2
def flagOvf : Flags := 4
def flagUnf : Flags := 8
def flagInx : Flags := 16
def flagResz : Flags := 32

/-- A flag under a condition. -/
def flagIf (c : Bool) (f : Flags) : Flags := if c then f else 0

/-- A floating-point format (R69): exponent bits, fraction bits, bias. -/
structure Fmt where
  ebits : Nat
  fbits : Nat
  bias : Nat
deriving DecidableEq, Repr

def fmtF32 : Fmt := ⟨8, 23, 127⟩
def fmtBf16 : Fmt := ⟨8, 7, 127⟩
def fmtF16 : Fmt := ⟨5, 10, 15⟩

/-- The format of a float type; an integer type has none and is given f32, which nothing reads. -/
def ETy.fmt : ETy → Fmt
  | .bf16 => fmtBf16
  | .f16 => fmtF16
  | _ => fmtF32

/-- The exact value of an encoded number (R64, R65): (-1)^neg m 2^exp, an infinity, or a NaN. -/
inductive Num where
  | nan (signalling : Bool)
  | inf (neg : Bool)
  | fin (neg : Bool) (m : Nat) (exp : Int)
deriving DecidableEq, Repr

/-- Exponent field all ones. -/
def Fmt.emax (f : Fmt) : Nat := 2 ^ f.ebits - 1

/-- Exponent of the smallest subnormal. -/
def Fmt.qmin (f : Fmt) : Int := 1 - (f.bias : Int) - (f.fbits : Int)

def Fmt.signBit (f : Fmt) (neg : Bool) : Nat := if neg then 2 ^ (f.ebits + f.fbits) else 0

/-- Val of an encoding (R64, R69). -/
def Fmt.val (f : Fmt) (x : Nat) : Num :=
  let frac := x % 2 ^ f.fbits
  let e := (x >>> f.fbits) % 2 ^ f.ebits
  let neg := (x >>> (f.ebits + f.fbits)) % 2 == 1
  if e == f.emax then
    if frac == 0 then .inf neg else .nan (frac >>> (f.fbits - 1) == 0)
  else if e == 0 then .fin neg frac f.qmin
  else .fin neg (2 ^ f.fbits + frac) (f.qmin + (e : Int) - 1)

/-- The canonical NaN (R69, R70). -/
def Fmt.nan (f : Fmt) : Nat := f.emax <<< f.fbits + 2 ^ (f.fbits - 1)

def Fmt.inf (f : Fmt) (neg : Bool) : Nat := f.signBit neg + f.emax <<< f.fbits

def Fmt.zero (f : Fmt) (neg : Bool) : Nat := f.signBit neg

/-- The largest finite value. -/
def Fmt.huge (f : Fmt) (neg : Bool) : Nat := f.signBit neg + (f.emax <<< f.fbits - 1)

/-- Whether the magnitude rounds up: q is the truncated quotient, half and low say whether the discarded part
reaches one half and whether anything lies below its top bit. -/
def roundsUp (rm : RMode) (neg : Bool) (q : Nat) (half low : Bool) : Bool :=
  match rm with
  | .rne => half && (low || q % 2 == 1)
  | .rz => false
  | .ru => !neg && (half || low)
  | .rd => neg && (half || low)

/-- The magnitude m 2^e (with more below when sticky) in units of 2^q, rounded, and whether that was inexact. -/
def roundQuantum (rm : RMode) (neg : Bool) (m : Nat) (e : Int) (sticky : Bool) (q : Int) : Nat × Bool :=
  if e ≥ q then
    let n := m <<< (e - q).toNat
    (n + (if roundsUp rm neg n false sticky then 1 else 0), sticky)
  else
    let k := (q - e).toNat
    let n := m >>> k
    let half := (m >>> (k - 1)) % 2 == 1
    let low := m % 2 ^ (k - 1) != 0 || sticky
    (n + (if roundsUp rm neg n half low then 1 else 0), half || low)

/-- RoundTo of a nonzero finite value (R71, R72). sticky says that the exact value lies strictly between m and m + 1
units; the caller then gives m at least two bits more than the precision. -/
def roundTo (f : Fmt) (rm : RMode) (neg : Bool) (m : Nat) (e : Int) (sticky : Bool) : Nat × Flags :=
  let top : Int := e + (m.log2 : Int)
  let qn : Int := top - (f.fbits : Int)
  let (n, inx) := roundQuantum rm neg m e sticky qn
  let norm := 2 ^ f.fbits
  let carried := n ≥ 2 * norm
  let top' := if carried then top + 1 else top
  if top' < f.qmin + (f.fbits : Int) then
    let (d, inx) := roundQuantum rm neg m e sticky f.qmin
    (f.signBit neg + d, flagIf inx flagInx ||| flagIf (inx && d < norm) flagUnf)
  else
    let be := top' - (f.qmin + (f.fbits : Int)) + 1
    if be ≥ (f.emax : Int) then
      let toInf := match rm with
        | .rne => true
        | .rz => false
        | .ru => !neg
        | .rd => neg
      (if toInf then f.inf neg else f.huge neg, flagOvf ||| flagInx)
    else
      let frac := if carried then 0 else n - norm
      (f.signBit neg + be.toNat <<< f.fbits + frac, flagIf inx flagInx)

/-- RoundTo of any exact value; an exact zero carries the sign its operation gave it (R71). -/
def roundNum (f : Fmt) (rm : RMode) : Num → Nat × Flags
  | .nan _ => (f.nan, 0)
  | .inf neg => (f.inf neg, 0)
  | .fin neg m e => if m == 0 then (f.zero neg, 0) else roundTo f rm neg m e false

def Num.isNan : Num → Bool
  | .nan _ => true
  | _ => false

def Num.isSnan : Num → Bool
  | .nan s => s
  | _ => false

/-- The sign an exact zero sum takes (R71). -/
def zeroSum (rm : RMode) (a b : Bool) : Bool := if a == b then a else rm == .rd

def Num.neg : Num → Num
  | .nan s => .nan s
  | .inf n => .inf (!n)
  | .fin n m e => .fin (!n) m e

/-- Exact sum; none where it is undefined (R65). -/
def Num.add (rm : RMode) : Num → Num → Option Num
  | .nan s, _ | _, .nan s => some (.nan s)
  | .inf a, .inf b => if a == b then some (.inf a) else none
  | .inf a, .fin .. => some (.inf a)
  | .fin .., .inf b => some (.inf b)
  | .fin a m e, .fin b n k =>
    if m == 0 && n == 0 then some (.fin (zeroSum rm a b) 0 0)
    else
      let q := min e k
      let x : Int := (m <<< (e - q).toNat : Nat)
      let y : Int := (n <<< (k - q).toNat : Nat)
      let t := (if a then -x else x) + (if b then -y else y)
      if t == 0 then some (.fin (rm == .rd) 0 0) else some (.fin (t < 0) t.natAbs q)

/-- Exact product; none where it is undefined (R65). -/
def Num.mul : Num → Num → Option Num
  | .nan s, _ | _, .nan s => some (.nan s)
  | .inf a, .inf b => some (.inf (a != b))
  | .inf a, .fin b n _ => if n == 0 then none else some (.inf (a != b))
  | .fin a m _, .inf b => if m == 0 then none else some (.inf (a != b))
  | .fin a m e, .fin b n k => some (.fin (a != b) (m * n) (e + k))

/-- The rounded result of an operation whose exact result is undefined at none (R65, R72). -/
def finish (f : Fmt) (rm : RMode) (snan : Bool) : Option Num → Nat × Flags
  | none => (f.nan, flagInv)
  | some x =>
    let (r, fl) := roundNum f rm x
    (r, fl ||| flagIf snan flagInv)

def fAdd (f : Fmt) (rm : RMode) (a b : Nat) : Nat × Flags :=
  let x := f.val a
  let y := f.val b
  finish f rm (x.isSnan || y.isSnan) (x.add rm y)

def fSub (f : Fmt) (rm : RMode) (a b : Nat) : Nat × Flags :=
  let x := f.val a
  let y := f.val b
  finish f rm (x.isSnan || y.isSnan) (x.add rm y.neg)

def fMul (f : Fmt) (rm : RMode) (a b : Nat) : Nat × Flags :=
  let x := f.val a
  let y := f.val b
  finish f rm (x.isSnan || y.isSnan) (x.mul y)

/-- a b + c with one rounding (R73); an undefined product is invalid whatever the addend (R72). -/
def fFma (f : Fmt) (rm : RMode) (a b c : Nat) : Nat × Flags :=
  let x := f.val a
  let y := f.val b
  let z := f.val c
  finish f rm (x.isSnan || y.isSnan || z.isSnan) ((x.mul y).bind fun p => p.add rm z)

/-- Rank of a value with −0 below +0 (R74); none for NaN. -/
def Fmt.rank (f : Fmt) (x : Nat) : Option Int :=
  match f.val x with
  | .nan _ => none
  | _ =>
    let mag : Int := (x % 2 ^ (f.ebits + f.fbits) : Nat)
    some (if (x >>> (f.ebits + f.fbits)) % 2 == 1 then -mag - 1 else mag)

/-- Comparison value with −0 equal to +0 (R74); none for NaN. -/
def Fmt.cmpVal (f : Fmt) (x : Nat) : Option Int :=
  match f.rank x with
  | none => none
  | some r => some (if r < 0 then r + 1 else r)

/-- vmin and vmax on float types (R118). -/
def fMinMax (f : Fmt) (max : Bool) (a b : Nat) : Nat × Flags :=
  let fl := flagIf ((f.val a).isSnan || (f.val b).isSnan) flagInv
  match f.rank a, f.rank b with
  | none, none => (f.nan, fl)
  | none, some _ => (b, fl)
  | some _, none => (a, fl)
  | some x, some y => (if (if max then y > x else y < x) then b else a, fl)

/-- The exact value of a float, rounded to an integer under RM, with whether that changed it (R75). -/
def Num.toInt (rm : RMode) (neg : Bool) (m : Nat) (e : Int) : Int × Bool :=
  let (n, inx) := roundQuantum rm neg m e false 0
  (if neg then -(n : Int) else n, inx)

/-- Least and greatest value of an integer type (R66). -/
def ETy.bounds : ETy → Int × Int
  | .s32 => (-2 ^ 31, 2 ^ 31 - 1)
  | .n32 => (0, 2 ^ 32 - 1)
  | .s16 => (-2 ^ 15, 2 ^ 15 - 1)
  | .s8 => (-2 ^ 7, 2 ^ 7 - 1)
  | _ => (0, 0)

/-- Element width in bits (R109). -/
def ETy.width : ETy → Nat
  | .s32 | .n32 | .f32 => 32
  | .bf16 | .f16 | .s16 => 16
  | .s8 => 8

/-- The value of an element of an integer type. -/
def ETy.int (ty : ETy) (x : Nat) : Int :=
  if ty == .n32 then x
  else if x ≥ 2 ^ (ty.width - 1) then (x : Int) - 2 ^ ty.width else x

/-- An integer reduced to an element of a width (R66). -/
def wrapNat (w : Nat) (x : Int) : Nat := (x % (2 ^ w : Int)).toNat

/-- The integer clamped to a range: SatS and SatN (R64). -/
def clampInt (lo hi x : Int) : Int := if x < lo then lo else if x > hi then hi else x

/-- Conversions of one element (R75, R119). -/
def convert (dst src : ETy) (rm : RMode) (x : Nat) : Nat × Flags :=
  if src.isFloat then
    let v := src.fmt.val x
    if dst.isFloat then finish dst.fmt rm v.isSnan (some v)
    else
      let (lo, hi) := dst.bounds
      match v with
      | .nan _ => (0, flagInv)
      | .inf neg => (wrapNat dst.width (if neg then lo else hi), flagInv)
      | .fin neg m e =>
        let (n, inx) := Num.toInt rm neg m e
        if n < lo then (wrapNat dst.width lo, flagInv)
        else if n > hi then (wrapNat dst.width hi, flagInv)
        else (wrapNat dst.width n, flagIf inx flagInx)
  else
    let n := src.int x
    if dst.isFloat then roundNum dst.fmt rm (.fin (n < 0) n.natAbs 0)
    else
      let (lo, hi) := dst.bounds
      (wrapNat dst.width (clampInt lo hi n), 0)

/-- Integer square root by Newton's method from above. -/
def isqrtGo : Nat → Nat → Nat → Nat
  | 0, _, g => g
  | k + 1, n, g =>
    let g' := (g + n / g) / 2
    if g' < g then isqrtGo k n g' else g

def isqrt (n : Nat) : Nat :=
  if n == 0 then 0 else isqrtGo n.log2 n (2 ^ (n.log2 / 2 + 1))

/-- The NaN and special-input answers that the unary functions share: canonical NaN, invalid for a signalling one. -/
def nanResult (s : Bool) : Nat × Flags := (fmtF32.nan, flagIf s flagInv)

/-- vsqrt (R80). DESIGN CHOICE (log 83): an exact square root leaves inexact clear, as R72 says. -/
def fSqrt (x : Nat) : Nat × Flags :=
  match fmtF32.val x with
  | .nan s => nanResult s
  | .inf neg => if neg then (fmtF32.nan, flagInv) else (fmtF32.inf false, 0)
  | .fin neg m e =>
    if m == 0 then (fmtF32.zero neg, 0)
    else if neg then (fmtF32.nan, flagInv)
    else
      let (m, e) := if e % 2 == 0 then (m, e) else (m * 2, e - 1)
      let m := m <<< 64
      let r := isqrt m
      roundTo fmtF32 .rne false r (e / 2 - 32) (r * r != m)

/-- vdiv (R80). DESIGN CHOICE (log 83): an exact quotient leaves inexact clear, as R72 says. -/
def fDiv (a b : Nat) : Nat × Flags :=
  let x := fmtF32.val a
  let y := fmtF32.val b
  match x, y with
  | .nan _, _ | _, .nan _ => nanResult (x.isSnan || y.isSnan)
  | .inf _, .inf _ => (fmtF32.nan, flagInv)
  | .inf p, .fin q _ _ => (fmtF32.inf (p != q), 0)
  | .fin p _ _, .inf q => (fmtF32.zero (p != q), 0)
  | .fin p m e, .fin q n k =>
    if n == 0 then
      if m == 0 then (fmtF32.nan, flagInv) else (fmtF32.inf (p != q), flagDz)
    else if m == 0 then (fmtF32.zero (p != q), 0)
    else
      let t := m <<< 64
      roundTo fmtF32 .rne (p != q) (t / n) (e - k - 64) (t % n != 0)

/-- A nonzero magnitude m 2^e as 2^top (1 + frac / 2^23) (R78, R79). -/
def normalise (m : Nat) (e : Int) : Int × Nat :=
  let l := m.log2
  (e + (l : Int), (m <<< (23 - l)) - 2 ^ 23)

/-- vrsqrt (R78). -/
def fRsqrt (x : Nat) : Nat × Flags :=
  match fmtF32.val x with
  | .nan s => nanResult s
  | .inf neg => if neg then (fmtF32.nan, flagInv) else (0, 0)
  | .fin neg m e =>
    if m == 0 then (fmtF32.inf false, flagDz)
    else if neg then (fmtF32.nan, flagInv)
    else
      let (top, frac) := normalise m e
      let p := top % 2
      let y := (257 + 2 * (frac >>> 16)) <<< p.toNat
      let entry := (isqrt (2 ^ 34 / y) + 1) / 2
      ((roundTo fmtF32 .rne false entry (-12 - (top - p) / 2) false).1, 0)

/-- vrcp (R79). -/
def fRcp (x : Nat) : Nat × Flags :=
  match fmtF32.val x with
  | .nan s => nanResult s
  | .inf neg => (fmtF32.zero neg, 0)
  | .fin neg m e =>
    if m == 0 then (fmtF32.inf neg, flagDz)
    else
      let (top, frac) := normalise m e
      let entry := (2 ^ 21 / (257 + 2 * (frac >>> 16)) + 1) / 2
      roundTo fmtF32 .rne neg entry (-12 - top) false

/-- The first k binary digits of log2 of y / 2^w for y in [2^w, 2^(w+1)), appended to acc, by repeated squaring. -/
def log2Digits (w : Nat) : Nat → Nat → Nat → Nat
  | 0, _, acc => acc
  | k + 1, y, acc =>
    let s := (y * y) >>> w
    if s ≥ 2 ^ (w + 1) then log2Digits w k (s >>> 1) (2 * acc + 1) else log2Digits w k s (2 * acc)

/-- vlog2 (R80): 128 binary digits of the fraction, then one rounding (log 12). -/
def fLog2 (x : Nat) : Nat × Flags :=
  match fmtF32.val x with
  | .nan s => nanResult s
  | .inf neg => if neg then (fmtF32.nan, flagInv) else (fmtF32.inf false, 0)
  | .fin neg m e =>
    if m == 0 then (fmtF32.inf true, flagDz)
    else if neg then (fmtF32.nan, flagInv)
    else
      let (top, frac) := normalise m e
      if frac == 0 then roundNum fmtF32 .rne (.fin (top < 0) top.natAbs 0)
      else
        let d := log2Digits 320 128 ((2 ^ 23 + frac) <<< 297) 0
        let t : Int := top * 2 ^ 128 + (d : Int)
        if t ≥ 0 then roundTo fmtF32 .rne false t.toNat (-128) true
        else roundTo fmtF32 .rne true (t.natAbs - 1) (-128) true

/-- 2^f for the k low digits of f, as a fixed-point number of w bits: a chain of square roots, lowest digit first. -/
def exp2Roots (w : Nat) : Nat → Nat → Nat → Nat
  | 0, _, y => y
  | k + 1, f, y => exp2Roots w k (f / 2) (isqrt ((if f % 2 == 1 then 2 * y else y) <<< w))

/-- vexp2 (R80): the fraction to 128 digits, 192 bits of result, then one rounding (log 12). -/
def fExp2 (x : Nat) : Nat × Flags :=
  match fmtF32.val x with
  | .nan s => nanResult s
  | .inf neg => if neg then (0, 0) else (fmtF32.inf false, 0)
  | .fin neg m e =>
    if m == 0 then roundNum fmtF32 .rne (.fin false 1 0)
    else
      let v : Int := if neg then -(m : Int) else m
      if e ≥ 0 then
        let n : Int := v * 2 ^ e.toNat
        if n ≥ 128 then (fmtF32.inf false, flagOvf ||| flagInx)
        else if n < -300 then roundTo fmtF32 .rne false (2 ^ 30) (-330) true
        else roundTo fmtF32 .rne false 1 n false
      else
        let k := (-e).toNat
        let n : Int := v / (2 ^ k : Int)
        let f := (v % (2 ^ k : Int)).toNat
        if n ≥ 128 then (fmtF32.inf false, flagOvf ||| flagInx)
        else if n < -300 then roundTo fmtF32 .rne false (2 ^ 30) (-330) true
        else if f == 0 then roundTo fmtF32 .rne false 1 n false
        else
          let d := if k ≥ 128 then f >>> (k - 128) else f <<< (128 - k)
          roundTo fmtF32 .rne false (exp2Roots 192 128 d (2 ^ 192)) (n - 192) true

/-- The fixed-order tree (R76): one level of pairwise sums. -/
def treeLevel : List Nat → List Nat × Flags
  | a :: b :: rest =>
    let (s, fl) := fAdd fmtF32 .rne a b
    let (r, fl') := treeLevel rest
    (s :: r, fl ||| fl')
  | _ => ([], 0)

/-- The tree sum over 2^levels inputs of f32 (R76). -/
def treeSum : Nat → List Nat → Nat × Flags
  | 0, xs => (xs.headD 0, 0)
  | k + 1, xs =>
    let (ys, fl) := treeLevel xs
    let (r, fl') := treeSum k ys
    (r, fl ||| fl')

/-- One step of the stream hash (R81). -/
def rngRaw (key ctr : W64) (i : Nat) : W32 :=
  let x := key + ctr * 0x9E3779B97F4A7C15 + BitVec.ofNat 64 i * 0xB3F126D94A8CE5A7
  let x := (x ^^^ (x >>> 31)) * 0x8F2D6C1B39E4A753
  let x := (x ^^^ (x >>> 29)) * 0xD1C53A9762B0F14D
  let x := x ^^^ (x >>> 32)
  x.setWidth 32

/-- The uniform form (R82): exact, so the rounding mode does not matter. -/
def rngUni (raw : W32) : W32 :=
  BitVec.ofNat 32 (roundTo fmtF32 .rne false (2 * (raw.toNat / 512) + 1) (-24) false).1

/-- An E8F4 scale as f32 bits (R86). -/
def scaleF32 (x : BitVec 16) : Nat :=
  let e := (x.extractLsb' 4 8).toNat
  if x.extractLsb' 12 4 != 0 then fmtF32.nan
  else if e == 0 then 0
  else if e == 255 then fmtF32.nan
  else (x.toNat % 4096) <<< 19

/-- Quotient and remainder of R67, unsigned. -/
def divN (a b : W64) : W64 × W64 :=
  if b == 0 then (BitVec.allOnes 64, a) else (a / b, a % b)

/-- Quotient and remainder of R67, signed. -/
def divS (a b : W64) : W64 × W64 :=
  if b == 0 then (BitVec.allOnes 64, a)
  else (BitVec.ofInt 64 (a.toInt.tdiv b.toInt), BitVec.ofInt 64 (a.toInt.tmod b.toInt))

/-- A condition on two words of any width (R47, R95). -/
def Cond.holds {n : Nat} (c : Cond) (a b : BitVec n) : Bool :=
  match c with
  | .eq => a == b
  | .ne => a != b
  | .lts => a.slt b
  | .ges => !a.slt b
  | .ltn => a.ult b
  | .gen => !a.ult b
  | .les => a.sle b
  | .gts => !a.sle b
  | .len => a.ule b
  | .gtn => !a.ule b

/-- A float condition (R120) with its flags. -/
def FCond.holds (c : FCond) (a b : Nat) : Bool × Flags :=
  let fm := fmtF32
  let sn := (fm.val a).isSnan || (fm.val b).isSnan
  match fm.cmpVal a, fm.cmpVal b with
  | some x, some y =>
    (match c with
     | .feq => x == y
     | .fne => x != y
     | .flt => x < y
     | .fle => x ≤ y
     | .fgt => x > y
     | .fge => x ≥ y
     | .funo => false
     | .ford => true, 0)
  | _, _ =>
    match c with
    | .feq | .ford => (false, flagIf sn flagInv)
    | .fne | .funo => (true, flagIf sn flagInv)
    | .flt | .fle | .fgt | .fge => (false, flagInv)

/-- Number of zero bits above the highest set bit (R94). -/
def clz64 (a : W64) : Nat := if a == 0 then 64 else 63 - a.toNat.log2

/-- Number of zero bits below the lowest set bit (R94). -/
def ctz64 (a : W64) : Nat := if a == 0 then 64 else (a &&& (-a)).toNat.log2

/-- Number of set bits of the low k bits (R94, R128). -/
def popNat : Nat → Nat → Nat
  | 0, _ => 0
  | k + 1, x => x % 2 + popNat k (x / 2)

end Sys2Proof
end

