-- ==== Sys2Proof/Decode.lean ====
section
/-! DEFINITION. Heads, tails and lines (R33 to R49): the fields of a head and its tail, the decoder, total on any
parcels and rejecting by name, the layout of a line, and the encoder from the same tables. -/

namespace Sys2Proof

/-- The six forms (R45). -/
inductive Form where
  | f0 | f1 | f2 | f3 | f4 | f5
deriving DecidableEq, Repr

/-- The tail length of a form in parcels (R45). -/
def Form.tl : Form → BitVec 2
  | .f0 => 0
  | .f1 => 1
  | .f2 => 2
  | .f3 => 2
  | .f4 => 3
  | .f5 => 3

/-- The fields of a head and its tail (R42, R44). A field that the form lacks is 0. -/
structure Fields where
  form : Form
  op : BitVec 8
  d : BitVec 6 := 0
  a : BitVec 6 := 0
  b : BitVec 6 := 0
  c : BitVec 6 := 0
  k : BitVec 3 := 0
  z : BitVec 1 := 0
  f : BitVec 4 := 0
  ty : BitVec 3 := 0
  rm : BitVec 2 := 0
  fn : BitVec 5 := 0
  i16 : BitVec 16 := 0
  i32 : BitVec 32 := 0
deriving DecidableEq, Repr

/-- Why a head is ILLEGAL_OP: the first failing step of R52. -/
inductive DecodeErr where
  | reservedOp
  | tailLength
  | registerClass
  | reservedField
  | unusedField
deriving DecidableEq, Repr

/-- Layout RRK: A [15:10], B [9:4], K [3:1], Z [0] (R44). -/
def packRRK (x : Fields) : Parcel := x.a ++ x.b ++ x.k ++ x.z

/-- Layout RRF: A [15:10], B [9:4], F [3:0] (R44). -/
def packRRF (x : Fields) : Parcel := x.a ++ x.b ++ x.f

/-- Layout MOD: TY [15:13], RM [12:11], FN5 [10:6], C [5:0] (R44). -/
def packMOD (x : Fields) : Parcel := x.ty ++ x.rm ++ x.fn ++ x.c

/-- A head: TL [15:14], OP [13:6], D [5:0] (R42). -/
def packHead (x : Fields) : Parcel := x.form.tl ++ x.op ++ x.d

/-- The head and the tail parcels, lowest first (R45). -/
def Fields.parcels (x : Fields) : List Parcel :=
  packHead x :: match x.form with
    | .f0 => []
    | .f1 => [packRRK x]
    | .f2 => [packRRK x, packMOD x]
    | .f3 => [packRRF x, x.i16]
    | .f4 => [packRRF x, x.i32.extractLsb' 0 16, x.i32.extractLsb' 16 16]
    | .f5 => [packRRK x, packMOD x, x.i16]

/-- TL of a head as written (R42). -/
def headTl (h : Parcel) : BitVec 2 := h.extractLsb' 14 2

/-- OP of a head (R42). -/
def headOp (h : Parcel) : BitVec 8 := h.extractLsb' 6 8

/-- D of a head (R42). -/
def headD (h : Parcel) : BitVec 6 := h.extractLsb' 0 6

/-- The form of each major opcode (R48); none is reserved (R49). -/
def formOf (op : BitVec 8) : Option Form :=
  match op.toNat with
  | 0x00 => some .f0   -- nop
  | 0x01 => some .f0   -- rlx
  | 0x02 => some .f3   -- rdc
  | 0x03 => some .f3   -- wrc
  | 0x04 => some .f3   -- trap
  | 0x05 => some .f0   -- rett
  | 0x07 => some .f0   -- yield
  | 0x08 => some .f0   -- exit
  | 0x09 => some .f3   -- splock
  | 0x0A => some .f1   -- spunlock
  | 0x0B => some .f1   -- tlbinv
  | 0x0C => some .f1   -- cxsave
  | 0x0D => some .f1   -- cxload
  | 0x10 => some .f1   -- add
  | 0x11 => some .f1   -- sub
  | 0x12 => some .f1   -- mul
  | 0x13 => some .f1   -- mulhs
  | 0x14 => some .f1   -- mulhn
  | 0x15 => some .f1   -- divs
  | 0x16 => some .f1   -- divn
  | 0x17 => some .f1   -- rems
  | 0x18 => some .f1   -- remn
  | 0x19 => some .f1   -- and
  | 0x1A => some .f1   -- or
  | 0x1B => some .f1   -- xor
  | 0x1C => some .f1   -- andn
  | 0x1D => some .f1   -- shl
  | 0x1E => some .f1   -- shr
  | 0x1F => some .f1   -- sar
  | 0x20 => some .f1   -- mins
  | 0x21 => some .f1   -- minn
  | 0x22 => some .f1   -- maxs
  | 0x23 => some .f1   -- maxn
  | 0x24 => some .f3   -- cmp
  | 0x25 => some .f3   -- cmpi
  | 0x26 => some .f2   -- sel
  | 0x27 => some .f1   -- clz
  | 0x28 => some .f1   -- ctz
  | 0x29 => some .f1   -- popc
  | 0x2A => some .f3   -- ext
  | 0x2B => some .f3   -- addi
  | 0x2C => some .f3   -- andi
  | 0x2D => some .f3   -- ori
  | 0x2E => some .f3   -- xori
  | 0x2F => some .f3   -- shli
  | 0x30 => some .f4   -- li
  | 0x31 => some .f4   -- lih
  | 0x32 => some .f3   -- lea
  | 0x38 => some .f4   -- b
  | 0x39 => some .f4   -- bz
  | 0x3A => some .f4   -- bnz
  | 0x3B => some .f4   -- bcc
  | 0x3C => some .f4   -- call
  | 0x3D => some .f1   -- callr
  | 0x3E => some .f1   -- jr
  | 0x40 => some .f2   -- vadd
  | 0x41 => some .f2   -- vsub
  | 0x42 => some .f2   -- vmul
  | 0x43 => some .f2   -- vfma
  | 0x44 => some .f2   -- vmin
  | 0x45 => some .f2   -- vmax
  | 0x46 => some .f2   -- vabs
  | 0x47 => some .f2   -- vneg
  | 0x48 => some .f2   -- vand
  | 0x49 => some .f2   -- vor
  | 0x4A => some .f2   -- vxor
  | 0x4B => some .f2   -- vshl
  | 0x4C => some .f2   -- vshr
  | 0x4D => some .f2   -- vsar
  | 0x4E => some .f2   -- vcvt
  | 0x4F => some .f2   -- vcmp
  | 0x50 => some .f2   -- vsel
  | 0x51 => some .f2   -- vperm
  | 0x52 => some .f2   -- vrot
  | 0x53 => some .f2   -- vext
  | 0x54 => some .f2   -- vins
  | 0x55 => some .f2   -- vrcp
  | 0x56 => some .f2   -- vrsqrt
  | 0x57 => some .f2   -- vsqrt
  | 0x58 => some .f2   -- vdiv
  | 0x59 => some .f2   -- vlog2
  | 0x5A => some .f2   -- vexp2
  | 0x5B => some .f2   -- vredsum
  | 0x5C => some .f2   -- vredmin
  | 0x5D => some .f2   -- vredmax
  | 0x5E => some .f2   -- vmaxi
  | 0x5F => some .f2   -- vmini
  | 0x60 => some .f2   -- vrng
  | 0x61 => some .f2   -- vresid
  | 0x62 => some .f2   -- vscan
  | 0x63 => some .f2   -- vpopc
  | 0x64 => some .f2   -- vclass
  | 0x66 => some .f1   -- vmov
  | 0x67 => some .f1   -- vidx
  | 0x68 => some .f1   -- kand
  | 0x69 => some .f1   -- kor
  | 0x6A => some .f1   -- kxor
  | 0x6B => some .f1   -- knot
  | 0x6C => some .f1   -- kmov
  | 0x6D => some .f1   -- kpopc
  | 0x6E => some .f1   -- rngadv
  | 0x80 => some .f3   -- ld
  | 0x81 => some .f3   -- st
  | 0x82 => some .f5   -- vld
  | 0x83 => some .f5   -- vst
  | 0x84 => some .f3   -- ldsync
  | 0x85 => some .f3   -- stfill
  | 0x86 => some .f3   -- femark
  | 0x87 => some .f3   -- pref
  | 0x88 => some .f3   -- fence
  | 0x89 => some .f3   -- mbput
  | 0x8A => some .f3   -- mbget
  | 0x90 => some .f2   -- amo
  | 0x91 => some .f2   -- amocas
  | 0x92 => some .f5   -- vamo
  | 0x93 => some .f1   -- amodrain
  | 0xA0 => some .f3   -- rgn
  | 0xA1 => some .f1   -- rgnclr
  | 0xA2 => some .f3   -- rgnadd
  | 0xA3 => some .f4   -- spawn
  | 0xA4 => some .f4   -- fork
  | 0xA5 => some .f1   -- join
  | 0xA6 => some .f3   -- frame
  | 0xA7 => some .f0   -- edge
  | 0xB0 => some .f3   -- meet
  | 0xB1 => some .f3   -- idset
  | 0xB2 => some .f1   -- unmerge
  | 0xC0 => some .f2   -- tmac
  | 0xC1 => some .f2   -- tmacr
  | 0xC2 => some .f3   -- tzero
  | 0xC3 => some .f5   -- tepi
  | 0xC4 => some .f2   -- tacc
  | 0xC5 => some .f3   -- tplane
  | 0xC6 => some .f0   -- tsync
  | 0xC7 => some .f3   -- tscale
  | 0xD0 => some .f1   -- gclaim
  | 0xD1 => some .f3   -- gdelay
  | 0xD2 => some .f3   -- glaunch
  | 0xD3 => some .f3   -- gcap
  | 0xD4 => some .f0   -- greset
  | 0xD5 => some .f0   -- grelease
  | 0xD6 => some .f1   -- gmode
  | 0xD8 => some .f1   -- xgo
  | 0xD9 => some .f1   -- xwait
  | 0xDA => some .f1   -- xstat
  | 0xDB => some .f1   -- xcancel
  | 0xE0 => some .f3   -- send
  | 0xE1 => some .f3   -- recv
  | 0xE2 => some .f1   -- qmap
  | 0xE3 => some .f3   -- ringput
  | 0xE4 => some .f3   -- ringget
  | 0xE5 => some .f1   -- migrate
  | 0xE6 => some .f3   -- bar.arv
  | 0xE7 => some .f3   -- bar.wait
  | 0xE8 => some .f3   -- bar.exp
  | 0xE9 => some .f3   -- bar.cfg
  | 0xEA => some .f2   -- grpred
  | _ => none

/-- The fields of a head with its tail parcels: steps 1 and 2 of R52. -/
def readFields (h : Parcel) (tail : List Parcel) : Except DecodeErr Fields :=
  match formOf (headOp h) with
  | none => .error .reservedOp
  | some fm =>
    if headTl h ≠ fm.tl then .error .tailLength
    else
      let p0 := tail.getD 0 0
      let p1 := tail.getD 1 0
      let p2 := tail.getD 2 0
      let a := p0.extractLsb' 10 6
      let b := p0.extractLsb' 4 6
      let k := p0.extractLsb' 1 3
      let z := p0.extractLsb' 0 1
      let f := p0.extractLsb' 0 4
      let ty := p1.extractLsb' 13 3
      let rm := p1.extractLsb' 11 2
      let fn := p1.extractLsb' 6 5
      let c := p1.extractLsb' 0 6
      match fm with
      | .f0 => .ok { form := fm, op := headOp h, d := headD h }
      | .f1 => .ok { form := fm, op := headOp h, d := headD h, a, b, k, z }
      | .f2 => .ok { form := fm, op := headOp h, d := headD h, a, b, k, z, ty, rm, fn, c }
      | .f3 => .ok { form := fm, op := headOp h, d := headD h, a, b, f, i16 := p1 }
      | .f4 => .ok { form := fm, op := headOp h, d := headD h, a, b, f, i32 := p2 ++ p1 }
      | .f5 => .ok { form := fm, op := headOp h, d := headD h, a, b, k, z, ty, rm, fn, c, i16 := p2 }

/-- Class G: 0 to 31 (R43). -/
def gOf (x : BitVec 6) : Except DecodeErr GReg :=
  if h : x.toNat < 32 then .ok ⟨x.toNat, h⟩ else .error .registerClass

/-- Class V: 32 to 63 (R43). -/
def vOf (x : BitVec 6) : Except DecodeErr VReg :=
  if x.toNat < 32 then .error .registerClass else .ok ⟨x.toNat % 32, Nat.mod_lt _ (by decide)⟩

/-- Class GV (R43). -/
def gvOf (x : BitVec 6) : GV :=
  if h : x.toNat < 32 then .g ⟨x.toNat, h⟩ else .v ⟨x.toNat % 32, Nat.mod_lt _ (by decide)⟩

/-- Class K: 0 to 7 in [2:0] with [5:3] zero (R43). -/
def kOf (x : BitVec 6) : Except DecodeErr KReg :=
  if h : x.toNat < 8 then .ok ⟨x.toNat, h⟩ else .error .registerClass

/-- The field of a g register. -/
def gBits (r : GReg) : BitVec 6 := BitVec.ofNat 6 r.val

/-- The field of a v register (R54: 32 plus its number). -/
def vBits (r : VReg) : BitVec 6 := BitVec.ofNat 6 (32 + r.val)

/-- The field of a GV operand. -/
def gvBits : GV → BitVec 6
  | .g r => gBits r
  | .v r => vBits r

/-- The field of a k register. -/
def kBits (r : KReg) : BitVec 6 := BitVec.ofNat 6 r.val

/-- The mask of K and Z (R55, R111). -/
def maskOf (x : Fields) : Mask := ⟨⟨x.k.toNat, x.k.isLt⟩, x.z == 1⟩

/-- The K field of a k register. -/
def kBits3 (r : KReg) : BitVec 3 := BitVec.ofNat 3 r.val

/-- K as a k register. -/
def kField (x : Fields) : KReg := ⟨x.k.toNat, x.k.isLt⟩

/-- A one-bit field. -/
def bit1 (b : Bool) : BitVec 1 := if b then 1 else 0

/-- F as condition code (R47). -/
def Cond.code : Cond → BitVec 4
  | .eq => 0
  | .ne => 1
  | .lts => 2
  | .ges => 3
  | .ltn => 4
  | .gen => 5
  | .les => 6
  | .gts => 7
  | .len => 8
  | .gtn => 9

/-- The inverse of the code; other values are reserved. -/
def condOf (x : BitVec 4) : Except DecodeErr Cond :=
  match x.toNat with
  | 0 => .ok .eq
  | 1 => .ok .ne
  | 2 => .ok .lts
  | 3 => .ok .ges
  | 4 => .ok .ltn
  | 5 => .ok .gen
  | 6 => .ok .les
  | 7 => .ok .gts
  | 8 => .ok .len
  | 9 => .ok .gtn
  | _ => .error .reservedField

/-- Float conditions in FN5 (R120). -/
def FCond.code : FCond → BitVec 5
  | .feq => 16
  | .fne => 17
  | .flt => 18
  | .fle => 19
  | .fgt => 20
  | .fge => 21
  | .funo => 22
  | .ford => 23

/-- The inverse of the code; other values are reserved. -/
def fcondOf (x : BitVec 5) : Except DecodeErr FCond :=
  match x.toNat with
  | 16 => .ok .feq
  | 17 => .ok .fne
  | 18 => .ok .flt
  | 19 => .ok .fle
  | 20 => .ok .fgt
  | 21 => .ok .fge
  | 22 => .ok .funo
  | 23 => .ok .ford
  | _ => .error .reservedField

/-- TY (R47). -/
def ETy.code : ETy → BitVec 3
  | .s32 => 0
  | .n32 => 1
  | .f32 => 2
  | .bf16 => 3
  | .f16 => 4
  | .s16 => 5
  | .s8 => 6

/-- The inverse of the code; other values are reserved. -/
def etyOf (x : BitVec 3) : Except DecodeErr ETy :=
  match x.toNat with
  | 0 => .ok .s32
  | 1 => .ok .n32
  | 2 => .ok .f32
  | 3 => .ok .bf16
  | 4 => .ok .f16
  | 5 => .ok .s16
  | 6 => .ok .s8
  | _ => .error .reservedField

/-- Scalar width in F (R47). -/
def LdW.code : LdW → BitVec 4
  | .n8 => 0
  | .n16 => 1
  | .n32 => 2
  | .s8 => 3
  | .s16 => 4
  | .s32 => 5
  | .w64 => 6

/-- The inverse of the code; other values are reserved. -/
def ldwOf (x : BitVec 4) : Except DecodeErr LdW :=
  match x.toNat with
  | 0 => .ok .n8
  | 1 => .ok .n16
  | 2 => .ok .n32
  | 3 => .ok .s8
  | 4 => .ok .s16
  | 5 => .ok .s32
  | 6 => .ok .w64
  | _ => .error .reservedField

/-- Source width of ext in F (R97). -/
def ExtW.code : ExtW → BitVec 4
  | .s8 => 0
  | .s16 => 1
  | .s32 => 2
  | .n8 => 3
  | .n16 => 4
  | .n32 => 5

/-- The inverse of the code; other values are reserved. -/
def extwOf (x : BitVec 4) : Except DecodeErr ExtW :=
  match x.toNat with
  | 0 => .ok .s8
  | 1 => .ok .s16
  | 2 => .ok .s32
  | 3 => .ok .n8
  | 4 => .ok .n16
  | 5 => .ok .n32
  | _ => .error .reservedField

/-- Atomic operation in FN5 (R180). -/
def AmoOp.code : AmoOp → BitVec 5
  | .add => 0
  | .and => 1
  | .or => 2
  | .xor => 3
  | .mins => 4
  | .maxs => 5
  | .minn => 6
  | .maxn => 7
  | .swap => 8
  | .fadd => 9
  | .fmin => 10
  | .fmax => 11

/-- The inverse of the code; other values are reserved. -/
def amoOpOf (x : BitVec 5) : Except DecodeErr AmoOp :=
  match x.toNat with
  | 0 => .ok .add
  | 1 => .ok .and
  | 2 => .ok .or
  | 3 => .ok .xor
  | 4 => .ok .mins
  | 5 => .ok .maxs
  | 6 => .ok .minn
  | 7 => .ok .maxn
  | 8 => .ok .swap
  | 9 => .ok .fadd
  | 10 => .ok .fmin
  | 11 => .ok .fmax
  | _ => .error .reservedField

/-- Atomic width in TY (R180). -/
def AmoTy.code : AmoTy → BitVec 3
  | .i32 => 0
  | .i64 => 1
  | .f32 => 2

/-- The inverse of the code; other values are reserved. -/
def amoTyOf (x : BitVec 3) : Except DecodeErr AmoTy :=
  match x.toNat with
  | 0 => .ok .i32
  | 1 => .ok .i64
  | 2 => .ok .f32
  | _ => .error .reservedField

/-- Region mode in F (R213). -/
def RgnMode.code : RgnMode → BitVec 4
  | .r => 1
  | .w => 2
  | .rw => 3
  | .nc => 4
  | .a => 5

/-- The inverse of the code; other values are reserved. -/
def rgnOf (x : BitVec 4) : Except DecodeErr RgnMode :=
  match x.toNat with
  | 1 => .ok .r
  | 2 => .ok .w
  | 3 => .ok .rw
  | 4 => .ok .nc
  | 5 => .ok .a
  | _ => .error .reservedField

/-- Kind of fence in F (R148). -/
def FenceKind.code : FenceKind → BitVec 4
  | .all => 0
  | .ld => 1
  | .st => 2
  | .posted => 3

/-- The inverse of the code; other values are reserved. -/
def fenceOf (x : BitVec 4) : Except DecodeErr FenceKind :=
  match x.toNat with
  | 0 => .ok .all
  | 1 => .ok .ld
  | 2 => .ok .st
  | 3 => .ok .posted
  | _ => .error .reservedField

/-- Kind of tzero in F (R262). -/
def TzKind.code : TzKind → BitVec 4
  | .inner => 1
  | .outer => 2
  | .both => 3
  | .valid => 4
  | .invalid => 5

/-- The inverse of the code; other values are reserved. -/
def tzOf (x : BitVec 4) : Except DecodeErr TzKind :=
  match x.toNat with
  | 1 => .ok .inner
  | 2 => .ok .outer
  | 3 => .ok .both
  | 4 => .ok .valid
  | 5 => .ok .invalid
  | _ => .error .reservedField

/-- RM (R47). -/
def RMode.code : RMode → BitVec 2
  | .rne => 0
  | .rz => 1
  | .ru => 2
  | .rd => 3

/-- The inverse of the code; other values are reserved. -/
def rmOf (x : BitVec 2) : Except DecodeErr RMode :=
  match x.toNat with
  | 0 => .ok .rne
  | 1 => .ok .rz
  | 2 => .ok .ru
  | 3 => .ok .rd
  | _ => .error .reservedField

/-- FN5 of vcmp (R120). -/
def VCond.code : VCond → BitVec 5
  | .int c => c.code.setWidth 5
  | .flt c => c.code

/-- FN5 of vcmp under a type. -/
def vcondOf (ty : ETy) (x : BitVec 5) : Except DecodeErr VCond :=
  if ty == .f32 then (fcondOf x).map .flt
  else if x.toNat < 16 then (condOf (x.setWidth 4)).map .int
  else .error .reservedField

/-- FN5 of tmac: [0] promote, [1] first, [2] pop (R262). -/
def TFlags.code (f : TFlags) : BitVec 5 := (0 : BitVec 2) ++ bit1 f.pop ++ bit1 f.first ++ bit1 f.promote

/-- The flags of tmac. -/
def tflagsOf (x : BitVec 5) : TFlags := ⟨x.getLsbD 0, x.getLsbD 1, x.getLsbD 2⟩

/-- FN5[1:0] of grpred (R346). -/
def GrpOp.code : GrpOp → BitVec 2
  | .fsum => 0
  | .sum => 1
  | .min => 2
  | .max => 3

/-- The operation of grpred. -/
def grpOpOf (x : BitVec 2) : GrpOp :=
  match x.toNat with
  | 0 => .fsum
  | 1 => .sum
  | 2 => .min
  | _ => .max

/-- TY of grpred (R346). -/
def GrpTy.code : GrpTy → BitVec 3
  | .s64 => 0
  | .n64 => 1
  | .f32 => 2

/-- The type of grpred. -/
def grpTyOf (x : BitVec 3) : Except DecodeErr GrpTy :=
  match x.toNat with
  | 0 => .ok .s64
  | 1 => .ok .n64
  | 2 => .ok .f32
  | _ => .error .reservedField

/-- Fails with a reserved field unless a check holds. -/
def need (ok : Bool) : Except DecodeErr Unit := if ok then .ok () else .error .reservedField

/-- Three g registers D, A, B. -/
def parseG3 (x : Fields) (mk : GReg → GReg → GReg → Instr) : Except DecodeErr Instr := do
  return mk (← gOf x.d) (← gOf x.a) (← gOf x.b)

/-- Two g registers D, A. -/
def parseG2 (x : Fields) (mk : GReg → GReg → Instr) : Except DecodeErr Instr := do
  return mk (← gOf x.d) (← gOf x.a)

/-- D and A of class V and GV under TY and a mask. -/
def parseV2 (x : Fields) (mk : VReg → GV → ETy → Mask → Instr) : Except DecodeErr Instr := do
  return mk (← vOf x.d) (gvOf x.a) (← etyOf x.ty) (maskOf x)

/-- D of class V, A and B of class GV, TY, RM and a mask. -/
def parseV3 (x : Fields) (mk : VReg → GV → GV → ETy → RMode → Mask → Instr) : Except DecodeErr Instr := do
  return mk (← vOf x.d) (gvOf x.a) (gvOf x.b) (← etyOf x.ty) (← rmOf x.rm) (maskOf x)

/-- The f32 functions of one operand (R116). -/
def parseF2 (x : Fields) (mk : VReg → GV → Mask → Instr) : Except DecodeErr Instr := do
  let ty ← etyOf x.ty
  need (ty == .f32)
  return mk (← vOf x.d) (gvOf x.a) (maskOf x)

/-- The reductions (R116): D of class G, A of class V, K an input. -/
def parseRed (x : Fields) (mk : GReg → VReg → ETy → KReg → Instr) : Except DecodeErr Instr := do
  return mk (← gOf x.d) (← vOf x.a) (← etyOf x.ty) (kField x)

/-- The barrier instructions with an id in I16[5:0] (R324). -/
def idField (x : Fields) : Fin 64 := ⟨x.i16.toNat % 64, Nat.mod_lt _ (by decide)⟩

/-- Addressing of vld and vst (R144). -/
def vaddrOf (x : Fields) : Except DecodeErr VAddr :=
  match x.fn.toNat with
  | 0 => do return .unit (← gOf x.b)
  | 1 => do return .str (← gOf x.b) (← gOf x.c)
  | 2 => do return .gat (← vOf x.b)
  | _ => .error .reservedField

/-- The instruction that a head's fields name, before the check of unused fields: steps 3 and 4 of R52. -/
def parse (x : Fields) : Except DecodeErr Instr :=
  match x.op.toNat with
  | 0x00 => .ok .nop
  | 0x01 => .ok .rlx
  | 0x02 => do need (controlIndex x.i16); return .rdc (← gOf x.d) x.i16
  | 0x03 => do need (controlIndex x.i16); return .wrc (← gOf x.d) x.i16
  | 0x04 => .ok (.trap x.i16)
  | 0x05 => .ok .rett
  | 0x07 => .ok .yield
  | 0x08 => .ok .exit
  | 0x09 => do need (1 ≤ x.i16.toNat && x.i16.toNat ≤ 64); return .splock (← gOf x.a) x.i16
  | 0x0A => do return .spunlock (← gOf x.d)
  | 0x0B => match x.k.toNat with
    | 0 => do return .tlbinvPage (← gOf x.a)
    | 1 => do return .tlbinvRange (← gOf x.a) (← gOf x.b)
    | 2 => .ok .tlbinvAll
    | _ => .error .reservedField
  | 0x0C => parseG3 x .cxsave
  | 0x0D => parseG2 x .cxload
  | 0x10 => parseG3 x .add
  | 0x11 => parseG3 x .sub
  | 0x12 => parseG3 x .mul
  | 0x13 => parseG3 x .mulhs
  | 0x14 => parseG3 x .mulhn
  | 0x15 => parseG3 x .divs
  | 0x16 => parseG3 x .divn
  | 0x17 => parseG3 x .rems
  | 0x18 => parseG3 x .remn
  | 0x19 => parseG3 x .and
  | 0x1A => parseG3 x .or
  | 0x1B => parseG3 x .xor
  | 0x1C => parseG3 x .andn
  | 0x1D => parseG3 x .shl
  | 0x1E => parseG3 x .shr
  | 0x1F => parseG3 x .sar
  | 0x20 => parseG3 x .mins
  | 0x21 => parseG3 x .minn
  | 0x22 => parseG3 x .maxs
  | 0x23 => parseG3 x .maxn
  | 0x24 => do return .cmp (← condOf x.f) (← gOf x.d) (← gOf x.a) (← gOf x.b)
  | 0x25 => do return .cmpi (← condOf x.f) (← gOf x.d) (← gOf x.a) x.i16
  | 0x26 => do return .sel (← gOf x.d) (← gOf x.a) (← gOf x.b) (← gOf x.c)
  | 0x27 => parseG2 x .clz
  | 0x28 => parseG2 x .ctz
  | 0x29 => parseG2 x .popc
  | 0x2A => do return .ext (← extwOf x.f) (← gOf x.d) (← gOf x.a)
  | 0x2B => do return .addi (← gOf x.d) (← gOf x.a) x.i16
  | 0x2C => do return .andi (← gOf x.d) (← gOf x.a) x.i16
  | 0x2D => do return .ori (← gOf x.d) (← gOf x.a) x.i16
  | 0x2E => do return .xori (← gOf x.d) (← gOf x.a) x.i16
  | 0x2F => match x.f.toNat with
    | 0 => do need (x.i16.toNat < 64); return .shli (← gOf x.d) (← gOf x.a) x.i16
    | 1 => do need (x.i16.toNat < 64); return .shri (← gOf x.d) (← gOf x.a) x.i16
    | 2 => do need (x.i16.toNat < 64); return .sari (← gOf x.d) (← gOf x.a) x.i16
    | _ => .error .reservedField
  | 0x30 => do return .li (← gOf x.d) x.i32
  | 0x31 => do return .lih (← gOf x.d) x.i32
  | 0x32 => do need (x.f.toNat < 4); return .lea (← gOf x.d) (← gOf x.a) (← gOf x.b) (x.f.setWidth 2) x.i16
  | 0x38 => .ok (.b x.i32)
  | 0x39 => do return .bz (← gOf x.a) x.i32
  | 0x3A => do return .bnz (← gOf x.a) x.i32
  | 0x3B => do return .bcc (← condOf x.f) (← gOf x.a) (← gOf x.b) x.i32
  | 0x3C => do return .call (← gOf x.d) x.i32
  | 0x3D => parseG2 x .callr
  | 0x3E => do return .jr (← gOf x.a)
  | 0x40 => do
    let ty ← etyOf x.ty
    let rm ← rmOf x.rm
    need (rmOk ty rm)
    parseV3 x .vadd
  | 0x41 => do
    let ty ← etyOf x.ty
    let rm ← rmOf x.rm
    need (rmOk ty rm)
    parseV3 x .vsub
  | 0x42 => do
    let ty ← etyOf x.ty
    let rm ← rmOf x.rm
    need (rmOk ty rm)
    parseV3 x .vmul
  | 0x43 => do
    let ty ← etyOf x.ty
    let rm ← rmOf x.rm
    need (rmOk ty rm)
    return .vfma (← vOf x.d) (gvOf x.a) (gvOf x.b) (← vOf x.c) ty rm (maskOf x)
  | 0x44 => parseV3 x fun d a b ty _ m => .vmin d a b ty m
  | 0x45 => parseV3 x fun d a b ty _ m => .vmax d a b ty m
  | 0x46 => parseV2 x .vabs
  | 0x47 => parseV2 x .vneg
  | 0x48 => parseV3 x fun d a b ty _ m => .vand d a b ty m
  | 0x49 => parseV3 x fun d a b ty _ m => .vor d a b ty m
  | 0x4A => parseV3 x fun d a b ty _ m => .vxor d a b ty m
  | 0x4B => do
    let ty ← etyOf x.ty
    need ty.isShift
    parseV3 x fun d a b ty _ m => .vshl d a b ty m
  | 0x4C => do
    let ty ← etyOf x.ty
    need ty.isShift
    parseV3 x fun d a b ty _ m => .vshr d a b ty m
  | 0x4D => do
    let ty ← etyOf x.ty
    need ty.isShift
    parseV3 x fun d a b ty _ m => .vsar d a b ty m
  | 0x4E => do
    let dst ← etyOf x.ty
    need (x.fn.toNat < 8)
    let src ← etyOf (x.fn.setWidth 3)
    need (partOk dst src x.c)
    return .vcvt (← vOf x.d) (← vOf x.a) dst src (← rmOf x.rm) x.c (maskOf x)
  | 0x4F => do
    let ty ← etyOf x.ty
    need ty.isWord
    return .vcmp (← vcondOf ty x.fn) ty (← kOf x.d) (gvOf x.a) (gvOf x.b) (maskOf x)
  | 0x50 => do return .vsel (← vOf x.d) (gvOf x.a) (gvOf x.b) (← etyOf x.ty) (kField x)
  | 0x51 => do return .vperm (← vOf x.d) (← vOf x.a) (← vOf x.b) (maskOf x)
  | 0x52 => do return .vrot (← vOf x.d) (← vOf x.a) (← gOf x.c) (maskOf x)
  | 0x53 => do
    let ty ← etyOf x.ty
    need ty.isWord
    return .vext (← gOf x.d) (← vOf x.a) (← gOf x.c) ty
  | 0x54 => do return .vins (← vOf x.d) (← gOf x.a) (← gOf x.c)
  | 0x55 => parseF2 x .vrcp
  | 0x56 => parseF2 x .vrsqrt
  | 0x57 => parseF2 x .vsqrt
  | 0x59 => parseF2 x .vlog2
  | 0x5A => parseF2 x .vexp2
  | 0x58 => do
    let ty ← etyOf x.ty
    need (ty == .f32)
    return .vdiv (← vOf x.d) (gvOf x.a) (gvOf x.b) (maskOf x)
  | 0x5B => parseRed x .vredsum
  | 0x5C => parseRed x .vredmin
  | 0x5D => parseRed x .vredmax
  | 0x5E => do
    let ty ← etyOf x.ty
    need ty.isWord
    parseRed x .vmaxi
  | 0x5F => do
    let ty ← etyOf x.ty
    need ty.isWord
    parseRed x .vmini
  | 0x60 => match x.fn.toNat with
    | 0 => do return .vrng (← vOf x.d) false (maskOf x)
    | 1 => do return .vrng (← vOf x.d) true (maskOf x)
    | _ => .error .reservedField
  | 0x61 => do return .vresid (← vOf x.d) (← vOf x.a) (← vOf x.b) (maskOf x)
  | 0x62 => do return .vscan (← vOf x.d) (← vOf x.a) (← etyOf x.ty) (maskOf x)
  | 0x63 => do
    let ty ← etyOf x.ty
    need ty.isShift
    return .vpopc (← vOf x.d) (← vOf x.a) ty (maskOf x)
  | 0x64 => do return .vclass (← kOf x.d) (← vOf x.a) x.fn (maskOf x)
  | 0x66 => do return .vmov (← vOf x.d) (gvOf x.a) (maskOf x)
  | 0x67 => do return .vidx (← vOf x.d) (← gOf x.a) (maskOf x)
  | 0x68 => do return .kand (← kOf x.d) (← kOf x.a) (← kOf x.b)
  | 0x69 => do return .kor (← kOf x.d) (← kOf x.a) (← kOf x.b)
  | 0x6A => do return .kxor (← kOf x.d) (← kOf x.a) (← kOf x.b)
  | 0x6B => do return .knot (← kOf x.d) (← kOf x.a)
  | 0x6C => match x.k.toNat with
    | 0 => do return .kmovKk (← kOf x.d) (← kOf x.a)
    | 1 => do return .kmovKg (← kOf x.d) (← gOf x.a)
    | 2 => do return .kmovGk (← gOf x.d) (← kOf x.a)
    | _ => .error .reservedField
  | 0x6D => do return .kpopc (← gOf x.d) (← kOf x.a)
  | 0x6E => do return .rngadv (← gOf x.a)
  | 0x80 => do return .ld (← gOf x.d) (← gOf x.a) (← gOf x.b) (← ldwOf x.f) x.i16
  | 0x81 => do
    let w ← ldwOf x.f
    need (w == .n8 || w == .n16 || w == .n32 || w == .w64)
    return .st (← gOf x.d) (← gOf x.a) (← gOf x.b) w x.i16
  | 0x82 => do return .vld (← vOf x.d) (← gOf x.a) (← vaddrOf x) x.i16 (maskOf x)
  | 0x83 => do return .vst (← vOf x.d) (← gOf x.a) (← vaddrOf x) x.i16 (kField x)
  | 0x84 => do need (x.f.toNat < 2); return .ldsync (x.f == 1) (← gOf x.d) (← gOf x.a) (← gOf x.b) x.i16
  | 0x85 => do need (x.f.toNat < 2); return .stfill (x.f == 1) (← gOf x.d) (← gOf x.a) (← gOf x.b) x.i16
  | 0x86 => do need (x.f.toNat < 2); return .femark (x.f == 1) (← gOf x.a) (← gOf x.b) x.i16
  | 0x87 => do need (x.f.toNat < 2); return .pref (x.f == 1) (← gOf x.a) (← gOf x.b) x.i16
  | 0x88 => do return .fence (← fenceOf x.f)
  | 0x89 => do need (x.f.toNat < 4); return .mbput (← gOf x.d) ⟨x.f.toNat % 4, Nat.mod_lt _ (by decide)⟩
  | 0x8A => do need (x.f.toNat < 4); return .mbget (← gOf x.d) ⟨x.f.toNat % 4, Nat.mod_lt _ (by decide)⟩
  | 0x90 => do
    let op ← amoOpOf x.fn
    let ty ← amoTyOf x.ty
    need (amoOk op ty (x.z == 1))
    return .amo op ty (x.z == 1) (← gOf x.d) (← gOf x.a) (← gOf x.b) (← gOf x.c)
  | 0x91 => do
    let ty ← amoTyOf x.ty
    need (ty != .f32)
    return .amocas ty (← gOf x.d) (← gOf x.a) (← gOf x.b) (← gOf x.c)
  | 0x92 => do
    let op ← amoOpOf x.fn
    let ty ← amoTyOf x.ty
    need (ty != .i64 && amoOk op ty (x.z == 1))
    return .vamo op ty (x.z == 1) (← vOf x.d) (← gOf x.a) (← vOf x.b) (← vOf x.c) x.i16 (kField x)
  | 0x93 => do return .amodrain (← gOf x.d)
  | 0xA0 => do return .rgn (← rgnOf x.f) (← gOf x.a) (← gOf x.b)
  | 0xA1 => .ok .rgnclr
  | 0xA2 => do return .rgnadd (← rgnOf x.f) (← gOf x.a) (← gOf x.b)
  | 0xA3 => .ok (.spawn x.i32)
  | 0xA4 => do return .fork (← gOf x.d) (← gOf x.a) x.i32
  | 0xA5 => do return .join (← gOf x.a)
  | 0xA6 => do need (1 ≤ x.i16.toNat && x.i16.toNat ≤ 32767); return .frame (← gOf x.d) (← gOf x.a) x.i16
  | 0xA7 => .ok .edge
  | 0xB0 => do need (x.i16.toNat < 256); return .meet (← gOf x.d) (← gOf x.a) (x.i16.setWidth 8)
  | 0xB1 => do need (x.f.toNat < 2); return .idset (x.f == 1) (← gOf x.d)
  | 0xB2 => do return .unmerge (← gOf x.d)
  | 0xC0 => do return .tmac (tflagsOf x.fn) (← gOf x.a) (← gOf x.b) (← gOf x.c)
  | 0xC1 => do return .tmacr (tflagsOf x.fn) ⟨x.rm.toNat, x.rm.isLt⟩ (← gOf x.d) (← gOf x.a) (← gOf x.b) (← gOf x.c)
  | 0xC2 => do return .tzero (← tzOf x.f) (← gOf x.a)
  | 0xC3 => do
    let ty ← etyOf x.ty
    need (ty != .n32)
    let act ← match x.fn.toNat with
      | 0 => .ok TepiAct.none
      | 1 => .ok TepiAct.relu
      | 2 => (gOf x.c).map TepiAct.clamp
      | 3 => (gOf x.c).map TepiAct.leaky
      | _ => .error DecodeErr.reservedField
    return .tepi ty act (← rmOf x.rm) (← gOf x.d) (← gOf x.a) (← gOf x.b) x.i16
  | 0xC4 => do
    let ty ← etyOf x.ty
    need (ty == .s32 || ty == .f32)
    let grp : Fin 4 := ⟨x.fn.toNat % 4, Nat.mod_lt _ (by decide)⟩
    if x.fn.getLsbD 4 then return .taccPut (ty == .f32) (← vOf x.d) (← gOf x.a) grp (kField x)
    else return .taccGet (ty == .f32) (← vOf x.d) (← gOf x.a) grp (maskOf x)
  | 0xC5 => do return .tplane (← gOf x.d) (← gOf x.a) x.i16
  | 0xC6 => .ok .tsync
  | 0xC7 => match x.f.toNat with
    | 0 => do return .tscale (← gOf x.a) x.i16
    | 1 => do need (x.i16.toNat < 8); return .tscaleKey (← gOf x.a) ⟨x.i16.toNat % 8, Nat.mod_lt _ (by decide)⟩
    | _ => .error .reservedField
  | 0xD0 => do return .gclaim (← gOf x.d)
  | 0xD1 => match x.f.toNat with
    | 0 => do return .gdelay (← vOf x.d) (← gOf x.a)
    | 1 => do return .gdelayGet (← vOf x.d) (← gOf x.a)
    | _ => .error .reservedField
  | 0xD2 => do
    need (x.f.toNat < 4)
    if x.f.getLsbD 1 then return .glaunchGo (← vOf x.d) (x.f.getLsbD 0)
    else return .glaunch (← vOf x.d) (x.f.getLsbD 0)
  | 0xD3 => if x.d.toNat < 32 then do return .gcapScalar (← gOf x.d) (← gOf x.a)
    else do need (x.f.toNat < 4); return .gcap (← vOf x.d) (x.f.getLsbD 0) (x.f.getLsbD 1)
  | 0xD4 => .ok .greset
  | 0xD5 => .ok .grelease
  | 0xD6 => do return .gmode (← gOf x.a)
  | 0xD8 => parseG2 x .xgo
  | 0xD9 => parseG2 x .xwait
  | 0xDA => parseG2 x .xstat
  | 0xDB => parseG2 x .xcancel
  | 0xE0 => do need (x.f.toNat < 4); return .send ⟨x.f.toNat % 4, Nat.mod_lt _ (by decide)⟩ (← gOf x.d) (← gOf x.a) (← gOf x.b)
  | 0xE1 => do need (x.f.toNat < 5 && x.d.toNat != 31); return .recv ⟨x.f.toNat % 5, Nat.mod_lt _ (by decide)⟩ (← gOf x.d)
  | 0xE2 => parseG2 x .qmap
  | 0xE3 => do need (x.f.toNat < 2); return .ringput (x.f == 1) (← gOf x.d) (← gOf x.a) (← gOf x.b) x.i16
  | 0xE4 => match x.f.toNat with
    | 0 => do return .ringget (← gOf x.d) (← gOf x.a) none x.i16
    | 1 => do return .ringget (← gOf x.d) (← gOf x.a) (some (← gOf x.b)) x.i16
    | _ => .error .reservedField
  | 0xE5 => parseG2 x .migrate
  | 0xE6 => do
    need (x.i16.toNat < 256)
    if x.i16.getLsbD 7 then return .barArvRem (x.i16.getLsbD 6) (← gOf x.d) (← gOf x.a) (idField x)
    else return .barArv (x.i16.getLsbD 6) (← gOf x.d) (idField x)
  | 0xE7 => do need (x.i16.toNat < 64); return .barWait (← gOf x.d) (idField x)
  | 0xE8 => do need (x.i16.toNat < 64); return .barExp (← gOf x.d) (← gOf x.a) (idField x)
  | 0xE9 => do need (x.i16.toNat < 64); return .barCfg (← gOf x.d) (← gOf x.a) (← gOf x.b) (idField x)
  | 0xEA => do
    let op := grpOpOf (x.fn.setWidth 2)
    let ty ← grpTyOf x.ty
    need (grpOk op ty)
    return .grpred op ty (x.fn.getLsbD 4) (← gOf x.d) (← gOf x.a) (← gOf x.b)
  | _ => .error .reservedOp

/-- The fields of an instruction (R42 to R48); none for an event, which has no encoding. -/
def fieldsOf : Instr → Option Fields
  | .nop => some { form := .f0, op := 0x00 }
  | .rlx => some { form := .f0, op := 0x01 }
  | .rdc d i => some { form := .f3, op := 0x02, d := gBits d, i16 := i }
  | .wrc d i => some { form := .f3, op := 0x03, d := gBits d, i16 := i }
  | .trap c => some { form := .f3, op := 0x04, i16 := c }
  | .rett => some { form := .f0, op := 0x05 }
  | .yield => some { form := .f0, op := 0x07 }
  | .exit => some { form := .f0, op := 0x08 }
  | .splock a n => some { form := .f3, op := 0x09, a := gBits a, i16 := n }
  | .spunlock d => some { form := .f1, op := 0x0A, d := gBits d }
  | .tlbinvPage a => some { form := .f1, op := 0x0B, a := gBits a }
  | .tlbinvRange a b => some { form := .f1, op := 0x0B, a := gBits a, b := gBits b, k := 1 }
  | .tlbinvAll => some { form := .f1, op := 0x0B, k := 2 }
  | .cxsave d a b => some { form := .f1, op := 0x0C, d := gBits d, a := gBits a, b := gBits b }
  | .cxload d a => some { form := .f1, op := 0x0D, d := gBits d, a := gBits a }
  | .add d a b => some { form := .f1, op := 0x10, d := gBits d, a := gBits a, b := gBits b }
  | .sub d a b => some { form := .f1, op := 0x11, d := gBits d, a := gBits a, b := gBits b }
  | .mul d a b => some { form := .f1, op := 0x12, d := gBits d, a := gBits a, b := gBits b }
  | .mulhs d a b => some { form := .f1, op := 0x13, d := gBits d, a := gBits a, b := gBits b }
  | .mulhn d a b => some { form := .f1, op := 0x14, d := gBits d, a := gBits a, b := gBits b }
  | .divs d a b => some { form := .f1, op := 0x15, d := gBits d, a := gBits a, b := gBits b }
  | .divn d a b => some { form := .f1, op := 0x16, d := gBits d, a := gBits a, b := gBits b }
  | .rems d a b => some { form := .f1, op := 0x17, d := gBits d, a := gBits a, b := gBits b }
  | .remn d a b => some { form := .f1, op := 0x18, d := gBits d, a := gBits a, b := gBits b }
  | .and d a b => some { form := .f1, op := 0x19, d := gBits d, a := gBits a, b := gBits b }
  | .or d a b => some { form := .f1, op := 0x1A, d := gBits d, a := gBits a, b := gBits b }
  | .xor d a b => some { form := .f1, op := 0x1B, d := gBits d, a := gBits a, b := gBits b }
  | .andn d a b => some { form := .f1, op := 0x1C, d := gBits d, a := gBits a, b := gBits b }
  | .shl d a b => some { form := .f1, op := 0x1D, d := gBits d, a := gBits a, b := gBits b }
  | .shr d a b => some { form := .f1, op := 0x1E, d := gBits d, a := gBits a, b := gBits b }
  | .sar d a b => some { form := .f1, op := 0x1F, d := gBits d, a := gBits a, b := gBits b }
  | .mins d a b => some { form := .f1, op := 0x20, d := gBits d, a := gBits a, b := gBits b }
  | .minn d a b => some { form := .f1, op := 0x21, d := gBits d, a := gBits a, b := gBits b }
  | .maxs d a b => some { form := .f1, op := 0x22, d := gBits d, a := gBits a, b := gBits b }
  | .maxn d a b => some { form := .f1, op := 0x23, d := gBits d, a := gBits a, b := gBits b }
  | .cmp c d a b => some { form := .f3, op := 0x24, d := gBits d, a := gBits a, b := gBits b, f := c.code }
  | .cmpi c d a n => some { form := .f3, op := 0x25, d := gBits d, a := gBits a, f := c.code, i16 := n }
  | .sel d a b c => some { form := .f2, op := 0x26, d := gBits d, a := gBits a, b := gBits b, c := gBits c }
  | .clz d a => some { form := .f1, op := 0x27, d := gBits d, a := gBits a }
  | .ctz d a => some { form := .f1, op := 0x28, d := gBits d, a := gBits a }
  | .popc d a => some { form := .f1, op := 0x29, d := gBits d, a := gBits a }
  | .ext w d a => some { form := .f3, op := 0x2A, d := gBits d, a := gBits a, f := w.code }
  | .addi d a n => some { form := .f3, op := 0x2B, d := gBits d, a := gBits a, i16 := n }
  | .andi d a n => some { form := .f3, op := 0x2C, d := gBits d, a := gBits a, i16 := n }
  | .ori d a n => some { form := .f3, op := 0x2D, d := gBits d, a := gBits a, i16 := n }
  | .xori d a n => some { form := .f3, op := 0x2E, d := gBits d, a := gBits a, i16 := n }
  | .shli d a n => some { form := .f3, op := 0x2F, d := gBits d, a := gBits a, f := 0, i16 := n }
  | .shri d a n => some { form := .f3, op := 0x2F, d := gBits d, a := gBits a, f := 1, i16 := n }
  | .sari d a n => some { form := .f3, op := 0x2F, d := gBits d, a := gBits a, f := 2, i16 := n }
  | .li d n => some { form := .f4, op := 0x30, d := gBits d, i32 := n }
  | .lih d n => some { form := .f4, op := 0x31, d := gBits d, i32 := n }
  | .lea d a b s n => some { form := .f3, op := 0x32, d := gBits d, a := gBits a, b := gBits b, f := s.setWidth 4, i16 := n }
  | .b t => some { form := .f4, op := 0x38, i32 := t }
  | .bz a t => some { form := .f4, op := 0x39, a := gBits a, i32 := t }
  | .bnz a t => some { form := .f4, op := 0x3A, a := gBits a, i32 := t }
  | .bcc c a b t => some { form := .f4, op := 0x3B, a := gBits a, b := gBits b, f := c.code, i32 := t }
  | .call d t => some { form := .f4, op := 0x3C, d := gBits d, i32 := t }
  | .callr d a => some { form := .f1, op := 0x3D, d := gBits d, a := gBits a }
  | .jr a => some { form := .f1, op := 0x3E, a := gBits a }
  | .vadd d a b ty rm m => some { form := .f2, op := 0x40, d := vBits d, a := gvBits a, b := gvBits b, ty := ty.code, rm := rm.code, k := kBits3 m.k, z := bit1 m.z }
  | .vsub d a b ty rm m => some { form := .f2, op := 0x41, d := vBits d, a := gvBits a, b := gvBits b, ty := ty.code, rm := rm.code, k := kBits3 m.k, z := bit1 m.z }
  | .vmul d a b ty rm m => some { form := .f2, op := 0x42, d := vBits d, a := gvBits a, b := gvBits b, ty := ty.code, rm := rm.code, k := kBits3 m.k, z := bit1 m.z }
  | .vfma d a b c ty rm m => some { form := .f2, op := 0x43, d := vBits d, a := gvBits a, b := gvBits b, ty := ty.code, c := vBits c, rm := rm.code, k := kBits3 m.k, z := bit1 m.z }
  | .vmin d a b ty m => some { form := .f2, op := 0x44, d := vBits d, a := gvBits a, b := gvBits b, ty := ty.code, k := kBits3 m.k, z := bit1 m.z }
  | .vmax d a b ty m => some { form := .f2, op := 0x45, d := vBits d, a := gvBits a, b := gvBits b, ty := ty.code, k := kBits3 m.k, z := bit1 m.z }
  | .vand d a b ty m => some { form := .f2, op := 0x48, d := vBits d, a := gvBits a, b := gvBits b, ty := ty.code, k := kBits3 m.k, z := bit1 m.z }
  | .vor d a b ty m => some { form := .f2, op := 0x49, d := vBits d, a := gvBits a, b := gvBits b, ty := ty.code, k := kBits3 m.k, z := bit1 m.z }
  | .vxor d a b ty m => some { form := .f2, op := 0x4A, d := vBits d, a := gvBits a, b := gvBits b, ty := ty.code, k := kBits3 m.k, z := bit1 m.z }
  | .vshl d a b ty m => some { form := .f2, op := 0x4B, d := vBits d, a := gvBits a, b := gvBits b, ty := ty.code, k := kBits3 m.k, z := bit1 m.z }
  | .vshr d a b ty m => some { form := .f2, op := 0x4C, d := vBits d, a := gvBits a, b := gvBits b, ty := ty.code, k := kBits3 m.k, z := bit1 m.z }
  | .vsar d a b ty m => some { form := .f2, op := 0x4D, d := vBits d, a := gvBits a, b := gvBits b, ty := ty.code, k := kBits3 m.k, z := bit1 m.z }
  | .vabs d a ty m => some { form := .f2, op := 0x46, d := vBits d, a := gvBits a, ty := ty.code, k := kBits3 m.k, z := bit1 m.z }
  | .vneg d a ty m => some { form := .f2, op := 0x47, d := vBits d, a := gvBits a, ty := ty.code, k := kBits3 m.k, z := bit1 m.z }
  | .vcvt d a dst src rm part m => some { form := .f2, op := 0x4E, d := vBits d, a := vBits a, c := part, ty := dst.code, rm := rm.code, fn := src.code.setWidth 5, k := kBits3 m.k, z := bit1 m.z }
  | .vcmp c ty d a b m => some { form := .f2, op := 0x4F, d := kBits d, a := gvBits a, b := gvBits b, ty := ty.code, fn := c.code, k := kBits3 m.k, z := bit1 m.z }
  | .vsel d a b ty k => some { form := .f2, op := 0x50, d := vBits d, a := gvBits a, b := gvBits b, ty := ty.code, k := kBits3 k }
  | .vperm d a b m => some { form := .f2, op := 0x51, d := vBits d, a := vBits a, b := vBits b, k := kBits3 m.k, z := bit1 m.z }
  | .vrot d a c m => some { form := .f2, op := 0x52, d := vBits d, a := vBits a, c := gBits c, k := kBits3 m.k, z := bit1 m.z }
  | .vext d a c ty => some { form := .f2, op := 0x53, d := gBits d, a := vBits a, c := gBits c, ty := ty.code }
  | .vins d a c => some { form := .f2, op := 0x54, d := vBits d, a := gBits a, c := gBits c }
  | .vrcp d a m => some { form := .f2, op := 0x55, d := vBits d, a := gvBits a, ty := 2, k := kBits3 m.k, z := bit1 m.z }
  | .vrsqrt d a m => some { form := .f2, op := 0x56, d := vBits d, a := gvBits a, ty := 2, k := kBits3 m.k, z := bit1 m.z }
  | .vsqrt d a m => some { form := .f2, op := 0x57, d := vBits d, a := gvBits a, ty := 2, k := kBits3 m.k, z := bit1 m.z }
  | .vlog2 d a m => some { form := .f2, op := 0x59, d := vBits d, a := gvBits a, ty := 2, k := kBits3 m.k, z := bit1 m.z }
  | .vexp2 d a m => some { form := .f2, op := 0x5A, d := vBits d, a := gvBits a, ty := 2, k := kBits3 m.k, z := bit1 m.z }
  | .vdiv d a b m => some { form := .f2, op := 0x58, d := vBits d, a := gvBits a, b := gvBits b, ty := 2, k := kBits3 m.k, z := bit1 m.z }
  | .vredsum d a ty k => some { form := .f2, op := 0x5B, d := gBits d, a := vBits a, ty := ty.code, k := kBits3 k }
  | .vredmin d a ty k => some { form := .f2, op := 0x5C, d := gBits d, a := vBits a, ty := ty.code, k := kBits3 k }
  | .vredmax d a ty k => some { form := .f2, op := 0x5D, d := gBits d, a := vBits a, ty := ty.code, k := kBits3 k }
  | .vmaxi d a ty k => some { form := .f2, op := 0x5E, d := gBits d, a := vBits a, ty := ty.code, k := kBits3 k }
  | .vmini d a ty k => some { form := .f2, op := 0x5F, d := gBits d, a := vBits a, ty := ty.code, k := kBits3 k }
  | .vrng d u m => some { form := .f2, op := 0x60, d := vBits d, ty := if u then 2 else 1, fn := if u then 1 else 0, k := kBits3 m.k, z := bit1 m.z }
  | .vresid d a b m => some { form := .f2, op := 0x61, d := vBits d, a := vBits a, b := vBits b, ty := 2, k := kBits3 m.k, z := bit1 m.z }
  | .vscan d a ty m => some { form := .f2, op := 0x62, d := vBits d, a := vBits a, ty := ty.code, k := kBits3 m.k, z := bit1 m.z }
  | .vpopc d a ty m => some { form := .f2, op := 0x63, d := vBits d, a := vBits a, ty := ty.code, k := kBits3 m.k, z := bit1 m.z }
  | .vclass d a c m => some { form := .f2, op := 0x64, d := kBits d, a := vBits a, ty := 2, fn := c, k := kBits3 m.k, z := bit1 m.z }
  | .vmov d a m => some { form := .f1, op := 0x66, d := vBits d, a := gvBits a, k := kBits3 m.k, z := bit1 m.z }
  | .vidx d a m => some { form := .f1, op := 0x67, d := vBits d, a := gBits a, k := kBits3 m.k, z := bit1 m.z }
  | .kand d a b => some { form := .f1, op := 0x68, d := kBits d, a := kBits a, b := kBits b }
  | .kor d a b => some { form := .f1, op := 0x69, d := kBits d, a := kBits a, b := kBits b }
  | .kxor d a b => some { form := .f1, op := 0x6A, d := kBits d, a := kBits a, b := kBits b }
  | .knot d a => some { form := .f1, op := 0x6B, d := kBits d, a := kBits a }
  | .kmovKk d a => some { form := .f1, op := 0x6C, d := kBits d, a := kBits a }
  | .kmovKg d a => some { form := .f1, op := 0x6C, d := kBits d, a := gBits a, k := 1 }
  | .kmovGk d a => some { form := .f1, op := 0x6C, d := gBits d, a := kBits a, k := 2 }
  | .kpopc d a => some { form := .f1, op := 0x6D, d := gBits d, a := kBits a }
  | .rngadv a => some { form := .f1, op := 0x6E, a := gBits a }
  | .ld d a b w n => some { form := .f3, op := 0x80, d := gBits d, a := gBits a, b := gBits b, f := w.code, i16 := n }
  | .st d a b w n => some { form := .f3, op := 0x81, d := gBits d, a := gBits a, b := gBits b, f := w.code, i16 := n }
  | .vld d a (.unit b) n m => some { form := .f5, op := 0x82, d := vBits d, a := gBits a, b := gBits b, i16 := n, k := kBits3 m.k, z := bit1 m.z }
  | .vld d a (.str b c) n m => some { form := .f5, op := 0x82, d := vBits d, a := gBits a, b := gBits b, c := gBits c, fn := 1, i16 := n, k := kBits3 m.k, z := bit1 m.z }
  | .vld d a (.gat b) n m => some { form := .f5, op := 0x82, d := vBits d, a := gBits a, b := vBits b, fn := 2, i16 := n, k := kBits3 m.k, z := bit1 m.z }
  | .vst d a (.unit b) n k => some { form := .f5, op := 0x83, d := vBits d, a := gBits a, b := gBits b, i16 := n, k := kBits3 k }
  | .vst d a (.str b c) n k => some { form := .f5, op := 0x83, d := vBits d, a := gBits a, b := gBits b, c := gBits c, fn := 1, i16 := n, k := kBits3 k }
  | .vst d a (.gat b) n k => some { form := .f5, op := 0x83, d := vBits d, a := gBits a, b := vBits b, fn := 2, i16 := n, k := kBits3 k }
  | .ldsync t d a b n => some { form := .f3, op := 0x84, d := gBits d, a := gBits a, b := gBits b, f := if t then 1 else 0, i16 := n }
  | .stfill t d a b n => some { form := .f3, op := 0x85, d := gBits d, a := gBits a, b := gBits b, f := if t then 1 else 0, i16 := n }
  | .femark t a b n => some { form := .f3, op := 0x86, a := gBits a, b := gBits b, f := if t then 1 else 0, i16 := n }
  | .pref t a b n => some { form := .f3, op := 0x87, a := gBits a, b := gBits b, f := if t then 1 else 0, i16 := n }
  | .fence k => some { form := .f3, op := 0x88, f := k.code }
  | .mbput d n => some { form := .f3, op := 0x89, d := gBits d, f := BitVec.ofNat 4 n.val }
  | .mbget d n => some { form := .f3, op := 0x8A, d := gBits d, f := BitVec.ofNat 4 n.val }
  | .amo op ty det d a b c => some { form := .f2, op := 0x90, d := gBits d, a := gBits a, b := gBits b, c := gBits c, z := bit1 det, ty := ty.code, fn := op.code }
  | .amocas ty d a b c => some { form := .f2, op := 0x91, d := gBits d, a := gBits a, b := gBits b, c := gBits c, ty := ty.code }
  | .vamo op ty det d a b c n k => some { form := .f5, op := 0x92, d := vBits d, a := gBits a, b := vBits b, c := vBits c, k := kBits3 k, z := bit1 det, ty := ty.code, fn := op.code, i16 := n }
  | .amodrain d => some { form := .f1, op := 0x93, d := gBits d }
  | .rgn m a b => some { form := .f3, op := 0xA0, a := gBits a, b := gBits b, f := m.code }
  | .rgnclr => some { form := .f1, op := 0xA1 }
  | .rgnadd m a b => some { form := .f3, op := 0xA2, a := gBits a, b := gBits b, f := m.code }
  | .spawn t => some { form := .f4, op := 0xA3, i32 := t }
  | .fork d a t => some { form := .f4, op := 0xA4, d := gBits d, a := gBits a, i32 := t }
  | .join a => some { form := .f1, op := 0xA5, a := gBits a }
  | .frame d a n => some { form := .f3, op := 0xA6, d := gBits d, a := gBits a, i16 := n }
  | .edge => some { form := .f0, op := 0xA7 }
  | .meet d a n => some { form := .f3, op := 0xB0, d := gBits d, a := gBits a, i16 := n.setWidth 16 }
  | .idset t d => some { form := .f3, op := 0xB1, d := gBits d, f := if t then 1 else 0 }
  | .unmerge d => some { form := .f1, op := 0xB2, d := gBits d }
  | .tmac fl a b c => some { form := .f2, op := 0xC0, a := gBits a, b := gBits b, c := gBits c, fn := fl.code }
  | .tmacr fl ch d a b c => some { form := .f2, op := 0xC1, d := gBits d, a := gBits a, b := gBits b, c := gBits c, rm := BitVec.ofNat 2 ch.val, fn := fl.code }
  | .tzero k a => some { form := .f3, op := 0xC2, a := gBits a, f := k.code }
  | .tepi ty .none rm d a b n => some { form := .f5, op := 0xC3, d := gBits d, a := gBits a, b := gBits b, ty := ty.code, rm := rm.code, i16 := n }
  | .tepi ty .relu rm d a b n => some { form := .f5, op := 0xC3, d := gBits d, a := gBits a, b := gBits b, ty := ty.code, rm := rm.code, i16 := n, fn := 1 }
  | .tepi ty (.clamp c) rm d a b n => some { form := .f5, op := 0xC3, d := gBits d, a := gBits a, b := gBits b, ty := ty.code, rm := rm.code, i16 := n, fn := 2, c := gBits c }
  | .tepi ty (.leaky c) rm d a b n => some { form := .f5, op := 0xC3, d := gBits d, a := gBits a, b := gBits b, ty := ty.code, rm := rm.code, i16 := n, fn := 3, c := gBits c }
  | .taccGet o d a g m => some { form := .f2, op := 0xC4, d := vBits d, a := gBits a, ty := if o then 2 else 0, fn := BitVec.ofNat 5 g.val, k := kBits3 m.k, z := bit1 m.z }
  | .taccPut o d a g k => some { form := .f2, op := 0xC4, d := vBits d, a := gBits a, ty := if o then 2 else 0, fn := BitVec.ofNat 5 (16 + g.val), k := kBits3 k }
  | .tplane d a n => some { form := .f3, op := 0xC5, d := gBits d, a := gBits a, i16 := n }
  | .tsync => some { form := .f0, op := 0xC6 }
  | .tscale a n => some { form := .f3, op := 0xC7, a := gBits a, i16 := n }
  | .tscaleKey a n => some { form := .f3, op := 0xC7, a := gBits a, f := 1, i16 := BitVec.ofNat 16 n.val }
  | .gclaim d => some { form := .f1, op := 0xD0, d := gBits d }
  | .gdelay d a => some { form := .f3, op := 0xD1, d := vBits d, a := gBits a }
  | .gdelayGet d a => some { form := .f3, op := 0xD1, d := vBits d, a := gBits a, f := 1 }
  | .glaunch d g => some { form := .f3, op := 0xD2, d := vBits d, f := (0 : BitVec 3) ++ bit1 g }
  | .glaunchGo d g => some { form := .f3, op := 0xD2, d := vBits d, f := (1 : BitVec 3) ++ bit1 g }
  | .gcap d g i => some { form := .f3, op := 0xD3, d := vBits d, f := (0 : BitVec 2) ++ bit1 i ++ bit1 g }
  | .gcapScalar d a => some { form := .f3, op := 0xD3, d := gBits d, a := gBits a }
  | .greset => some { form := .f0, op := 0xD4 }
  | .grelease => some { form := .f0, op := 0xD5 }
  | .gmode a => some { form := .f1, op := 0xD6, a := gBits a }
  | .xgo d a => some { form := .f1, op := 0xD8, d := gBits d, a := gBits a }
  | .xwait d a => some { form := .f1, op := 0xD9, d := gBits d, a := gBits a }
  | .xstat d a => some { form := .f1, op := 0xDA, d := gBits d, a := gBits a }
  | .xcancel d a => some { form := .f1, op := 0xDB, d := gBits d, a := gBits a }
  | .send ch d a b => some { form := .f3, op := 0xE0, d := gBits d, a := gBits a, b := gBits b, f := BitVec.ofNat 4 ch.val }
  | .recv ch d => some { form := .f3, op := 0xE1, d := gBits d, f := BitVec.ofNat 4 ch.val }
  | .qmap d a => some { form := .f1, op := 0xE2, d := gBits d, a := gBits a }
  | .ringput t d a b n => some { form := .f3, op := 0xE3, d := gBits d, a := gBits a, b := gBits b, f := if t then 1 else 0, i16 := n }
  | .ringget d a none n => some { form := .f3, op := 0xE4, d := gBits d, a := gBits a, i16 := n }
  | .ringget d a (some b) n => some { form := .f3, op := 0xE4, d := gBits d, a := gBits a, b := gBits b, f := 1, i16 := n }
  | .migrate d a => some { form := .f1, op := 0xE5, d := gBits d, a := gBits a }
  | .barArv t d i => some { form := .f3, op := 0xE6, d := gBits d, i16 := BitVec.ofNat 16 (i.val + if t then 64 else 0) }
  | .barArvRem t d a i => some { form := .f3, op := 0xE6, d := gBits d, a := gBits a, i16 := BitVec.ofNat 16 (i.val + 128 + if t then 64 else 0) }
  | .barWait d i => some { form := .f3, op := 0xE7, d := gBits d, i16 := BitVec.ofNat 16 i.val }
  | .barExp d a i => some { form := .f3, op := 0xE8, d := gBits d, a := gBits a, i16 := BitVec.ofNat 16 i.val }
  | .barCfg d a b i => some { form := .f3, op := 0xE9, d := gBits d, a := gBits a, b := gBits b, i16 := BitVec.ofNat 16 i.val }
  | .grpred op ty t d a b => some { form := .f2, op := 0xEA, d := gBits d, a := gBits a, b := gBits b, ty := ty.code, fn := bit1 t ++ (0 : BitVec 2) ++ op.code }
  | .barrierReevaluate _ _ => none
  | .remoteBarrierArrival _ _ => none
  | .exitRetire _ => none
  | .loadReturn _ _ _ => none
  | .atomicPerform _ _ _ => none
  | .postedStorePerform _ _ _ => none
  | .postedStoreAck _ _ => none
  | .postedRefused _ _ => none
  | .feWaiterService _ _ => none
  | .bankQueueResend _ => none
  | .l1Eviction _ _ => none
  | .icacheFill _ _ => none
  | .fetchAhead _ _ => none
  | .pageWalkComplete _ _ _ => none
  | .detUpdateAccept _ _ _ => none
  | .drainMarker _ _ => none
  | .meetArrival _ => none
  | .meetWindowExpiry _ _ => none
  | .meetRelease _ => none
  | .skimmerActionComplete _ _ => none
  | .rgnaddAppend _ => none
  | .dequePop _ => none
  | .stealRequest _ => none
  | .stealAnswer _ => none
  | .tileStart _ => none
  | .tileComplete _ => none
  | .tmacrCommand _ => none
  | .tmacrAck _ => none
  | .tileCap _ => none
  | .epiStore _ _ => none
  | .waveEnd _ => none
  | .copySector _ _ _ _ => none
  | .transferComplete _ _ => none
  | .transferError _ _ => none
  | .notifyDelivery _ => none
  | .messageArrival _ _ => none
  | .nack _ _ => none
  | .nackRetry _ _ => none
  | .targetGone _ _ _ => none
  | .forwardingRelease _ _ => none
  | .splockHold _ => none
  | .barTimeout _ => none
  | .asyncTrapDelivery _ => none
  | .notifyReturn _ => none
  | .notifyEnable _ _ => none
  | .tseqFlush _ => none
  | .epiReplay _ => none
  | .epiDiscard _ => none
  | .detmWrite _ _ => none
  | .detspillWrite _ _ => none
  | .detspillnWrite _ _ => none
  | .registerWrite _ _ => none
  | .preempt _ => none
  | .coreRestore _ _ => none
  | .liveMigration _ _ => none
  | .doorbell _ _ _ => none
  | .launch _ _ => none
  | .launchPlacement _ _ => none
  | .resume _ _ => none
  | .kill _ _ => none
  | .hinval _ _ => none
  | .resolve _ _ => none
  | .functionReset _ => none
  | .deviceReset => none
  | .partitionCreate _ _ _ => none
  | .partitionGrow _ _ => none
  | .partitionShrink _ _ => none
  | .partitionDestroy _ => none
  | .clusterDrain _ => none
  | .qosWrite _ _ => none
  | .bandWindow _ => none
  | .ladleTake _ => none
  | .lheadWrite _ _ => none
  | .ladleTimer _ => none
  | .logheadWrite _ _ => none
  | .logArm _ _ => none
  | .logFinal _ _ => none
  | .loglostClear _ _ => none
  | .hostMemWrite _ _ _ => none
  | .carranFlit _ _ => none
  | .carranReplay _ => none
  | .landingZoneWrite _ _ _ _ _ => none
  | .clockBoost _ _ => none
  | .thermalThrottle _ _ => none
  | .thermalShutdown => none
  | .bootVerify _ _ _ => none
  | .attestationReport _ => none
  | .storeComplete _ _ _ => none

/-- The parcels of an instruction: its head and its tail, lowest first; none for an event. -/
def encode (i : Instr) : Option (List Parcel) := (fieldsOf i).map Fields.parcels

/-- The decoder: the instruction of a head and its tail parcels, or the first failing check of R52. The check of
unused fields (R46) compares the head's fields with those of the instruction found. -/
def decode (h : Parcel) (tail : List Parcel) : Except DecodeErr Instr :=
  match readFields h tail with
  | .error e => .error e
  | .ok x =>
    match parse x with
    | .error e => .error e
    | .ok i => if fieldsOf i = some x then .ok i else .error .unusedField

/-- The opcodes that may follow rlx (R51). -/
def mayFollowRlx (h : Parcel) : Bool :=
  let op := (headOp h).toNat
  (0x80 ≤ op && op ≤ 0x83) || (0x90 ≤ op && op ≤ 0x92)

/-- The 32 parcels of a line's 64 bytes, little-endian (R33). -/
def lineParcels (bytes : List Byte) : List Parcel :=
  (List.range 32).map fun i => bytes.getD (2 * i + 1) 0 ++ bytes.getD (2 * i) 0

/-- NH of a line (R33). -/
def lineNh (ps : List Parcel) : Nat := ((ps.getD 0 0).extractLsb' 11 5).toNat

/-- Head i of a line, 1 to NH (R33). -/
def lineHead (ps : List Parcel) (i : Nat) : Parcel := ps.getD i 0

/-- S_i: the tail parcels of heads 1 to i (R34). -/
def tailSum (ps : List Parcel) : Nat → Nat
  | 0 => 0
  | i + 1 => tailSum ps i + (headTl (lineHead ps (i + 1))).toNat

/-- The tail of head i: parcels 32 − S_i to 32 − S_i + TL_i − 1 (R34). -/
def lineTail (ps : List Parcel) (i : Nat) : List Parcel :=
  (List.range (headTl (lineHead ps i)).toNat).map fun j => ps.getD (32 - tailSum ps i + j) 0

/-- A line that is not malformed (R36). -/
def lineOk (ps : List Parcel) : Bool :=
  let nh := lineNh ps
  nh ≠ 0 && (ps.getD 0 0).extractLsb' 0 11 == 0 && 1 + nh + tailSum ps nh ≤ 32

/-- The parcels that TRAPAUX reports for a head: the head and what its written TL places, zero beyond (R52). -/
def headAux (h : Parcel) (tail : List Parcel) : W64 :=
  tail.getD 2 0 ++ tail.getD 1 0 ++ tail.getD 0 0 ++ h

/-- The parcels of an opcode-table word: the head in its highest 16 bits, the tail parcels below it, lowest first
(log 22); a tail that the word does not reach is zero. -/
def tableParcels (nbits w : Nat) : Parcel × List Parcel :=
  let n := (nbits + 15) / 16
  let part (i : Nat) : Parcel := BitVec.ofNat 16 (w / 2 ^ (16 * (n - 1 - i)))
  let h := part 0
  (h, (List.range (headTl h).toNat).map fun i => if i + 1 < n then part (i + 1) else 0)

/-- The instruction the decoder reads from an opcode-table word. -/
def decodeTableWord (nbits w : Nat) : Option Instr :=
  let p := tableParcels nbits w
  match decode p.1 p.2 with
  | .ok i => some i
  | .error _ => none

/-- A line of one instruction: NH = 1, the head in parcel 1, the tail at the end (R33, R34). -/
def lineOf (h : Parcel) (tail : List Parcel) : List Parcel :=
  [0x0800, h] ++ List.replicate (30 - tail.length) 0 ++ tail

/-- The bytes of parcels, little-endian (R33). -/
def parcelBytes : List Parcel → List Byte
  | [] => []
  | p :: ps => p.extractLsb' 0 8 :: p.extractLsb' 8 8 :: parcelBytes ps

end Sys2Proof
end

