-- ==== Sys2Proof/Config.lean ====
section
/-! DEFINITION. What an implementation fixes and the manual leaves open: the free values. Each is an opaque
constant, so that no proof can see a value of it; a claim holds whatever they are. -/

namespace Sys2Proof.Config

/-- Which way of a full L1 set a fill replaces (R140 names no replacement rule). UNVERIFIED free value, safe: log 6. -/
opaque victimWay : Nat → Fin 8

/-- The value a grpred receives when a bar.cfg discarded every contribution of its kind (R343, R346 state no value).
Free value, safe: log 18. -/
opaque groupValue : Nat → W64

/-- Which free pool slot a lending ring takes (R336 says "a pool slot p is free"). Free value, safe: log 23. -/
opaque poolSlot : Nat → Nat

/-- What a context block gives no place to, for a thread that some other block made (R377): the handler of a queued
notification, and the address of a poisoned load. Free values, safe: log 24. -/
opaque lostWord : Nat → W64

/-- The bytes of a core save area whose form is the device's own (R385), by area use and offset. Free value, safe: log 20. -/
opaque areaByte : Nat → Nat → Byte

/-- The CHECK over a core save area, whose rule R385 leaves to the device. Free value, safe: log 20. -/
opaque areaCheck : List Byte → W64

/-- Whether an ML-DSA-65 signature verifies over an image (R418 names the scheme only). Free value, safe: log 21. -/
opaque signatureOk : List Byte → List Byte → Bool

/-- The version that a configuration image or a firmware stage states (R418 gives it no place). Free value, safe: log 21. -/
opaque imageVersion : List Byte → Nat

/-- What the configuration image in use allows a partition's node: XEN, GSTAGE and LOGARM (R418). Free value, safe: log 21. -/
opaque policy : List Byte → Nat → Bool

/-- Whether the template of the configuration image in use allows a partition: the 128 bytes of its node and how many
clusters it holds (R418). Free value, safe: log 21. -/
opaque template : List Byte → List Byte → Nat → Bool

/-- The band limits of the configuration image in use: whether a partition may have a floor and a ceiling on a resource
(R418, R401). Free value, safe: log 21. -/
opaque bandLimit : List Byte → Nat → Nat → Nat → Bool

/-- Whether a partition holds a Carran port, as its template in the configuration image says (R401, R418). Free value, safe:
log 21. -/
opaque holdsPort : List Byte → Nat → Nat → Bool

/-- The SHAKE256 digest of an image (R418 names the function only). Free value, safe: log 21. -/
opaque digest : List Byte → List Byte

/-- The signature of an attestation report under the device identity key (R418). Free value, safe: log 21. -/
opaque sign : List Byte → List Byte

end Sys2Proof.Config
end

