-- ==== Sys2Proof/Machine/State.lean ====
section
/-! DEFINITION. The state of the device as plain data: everything the manual names, per thread slot, core,
cluster, partition, register page and device, and the few fields of the model's own (agenda, current slot,
counters), each said to be so. INVENTORY.md lists every field with its rule and reset value. -/

namespace Sys2Proof.Machine

/-- Bytes by address: addresses strictly rising, no entry equal to what an unlisted address reads as, 0. -/
abbrev Memory := List Host.Cell

/-- A region record (R201), kept as its 128 bits: MODE [106:104], EXTENT [103:64], BASE [63:0]. -/
abbrev Region := BitVec 128

/-- Where an access is performed (R135, R156). -/
inductive Place where
  | global (pa : Nat)
  | own (cl : ClusterIx) (off : Nat)
  | remote (cl : ClusterIx) (off : Nat)
  | scratch (c : CoreIx) (off : Nat)
deriving DecidableEq, Repr

/-- One scalar access, or one lane of a vector access, checked and translated (R139, R141). slice says of each
byte of a global access whether it is of the Slice class (R203). -/
structure Lane where
  lane : Nat
  va : W64
  place : Place
  size : Nat
  slice : List Bool
  data : W64
deriving DecidableEq, Repr

/-- The destination of a result: a g register, or the core-queue entry a mapped register reserved (R332). -/
inductive Dst where
  | reg (r : GReg)
  | queue (ticket : Nat)
deriving DecidableEq, Repr

/-- What an outstanding access of a thread is. A v destination is none, and a g destination g0, once a later
instruction has written the register (R92). -/
inductive AccKind where
  | load (d : Dst) (w : LdW)
  | vload (d : Option VReg) (z : Bool)
  | store
  | amo (op : AmoOp) (ty : AmoTy) (d : Dst) (mul : Nat)
  | amocas (ty : AmoTy) (d : Dst) (new : W64)
  | vamo (op : AmoOp) (ty : AmoTy) (d : Option VReg) (mul : Nat)
  | det (op : AmoOp) (d : Dst) (mul : Nat)
  | vdet (op : AmoOp) (d : VReg) (mul : Nat)
deriving DecidableEq, Repr

/-- An access issued and not complete for its thread (R137). todo holds the lanes not yet performed, got the
values of those performed, keys the det sort keys reserved for the lanes (R190), or of a vst the keys of its own
journal entries (R144). -/
structure Access where
  kind : AccKind
  rlx : Bool
  todo : List Lane
  got : List (Nat × W64)
  keys : List (Nat × W64)
  /-- Lanes that met an uncorrectable error, with their addresses (R360). -/
  bad : List (Nat × W64)
deriving DecidableEq, Repr

/-- Who waits in a bank's queue (R146): a thread, or the journal entry with a key. -/
inductive FeWho where
  | thread (w : SlotIx)
  | journal (key : Nat)
deriving DecidableEq, Repr

/-- What a waiter of a bank does when it is served (R146). -/
inductive FeKind where
  | keep (d : Dst)
  | take (d : Dst)
  | fill (data : W64)
deriving DecidableEq, Repr

/-- A request in a bank's wait queue: the word (byte offset / 8), who and what. -/
structure FeWait where
  word : Nat
  who : FeWho
  kind : FeKind
deriving DecidableEq, Repr

/-- Why a thread that re-executes its instruction waits: a parking point or a stall of R24 and R26. A ringput names its ring
and the cycle since which it waits. -/
inductive Why where
  | access | fence | recv | gcap | lock | journal | ringGet
  | deque | transfer | wave | retryBuffer | slot | tile | held | log | scratch
  | barWait (id : Fin 64) (phase : BitVec 16) (d : GReg)
  | ringPut (cl : ClusterIx) (off since : Nat)
  | mbget (n : Fin 4)
  | mbput (n : Fin 4)
  | queue (pops pushes : Nat)
deriving DecidableEq, Repr

/-- What a thread waits for (R24, R26). retry re-executes the instruction; the others are ended by an event. det holds the
intermediate address at which a spill write waits for the host, and the one that the host declined (R382). -/
inductive Wait where
  | run
  | retry (why : Why)
  | bank (cl : ClusterIx) (va : W64)
  | bankRefused (cl : ClusterIx) (va : W64) (req : FeWait)
  | sieveWay (d : Dst) (id : BitVec 8) (mask : W64) (h : W32)
  | sieveIn (d : Dst) (id : BitVec 8) (mask : W64) (h : W32)
  | sieveOut (d : Dst) (status : W32) (close : Nat)
  | skimmer
  | held
  | rgnadd (r : Region)
  | port (d : Dst)
  | group (d : Dst) (id : Fin 64) (phase : BitVec 16) (op : GrpOp) (ty : GrpTy)
  | xwait (d : Dst) (id : W64)
  | xcancel (d : Dst) (id : W64)
  | tileStart (token : Nat) (declined : Option Nat)
  | drain (d : Dst) (applied : Nat) (withheld : Bool)
  | det (asked declined : Option Nat)
  | hostStage (ipa : Nat)
  | declined (ipa : Nat)
  | exiting
  | stopped (entryCode : BitVec 8)
  | killed (f : FuncIx) (q : Fin 16) (cseq : W32) (counted : Bool)
deriving DecidableEq, Repr

/-- An asynchronous event waiting for delivery (R358), with the registers it will set (R365). journal and
retry name the refused entry that rett decides (R367). -/
structure Async where
  code : BitVec 8
  /-- The cycle in which it arose. -/
  arose : Nat
  va : W64
  aux : W64
  journal : Option Nat
  retry : Option Nat
deriving DecidableEq, Repr

/-- A queued completion notification (R313). -/
structure Note where
  id : W32
  handler : W64
deriving DecidableEq, Repr

/-- The pending mark of a timed-out grpred (R346). -/
structure GrpMark where
  id : Fin 64
  phase : BitVec 16
  op : GrpOp
  ty : GrpTy
  result : Option W64
  /-- Cycles waited when a pre-emption withdrew it (R384). -/
  waited : W64
deriving DecidableEq, Repr

/-- The poison mark of a register (R360): the unified register, the load's address and its lane. -/
structure Poison where
  reg : BitVec 6
  va : W64
  lane : Nat
deriving DecidableEq, Repr

/-- One thread slot and the thread in it (R18, R24, R102). -/
structure Thread where
  occ : Bool
  wait : Wait
  ip : W64
  g : Vector W64 32
  v : Vector Vec 32
  k : Vector W32 8
  tid : BitVec 7
  mul : BitVec 8
  team : W32
  teamn : BitVec 8
  idset : BitVec 128
  part : PartIx
  home : ClusterIx
  task : Nat
  priv : Bool
  handler : Bool
  migr : Bool
  meetwin : W32
  meetst : BitVec 34
  rngkey : W64
  rngctr : W64
  vstat : BitVec 6
  tfmt : BitVec 6
  tkw : BitVec 11
  qmap : BitVec 8
  trapvec : BitVec 57
  trapcause : BitVec 10
  trapip : BitVec 57
  trapva : W64
  trapaux : W64
  pjent : BitVec 6
  notifyEn : Bool
  notifyActive : Bool
  savedip : BitVec 57
  bartmo : W32
  framep : W64
  staged : List Region
  outs : List Access
  poison : List Poison
  pend : List Async
  notes : List Note
  mark : Option GrpMark
  /-- The refused entry named by the latest delivered trap, which rett decides (R367). -/
  named : Option Async
  /-- Count of tmacr instructions issued (R266). -/
  tmacrs : BitVec 16
  /-- The model's own: the skimmer action this instruction needs has completed (R220, R221, R341). -/
  edgeDone : Bool
  /-- Cycle of its core at which it began to wait (R342). -/
  parkedAt : W64
  /-- The model's own: the values that the waiting instruction popped, put back if it is withdrawn (R154, R332). -/
  popped : List W64
  /-- The model's own: where the thread continues when its waiting instruction is done. -/
  resume : W64
  /-- The model's own: the thread that is saving this one with cxsave, so that it issues nothing more (R375). -/
  frozenBy : Option Nat
  /-- The records of a continuation that resumed while other threads ran its task (R209, R220); none: the task's. -/
  view : Option (List Region)
  /-- The model's own: the wait is a parking point and no stall, where its form does not say which (R26). -/
  parks : Bool
  /-- The model's own: the cycle of its core at which its next instruction's operands arrive (R24, log 2). -/
  flightTo : W64
  /-- The slots that the rotation must let issue before this one after a yield, and the cycle at which it waits no
  longer (R107). -/
  yielded : BitVec 16
  yieldTo : W64
  /-- Of a free slot: the thread whose unmerge has reserved it, 0 for none; of that thread: the slots (R241). -/
  reservedBy : Nat
  claimed : List SlotIx
  /-- The model's own: a number no other thread has had. -/
  uid : Nat
deriving DecidableEq, Repr

/-- An L1 data cache line (R140): physical line address, the virtual line addresses it was reached under, bytes, and
one dirty bit per byte. -/
structure L1Line where
  pa : Nat
  vas : List Nat
  bytes : List Byte
  dirty : BitVec 64
deriving DecidableEq, Repr

/-- An instruction cache line (R41, R366): its virtual address and bytes, or the fault a fetch-ahead met. -/
structure ILine where
  va : W64
  bytes : List Byte
  poison : Option (BitVec 8)
deriving DecidableEq, Repr

/-- A cached combined translation (R381): page base and size, physical base, permissions, whether the page is logged
(R383), its intermediate address, and the guest page it was made from, of size 0 without a guest stage (R374). -/
structure TlbEntry where
  base : Nat
  size : Nat
  pa : Nat
  r : Bool
  w : Bool
  x : Bool
  logged : Bool
  ipa : Nat
  gbase : Nat
  gsize : Nat
deriving DecidableEq, Repr

/-- A continuation on a deque (R209). -/
structure DequeEntry where
  g : Vector W64 8
  ip : W64
  regions : List Region
  framep : W64
  seq : W64
  idset : BitVec 128
  team : W32
  tid : BitVec 7
  teamn : BitVec 8
  mul : BitVec 8
  vstat : BitVec 6
  rngkey : W64
  rngctr : W64
  meetwin : W32
  bartmo : W32
  part : PartIx
  home : ClusterIx
  task : Nat
deriving DecidableEq, Repr

/-- The scratchpad lock (R372): holder, base, units of 64 bytes, and cycles held. -/
structure Lock where
  holder : SlotIx
  base : Nat
  units : Nat
  since : W64
deriving DecidableEq, Repr

/-- A mailbox with the threads waiting on it, in order (R149). -/
structure Mailbox where
  full : Bool
  val : W64
  puts : List SlotIx
  gets : List SlotIx
deriving DecidableEq, Repr

/-- An entry of the core queue (R332): reserved until its value is written. -/
structure QEntry where
  ticket : Nat
  val : Option W64
deriving DecidableEq, Repr

/-- A thread parked on the core queue, in parking order, with what it needs: entries to pop and room to push (R332). -/
structure QWait where
  w : SlotIx
  pops : Nat
  pushes : Nat
deriving DecidableEq, Repr

/-- A message in an inbox (R326). -/
structure Msg where
  slot : Fin 16
  ch : Fin 4
  lo : W64
  hi : W64
deriving DecidableEq, Repr

/-- What has become of an entry that was sent (R151, R153, R327, R328): nack and gone are answers on their way back. -/
inductive SendState where
  | sent
  | performed
  | queued
  | nack
  | gone (cause : Nat)
  | refused (reason : Nat)
  | backoff (until_ : W64)
deriving DecidableEq, Repr

/-- Whether an entry that was sent may still be performed without its thread deciding it. -/
def SendState.underWay : SendState → Bool
  | .gone _ | .refused _ => false
  | .sent | .performed | .queued | .nack | .backoff _ => true

/-- An entry of the retry buffer (R325, R327). -/
structure RetryEntry where
  entry : Nat
  w : SlotIx
  uid : Nat
  part : PartIx
  dst : SlotIx
  dstName : BitVec 14
  epoch : Nat
  ch : Fin 4
  lo : W64
  hi : W64
  tries : Nat
  state : SendState
deriving DecidableEq, Repr

/-- What a journal entry carries (R151, R341). -/
inductive JKind where
  | store
  | fill (wait : Bool)
  | mark (full : Bool)
  | arrive (id : Fin 64) (mul : Nat) (edge : Bool)
deriving DecidableEq, Repr

/-- An entry of the posted-store journal (R151). key is the model's own: a number no other entry has had. -/
structure JEntry where
  entry : Nat
  key : Nat
  w : SlotIx
  uid : Nat
  part : PartIx
  cl : ClusterIx
  epoch : Nat
  kind : JKind
  lanes : List Lane
  va : W64
  state : SendState
deriving DecidableEq, Repr

/-- State of a transfer (R312). -/
inductive XState where
  | flight
  | complete
  | error (code : Nat)
  | cancelled
deriving DecidableEq, Repr

/-- One entry of the scale FIFO (R255). -/
structure ScaleEntry where
  tag : BitVec 16
  scales : List (BitVec 16)
deriving DecidableEq, Repr

/-- A transfer in a range-scoreboard entry, with its parameter block (R303, R304, R311). -/
structure Transfer where
  num : BitVec 28
  w : SlotIx
  uid : Nat
  part : PartIx
  home : ClusterIx
  team : W32
  src : W64
  dst : W64
  rowBytes : Nat
  rows : Nat
  sstride : W64
  dstride : W64
  ctl : W64
  marg : W64
  handler : W64
  state : XState
  /-- Stream words of 8 bytes written, or sent, above the lowest offset that is not, and that offset. -/
  words : List Nat
  bytes : Nat
  /-- The partition's clusters at the start, with their drains and assignments (R310). -/
  dests : List (ClusterIx × Nat)
  /-- Of a stream-tile transfer whose mask is written: the scale entry that waits for room in the FIFO (R307). -/
  scales : Option ScaleEntry
  /-- The intermediate address at which a sector waits for the host, and the one the host declined (R382). -/
  hostWait : Option Nat
  declined : Option Nat
  /-- An xcancel waits for what was sent (R318), and the flits sent: port, sequence number, lowest offset (R416). -/
  halted : Bool
  flits : List (Fin 16 × Nat × Nat)
  /-- The model's own: its place in the order in which transfers were started (R319). -/
  order : Nat
deriving DecidableEq, Repr

/-- State of the griddle (R280). -/
inductive GState where
  | idle | running | done
deriving DecidableEq, Repr

/-- The temporal array of a core (R279, R280). cells holds connect bit [8] and delay [7:0] of input k and column
j at index 64 k + j. -/
structure Griddle where
  cells : Vector (BitVec 9) 4096
  modes : W64
  staged : Vector W32 64
  state : GState
  win : BitVec 11
  tick : Vector W32 64
  winner : Vector W32 64
  holder : Option (Fin 16)
  started : W64
deriving DecidableEq, Repr

/-- One entry of the accumulator store (R249). -/
structure AccEntry where
  inner : W32
  outer : W32
deriving DecidableEq, Repr

/-- One entry of the key table (R275). -/
structure KeyEntry where
  valid : Bool
  ops : BitVec 6
  key : W32
deriving DecidableEq, Repr

/-- What an entry of the tile queue does (R250, R262). -/
inductive TileKind where
  | tmac (fl : TFlags) (a b c : W64) (tfmt : BitVec 6) (trapen : Bool)
  | tzero (kind : TzKind) (rows : W64)
  | tepi (ty : ETy) (act : TepiAct) (rm : RMode) (base stride rows factor : W64)
  | taccGet (outer : Bool) (d : Option VReg) (row : W64) (grp : Fin 4) (m : Mask) (kmask : W32)
  | taccPut (outer : Bool) (data : Vec) (row : W64) (grp : Fin 4) (kmask : W32)
  | tplane (dst src : W64) (seq : BitVec 16) (tfmt : BitVec 6)
  | tscale (a : W64) (tag : BitVec 16)
  | key (value : W64) (idx : Fin 8)
  | flush
deriving DecidableEq, Repr

/-- An entry of the tile queue: the issuing thread, and the key of the command when it came from another core. -/
structure TileOp where
  token : Nat
  w : SlotIx
  uid : Nat
  remote : Option Nat
  kind : TileKind
deriving DecidableEq, Repr

/-- A segment of the epilogue buffer (R270): its bytes as lanes, whether a tlbinv removed its translation, and the
reason when its store was refused. -/
structure Segment where
  seg : Nat
  /-- The model's own: its place in the order of its thread's posted stores (R269). -/
  key : Nat
  /-- The guest page that its translation was taken from: base and size (R270, R374). -/
  page : Nat × Nat
  /-- Drains and assignments of the destination cluster at the start (R153). -/
  epoch : Nat
  w : SlotIx
  uid : Nat
  va : W64
  lanes : List Lane
  stale : Bool
  held : Option Nat
  /-- The model's own: the replay that waits for the host or the log has still to take it (R270). -/
  again : Bool
deriving DecidableEq, Repr

/-- A started entry with what it read at its start (R250), each operand's bytes as one number, lowest byte first: the
plane group, source or scales; the activation block; the head of the scale FIFO and the validity mask; the
segments of a tepi that have no place in the buffer yet. -/
structure TileRun where
  op : TileOp
  data : Nat
  rows : Nat
  head : ScaleEntry
  valid : BitVec 128
  segs : List Segment
deriving DecidableEq, Repr

/-- The matrix unit of a core (R249 to R257). acc holds row r, column j at index 128 r + j. -/
structure Tile where
  acc : Vector AccEntry 16384
  valid : BitVec 128
  fifo : List ScaleEntry
  keys : Vector KeyEntry 8
  accsat : Bool
  trapen : Bool
  epi : List Segment
  queue : List TileOp
  running : Option TileRun
  tokens : Nat
deriving DecidableEq, Repr

/-- A forwarding entry (R338): the old slot and the new one. -/
structure Forward where
  old : Fin 16
  new : SlotIx
  uid : Nat
  last : W64
deriving DecidableEq, Repr

/-- A pair of an event select and its count (R421). -/
structure Pmc where
  sel : BitVec 17
  count : BitVec 48
  /-- Whether it has counted an event in this cycle (R422). -/
  hit : Bool
deriving DecidableEq, Repr

/-- One core (R12). -/
structure Core where
  cycle : W64
  lastSlot : Fin 16
  mhz : Nat
  /-- The model's own: the part of its next cycle that has passed, in 2,400ths of a cycle of the nominal clock (R29). -/
  spare : Nat
  icache : List ILine
  l1 : List L1Line
  tlb : List TlbEntry
  scratch : Memory
  deque : List DequeEntry
  victim : Option CoreIx
  stealFrom : Nat
  /-- The request that is out was made before the core last became ineligible: its answer moves nothing on (R22). -/
  stealLate : Bool
  lock : Option Lock
  lockWait : List SlotIx
  mailbox : Vector Mailbox 4
  queue : List QEntry
  tickets : Nat
  queueWait : List QWait
  inbox : List Msg
  retry : List RetryEntry
  journal : List JEntry
  score : Vector (Option Transfer) 16
  xcount : BitVec 28
  forward : List Forward
  griddle : Griddle
  tile : Tile
  pmc : Vector Pmc 8
  /-- A pre-emption has been requested: no slot issues (R384). -/
  stopping : Bool
  /-- The model's own: the passes of completed tmacs that event counters have still to count, one in a cycle (R422). -/
  passes : Nat
  /-- The model's own: the core has had its issue turn, and its pop, in this cycle (R25, R210). -/
  turned : Bool
  popped : Bool
deriving DecidableEq, Repr

/-- A contribution of a grpred to the current phase (R346); order is TEAM × 128 + TID. -/
structure Contrib where
  order : Nat
  op : GrpOp
  ty : GrpTy
  val : W64
deriving DecidableEq, Repr

/-- An event at a barrier's update port (R340). mul is the weight of an arrival, key that of a remote arrival's journal
entry. -/
inductive BarEvent where
  | arrive (w : SlotIx) (d : Dst) (mul : Nat) (edge : Bool) (group : Option Contrib)
  | remote (key : Nat) (mul : Nat) (edge : Bool)
  | bytes (n : Nat)
  | expect (w : SlotIx) (d : Dst) (delta : BitVec 40)
  | config (w : SlotIx) (d : Dst) (exp : BitVec 16) (reload : BitVec 40)
  | again
deriving DecidableEq, Repr

/-- One barrier (R339). port collects the events of one cycle while gathering is set (R340). -/
structure Barrier where
  exp : BitVec 16
  arr : BitVec 16
  breload : BitVec 40
  bytes : BitVec 40
  phase : BitVec 16
  gathering : Bool
  port : List BarEvent
  contribs : List Contrib
  /-- The model's own: some arrival with the edge bit has been counted (R162). -/
  edged : Bool
deriving DecidableEq, Repr

/-- An open meet instance (R231, R233): the window, the thread that opened it, the core whose clock counts the
window, the cycle of opening, the count of a window that is frozen (R384), and the slots that have arrived. -/
structure Inst where
  team : W32
  part : PartIx
  id : BitVec 8
  gen : BitVec 16
  win : W32
  opener : Nat
  clock : CoreIx
  opened : W64
  frozen : Option W64
  arrivals : List SlotIx
deriving DecidableEq, Repr

/-- A task of a team, in its list (R204, R205). -/
structure Task where
  id : Nat
  regions : List Region
  begun : Bool
  member : Bool
  threads : Nat
  conts : Nat
deriving DecidableEq, Repr

/-- A frame whose owner has arrived: the frame's place, the task of that arrival (R220), and whether its
continuation waits in the frame. -/
structure OpenFrame where
  cl : ClusterIx
  off : Nat
  task : Nat
  waits : Bool
deriving DecidableEq, Repr

/-- A team at the cluster that received its launch (R205, R229, R231, R190). -/
structure Team where
  part : PartIx
  team : W32
  teamn : Nat
  vector : BitVec 57
  priv : Bool
  cseq : W32
  fn : FuncIx
  q : Fin 16
  fdom : Nat
  path : List W64
  weight : Nat
  exited : Nat
  used : BitVec 128
  spawns : Nat
  nextTask : Nat
  tasks : List Task
  frames : List OpenFrame
  det : List (Nat × Nat)
  /-- The drains and assignments of the home cluster at the placement (R344). -/
  epoch : Nat
deriving DecidableEq, Repr

/-- The generation counter of a (team, meet id) that is not 0 (R231, R248): it outlives the team, and a launch sets it
to 0. -/
structure GenCount where
  part : PartIx
  team : W32
  id : BitVec 8
  gen : BitVec 16
deriving DecidableEq, Repr

/-- The ending of a member on another cluster, on its way to the team's sieve (R229): its weight and indices. -/
structure Ending where
  home : ClusterIx
  part : PartIx
  team : W32
  mul : Nat
  idset : BitVec 128
deriving DecidableEq, Repr

/-- What a skimmer action does (R223, R224). -/
inductive SkimKind where
  | writeBack
  | invalidate
deriving DecidableEq, Repr

/-- A thread that has left its task and its slot, whose leave counts when its write-back completes (R223). -/
structure Leaver where
  w : SlotIx
  slot : Nat
  part : PartIx
  home : ClusterIx
  team : W32
  task : Nat
deriving DecidableEq, Repr

/-- What the completion of a skimmer action does for the thread that waits for it: again, its instruction issues
with the write-back or invalidation behind it; arrive, its task arrives at its core; go, it issues; finish, its
instruction is done; close, a leave of a meet's close is complete (R235). -/
inductive SkimThen where
  | nothing
  | again
  | arrive
  | go
  | finish
  | close (n : Nat) (gone : Option Leaver)
deriving DecidableEq, Repr

/-- A skimmer action in progress (R225): the core it works on, the records concerned, the slot and thread that
wait, and what follows. -/
structure Skim where
  token : Nat
  core : CoreIx
  kind : SkimKind
  regions : List Region
  w : SlotIx
  uid : Nat
  after : SkimThen
deriving DecidableEq, Repr

/-- One cluster (R13). epoch counts its drains and reassignments, so that what was sent before one is refused. -/
structure Cluster where
  part : Option PartIx
  mem : Memory
  full : List Nat
  fe : List FeWait
  pool : BitVec 256
  barrier : Vector Barrier 64
  inst : List Inst
  /-- Instance entries freed in this cycle, which serve arrivals from the next one (R244). -/
  freed : Nat
  gens : List GenCount
  teams : List Team
  skims : List Skim
  tokens : Nat
  perm : BitVec 128
  tlb : List TlbEntry
  pmc : Vector Pmc 16
  epoch : Nat
  /-- A drain has begun: nothing is placed here (R397). -/
  draining : Bool
deriving DecidableEq, Repr

/-- A spill record in use: its index in the spill area, the word and the update (R191). -/
structure Spill where
  index : Nat
  slice : Nat
  pa : Nat
  key : W64
  value : W32
deriving DecidableEq, Repr

/-- A holding buffer bound to a word (R191). -/
structure Buffer where
  part : PartIx
  slice : Nat
  pa : Nat
  entries : List (W64 × W32)
deriving DecidableEq, Repr

/-- A drain in progress (R193, R194): the slot that waits and the slices that have not finished. -/
structure Drain where
  w : SlotIx
  uid : Nat
  /-- The cycle in which it entered the sequencer. -/
  entered : Nat
  pending : W64
deriving DecidableEq, Repr

/-- A partition: what its node said at creation (R393) and its registers of R187 to R189. -/
structure Partition where
  live : Bool
  node : W64
  partid : BitVec 16
  xen : Bool
  gstage : Bool
  groot : W64
  hroot : W64
  savebase : W64
  lztab : W64
  tring : W64
  logarm : Bool
  ways : BitVec 16
  detm : BitVec 23
  detspill : BitVec 51
  cap : W32
  /-- The cycle of the latest write of CAP, and the value before it (R196). -/
  capWas : Option (Nat × W32)
  reserved : Nat
  spills : List Spill
  drains : List Drain
  straggler : Nat
  /-- The model's own: a walk met a full log ring in the final round, and these cores are still to be pre-empted (R414). -/
  stopCopy : List CoreIx
deriving DecidableEq, Repr

/-- What a command's walk read of one node of its path (R394). -/
structure Budget where
  node : W64
  slotMax : Nat
  cmdMax : Nat
deriving DecidableEq, Repr

/-- A launch consumed and held for placement (R20): the command's 128 bytes and what its walk read (R395). -/
structure HeldLaunch where
  cmd : List Byte
  budgets : List Budget
  prio : Nat
  fdom : Nat
deriving DecidableEq, Repr

/-- One queue pair of a register page (R404). -/
structure QueuePair where
  cqbase : W64
  cqsize : BitVec 17
  cqtail : BitVec 16
  cqhead : BitVec 16
  lastcmd : W32
  anyCmd : Bool
  cpbase : W64
  cpsize : BitVec 17
  cphead : BitVec 16
  cptail : BitVec 16
  lastcpl : W32
  hsb : W64
  held : Option HeldLaunch
  /-- Records that found the completion queue full (log 8). -/
  backlog : List (List Byte)
deriving DecidableEq, Repr

/-- A bandwidth band (R401) and the traffic of the present window (R402). -/
structure Band where
  weight : BitVec 8
  ceil : BitVec 13
  floor : BitVec 13
  used : Nat
deriving DecidableEq, Repr

/-- The ladle's registers (R412) and its open record (R410, R411). -/
structure Ladle where
  lbase : W64
  lsize : W64
  lhead : W64
  ltail : W64
  lcount : BitVec 16
  ltimer : W32
  ldrop : W32
  lseq : W64
  tokens : List W64
  unsignalled : Nat
  oldest : Nat
  interrupts : Nat
deriving DecidableEq, Repr

/-- The log registers (R413). -/
structure LogRegs where
  base : W64
  size : W32
  head : W32
  tail : W32
  lost : Bool
  final : Bool
  arm : Bool
deriving DecidableEq, Repr

/-- A function's register page (R404). hdmBase and hdmSize are its CXL.mem decoder range (R403): a host address
inside it names device memory, any other names host memory. -/
structure Page where
  pairs : Vector QueuePair 16
  status : BitVec 8
  qosmem : Band
  qoslink : Vector Band 16
  ladle : Ladle
  log : LogRegs
  hdmBase : Nat
  hdmSize : Nat
deriving DecidableEq, Repr

/-- Where a remote tile command stands (R265, R266). -/
inductive RPhase where
  | sent
  | queued
  | done
  | refused (reason : Nat) (seqCode : Nat)
deriving DecidableEq, Repr

/-- A remote tile command (R265). -/
structure Tmacr where
  key : Nat
  src : SlotIx
  uid : Nat
  ch : Fin 4
  cap : W64
  fl : TFlags
  a : W64
  b : W64
  c : W64
  tfmt : BitVec 6
  count : BitVec 16
  phase : RPhase
deriving DecidableEq, Repr

/-- A saved core context (R385): the core's own state and its sixteen threads, the vcluster and core number of
the area, and the CHECK stored with it. -/
structure SavedCore where
  part : PartIx
  vcluster : Nat
  num : Fin 8
  /-- Drains and assignments of the cluster when it was saved (R330, R397). -/
  epoch : Nat
  core : Core
  threads : Vector Thread 16
  tokens : List Skim
  check : W64
deriving DecidableEq, Repr

/-- A place that holds an uncorrectable error (R141, R282, R366, R419); fabric is the way of a core's accesses through the
fabric, whose check fails twice while it is there (R419). -/
inductive UePlace where
  | global (pa : Nat)
  | local_ (cl : ClusterIx) (off : Nat)
  | scratch (c : CoreIx) (off : Nat)
  | icache (c : CoreIx) (line : W64)
  | cell (c : CoreIx) (k j : Fin 64)
  | fabric (c : CoreIx)
deriving DecidableEq, Repr

/-- A Carran port (R415): next numbers the flits it sends, expect is the next number it takes. -/
structure Port where
  up : Bool
  next : Nat
  expect : Nat
  replays : Nat
  unacked : List Flit
  received : List Byte
  /-- Sequence numbers of writes that the peer refused (R416). -/
  refused : List Nat
deriving DecidableEq, Repr

/-- The management controller's own state (R418, R420). -/
structure Mgmt where
  stage : Nat
  recovery : Bool
  digests : List (List Byte)
  config : List Byte
  /-- The versions of the configuration image and of each firmware stage below which none is used (R418). -/
  rollback : Nat
  stageRollback : List (Nat × Nat)
  reports : List (List Byte)
  /-- Links reported down, and shutdowns reported (R415, R423). -/
  linksDown : List (Fin 16)
  shutdowns : Nat
  ueReports : Nat
  meetArrivals : Nat
  absorbed : Nat
  nacks : Nat
  exhausted : Nat
  temps : Vector (Vector Nat 16) 12
  corrected : List (Nat × Nat)
  hours : Nat
deriving DecidableEq, Repr

/-- One entry of the capability table (R399). -/
structure CapEntry where
  kind : Nat
  flags : Nat
  unit : Nat
  total : Nat
  free : Nat
  grain : Nat
deriving DecidableEq, Repr

/-- The model's own: which agent moves next (log 1). core lets the rotation of R25 choose the slot, flight lets the
operands of a slot's next instruction arrive n cycles later, event names an event row, report takes the first ending
on its way to a sieve (R229), gather opens the update port of a barrier for the events of one cycle (R340), wall lets
nanoseconds pass. ue makes an uncorrectable error appear or vanish at a place, corrected counts a corrected error of
an array, and temperature a sample of a sensor in a bin (R420). -/
inductive Turn where
  | core (c : CoreIx)
  | flight (w : SlotIx) (n : Nat)
  | event (e : Instr)
  | report
  | gather (cl : ClusterIx) (id : Fin 64)
  | wall (ns : Nat)
  | ue (place : UePlace) (there : Bool)
  | corrected (array : Nat)
  | temperature (sensor : Fin 12) (bin : Fin 16)
deriving DecidableEq, Repr

/-- The model's own: a turn and the cycles that pass first on the core it concerns. -/
structure Act where
  cycles : Nat
  turn : Turn
deriving DecidableEq, Repr

/-- The whole device. -/
structure State where
  threads : Vector Thread 16384
  cores : Vector Core 1024
  clusters : Vector Cluster 128
  parts : Vector Partition 64
  pages : Vector Page 65
  mem : Memory
  hostMem : Memory
  buffers : List Buffer
  tmacrs : List Tmacr
  saved : List SavedCore
  /-- The model's own: threads that stand in a context block, with the slots they left, as they were saved: for what R377
  gives no place in it. -/
  away : List (SlotIx × Thread)
  ports : Vector Port 16
  ue : List UePlace
  mgmt : Mgmt
  caps : List CapEntry
  capbase : W64
  off : Bool
  /-- The model's own: the slot whose instruction is executing. -/
  cur : SlotIx
  agenda : List Act
  /-- The model's own, for the schedule that an empty agenda leaves (log 1): an event has had its turn in this cycle. -/
  flip : Bool
  /-- The model's own: cycles passed since reset, the rank that the turns of the present cycle have reached, and whether
  a placement or a pop has taken a slot in it (log 51). -/
  now : Nat
  phase : Nat
  filled : Bool
  endings : List Ending
  /-- The model's own: numbers of the 4-byte words of global memory that atomics have reached (R156), rising. -/
  sliced : List Nat
  /-- The model's own: how many free values have been used. -/
  frees : Nat
  uids : Nat
  /-- Nanoseconds of wall-clock time (R2, R412). -/
  wall : Nat
deriving DecidableEq, Repr

/-- Reasons the machine stops. -/
inductive Fault where
  /-- Raised by step after THERMAL_SHUTDOWN (R423): a module that is shut down executes nothing. Safe: the model
  stops where the hardware does. -/
  | moduleShutDown
deriving DecidableEq, Repr

/-- Reasons an instruction has no meaning in the model. -/
inductive Refusal where
  /-- Raised by exec for a row that has no meaning yet, by its mnemonic. Safe: nothing can be proved of it. -/
  | notModelled (mnemonic : String)
deriving DecidableEq, Repr

/-- A free slot: every field at its launch value (R7, R19), identity fields at 0 (log 3). -/
def Thread.reset : Thread where
  occ := false
  wait := .run
  ip := 0
  g := Vector.replicate 32 0
  v := Vector.replicate 32 (Vector.replicate 32 0)
  k := Vector.replicate 8 0
  tid := 0
  mul := 1
  team := 0
  teamn := 0
  idset := 0
  part := 0
  home := 0
  task := 0
  priv := false
  handler := false
  migr := false
  meetwin := 0
  meetst := 0
  rngkey := 0
  rngctr := 0
  vstat := 0
  tfmt := 0x10
  tkw := 1024
  qmap := 0
  trapvec := 0
  trapcause := 0
  trapip := 0
  trapva := 0
  trapaux := 0
  pjent := 0
  notifyEn := false
  notifyActive := false
  savedip := 0
  bartmo := 0
  framep := 0
  staged := []
  outs := []
  poison := []
  pend := []
  notes := []
  mark := none
  named := none
  tmacrs := 0
  edgeDone := false
  parkedAt := 0
  popped := []
  resume := 0
  frozenBy := none
  view := none
  parks := false
  flightTo := 0
  yielded := 0
  yieldTo := 0
  reservedBy := 0
  claimed := []
  uid := 0

/-- The griddle at device reset (R280). -/
def Griddle.reset : Griddle where
  cells := Vector.replicate 4096 0
  modes := 0
  staged := Vector.replicate 64 0xFFFFFFFF
  state := .idle
  win := 0
  tick := Vector.replicate 64 0xFFFFFFFF
  winner := Vector.replicate 64 0xFFFFFFFF
  holder := none
  started := 0

/-- The tile state at device reset (R249, R256, R257, R275). -/
def Tile.reset : Tile where
  acc := Vector.replicate 16384 ⟨0, 0⟩
  valid := BitVec.allOnes 128
  fifo := []
  keys := Vector.replicate 8 ⟨false, 0, 0⟩
  accsat := false
  trapen := false
  epi := []
  queue := []
  running := none
  tokens := 0

/-- An event-counter pair at reset (R421). -/
def Pmc.reset : Pmc := ⟨0, 0, false⟩

/-- A core at device reset. -/
def Core.reset : Core where
  cycle := 0
  lastSlot := 15
  mhz := 2400
  spare := 0
  icache := []
  l1 := []
  tlb := []
  scratch := []
  deque := []
  victim := none
  stealFrom := 0
  stealLate := false
  lock := none
  lockWait := []
  mailbox := Vector.replicate 4 ⟨false, 0, [], []⟩
  queue := []
  tickets := 0
  queueWait := []
  inbox := []
  retry := []
  journal := []
  score := Vector.replicate 16 none
  xcount := 0
  forward := []
  griddle := Griddle.reset
  tile := Tile.reset
  pmc := Vector.replicate 8 Pmc.reset
  stopping := false
  passes := 0
  turned := false
  popped := false

/-- A barrier at device reset (R339). -/
def Barrier.reset : Barrier where
  exp := 0
  arr := 0
  breload := 0
  bytes := 0
  phase := 0
  gathering := false
  port := []
  contribs := []
  edged := false

/-- A cluster at device reset (R136, R339). -/
def Cluster.reset : Cluster where
  part := none
  mem := []
  full := []
  fe := []
  pool := 0
  barrier := Vector.replicate 64 Barrier.reset
  inst := []
  freed := 0
  gens := []
  teams := []
  skims := []
  tokens := 0
  perm := 0
  tlb := []
  pmc := Vector.replicate 16 Pmc.reset
  epoch := 0
  draining := false

/-- A partition that does not exist (log 3), DETM, DETSPILL and DETSPILLN at their reset values (R187 to R189). -/
def Partition.reset : Partition where
  live := false
  node := 0
  partid := 0
  xen := false
  gstage := false
  groot := 0
  hroot := 0
  savebase := 0
  lztab := 0
  tring := 0
  logarm := false
  ways := 0
  detm := 0
  detspill := 0
  cap := 0
  capWas := none
  reserved := 0
  spills := []
  drains := []
  straggler := 0
  stopCopy := []

/-- A queue pair at reset (R404). -/
def QueuePair.reset : QueuePair where
  cqbase := 0
  cqsize := 0
  cqtail := 0
  cqhead := 0
  lastcmd := 0
  anyCmd := false
  cpbase := 0
  cpsize := 0
  cphead := 0
  cptail := 0
  lastcpl := 0
  hsb := 0
  held := none
  backlog := []

/-- A band register at reset (R401). -/
def Band.reset : Band := ⟨1, 4096, 0, 0⟩

/-- The ladle's registers at reset (R412). -/
def Ladle.reset : Ladle where
  lbase := 0
  lsize := 0
  lhead := 0
  ltail := 0
  lcount := 1
  ltimer := 0
  ldrop := 0
  lseq := 0
  tokens := []
  unsignalled := 0
  oldest := 0
  interrupts := 0

/-- The log registers at reset (R413). -/
def LogRegs.reset : LogRegs := ⟨0, 0, 0, 0, false, false, false⟩

/-- A register page at reset (R404). The decoder range is log 7's. -/
def Page.reset : Page where
  pairs := Vector.replicate 16 QueuePair.reset
  status := 0
  qosmem := Band.reset
  qoslink := Vector.replicate 16 Band.reset
  ladle := Ladle.reset
  log := LogRegs.reset
  hdmBase := 0
  hdmSize := 768 * 2 ^ 30

/-- The management controller after power-on (R418, R420; log 3). -/
def Mgmt.reset : Mgmt where
  stage := 0
  recovery := false
  digests := []
  config := []
  rollback := 0
  stageRollback := []
  reports := []
  linksDown := []
  shutdowns := 0
  ueReports := 0
  meetArrivals := 0
  absorbed := 0
  nacks := 0
  exhausted := 0
  temps := Vector.replicate 12 (Vector.replicate 16 0)
  corrected := []
  hours := 0

/-- The capability table (R400) with every unit free. FLAGS are log 21's. -/
def CapEntry.table : List CapEntry :=
  [⟨1, 3, 1, 128, 128, 1⟩, ⟨2, 3, 1, 768, 768, 1⟩, ⟨3, 3, 1, 4096, 4096, 1⟩, ⟨4, 3, 1, 16, 16, 1⟩,
   ⟨5, 3, 1, 16, 16, 1⟩, ⟨6, 3, 1, 65536, 65536, 1⟩, ⟨7, 3, 1, 64, 64, 1⟩, ⟨8, 3, 1, 4096, 4096, 1⟩,
   ⟨9, 3, 1, 2048, 2048, 16⟩]

/-- The device right after reset: no partition, no thread, every memory as log 3 and log 4 say. -/
def State.reset : State where
  threads := Vector.replicate 16384 Thread.reset
  cores := Vector.replicate 1024 Core.reset
  clusters := Vector.replicate 128 Cluster.reset
  parts := Vector.replicate 64 Partition.reset
  pages := Vector.replicate 65 Page.reset
  mem := []
  hostMem := []
  buffers := []
  tmacrs := []
  saved := []
  away := []
  ports := Vector.replicate 16 ⟨true, 0, 0, 0, [], [], []⟩
  ue := []
  mgmt := Mgmt.reset
  caps := CapEntry.table
  capbase := 0
  off := false
  cur := 0
  agenda := []
  flip := false
  now := 0
  phase := 0
  filled := false
  endings := []
  sliced := []
  frees := 0
  uids := 1
  wall := 0

end Sys2Proof.Machine
end

