-- ==== Sys2Proof/Machine/Bytes.lean ====
section
/-! DEFINITION. Bytes and words, and the operations on a Memory: the one place where byte order is decided (R3). -/

namespace Sys2Proof.Machine

/-- The bytes of a number, lowest first (R3). -/
def natBytes : Nat → Nat → List Byte
  | 0, _ => []
  | k + 1, x => BitVec.ofNat 8 x :: natBytes k (x / 256)

/-- The number that bytes hold, lowest first (R3). -/
def bytesNat : List Byte → Nat
  | [] => 0
  | b :: bs => b.toNat + 256 * bytesNat bs

/-- The n bytes of a word. -/
def wordBytes (n : Nat) (x : W64) : List Byte := natBytes n x.toNat

/-- The word that at most eight bytes hold. -/
def bytesWord (bs : List Byte) : W64 := BitVec.ofNat 64 (bytesNat bs)

/-- The byte at an address; an unlisted address reads 0 (log 4). -/
def Memory.get : Memory → Nat → Byte
  | [], _ => 0
  | (k, b) :: rest, a => if k == a then b else if k > a then 0 else Memory.get rest a

/-- Write one byte and keep the canonical form: writing 0 removes the entry. -/
def Memory.set : Memory → Nat → Byte → Memory
  | [], a, x => if x == 0 then [] else [(a, x)]
  | (k, b) :: rest, a, x =>
    if k < a then (k, b) :: Memory.set rest a x
    else if k == a then (if x == 0 then rest else (a, x) :: rest)
    else if x == 0 then (k, b) :: rest else (a, x) :: (k, b) :: rest

/-- The bytes at addresses a to a + n - 1. -/
def Memory.read (m : Memory) (a : Nat) : Nat → List Byte
  | 0 => []
  | n + 1 => m.get a :: Memory.read m (a + 1) n

/-- Write consecutive bytes from address a up. -/
def Memory.write (m : Memory) (a : Nat) : List Byte → Memory
  | [] => m
  | b :: bs => Memory.write (m.set a b) (a + 1) bs

/-- The n-byte number at an address. -/
def Memory.word (m : Memory) (a n : Nat) : Nat := bytesNat (m.read a n)

/-- Set every byte of a range to zero: its entries go. -/
def Memory.clear (m : Memory) (a n : Nat) : Memory := m.filter fun c => c.1 < a || a + n ≤ c.1

/-- Every entry lies above the bound, strictly rising, and none is 0. -/
def Memory.above : Nat → Memory → Bool
  | _, [] => true
  | lo, (k, b) :: rest => lo ≤ k && b != 0 && Memory.above (k + 1) rest

/-- The canonical form of a memory: strictly rising addresses, no entry equal to what an unlisted address reads. -/
def Memory.wf (m : Memory) : Bool := Memory.above 0 m

/-- The low n bits set, of a 64-bit mask. -/
def lowMask (n : Nat) : W64 := if n ≥ 64 then BitVec.allOnes 64 else BitVec.ofNat 64 (2 ^ n - 1)

/-- Bits [hi:lo] of a word as a number (R64). -/
def bits (x : W64) (hi lo : Nat) : Nat := (x.toNat >>> lo) % 2 ^ (hi + 1 - lo)

/-- A number in the bits from lo up. -/
def atBit (lo : Nat) (x : Nat) : W64 := BitVec.ofNat 64 (x <<< lo)

def boolNat (b : Bool) : Nat := if b then 1 else 0

/-- The indices below n that satisfy a test, ascending. -/
def indices (n : Nat) (p : Nat → Bool) : List Nat := (List.range n).filter p

/-- Replace the elements at which a test holds. -/
def updateAll {α : Type} (xs : List α) (p : α → Bool) (f : α → α) : List α := xs.map fun x => if p x then f x else x

/-- Replace the element at an index. -/
def updateAt {α : Type} : List α → Nat → (α → α) → List α
  | [], _, _ => []
  | x :: xs, 0, f => f x :: xs
  | x :: xs, n + 1, f => x :: updateAt xs n f

/-- Apply a function to every element of a vector. -/
def mapVector {α β : Type} {n : Nat} (v : Vector α n) (f : α → β) : Vector β n := Vector.ofFn fun i => f v[i]

/-- Add a slot to a wait list, once. -/
def enqueue (xs : List SlotIx) (w : SlotIx) : List SlotIx := if xs.contains w then xs else xs ++ [w]

/-- Keep the first n elements when a structure of bounded size takes one more: the oldest leave. -/
def keepLast {α : Type} (n : Nat) (xs : List α) : List α := xs.drop (xs.length - n)

end Sys2Proof.Machine
end

