-- ==== Sys2Proof/Machine/Base.lean ====
section
/-! DEFINITION. Named reads and updates of State by place, the partition-relative names of R10, teams and tasks,
the event counters of R421, and the completion records of R407. -/

namespace Sys2Proof.Machine

def State.thread (s : State) (w : SlotIx) : Thread := s.threads[w]
def State.core (s : State) (c : CoreIx) : Core := s.cores[c]
def State.cluster (s : State) (c : ClusterIx) : Cluster := s.clusters[c]
def State.part (s : State) (p : PartIx) : Partition := s.parts[p]
def State.page (s : State) (f : FuncIx) : Page := s.pages[f]

def State.setThread (s : State) (w : SlotIx) (t : Thread) : State := { s with threads := s.threads.set w t }
def State.setCore (s : State) (c : CoreIx) (x : Core) : State := { s with cores := s.cores.set c x }
def State.setCluster (s : State) (c : ClusterIx) (x : Cluster) : State := { s with clusters := s.clusters.set c x }
def State.setPart (s : State) (p : PartIx) (x : Partition) : State := { s with parts := s.parts.set p x }
def State.setPage (s : State) (f : FuncIx) (x : Page) : State := { s with pages := s.pages.set f x }

def State.modThread (s : State) (w : SlotIx) (f : Thread → Thread) : State := s.setThread w (f (s.thread w))
def State.modCore (s : State) (c : CoreIx) (f : Core → Core) : State := s.setCore c (f (s.core c))
def State.modCluster (s : State) (c : ClusterIx) (f : Cluster → Cluster) : State := s.setCluster c (f (s.cluster c))
def State.modPart (s : State) (p : PartIx) (f : Partition → Partition) : State := s.setPart p (f (s.part p))
def State.modPage (s : State) (i : FuncIx) (f : Page → Page) : State := s.setPage i (f (s.page i))

/-- The cores that a condition holds of, in ascending order. -/
def State.coresWith (s : State) (f : Core → Bool) : List CoreIx :=
  (((List.finRange 1024).zip s.cores.toList).filter fun x => f x.2).map Prod.fst

/-- The thread whose instruction executes. -/
def State.me (s : State) : Thread := s.thread s.cur
/-- Its core. -/
def State.myCore (s : State) : Core := s.core (SlotIx.core s.cur)

def State.modMe (s : State) (f : Thread → Thread) : State := s.modThread s.cur f
def State.modMyCore (s : State) (f : Core → Core) : State := s.modCore (SlotIx.core s.cur) f

/-- Lists that name every place once. -/
def allClusters : List ClusterIx := List.finRange 128
def coresOf (cl : ClusterIx) : List CoreIx := (List.finRange 8).map (coreOf cl)
def slotsOf (c : CoreIx) : List SlotIx := (List.finRange 16).map (slotOf c)
def allParts : List PartIx := List.finRange 64

/-- The partition that holds a cluster; a cluster of none answers 0, and nothing runs there. -/
def State.partOf (s : State) (cl : ClusterIx) : PartIx := (s.cluster cl).part.getD 0

/-- The clusters of a partition in ascending physical order: position is the vcluster (R10). -/
def State.clustersOf (s : State) (p : PartIx) : List ClusterIx :=
  allClusters.filter fun c => (s.cluster c).part == some p

/-- The vcluster of a physical cluster (R10). -/
def State.vcluster (s : State) (cl : ClusterIx) : Nat :=
  ((s.clustersOf (s.partOf cl)).takeWhile (· != cl)).length

/-- The physical cluster of a vcluster (R10). -/
def State.physical (s : State) (p : PartIx) (v : Nat) : Option ClusterIx := (s.clustersOf p)[v]?

/-- The global slot of a place: vcluster × 128 + core × 16 + slot (R10, R102). -/
def State.globalSlot (s : State) (w : SlotIx) : Nat :=
  s.vcluster (SlotIx.cluster w) * 128 + w.val % 128

/-- The place a global slot of a partition names (R10). -/
def State.slotNamed (s : State) (p : PartIx) (n : Nat) : Option SlotIx :=
  (s.physical p (n / 128)).map fun cl => slotOf (coreOf cl ⟨n / 16 % 8, Nat.mod_lt _ (by decide)⟩) ⟨n % 16, Nat.mod_lt _ (by decide)⟩

/-- Whether a slot is its core's enabled transfer slot (R28, R301). -/
def State.xslot (s : State) (w : SlotIx) : Bool :=
  (SlotIx.num w).val == 15 && (s.cluster (SlotIx.cluster w)).part.isSome && (s.part (s.partOf (SlotIx.cluster w))).xen

/-- A free value has been used (the counter behind the opaque constants of Config). -/
def State.useFree (s : State) : State := { s with frees := s.frees + 1 }

/-- The team of a thread: its record at its home cluster (R205). -/
def State.teamAt (s : State) (cl : ClusterIx) (p : PartIx) (team : W32) : Option Team :=
  (s.cluster cl).teams.find? fun t => t.part == p && t.team == team

def State.teamOf (s : State) (t : Thread) : Option Team := s.teamAt t.home t.part t.team

def State.modTeam (s : State) (cl : ClusterIx) (p : PartIx) (team : W32) (f : Team → Team) : State :=
  s.modCluster cl fun c => { c with teams := updateAll c.teams (fun t => t.part == p && t.team == team) f }

def State.modTeamOf (s : State) (t : Thread) (f : Team → Team) : State := s.modTeam t.home t.part t.team f

/-- The running task of a thread (R204). -/
def State.taskOf (s : State) (t : Thread) : Option Task :=
  (s.teamOf t).bind fun tm => tm.tasks.find? fun k => k.id == t.task

def Team.modTask (tm : Team) (id : Nat) (f : Task → Task) : Team :=
  { tm with tasks := updateAll tm.tasks (fun k => k.id == id) f }

def State.modTaskOf (s : State) (t : Thread) (f : Task → Task) : State :=
  s.modTeamOf t fun tm => tm.modTask t.task f

/-- The records of a thread's task (R201, R204). -/
def State.taskRecords (s : State) (t : Thread) : List Region := ((s.taskOf t).map Task.regions).getD []

/-- The running records of a thread: its task's, or those that its continuation received (R209, R220). -/
def State.records (s : State) (t : Thread) : List Region := t.view.getD (s.taskRecords t)

/-- Whether an enabled pair selects an event (R421). -/
def Pmc.selects (p : Pmc) (code : Nat) : Bool := p.sel.getLsbD 16 && (p.sel.extractLsb' 0 12).toNat == code

/-- Count n occurrences of an event, the last in this cycle, in which a pair counts no more than one (R422). -/
def Pmc.bump (code n : Nat) (p : Pmc) : Pmc :=
  if p.selects code then { p with count := p.count + BitVec.ofNat 48 (n - boolNat p.hit), hit := true } else p

/-- Cycles pass at a pair: one that selects them counts each (R422, codes 1 and 3), and of tmac passes one in each of so
many of them (code 10). -/
def Pmc.pass (n : Nat) (gated : Bool) (passes : Nat) (p : Pmc) : Pmc :=
  let more := if p.selects 1 || (gated && p.selects 3) then n else if p.selects 10 then passes else 0
  { p with count := p.count + BitVec.ofNat 48 more, hit := false }

/-- Count an event on a core's counters and on its cluster's (R421). -/

def State.count (s : State) (c : CoreIx) (code n : Nat) : State :=
  let s := s.modCore c fun x => { x with pmc := mapVector x.pmc (Pmc.bump code n) }
  s.modCluster (CoreIx.cluster c) fun x => { x with pmc := mapVector x.pmc (Pmc.bump code n) }

/-- Apply an update to the thread that was in a slot, wherever its context now is (R226, R322, R337). -/
def State.modOwner (s : State) (w : SlotIx) (uid : Nat) (f : Thread → Thread) : State :=
  if (s.thread w).uid == uid then s.modThread w f
  else { s with
    threads := mapVector s.threads fun t => if t.uid == uid then f t else t
    saved := s.saved.map fun k => { k with threads := mapVector k.threads fun t => if t.uid == uid then f t else t } }

/-- The saved context of a core of a cluster that is still as it was then, if any (R266, R330). -/
def State.savedIx (s : State) (c : CoreIx) : Option Nat :=
  let cl := CoreIx.cluster c
  s.saved.findIdx? fun k =>
    (s.cluster cl).part == some k.part && k.vcluster == s.vcluster cl && k.num == CoreIx.num c && k.epoch == (s.cluster cl).epoch

/-- The context that an event about a core's journal or retry buffer names: the core's own, or the k-th saved one,
whose entries go on while it is saved (R154, R330). -/
def State.view (s : State) (c : CoreIx) : Nat → Option Core
  | 0 => some (s.core c)
  | k + 1 => (s.saved[k]?).map SavedCore.core

def State.modView (s : State) (c : CoreIx) (i : Nat) (f : Core → Core) : State :=
  match i with
  | 0 => s.modCore c f
  | k + 1 => { s with saved := updateAt s.saved k fun x => { x with core := f x.core } }

/-- A skimmer action begins at a core for the thread in a slot (R225). -/
def State.startSkim (s : State) (c : CoreIx) (kind : SkimKind) (rs : List Region) (w : SlotIx) (after : SkimThen) : State :=
  let uid := (s.thread w).uid
  s.modCluster (CoreIx.cluster c) fun x => { x with
    skims := x.skims ++ [⟨x.tokens, c, kind, rs, w, uid, after⟩]
    tokens := x.tokens + 1 }

/-- Host-side addresses (R403): inside the function's decoder range they name device memory, elsewhere host memory
(log 7). -/
def Page.device (p : Page) (addr : Nat) : Bool := p.hdmBase ≤ addr && addr < p.hdmBase + p.hdmSize

def State.busRead (s : State) (f : FuncIx) (addr n : Nat) : List Byte :=
  if (s.page f).device addr then s.mem.read (addr - (s.page f).hdmBase) n else s.hostMem.read addr n

def State.busWrite (s : State) (f : FuncIx) (addr : Nat) (bs : List Byte) : State :=
  if (s.page f).device addr then { s with mem := s.mem.write (addr - (s.page f).hdmBase) bs }
  else { s with hostMem := s.hostMem.write addr bs }

/-- The function that owns a partition (R403). -/
def funcOf (p : PartIx) : FuncIx := ⟨p.val, by omega⟩

def Page.pair (p : Page) (q : Fin 16) : QueuePair := p.pairs[q]
def Page.modPair (p : Page) (q : Fin 16) (f : QueuePair → QueuePair) : Page := { p with pairs := p.pairs.set q (f p.pairs[q]) }
def State.modPair (s : State) (f : FuncIx) (q : Fin 16) (g : QueuePair → QueuePair) : State :=
  s.modPage f fun p => p.modPair q g

/-- Whether a completion queue has no room: its size is 0, or writing one more record would meet HEAD (log 8). -/
def QueuePair.full (q : QueuePair) : Bool :=
  q.cpsize == 0 || (q.cptail.toNat + 1) % q.cpsize.toNat == q.cphead.toNat % q.cpsize.toNat

/-- Write one 64-byte record, or keep it until there is room. -/
def State.putRecord (s : State) (f : FuncIx) (q : Fin 16) (bs : List Byte) : State :=
  let p := (s.page f).pair q
  if p.full || !p.backlog.isEmpty then s.modPair f q fun p => { p with backlog := p.backlog ++ [bs] }
  else
    let s := s.busWrite f (p.cpbase.toNat + 64 * p.cptail.toNat) bs
    s.modPair f q fun p => { p with
      cptail := BitVec.ofNat 16 ((p.cptail.toNat + 1) % p.cpsize.toNat)
      lastcpl := BitVec.ofNat 32 (bytesNat ((bs.drop 12).take 4)) }

/-- A completion record's fields (R407, R425). -/
structure Completion where
  kind : Nat
  status : Nat := 0
  cseq : W32 := 0
  team : W32 := 0
  slot : Nat := 0
  cause : Nat := 0
  entry : Nat := 0
  ip : W64 := 0
  va : W64 := 0
  aux : W64 := 0
deriving DecidableEq, Repr

/-- The DSEQ of the next record (R407): one more than the last written or kept. -/
def QueuePair.nextDseq (q : QueuePair) : W32 := q.lastcpl + 1 + BitVec.ofNat 32 q.backlog.length

/-- The 64 bytes of a completion record (R407). -/
def Completion.bytes (r : Completion) (dseq : W32) : List Byte :=
  natBytes 8 (r.cseq.toNat <<< 32 + r.status <<< 8 + r.kind) ++ natBytes 8 (dseq.toNat <<< 32 + r.team.toNat) ++
  natBytes 8 (r.entry <<< 24 + r.cause <<< 16 + r.slot) ++ wordBytes 8 r.ip ++ wordBytes 8 r.va ++ wordBytes 8 r.aux ++
  List.replicate 16 0

/-- Write a completion record on a queue (R407). -/
def State.complete (s : State) (f : FuncIx) (q : Fin 16) (r : Completion) : State :=
  s.putRecord f q (r.bytes ((s.page f).pair q).nextDseq)

/-- Records kept for want of room are written once there is room. -/
def State.flushBacklog (s : State) (f : FuncIx) (q : Fin 16) : Nat → State
  | 0 => s
  | n + 1 =>
    let p := (s.page f).pair q
    match p.backlog with
    | [] => s
    | b :: rest =>
      if p.full then s
      else ((s.modPair f q fun p => { p with backlog := [] }).putRecord f q b
        |>.modPair f q fun p => { p with backlog := rest }).flushBacklog f q n

/-- The queue an FDOM index names. -/
def queueIx (n : Nat) : Fin 16 := ⟨n % 16, Nat.mod_lt _ (by decide)⟩

/-- A record on the fault domain's queue about a thread (R409): KIND 4 or 6 (R425). -/
def State.faultRecord (s : State) (w : SlotIx) (r : Completion) : State :=
  let t := s.thread w
  match s.teamOf t with
  | none => s
  | some tm => s.complete tm.fn (queueIx tm.fdom) { r with cseq := tm.cseq, team := t.team, slot := s.globalSlot w }

end Sys2Proof.Machine
end

