-- ==== Sys2Proof/Machine/Translate.lean ====
section
/-! DEFINITION. Two-stage translation (R378 to R383): table entries, the radix walk, the combined translation and
its caches, and the dirty-page log (R413, R414). -/

namespace Sys2Proof.Machine

/-- What an access needs of a page (R379). -/
structure Need where
  r : Bool
  w : Bool
  x : Bool
deriving DecidableEq, Repr

def needR : Need := ⟨true, false, false⟩
def needW : Need := ⟨false, true, false⟩
def needRW : Need := ⟨true, true, false⟩
def needX : Need := ⟨false, false, true⟩

/-- How a walk fails: absent or forbidden at the guest stage, the Carran aperture (R416), or the host stage at an
intermediate address (R382). -/
inductive WalkErr where
  | absent
  | perm
  | aperture
  | host (ipa : Nat)
deriving DecidableEq, Repr

/-- A leaf found by a walk of one stage: output base, page size in bytes, permissions, LG, level and SIZE code, and
the place of its group of entries. -/
structure Leaf where
  oa : Nat
  size : Nat
  need : Need
  lg : Bool
  level : Nat
  code : Nat
  group : Nat
  pte : Nat
deriving DecidableEq, Repr

def bitOf (x i : Nat) : Bool := (x >>> i) % 2 == 1

/-- Base-2 logarithm of the page size of a SIZE code at a level (R380). -/
def pageShift (level code : Nat) : Option Nat :=
  match level with
  | 0 => if code ≤ 4 then some (12 + 2 * code) else none
  | 1 => match code with
    | 0 => some 21
    | 1 => some 24
    | 2 => some 26
    | 3 => some 28
    | _ => none
  | 2 => if code == 0 then some 30 else none
  | _ => none

/-- Whether the n entries from an address all hold a value (R380). -/
def sameGroup (rd : Nat → Except WalkErr Nat) (e a : Nat) : Nat → Except WalkErr Bool
  | 0 => .ok true
  | n + 1 =>
    match rd a with
    | .error x => .error x
    | .ok v => if v == e then sameGroup rd e (a + 8) n else .ok false

/-- What one table entry says at a level (R379, R380): none for an absent one, a next table, or a leaf whose group
of entries agrees with it. -/
def leafAt (rd : Nat → Except WalkErr Nat) (guest : Bool) (level table idx e : Nat) : Except WalkErr (Option (Nat ⊕ Leaf)) :=
  let code := (e >>> 6) % 8
  let oa := (e >>> 12) % 2 ^ 40 * 4096
  if !bitOf e 0 || e >>> 52 != 0 || (e >>> 10) % 4 != 0 || bitOf e 5 || (guest && bitOf e 9) then .ok none
  else if bitOf e 1 then .ok (if level == 0 || code != 0 then none else some (.inl oa))
  else
    match pageShift level code with
    | none => .ok none
    | some k =>
      let n := 2 ^ (k - (12 + 9 * level))
      let first := idx / n * n
      if oa % 2 ^ k != 0 then .ok none
      else
        match sameGroup rd e (table + 8 * first) n with
        | .error x => .error x
        | .ok false => .ok none
        | .ok true =>
          .ok (some (.inr ⟨oa, 2 ^ k, ⟨bitOf e 2, bitOf e 3, bitOf e 4⟩, bitOf e 9, level, code, table + 8 * first, e⟩))

/-- What the entry of a table for an address says (R378). -/
def radixEntry (rd : Nat → Except WalkErr Nat) (guest : Bool) (addr level table : Nat) : Except WalkErr (Option (Nat ⊕ Leaf)) :=
  let idx := (addr >>> (12 + 9 * level)) % 512
  match rd (table + 8 * idx) with
  | .error x => .error x
  | .ok e => leafAt rd guest level table idx e

/-- The walk of one radix tree from a level down (R378); none is an absent entry. -/
def radix (rd : Nat → Except WalkErr Nat) (guest : Bool) (addr : Nat) : Nat → Nat → Except WalkErr (Option Leaf)
  | 0, table =>
    match radixEntry rd guest addr 0 table with
    | .error x => .error x
    | .ok (some (.inr l)) => .ok (some l)
    | .ok _ => .ok none
  | k + 1, table =>
    match radixEntry rd guest addr (k + 1) table with
    | .error x => .error x
    | .ok none => .ok none
    | .ok (some (.inr l)) => .ok (some l)
    | .ok (some (.inl next)) => radix rd guest addr k next

/-- PA[51:48] = 0xF names the Carran aperture (R416). -/
def inAperture (pa : Nat) : Bool := (pa >>> 48) % 16 == 15

/-- A table read at a memory-side slice. -/
def slicedRead (m : Memory) (pa : Nat) : Except WalkErr Nat :=
  if inAperture pa then .error .aperture else .ok (m.word pa 8)

def Need.covers (have_ want : Need) : Bool := (!want.r || have_.r) && (!want.w || have_.w) && (!want.x || have_.x)

/-- The host stage (R378): a failure of any kind is a host-stage failure at the intermediate address (R382). -/
def hostWalk (m : Memory) (root ipa : Nat) (want : Need) : Except WalkErr Leaf :=
  match radix (slicedRead m) false ipa 4 root with
  | .error x => .error x
  | .ok none => .error (.host ipa)
  | .ok (some l) => if l.need.covers want then .ok l else .error (.host ipa)

def Leaf.translate (l : Leaf) (addr : Nat) : Nat := l.oa + addr % l.size

/-- A guest table read: translated by the host stage (R378). -/
def guestRead (m : Memory) (hroot ipa : Nat) : Except WalkErr Nat :=
  match hostWalk m hroot ipa needR with
  | .error x => .error x
  | .ok l => slicedRead m (l.translate ipa)

/-- The combined translation of an address and its host leaf. -/
structure Walked where
  entry : TlbEntry
  host : Leaf
deriving DecidableEq, Repr

/-- The whole walk (R378, R382). -/
def walk (m : Memory) (p : Partition) (va : Nat) (want : Need) : Except WalkErr Walked :=
  let guest : Except WalkErr (Nat × Nat × Need) :=
    if p.gstage then
      match radix (guestRead m p.hroot.toNat) true va 4 p.groot.toNat with
      | .error x => .error x
      | .ok none => .error .absent
      | .ok (some l) => if l.need.covers want then .ok (l.translate va, l.size, l.need) else .error .perm
    else .ok (va, 2 ^ 57, ⟨true, true, true⟩)
  match guest with
  | .error x => .error x
  | .ok (ipa, gsize, gneed) =>
    match hostWalk m p.hroot.toNat ipa want with
    | .error x => .error x
    | .ok l =>
      let size := min gsize l.size
      let pa := l.translate ipa
      let guest := if p.gstage then (va / gsize * gsize, gsize) else (0, 0)
      .ok ⟨⟨va / size * size, size, pa - va % size, gneed.r && l.need.r, gneed.w && l.need.w, gneed.x && l.need.x,
        l.lg, ipa - va % size, guest.1, guest.2⟩, l⟩

/-- The outcome of a translation. logFull: the log ring has no room for the record (R414). -/
inductive Translation where
  | ok (pa : Nat)
  | absent
  | perm (code : Nat)
  | host (ipa : Nat)
  | logFull (final : Bool)
deriving DecidableEq, Repr

def TlbEntry.need (e : TlbEntry) : Need := ⟨e.r, e.w, e.x⟩

/-- Whether a cached translation serves an access. While the log is armed, a write is served only by a translation
whose page is logged (R383). -/
def TlbEntry.serves (armed : Bool) (want : Need) (va : Nat) (e : TlbEntry) : Bool :=
  e.base ≤ va && va < e.base + e.size && e.need.covers want && (!want.w || !armed || e.logged)

def State.logArmed (s : State) (p : PartIx) : Bool := (s.page (funcOf p)).log.arm

/-- Whether the log ring is full: the next index would meet HEAD (R413, R414). -/
def LogRegs.full (l : LogRegs) : Bool :=
  l.size == 0 || (l.tail.toNat + 1) % l.size.toNat == l.head.toNat % l.size.toNat

/-- The record of R383. -/
def logRecord (ipa : Nat) (l : Leaf) : Nat := ipa / 4096 % 2 ^ 40 * 4096 + l.code * 512 + l.level * 128 + 1

/-- Write a value into n consecutive 8-byte entries. -/
def Memory.fill8 (m : Memory) (a v : Nat) : Nat → Memory
  | 0 => m
  | n + 1 => Memory.fill8 (m.write a (natBytes 8 v)) (a + 8) v n

/-- Append the dirty-page record and set LG in the host leaf, one indivisible step (R383). -/
def State.logAppend (s : State) (p : PartIx) (ipa : Nat) (l : Leaf) : State :=
  let g := (s.page (funcOf p)).log
  let m := s.mem.write (g.base.toNat + 8 * g.tail.toNat) (natBytes 8 (logRecord ipa l))
  let m := m.fill8 l.group (l.pte + 512) (l.size / 2 ^ (12 + 9 * l.level))
  { s with mem := m }.modPage (funcOf p) fun x =>
    { x with log := { x.log with tail := BitVec.ofNat 32 ((g.tail.toNat + 1) % g.size.toNat) } }

/-- Put a translation into a core's L1 TLB and its cluster's TLB (R381; log 6). -/
def State.tlbInsert (s : State) (c : CoreIx) (e : TlbEntry) : State :=
  let s := s.modCore c fun x => { x with tlb := keepLast 64 (x.tlb ++ [e]) }
  s.modCluster (CoreIx.cluster c) fun x => { x with tlb := keepLast 4096 (x.tlb ++ [e]) }

/-- Walk, log and cache (R381 to R383). -/
def State.walkNow (s : State) (c : CoreIx) (p : PartIx) (va : Nat) (want : Need) : State × Translation :=
  match walk s.mem (s.part p) va want with
  | .error .absent => (s, .absent)
  | .error .perm => (s, .perm 0)
  | .error .aperture => (s, .perm 7)
  | .error (.host ipa) => (s, .host ipa)
  | .ok r =>
    let pa := r.entry.pa + (va - r.entry.base)
    let armed := s.logArmed p
    if want.w && armed && !r.host.lg then
      let g := (s.page (funcOf p)).log
      if g.full then (s, .logFull g.final)
      else ((s.logAppend p (r.entry.ipa + va % r.entry.size) r.host).tlbInsert c { r.entry with logged := true }, .ok pa)
    else (s.tlbInsert c { r.entry with w := r.entry.w && (!armed || r.host.lg) }, .ok pa)

/-- Translate an address for a core of a partition: L1 TLB, cluster TLB, walk (R381). An L1 TLB miss is counted. -/
def State.translate (s : State) (c : CoreIx) (p : PartIx) (va : Nat) (want : Need) : State × Translation :=
  let armed := s.logArmed p
  match (s.core c).tlb.find? (TlbEntry.serves armed want va) with
  | some e => (s, .ok (e.pa + (va - e.base)))
  | none =>
    let s := s.count c 5 1
    match (s.cluster (CoreIx.cluster c)).tlb.find? (TlbEntry.serves armed want va) with
    | some e => (s.modCore c fun x => { x with tlb := keepLast 64 (x.tlb ++ [e]) }, .ok (e.pa + (va - e.base)))
    | none => s.walkNow c p va want

/-- Drop translations that meet a range, everywhere in a partition (R374): guest-stage ones by virtual address,
host-stage ones by intermediate address. -/
def State.dropTlb (s : State) (p : PartIx) (hit : TlbEntry → Bool) : State :=
  (s.clustersOf p).foldl (fun s cl =>
    let s := s.modCluster cl fun x => { x with tlb := x.tlb.filter fun e => !hit e }
    (coresOf cl).foldl (fun s c => s.modCore c fun x => { x with tlb := x.tlb.filter fun e => !hit e }) s) s

end Sys2Proof.Machine
end

