-- ==== Sys2Proof/Machine/Fetch.lean ====
section
/-! DEFINITION. Fetching code lines (R33 to R41, R366): the instruction cache, the entry checks of a line, the
sequential successor and the checks of a transfer's target. -/

namespace Sys2Proof.Machine

/-- What a fetch of a line answers: its bytes, FETCH_FAULT or ICACHE_UE, or a host-stage failure (R382). -/
inductive Fetched where
  | line (bytes : List Byte)
  | fault (code : BitVec 8)
  | host (ipa : Nat)
deriving DecidableEq, Repr

/-- The base address of the line of an IP (R37). -/
def lineBase (ip : W64) : W64 := ip &&& ~~~0x3F#64

/-- The head index of an IP (R37). -/
def headIx (ip : W64) : Nat := ip.toNat % 64

/-- The global window (R135). -/
def inGlobal (va : W64) : Bool := va.toNat < 2 ^ 57

/-- Put a line into an instruction cache of 512 lines (log 6). -/
def Core.icachePut (c : Core) (l : ILine) : Core :=
  { c with icache := keepLast 512 (c.icache.filter (fun x => x.va != l.va) ++ [l]) }

/-- Read a line at the memory-side slice, as a fetch of a core and partition does (R41). -/
def State.readLine (s : State) (c : CoreIx) (p : PartIx) (va : W64) : State × Fetched :=
  if !inGlobal va then (s, .fault 0x0A)
  else
    match s.translate c p va.toNat needX with
    | (s, .ok pa) => if inAperture pa then (s, .fault 0x0A) else (s, .line (s.mem.read pa 64))
    | (s, .host ipa) => (s, .host ipa)
    | (s, _) => (s, .fault 0x0A)

/-- Fetch a line for a core: from its instruction cache as it was when it entered, a poisoned line as its fault
(R366), or from memory on a miss (R41). -/
def State.fetchLine (s : State) (c : CoreIx) (va : W64) : State × Fetched :=
  match (s.core c).icache.find? (fun l => l.va == va) with
  | some l =>
    if s.ue.contains (.icache c va) then (s, .fault 0x0B)
    else match l.poison with
      | some code => (s, .fault code)
      | none => (s, .line l.bytes)
  | none =>
    match s.readLine c (s.partOf (CoreIx.cluster c)) va with
    | (s, .line bs) =>
      (s.modCore c fun x => x.icachePut ⟨va, bs, none⟩, if s.ue.contains (.icache c va) then .fault 0x0B else .line bs)
    | r => r

/-- What an entry into a line at an IP meets, in the order of R40. -/
inductive Entry where
  | ok (parcels : List Parcel)
  | fault (code : BitVec 8) (aux : W64)
  | host (ipa : Nat)
deriving DecidableEq, Repr

def State.enter (s : State) (c : CoreIx) (ip : W64) : State × Entry :=
  match s.fetchLine c (lineBase ip) with
  | (s, .fault code) => (s, .fault code 0)
  | (s, .host ipa) => (s, .host ipa)
  | (s, .line bs) =>
    let ps := lineParcels bs
    if !lineOk ps then (s, .fault 0x02 ((ps.getD 0 0).setWidth 64))
    else if headIx ip == 0 || headIx ip > lineNh ps then (s, .fault 0x03 (BitVec.ofNat 64 (lineNh ps)))
    else (s, .ok ps)

/-- The parcels of the line at an IP, for the successor rule; a line that cannot be fetched has no head. -/
def State.parcelsAt (s : State) (c : CoreIx) (ip : W64) : List Parcel :=
  match (s.fetchLine c (lineBase ip)).2 with
  | .line bs => lineParcels bs
  | _ => []

/-- The sequential successor of an IP (R37). -/
def State.after (s : State) (c : CoreIx) (ip : W64) : W64 :=
  if headIx ip < lineNh (s.parcelsAt c ip) then ip + 1 else lineBase ip + 65

/-- The target of a direct transfer (R38). -/
def directTarget (ip : W64) (i32 : BitVec 32) : W64 :=
  lineBase ip + (i32.extractLsb' 5 27).signExtend 64 * 64 + (i32.extractLsb' 0 5).setWidth 64

end Sys2Proof.Machine
end

