-- ==== Sys2Proof/Machine/Ops.lean ====
section
/-! DEFINITION. The named operations over registers and threads: the core queue behind mapped registers (R331, R332),
waiting, taking an exception (R356 to R359) and returning from one (R367, R370), and the form in which every
meaning is written: an Op, which acts, traps or waits without effect. -/

namespace Sys2Proof.Machine

abbrev Out := Host.Outcome State Fault Refusal

/-- How an instruction ends without its own effect: an exact trap with its TRAPVA and TRAPAUX, a wait, a skimmer
action that must complete first (R220, R221, R341), or a host-stage failure with the trap to raise if the host
declines (R382). -/
inductive Stop where
  | trap (code : BitVec 8) (va aux : W64)
  | wait (why : Why)
  | edge (kind : SkimKind) (regions : List Region)
  | host (ipa : Nat) (code : BitVec 8) (va aux : W64)
deriving DecidableEq, Repr

abbrev Op := StateT State (Except Stop)

def stopWith {α : Type} (x : Stop) : Op α := fun _ => .error x
def raise {α : Type} (code : BitVec 8) (va aux : W64) : Op α := stopWith (.trap code va aux)
def waitFor {α : Type} (why : Why) : Op α := stopWith (.wait why)
def waitIf (c : Bool) (why : Why) : Op Unit := if c then waitFor why else pure ()
def raiseIf (c : Bool) (code : BitVec 8) (va aux : W64) : Op Unit := if c then raise code va aux else pure ()

/-! ### Registers -/

/-- Unified register index (R43). -/
def unified : GV → BitVec 6
  | .g r => BitVec.ofNat 6 r.val
  | .v r => BitVec.ofNat 6 (32 + r.val)

/-- Whether a g register names the core queue (R331). -/
def Thread.maps (t : Thread) (r : GV) : Bool :=
  match r with
  | .g r => 24 ≤ r.val && t.qmap.getLsbD (r.val - 24)
  | .v _ => false

/-- g0 reads zero (R89). -/
def Thread.greg (t : Thread) (r : GReg) : W64 := if r.val == 0 then 0 else t.g[r]

/-- k0 reads all ones (R133). -/
def Thread.kreg (t : Thread) (r : KReg) : W32 := if r.val == 0 then 0xFFFFFFFF else t.k[r]

def Thread.cure (t : Thread) (r : GV) : Thread := { t with poison := t.poison.filter fun p => p.reg != unified r }

/-- Write a g register: g0 discards (R89), and a write clears the poison mark (R360). -/
def Thread.setG (t : Thread) (r : GReg) (x : W64) : Thread :=
  if r.val == 0 then t else { t with g := t.g.set r x }.cure (.g r)

def Thread.setV (t : Thread) (r : VReg) (x : Vec) : Thread := { t with v := t.v.set r x }.cure (.v r)

/-- Write a k register: k0 discards (R43). -/
def Thread.setK (t : Thread) (r : KReg) (x : W32) : Thread := if r.val == 0 then t else { t with k := t.k.set r x }

def Dst.names (d : Dst) (r : GV) : Bool :=
  match d, r with
  | .reg a, .g b => a == b && a.val != 0
  | _, _ => false

/-- The register an outstanding access will write. -/
def AccKind.writes (k : AccKind) (r : GV) : Bool :=
  match k with
  | .load d _ | .amo _ _ d _ | .amocas _ d _ | .det _ d _ => d.names r
  | .vload d _ | .vamo _ _ d _ => d.any fun d => r == .v d
  | .vdet _ d _ => r == .v d
  | .store => false

/-- The access no longer writes a register that a later instruction writes (R92). -/
def AccKind.disown (k : AccKind) (r : GV) : AccKind :=
  if !k.writes r then k
  else
    match k with
    | .load _ w => .load (.reg 0) w
    | .vload _ z => .vload none z
    | .amo op ty _ m => .amo op ty (.reg 0) m
    | .amocas ty _ new => .amocas ty (.reg 0) new
    | .vamo op ty _ m => .vamo op ty none m
    | .store | .det _ _ _ | .vdet _ _ _ => k

/-- The v register that a tile-queue entry of a slot will write (R271). -/
def TileOp.writes (o : TileOp) (uid : Nat) (r : GV) : Bool :=
  o.uid == uid && o.remote.isNone && match o.kind with
    | .taccGet _ d _ _ _ _ => d.any fun d => r == .v d
    | _ => false

/-- A tacc.get of the thread no longer writes a register that a later instruction writes (R92, R271). -/
def TileOp.disown (o : TileOp) (uid : Nat) (r : GV) : TileOp :=
  if !o.writes uid r then o
  else
    match o.kind with
    | .taccGet outer _ row grp m kmask => { o with kind := .taccGet outer none row grp m kmask }
    | _ => o

/-- A register whose value an earlier instruction has still to deliver (R92, R137). -/
def State.pending (s : State) (w : SlotIx) (r : GV) : Bool :=
  (s.thread w).outs.any (fun a => a.kind.writes r) ||
  (let tile := (s.core (SlotIx.core w)).tile
   let uid := (s.thread w).uid
   tile.queue.any (fun o => o.writes uid r) || (match tile.running with
    | some x => x.op.writes uid r
    | none => false))

/-! ### The core queue -/

/-- Whether a core's queue serves so many pops and pushes now (R332). -/
def Core.serves (c : Core) (pops pushes : Nat) : Bool :=
  pops ≤ c.queue.length && (c.queue.take pops).all (fun e => e.val.isSome) && c.queue.length - pops + pushes ≤ 8

/-- Parked threads are served in the order they parked (R332): an earlier waiter that could be served goes first. -/
def Core.queueTurn (c : Core) (w : SlotIx) (pops pushes : Nat) : Bool :=
  c.serves pops pushes && !(c.queueWait.takeWhile fun q => q.w != w).any fun q => c.serves q.pops q.pushes

/-- The current thread's earlier instructions no longer deliver to these registers. -/
def State.lose (s : State) (lost : List GV) : State :=
  let uid := s.me.uid
  let op (o : TileOp) : TileOp := lost.foldl (fun o r => o.disown uid r) o
  (s.modMe fun t => { t with outs := t.outs.map fun a => { a with kind := lost.foldl AccKind.disown a.kind } }).modMyCore
    fun c => { c with tile := { c.tile with
      queue := c.tile.queue.map op
      running := c.tile.running.map fun x => { x with op := op x.op } } }

/-- What is still to be delivered to registers that the current instruction writes is lost (R92, R137; log 9). -/
def State.disown (s : State) (dsts : List GV) : State :=
  let lost := dsts.filter fun r => !s.me.maps r && s.pending s.cur r
  if lost.isEmpty then s else s.lose lost

/-- Whether a message of a thread is on its way to an inbox, so that later accesses of the thread are not performed
before it (R165, R166; log 65). -/
def State.sendOut (s : State) (w : SlotIx) : Bool :=
  (s.core (SlotIx.core w)).retry.any fun e => e.uid == (s.thread w).uid && e.state.underWay

/-- The guard of every instruction that reads srcs and writes dsts, and keeps part of keeps: the core queue has what
the mapped ones need (R332), no register it reads or keeps is still to be delivered (R92, R137), and no source is
poisoned (R360). An earlier result still to come for a register it writes is lost (log 9). DESIGN CHOICE (log 79): a
register of which it only keeps lanes is no source, so its poison raises nothing and goes with the write. -/
def ready (srcs dsts : List GV) (keeps : List GV := []) : Op Unit := fun s =>
  let t := s.me
  let pops := (srcs.filter t.maps).length
  let pushes := (dsts.filter t.maps).length
  let mapped := pops + pushes != 0
  if mapped && (!t.outs.isEmpty || s.sendOut s.cur) then .error (.wait .access)
  else if mapped && !s.myCore.queueTurn s.cur pops pushes then .error (.wait (.queue pops pushes))
  else if (srcs ++ keeps).any (fun r => !t.maps r && s.pending s.cur r) then .error (.wait .access)
  else
    match srcs.findSome? fun r => if t.maps r then none else t.poison.find? fun p => p.reg == unified r with
    | some p => .error (.trap 0x0C p.va (atBit 62 1 ||| BitVec.ofNat 64 p.lane))
    | none =>
      let s := if mapped then s.modMyCore fun c => { c with queueWait := c.queueWait.filter fun q => q.w != s.cur } else s
      .ok ((), s.disown dsts)

/-- Read a g source: a mapped one pops the core queue (R332). -/
def srcG (r : GReg) : Op W64 := fun s =>
  if s.me.maps (.g r) then
    match s.myCore.queue with
    | ⟨_, some x⟩ :: rest =>
      .ok (x, (s.modMyCore fun c => { c with queue := rest }).modMe fun t => { t with popped := t.popped ++ [x] })
    | _ => .error (.wait (.queue 1 0))
  else .ok (s.me.greg r, s)

/-- Write a g destination: a mapped one pushes the core queue (R332). -/
def dstG (r : GReg) (x : W64) : Op Unit := fun s =>
  if s.me.maps (.g r) then
    .ok ((), s.modMyCore fun c => { c with queue := c.queue ++ [⟨c.tickets, some x⟩], tickets := c.tickets + 1 })
  else .ok ((), s.modMe fun t => t.setG r x)

/-- Reserve a destination for a value that comes later (R332). -/
def reserve (r : GReg) : Op Dst := fun s =>
  if s.me.maps (.g r) then
    .ok (.queue s.myCore.tickets,
      s.modMyCore fun c => { c with queue := c.queue ++ [⟨c.tickets, none⟩], tickets := c.tickets + 1 })
  else .ok (.reg r, s)

/-- Deliver a value to a reserved destination of a thread. -/
def State.deliver (s : State) (w : SlotIx) (d : Dst) (x : W64) : State :=
  match d with
  | .reg r => s.modThread w fun t => t.setG r x
  | .queue k => s.modCore (SlotIx.core w) fun c =>
      { c with queue := updateAll c.queue (fun e => e.ticket == k) fun e => { e with val := some x } }

/-- A waiting instruction has no effect after all: what it popped goes back to the head of the core queue and the entry
it reserved goes (R154, R332, R357). -/
def State.undo (s : State) (w : SlotIx) (d : Option Dst) : State :=
  let back := (s.thread w).popped
  let mine (e : QEntry) : Bool := match d with
    | some (.queue k) => e.ticket == k
    | _ => false
  (s.modCore (SlotIx.core w) fun c => { c with
    queue := (back.map fun x => (⟨c.tickets, some x⟩ : QEntry)) ++ c.queue.filter fun e => !mine e
    tickets := c.tickets + 1 }).modThread w fun t => { t with popped := [] }

/-! ### Which slots may issue -/

/-- Whether a slot may issue or take a delivery: it holds a thread that no cxsave moves, on a core that is not being
pre-empted (R375, R384). -/
def State.mayIssue (s : State) (w : SlotIx) : Bool :=
  let t := s.thread w
  let c := SlotIx.core w
  t.occ && !(s.core c).stopping && match t.frozenBy with
    | none => true
    | some uid => !(slotsOf c).any fun x => (s.thread x).occ && (s.thread x).uid == uid

/-- Whether a slot may try to issue (R24): its operands have arrived, a yield does not make it wait (R107), and its
thread is ready or waits in an instruction that executes afresh. -/
def State.mayTry (s : State) (w : SlotIx) : Bool :=
  let t := s.thread w
  let now := (s.core (SlotIx.core w)).cycle
  s.mayIssue w && !now.ult t.flightTo && (t.yielded == 0 || !now.ult t.yieldTo) && match t.wait with
    | .run | .retry _ | .declined _ => true
    | _ => false

/-- The slots of the core that are ready with the current one, as a set of slot numbers (R107). -/
def State.readyOthers (s : State) : BitVec 16 :=
  BitVec.ofNat 16 ((slotsOf (SlotIx.core s.cur)).foldl (fun acc w =>
    if w != s.cur && s.mayTry w && (s.thread w).wait == .run then acc + 2 ^ (SlotIx.num w).val else acc) 0)

/-! ### Waiting -/

/-- A slot leaves every wait list of its core. -/
def State.leaveQueues (s : State) (w : SlotIx) : State :=
  s.modCore (SlotIx.core w) fun c => { c with
    mailbox := mapVector c.mailbox fun m => { m with puts := m.puts.filter fun x => x != w, gets := m.gets.filter fun x => x != w }
    lockWait := c.lockWait.filter fun x => x != w
    queueWait := c.queueWait.filter fun x => x.w != w }

/-- A waiting instruction that stops in some other way leaves the lists it waited in (R149, R332, R371). -/
def State.unqueued (s : State) : State :=
  match s.me.wait with
  | .retry _ => s.leaveQueues s.cur
  | _ => s

def Core.modBox (c : Core) (n : Fin 4) (f : Mailbox → Mailbox) : Core := { c with mailbox := c.mailbox.set n (f c.mailbox[n]) }

/-- A write that the full log ring stalls: in the final round LOGLOST is set and every core of the partition is to be
pre-empted (R414). -/
def State.logStall (s : State) (p : PartIx) : State :=
  if (s.page (funcOf p)).log.final then
    (s.modPage (funcOf p) fun x => { x with log := { x.log with lost := true } }).modPart p fun x =>
      { x with stopCopy := (s.clustersOf p).flatMap coresOf }
  else s

/-- The thread re-executes its instruction later; what it waits in keeps the order of arrival (R149, R332, R371). -/
def State.await (s : State) (why : Why) : State :=
  let w := s.cur
  let since := if s.me.wait == .retry why then s.me.parkedAt else s.myCore.cycle
  let s := s.modMe fun t => { t with wait := .retry why, parkedAt := since }
  match why with
  | .mbget n => s.modMyCore fun c => c.modBox n fun m => { m with gets := enqueue m.gets w }
  | .mbput n => s.modMyCore fun c => c.modBox n fun m => { m with puts := enqueue m.puts w }
  | .lock => s.modMyCore fun c => { c with lockWait := enqueue c.lockWait w }
  | .queue a b => s.modMyCore fun c =>
      if c.queueWait.any fun q => q.w == w then c else { c with queueWait := c.queueWait ++ [⟨w, a, b⟩] }
  | .log => s.logStall (s.partOf (SlotIx.cluster w))
  | .barWait _ _ _ => s.modMe fun t => { t with mark := none }
  | _ => s

/-- An instruction that has had its effect waits for nothing more, unless its effect is to wait. -/
def Thread.settled (t : Thread) : Thread :=
  match t.wait with
  | .run | .retry _ | .declined _ => { t with wait := .run, popped := [], edgeDone := false, parks := false }
  | _ => t

/-- A waiting instruction is done: the thread goes on after it. -/
def Thread.done (t : Thread) : Thread := { t with wait := .run, popped := [], edgeDone := false, parks := false, ip := t.resume }

/-- A host-stage failure (R382): the access stalls and the host is notified (KIND 6, R407). -/
def State.hostWait (s : State) (w : SlotIx) (ipa : Nat) : State :=
  (s.faultRecord w { kind := 6, ip := BitVec.ofNat 64 ipa }).modThread w fun t => { t with wait := .hostStage ipa }

/-! ### Taking an exception and returning from one -/

/-- TRAPCAUSE as R356 writes it. -/
def causeWord (async ppriv : Bool) (code : BitVec 8) : BitVec 10 :=
  BitVec.ofNat 10 (boolNat async * 512 + boolNat ppriv * 256 + code.toNat)

/-- The four trap registers as a trap writes them (R356). -/
def Thread.trapRegs (t : Thread) (async ppriv : Bool) (code : BitVec 8) (ip va aux : W64) : Thread :=
  { t with trapcause := causeWord async ppriv code, trapip := ip.setWidth 57, trapva := va, trapaux := aux }

/-- A stop in place of a handler (R359), with its fault record (R407). -/
def State.stopThread (s : State) (w : SlotIx) (entry : BitVec 8) : State :=
  let t := s.thread w
  let r : Completion := {
    kind := 4
    cause := (t.trapcause.extractLsb' 0 8).toNat
    entry := entry.toNat
    ip := t.trapip.setWidth 64
    va := t.trapva
    aux := t.trapaux }
  (s.faultRecord w r).modThread w fun t => { t with wait := .stopped entry }

/-- Take a trap in a thread (R356): the trap registers are written, the thread enters privileged mode and its
handler, and continues at TRAPVEC.VEC; or it stops, in the three cases of R359. -/
def State.takeTrap (s : State) (w : SlotIx) (async : Bool) (code : BitVec 8) (ip va aux : W64) : State :=
  let t := s.thread w
  if t.handler && !async then
    (s.modThread w fun t => t.trapRegs false true code ip va aux).stopThread w 0
  else
    let kept := s.modThread w fun t => t.trapRegs async t.priv code ip va aux
    if t.trapvec == 0 then kept.stopThread w 0
    else
      match s.enter (SlotIx.core w) (t.trapvec.setWidth 64) with
      | (s, .ok _) =>
        s.modThread w fun t => { (t.trapRegs async t.priv code ip va aux) with
          priv := true, handler := true, ip := t.trapvec.setWidth 64, wait := .run, pjent := 0, edgeDone := false,
          parks := false }
      | (_, .fault entry _) => kept.stopThread w entry
      | (_, .host ipa) => if t.wait == .declined ipa then kept.stopThread w 0x0A else s.hostWait w ipa

/-- Decide the refused entry that the latest delivered trap named (R367): TRAPAUX[63] discards it, otherwise it is
sent again with a fresh retry count. -/
def State.resolveNamed (s : State) (w : SlotIx) : State :=
  let t := s.thread w
  match t.named with
  | none => s
  | some a =>
    let drop := t.trapaux.getLsbD 63
    let s := s.modThread w fun t => { t with named := none }
    let s := match a.journal with
      | none => s
      | some e => s.modCore (SlotIx.core w) fun c =>
          { c with journal :=
              if drop then c.journal.filter fun j => j.entry != e
              else updateAll c.journal (fun j => j.entry == e) fun j => { j with state := .sent } }
    match a.retry with
    | none => s
    | some e => s.modCore (SlotIx.core w) fun c =>
        { c with retry :=
            if drop then c.retry.filter fun j => j.entry != e
            else updateAll c.retry (fun j => j.entry == e) fun j => { j with state := .sent, tries := 0 } }

/-- Return from a trap (R370), also the continuation of a RESUME (R409). -/
def State.returnTrap (s : State) (w : SlotIx) : State :=
  (s.resolveNamed w).modThread w fun t => { t with
    ip := t.trapip.setWidth 64, priv := t.trapcause.getLsbD 8, handler := false, wait := .run }

/-! ### Running an Op as the meaning of the current thread's instruction -/

def State.run (s : State) (body : Op Unit) : Out :=
  match body s with
  | .ok (_, t) => .next (t.modThread s.cur Thread.settled)
  | .error (.trap code va aux) => .next (s.unqueued.takeTrap s.cur false code s.me.ip va aux)
  | .error (.wait why) => .next (s.await why)
  | .error (.edge kind rs) =>
    .next ((s.startSkim (SlotIx.core s.cur) kind rs s.cur .again).modMe fun t => { t with wait := .skimmer })
  | .error (.host ipa code va aux) =>
    .next (if s.me.wait == .declined ipa then s.takeTrap s.cur false code s.me.ip va aux
      else s.unqueued.hostWait s.cur ipa)

/-- The IP moves past the instruction (R37). -/
def advance : Op Unit := fun s =>
  let n := s.after (SlotIx.core s.cur) s.me.ip
  .ok ((), s.modMe fun t => { t with ip := n })

/-- The instruction is a parking point: while it waits, the thread is parked (R26). -/
def parksHere : Op Unit := modify fun s => s.modMe fun t => { t with parks := true }

/-- The thread waits with its IP at the instruction, and will go on after it. -/
def parkAs (x : Wait) : Op Unit := fun s =>
  let n := s.after (SlotIx.core s.cur) s.me.ip
  .ok ((), s.modMe fun t => { t with wait := x, resume := n, parkedAt := s.myCore.cycle })

/-- The IP of the following instruction (R37). -/
def nextIp : Op W64 := fun s => .ok (s.after (SlotIx.core s.cur) s.me.ip, s)

/-- The parcels TRAPAUX reports for the instruction at the IP (R52). -/
def State.headParcels (s : State) : W64 :=
  let ps := s.parcelsAt (SlotIx.core s.cur) s.me.ip
  let i := headIx s.me.ip
  headAux (lineHead ps i) (lineTail ps i)

/-- PRIV in user mode (R50). -/
def privileged : Op Unit := fun s => if s.me.priv then .ok ((), s) else .error (.trap 0x04 0 s.headParcels)

/-- The checks of a transfer's target (R38, R39), reported at the transfer. -/
def checkTarget (target : W64) : Op Unit := fun s =>
  match s.enter (SlotIx.core s.cur) target with
  | (s, .ok _) => .ok ((), s)
  | (_, .fault code aux) => .error (.trap code target aux)
  | (_, .host ipa) => .error (.host ipa 0x0A target 0)

def jumpTo (target : W64) : Op Unit := modify fun s => s.modMe fun t => { t with ip := target }

/-- No message of the thread is under way (R165, R166; log 65). -/
def delivered : Op Unit := fun s => if s.sendOut s.cur then .error (.wait .retryBuffer) else .ok ((), s)

/-- Every earlier access of the thread is complete (R137). -/
def quiet : Op Unit := fun s => if s.me.outs.isEmpty then .ok ((), s) else .error (.wait .access)

/-- Whether a thread has a posted store that is not acknowledged (R151). -/
def State.posted (s : State) (w : SlotIx) : Bool := (s.core (SlotIx.core w)).journal.any fun j => j.w == w

/-- Whether a tile-queue entry belongs to a thread. -/
def TileOp.of (o : TileOp) (uid : Nat) : Bool := o.uid == uid && o.remote.isNone

/-- Whether a tile-queue entry of a thread has still to write: a tplane or tepi (R251). -/
def TileOp.stores (o : TileOp) (uid : Nat) : Bool :=
  o.of uid && match o.kind with
    | .tplane _ _ _ _ | .tepi _ _ _ _ _ _ _ => true
    | _ => false

/-- Whether a thread has stores of the matrix unit to be performed, or segments held (R269, R270). -/
def State.tileStores (s : State) (w : SlotIx) : Bool :=
  let uid := (s.thread w).uid
  let tile := (s.core (SlotIx.core w)).tile
  (match tile.running with
    | some x => x.op.stores uid
    | none => false) || tile.epi.any fun g => g.uid == uid

/-- Every earlier access is complete, stores of the matrix unit too, and every earlier posted store acknowledged (R162,
R269). -/
def synchronised : Op Unit := fun s =>
  if !s.me.outs.isEmpty || s.tileStores s.cur then .error (.wait .access)
  else if s.posted s.cur then .error (.wait .journal)
  else if s.sendOut s.cur then .error (.wait .retryBuffer)
  else .ok ((), s)

end Sys2Proof.Machine
end

