-- ==== Sys2Proof/Machine/Flags.lean ====
section
/-! DEFINITION. The sticky flags: VSTAT (R112, R113) and the element-wise flag computations of R72; the accumulator
saturation flag of TSTAT (R87, R260). -/

namespace Sys2Proof.Machine

/-- An instruction only sets flags of VSTAT (R112). -/
def Thread.raiseFlags (t : Thread) (fl : Flags) : Thread := { t with vstat := t.vstat ||| fl }

def setFlags (fl : Flags) : Op Unit := modify fun s => s.modMe fun t => t.raiseFlags fl

/-- The union of the flags of the lanes a mask selects: masked lanes contribute none (R72, R111). -/
def laneFlags (mask : W32) (fl : Vector Flags 32) : Flags :=
  (List.finRange 32).foldl (fun acc i => if mask.getLsbD i.val then acc ||| fl[i] else acc) 0

/-- ACCSAT is sticky (R87, R260). -/
def Tile.saturate (x : Tile) (sat : Bool) : Tile := { x with accsat := x.accsat || sat }

end Sys2Proof.Machine
end

