-- ==== Sys2Proof/Machine/Operands.lean ====
section
/-! DEFINITION. Operand forms: elements and lanes (R109), broadcast operands (R110), masked destinations (R111), and
the effective addresses of the memory classes (R143 to R145). -/

namespace Sys2Proof.Machine

/-- The elements of a lane, element 0 first (R47, R109). -/
def laneSplit (ty : ETy) (x : W32) : List Nat :=
  match ty.width with
  | 16 => [x.toNat % 2 ^ 16, x.toNat / 2 ^ 16]
  | 8 => [x.toNat % 256, x.toNat / 256 % 256, x.toNat / 65536 % 256, x.toNat / 16777216]
  | _ => [x.toNat]

/-- A lane from its elements, each taken at the element width. -/
def laneJoin (ty : ETy) (xs : List Nat) : W32 :=
  BitVec.ofNat 32 (xs.foldr (fun x acc => x % 2 ^ ty.width + 2 ^ ty.width * acc) 0)

/-- The elements of a register in element order (R109). -/
def vecElems (ty : ETy) (v : Vec) : List Nat := v.toList.flatMap (laneSplit ty)

/-- A register from its elements. -/
def ofElems (ty : ETy) (xs : List Nat) : Vec :=
  let n := 32 / ty.width
  Vector.ofFn fun i => laneJoin ty ((xs.drop (i.val * n)).take n)

/-- Every element takes the low bits of a g register, at the element width (R110). -/
def broadcast (ty : ETy) (x : W64) : Vec :=
  Vector.replicate 32 (laneJoin ty (List.replicate (32 / ty.width) x.toNat))

/-- Read an operand of class GV (R110). -/
def srcGV (x : GV) (ty : ETy) : Op Vec :=
  match x with
  | .g r => do
    let y ← srcG r
    return broadcast ty y
  | .v r => return (← get).me.v[r]

def srcV (r : VReg) : Op Vec := return (← get).me.v[r]
def srcK (r : KReg) : Op W32 := return (← get).me.kreg r

/-- The masked write of a v destination (R111). -/
def mergeV (mask : W32) (z : Bool) (old r : Vec) : Vec :=
  Vector.ofFn fun i => if mask.getLsbD i.val then r[i] else if z then 0 else old[i]

/-- The masked write of a k destination (R111). -/
def mergeK (mask : W32) (z : Bool) (old r : W32) : W32 := (r &&& mask) ||| (if z then 0 else old &&& ~~~mask)

/-- The register of whose lanes a masked write may keep some (R111). -/
def keptBy (m : Mask) (d : VReg) : List GV := if m.z || m.k.val == 0 then [] else [.v d]

def dstV (d : VReg) (m : Mask) (r : Vec) : Op Unit :=
  modify fun s => s.modMe fun t => t.setV d (mergeV (t.kreg m.k) m.z t.v[d] r)

def dstK (d : KReg) (m : Mask) (r : W32) : Op Unit :=
  modify fun s => s.modMe fun t => t.setK d (mergeK (t.kreg m.k) m.z (t.kreg d) r)

/-- One lane of an element-wise operation of up to three operands. -/
def laneOp (ty : ETy) (f : Nat → Nat → Nat → Nat × Flags) (a b c : W32) : W32 × Flags :=
  let rs := (laneSplit ty a).zip ((laneSplit ty b).zip (laneSplit ty c)) |>.map fun x => f x.1 x.2.1 x.2.2
  (laneJoin ty (rs.map Prod.fst), rs.foldl (fun acc r => acc ||| r.2) 0)

/-- An element-wise operation with the flags of its unmasked lanes (R117, R72). -/
def lanewise (ty : ETy) (mask : W32) (f : Nat → Nat → Nat → Nat × Flags) (x y z : Vec) : Vec × Flags :=
  let rs : Vector (W32 × Flags) 32 := Vector.ofFn fun i => laneOp ty f x[i] y[i] z[i]
  (rs.map Prod.fst, laneFlags mask (rs.map Prod.snd))

/-- ea = g[A] + g[B] + Sext(I16, 16) (R143). -/
def addr (a b : W64) (imm : BitVec 16) : W64 := a + b + imm.signExtend 64

/-- The lane addresses of vld and vst (R144). -/
def laneAddrs (base : W64) (imm : BitVec 16) (stride : W64) (off : Vec) : Vector W64 32 :=
  Vector.ofFn fun i => base + imm.signExtend 64 + BitVec.ofNat 64 i.val * stride + off[i].setWidth 64

end Sys2Proof.Machine
end

