-- ==== Sys2Proof/Machine/Access.lean ====
section
/-! DEFINITION. Accesses (R135 to R141, R150 to R153): windows, the fault checks in their order, region records (R201
to R203), what holds an access back, the L1 data cache (R140), and performing one lane. -/

namespace Sys2Proof.Machine

/-! ### Windows (R135) -/

inductive Window where
  | global
  | own (off : Nat)
  | remote (v off : Nat)
  | scratch (off : Nat)
  | none
deriving DecidableEq, Repr

def ownBase : Nat := 0xFF00000000000000
def remoteBase : Nat := 0xFF10000000000000
def scratchBase : Nat := 0xFF20000000000000
def localSize : Nat := 0x400000
def scratchSize : Nat := 0x40000
/-- First byte of the lending pool (R335). -/
def poolBase : Nat := 0x3FF000

def window (va : W64) : Window :=
  let n := va.toNat
  if n < 2 ^ 57 then .global
  else if ownBase ≤ n && n < ownBase + localSize then .own (n - ownBase)
  else if remoteBase ≤ n && n < scratchBase then .remote ((n - remoteBase) / localSize) ((n - remoteBase) % localSize)
  else if scratchBase ≤ n && n < scratchBase + scratchSize then .scratch (n - scratchBase)
  else .none

/-- The remote-window address of a byte of a cluster's local memory (R135, R218). -/
def remoteAddr (v off : Nat) : W64 := BitVec.ofNat 64 (remoteBase + v * localSize + off)

/-- One name for each local byte: the remote form of an own-local address, any other address as it stands. -/
def State.canonical (s : State) (cl : ClusterIx) (va : W64) : W64 :=
  match window va with
  | .own off => remoteAddr (s.vcluster cl) off
  | _ => va

/-- A bit of the permission table (R398); a cluster's own bit is always set. -/
def State.permitted (s : State) (cl : ClusterIx) (v : Nat) (target : ClusterIx) : Bool :=
  cl == target || (s.cluster cl).perm.getLsbD v

/-! ### Region records (R201 to R203, R206) -/

def regionMode (r : Region) : Nat := (r.extractLsb' 104 3).toNat
def regionExtent (r : Region) : Nat := (r.extractLsb' 64 40).toNat
def regionBase (r : Region) : Nat := (r.extractLsb' 0 64).toNat

def regionCovers (a : Nat) (r : Region) : Bool := regionBase r ≤ a && a < regionBase r + regionExtent r

/-- A record of these fields (R201). -/
def mkRegion (mode extent base : Nat) : Region := BitVec.ofNat 128 (mode <<< 104 + extent <<< 64 + base)

/-- Malformed records (R201). -/
def regionBad (r : Region) : Bool :=
  r.extractLsb' 107 21 != 0 || regionMode r > 5 || regionBase r + regionExtent r > 2 ^ 57

/-- The modes that permit an access (R202). -/
def modePermits (need : Need) (mode : Nat) : Bool :=
  if need.r && need.w then mode == 5 || mode == 2 || mode == 3 || mode == 4
  else if need.w then mode == 2 || mode == 3 || mode == 4
  else mode == 1 || mode == 2 || mode == 3 || mode == 4

def regionsPermit (rs : List Region) (need : Need) (a n : Nat) : Bool :=
  (List.range n).all fun i => rs.any fun r => regionCovers (a + i) r && modePermits need (regionMode r)

/-- Which bytes are of the Slice class (R203). -/
def sliceBytes (rs : List Region) (a n : Nat) : List Bool :=
  (List.range n).map fun i => rs.any fun r => regionCovers (a + i) r && (regionMode r == 4 || regionMode r == 5)

def regionWrites (r : Region) : Bool := regionMode r == 2 || regionMode r == 3
def regionReads (r : Region) : Bool := regionMode r == 1 || regionWrites r

def regionsOverlap (a b : Region) : Bool :=
  regionBase a < regionBase b + regionExtent b && regionBase b < regionBase a + regionExtent a &&
  regionExtent a != 0 && regionExtent b != 0

/-- Two records that make tasks conflict (R206). -/
def regionsConflict (a b : Region) : Bool :=
  regionsOverlap a b && ((regionWrites a && regionReads b) || (regionWrites b && regionReads a))

def recordsConflict (xs ys : List Region) : Bool := xs.any fun a => ys.any fun b => regionsConflict a b

/-! ### The checks of R141 -/

/-- What an access asks of its address. -/
structure AccSpec where
  size : Nat
  align : Nat
  need : Need
  fe : Bool := false
  atomic : Bool := false
  det : Bool := false
deriving DecidableEq, Repr

def loadSpec (n : Nat) : AccSpec := { size := n, align := n, need := needR }
def storeSpec (n : Nat) : AccSpec := { size := n, align := n, need := needW }
def feSpec (need : Need) : AccSpec := { size := 8, align := 8, need := need, fe := true }
def amoSpec (n : Nat) (det : Bool) : AccSpec := { size := n, align := n, need := needRW, atomic := true, det := det }

/-- TRAPAUX of PAGE_PERM: cause code and lane (R141). -/
def permAux (code lane : Nat) : W64 := BitVec.ofNat 64 (code + 256 * lane)

/-- The deterministic window (R187). -/
def Partition.inDet (p : Partition) (va : W64) : Bool := va.toNat / 2 ^ 34 == p.detm.toNat

/-- Steps 1 and 2 of R141: the place of a local or scratchpad address. -/
def State.localPlace (s : State) (w : SlotIx) (lane : Nat) (va : W64) : Except Stop (Option Place) :=
  let cl := SlotIx.cluster w
  match window va with
  | .none => .error (.trap 0x06 va (BitVec.ofNat 64 lane))
  | .global => .ok none
  | .own off => .ok (some (.own cl off))
  | .scratch off => .ok (some (.scratch (SlotIx.core w) off))
  | .remote v off =>
    match s.physical (s.partOf cl) v with
    | none => .error (.trap 0x06 va (BitVec.ofNat 64 lane))
    | some far =>
      if s.permitted cl v far then .ok (some (.remote far off)) else .error (.trap 0x07 va (permAux 0 lane))

def Place.inPool : Place → Bool
  | .own _ off | .remote _ off => poolBase ≤ off
  | _ => false

def Place.isLocal : Place → Bool
  | .own _ _ | .remote _ _ => true
  | _ => false

/-- Translation as step 5 reports it: page faults with the lane, the aperture with a code, 7 (R416) but for the atomics
(R178; log 60), a host-stage failure with PAGE_ABSENT to raise if the host declines (R382), and the log's stall (R414). -/
def State.step5 (s : State) (w : SlotIx) (need : Need) (lane : Nat) (va : W64) (aperture : Nat := 7) :
    Except Stop (Nat × State) :=
  match s.translate (SlotIx.core w) (s.partOf (SlotIx.cluster w)) va.toNat need with
  | (s, .ok pa) => if inAperture pa then .error (.trap 0x07 va (permAux aperture lane)) else .ok (pa, s)
  | (_, .absent) => .error (.trap 0x06 va (BitVec.ofNat 64 lane))
  | (_, .perm code) => .error (.trap 0x07 va (permAux code lane))
  | (_, .host ipa) => .error (.host ipa 0x06 va (BitVec.ofNat 64 lane))
  | (_, .logFull _) => .error (.wait .log)

/-- Steps 1 to 6 of R141 (and R178) for one address of the current thread. -/
def checkAddr (sp : AccSpec) (lane : Nat) (va : W64) : Op Lane := fun s =>
  let w := s.cur
  let aux := BitVec.ofNat 64 lane
  match s.localPlace w lane va with
  | .error e => .error e
  | .ok place =>
    if va.toNat % sp.align != 0 then .error (.trap 0x05 va aux)
    else
      match place with
      | some p =>
        if sp.atomic || (sp.fe && !p.isLocal) then .error (.trap 0x07 va (permAux 0 lane))
        else if p.inPool then .error (.trap 0x07 va (permAux 5 lane))
        else .ok (⟨lane, va, p, sp.size, [], 0⟩, s)
      | none =>
        if sp.fe then .error (.trap 0x07 va (permAux 0 lane))
        else if sp.det && !(s.part (s.partOf (SlotIx.cluster w))).inDet va then .error (.trap 0x07 va (permAux 1 lane))
        else
          match s.step5 w sp.need lane va (if sp.atomic then 0 else 7) with
          | .error e => .error e
          | .ok (pa, s) =>
            let rs := s.records s.me
            if regionsPermit rs sp.need va.toNat sp.size then
              .ok (⟨lane, va, .global pa, sp.size, sliceBytes rs va.toNat sp.size, 0⟩, s)
            else .error (.trap 0x08 va aux)

/-- Check lanes in ascending order; the lowest that faults reports (R141). -/
def checkLanes (sp : AccSpec) : List (Nat × W64) → Op (List Lane)
  | [] => return []
  | (i, va) :: rest => do
    let l ← checkAddr sp i va
    let ls ← checkLanes sp rest
    return l :: ls

/-! ### What holds an access back -/

/-- Whether two byte ranges meet. -/
def meets (a n b m : Nat) : Bool := a < b + m && b < a + n && n != 0 && m != 0

/-- Fields of CTL (R304). -/
def Transfer.mode (t : Transfer) : Nat := bits t.ctl 2 0
def Transfer.fill (t : Transfer) : Bool := t.ctl.getLsbD 3
def Transfer.core0 (t : Transfer) : Nat := bits t.ctl 18 16
def Transfer.cstride (t : Transfer) : Nat := bits t.ctl 21 19
def Transfer.ncore (t : Transfer) : Nat := bits t.ctl 25 22
def Transfer.block (t : Transfer) : Nat := t.marg.toNat % 2 ^ 32
def Transfer.total (t : Transfer) : Nat := t.rows * t.rowBytes

/-- The core that block b of a distribute transfer goes to (R306). -/
def Transfer.blockCore (t : Transfer) (b : Nat) : Nat := (t.core0 + (b % t.ncore) * t.cstride) % 8

/-- Destination byte ranges of a transfer as its issuing core's accesses see them (R150): addresses in canonical
form and lengths, and for the modes that write scratchpads only what falls in that core's own. -/
def Transfer.dstRanges (s : State) (t : Transfer) : List (Nat × Nat) :=
  let cl := SlotIx.cluster t.w
  let me := (CoreIx.num (SlotIx.core t.w)).val
  match t.mode with
  | 1 =>
    (List.range ((t.total + t.block - 1) / t.block)).filterMap fun b =>
      if t.blockCore b == me then
        some ((t.dst + BitVec.ofNat 64 (b / t.ncore * t.block)).toNat, min t.block (t.total - b * t.block))
      else none
  | 2 =>
    if t.core0 == me then (List.range t.rows).map fun r => ((t.dst + BitVec.ofNat 64 r * t.dstride).toNat, t.rowBytes) else []
  | _ => (List.range t.rows).map fun r => ((s.canonical cl (t.dst + BitVec.ofNat 64 r * t.dstride)).toNat, t.rowBytes)

/-- Source byte ranges that the entry records: those in scratchpad or local memory (R150). -/
def Transfer.srcRanges (s : State) (t : Transfer) : List (Nat × Nat) :=
  if inGlobal t.src then []
  else (List.range t.rows).map fun r => ((s.canonical (SlotIx.cluster t.w) (t.src + BitVec.ofNat 64 r * t.sstride)).toNat, t.rowBytes)

/-- Whether the range scoreboard holds an access (R150). -/
def State.scoreHolds (s : State) (c : CoreIx) (va : W64) (size : Nat) (store : Bool) : Bool :=
  let a := (s.canonical (CoreIx.cluster c) va).toNat
  (s.core c).score.toList.any fun e =>
    match e with
    | none => false
    | some t => t.state == .flight &&
        (((Transfer.dstRanges s t).any fun r => meets a size r.1 r.2) ||
          (store && (Transfer.srcRanges s t).any fun r => meets a size r.1 r.2))

/-- Whether a scratchpad range is locked against a slot (R372). -/
def Core.locksOut (c : Core) (w : SlotIx) (off size : Nat) : Bool :=
  match c.lock with
  | some l => l.holder != w && meets off size l.base (64 * l.units)
  | none => false

/-- Whether two lanes touch a common byte. -/
def Lane.overlaps (a b : Lane) : Bool :=
  match a.place, b.place with
  | .global x, .global y => meets x a.size y b.size
  | .own c x, .own d y | .own c x, .remote d y | .remote c x, .own d y | .remote c x, .remote d y =>
    c == d && meets x a.size y b.size
  | .scratch c x, .scratch d y => c == d && meets x a.size y b.size
  | _, _ => false

/-- Bytes of a plane group of a weight precision, and of its source (R252, R272). -/
def planeCount (wprec : Nat) : Nat := if wprec == 0 then 2 else wprec
def groupSize (wprec : Nat) : Nat := 64 + 1024 * planeCount wprec
def sourceSize (wprec : Nat) : Nat := if wprec ≤ 8 then 8192 else 16384

/-- Whether an earlier tplane or tepi of the thread has still to write some byte of a lane (R251). -/
def State.tileHolds (s : State) (w : SlotIx) (l : Lane) : Bool :=
  let uid := (s.thread w).uid
  let tile := (s.core (SlotIx.core w)).tile
  let hit (g : Segment) : Bool := g.uid == uid && g.lanes.any l.overlaps
  tile.epi.any hit || match tile.running with
    | none => false
    | some x => x.segs.any hit || (x.op.uid == uid && x.op.remote.isNone && match x.op.kind, l.place with
      | .tplane dst _ _ tfmt, .scratch _ off =>
        meets off l.size (dst.toNat - scratchBase) (groupSize (tfmt.toNat / 2))
      | _, _ => false)

/-- Whether a place that holds an uncorrectable error lies in the bytes of a lane. -/
def UePlace.hits (u : UePlace) (l : Lane) : Bool :=
  match u, l.place with
  | .global a, .global pa => pa ≤ a && a < pa + l.size
  | .local_ cl a, .own c off | .local_ cl a, .remote c off => cl == c && off ≤ a && a < off + l.size
  | .scratch c a, .scratch d off => c == d && off ≤ a && a < off + l.size
  | _, _ => false

/-- Whether the bytes of a lane hold an uncorrectable error (R141). -/
def State.bad (s : State) (l : Lane) : Bool := s.ue.any fun u => u.hits l

/-- Whether an access goes through the fabric: to the slices, or through the remote window. -/
def Lane.crosses (l : Lane) : Bool :=
  match l.place with
  | .global _ | .remote _ _ => true
  | .own _ _ | .scratch _ _ => false

/-- Whether the fabric's check of an access of a core fails, and fails again (R419). -/
def State.fabricFails (s : State) (w : SlotIx) (l : Lane) : Bool := l.crosses && s.ue.contains (.fabric (SlotIx.core w))

/-- Whether a read of a lane ends in DATA_UE: of the bytes (R141), or of their way (R419). -/
def State.fails (s : State) (w : SlotIx) (l : Lane) : Bool := s.bad l || s.fabricFails w l

/-- Whether a posted store of the current thread has still to write some byte of an own-local lane, which comes after it
in program order (R138, R166). -/
def State.behindPosted (s : State) (l : Lane) : Bool :=
  match l.place with
  | .own _ _ => s.myCore.journal.any fun j => j.uid == s.me.uid && j.state != .performed && j.lanes.any l.overlaps
  | _ => false

/-- Stall an access that the scoreboard, the scratchpad lock, the matrix unit or an earlier posted store holds (R150,
R372, R251, R138), and stop a store whose way through the fabric fails (R419). DESIGN CHOICE (log 61): an access
passes the checks 1 to 6 of R141 first, so one that faults traps and is not held. -/
def notHeld (l : Lane) (store : Bool) : Op Unit := fun s =>
  let c := SlotIx.core s.cur
  let locked := match l.place with
    | .scratch _ off => (s.core c).locksOut s.cur off l.size
    | _ => false
  if locked then .error (.wait .scratch)
  else if s.scoreHolds c l.va l.size store then .error (.wait .transfer)
  else if s.tileHolds s.cur l then .error (.wait .tile)
  else if s.behindPosted l then .error (.wait .journal)
  else if store && s.fabricFails s.cur l then .error (.trap 0x0C l.va (BitVec.ofNat 64 l.lane))
  else .ok ((), s)

def Lane.goesTo (l : Lane) (cl : ClusterIx) : Bool :=
  match l.place with
  | .remote c _ => c == cl
  | _ => false

/-- The segments of the matrix unit of a core that are to be performed (R269, R270). -/
def Tile.segments (t : Tile) : List Segment :=
  t.epi ++ match t.running with
    | some x => x.segs
    | none => []

/-- Whether a segment of a thread is a posted store to a cluster (R269). -/
def Segment.goesTo (g : Segment) (uid : Nat) (cl : ClusterIx) : Bool := g.uid == uid && g.lanes.any fun l => l.goesTo cl

/-- A remote load waits for the thread's posted stores to that cluster (R152), those of the matrix unit too (R269). -/
def remoteReady (l : Lane) : Op Unit := fun s =>
  match l.place with
  | .remote cl _ =>
    if s.myCore.journal.any (fun j => j.w == s.cur && j.cl == cl) ||
      s.myCore.tile.segments.any (fun g => g.goesTo s.me.uid cl) then .error (.wait .journal)
    else .ok ((), s)
  | _ => .ok ((), s)

/-! ### The L1 data cache (R140) -/

/-- Memory with a line's dirty bytes written. -/
def L1Line.writeTo (l : L1Line) (m : Memory) : Memory :=
  (l.bytes.zip (List.range 64)).foldl (fun m x => if l.dirty.getLsbD x.2 then m.set (64 * l.pa + x.2) x.1 else m) m

/-- Write back a line's dirty bytes; the line stays (R223). -/
def State.l1Clean (s : State) (c : CoreIx) (ln : Nat) : State :=
  match (s.core c).l1.find? fun l => l.pa == ln with
  | none => s
  | some l =>
    if l.dirty == 0 then s
    else { s with mem := l.writeTo s.mem }.modCore c fun x =>
      { x with l1 := updateAll x.l1 (fun l => l.pa == ln) fun l => { l with dirty := 0 } }

/-- Write back and drop a line. -/
def State.l1Drop (s : State) (c : CoreIx) (ln : Nat) : State :=
  (s.l1Clean c ln).modCore c fun x => { x with l1 := x.l1.filter fun l => l.pa != ln }

/-- Note a virtual address under which a line is reached. -/
def L1Line.reach (va : Nat) (l : L1Line) : L1Line :=
  { l with vas := if l.vas.contains (va / 64) then l.vas else l.vas ++ [va / 64] }

/-- Bring the line of an address in: a full set first gives up the way that Config chooses (log 6). -/
def State.l1Fill (s : State) (c : CoreIx) (ln va : Nat) : State :=
  if (s.core c).l1.any fun l => l.pa == ln then
    s.modCore c fun x => { x with l1 := updateAll x.l1 (fun l => l.pa == ln) (L1Line.reach va) }
  else
    let s := s.count c 4 1
    let ways := (s.core c).l1.filter fun l => l.pa % 128 == ln % 128
    let s := if ways.length < 8 then s else
      match ways[(Config.victimWay s.frees).val]? with
      | some v => (s.l1Drop c v.pa).useFree
      | none => s
    s.modCore c fun x => { x with l1 := x.l1 ++ [⟨ln, [va / 64], s.mem.read (64 * ln) 64, 0⟩] }

def State.l1Read (s : State) (c : CoreIx) (a : Nat) : Byte :=
  match (s.core c).l1.find? fun l => l.pa == a / 64 with
  | some l => l.bytes.getD (a % 64) 0
  | none => 0

def State.l1Write (s : State) (c : CoreIx) (a : Nat) (b : Byte) : State :=
  s.modCore c fun x => { x with l1 := updateAll x.l1 (fun l => l.pa == a / 64) fun l =>
    { l with bytes := l.bytes.set (a % 64) b, dirty := l.dirty ||| BitVec.ofNat 64 (2 ^ (a % 64)) } }

/-- Whether an atomic has reached a byte, so that it is of the Slice class for every access (R156; log 62). -/
def State.atSlice (s : State) (pa : Nat) : Bool := s.sliced.contains (pa / 4)

/-- Load consecutive global bytes, each by its class (R156, R203): the slice's, or through L1. A byte that is no part
of the access is passed over. -/
def State.loadGlobal (s : State) (c : CoreIx) (pa va : Nat) : List (Option Bool) → State × List Byte
  | [] => (s, [])
  | none :: rest =>
    let (s, bs) := s.loadGlobal c (pa + 1) (va + 1) rest
    (s, 0 :: bs)
  | some slice :: rest =>
    let slice := slice || s.atSlice pa
    let s := if slice then s else s.l1Fill c (pa / 64) va
    let b := if slice then s.mem.get pa else s.l1Read c pa
    let (s, bs) := s.loadGlobal c (pa + 1) (va + 1) rest
    (s, b :: bs)

/-- Store consecutive global bytes, each by its class (R156, R203, write-allocate). -/
def State.storeGlobal (s : State) (c : CoreIx) (pa va : Nat) : List (Option Bool × Byte) → State
  | [] => s
  | (none, _) :: rest => s.storeGlobal c (pa + 1) (va + 1) rest
  | (some slice, b) :: rest =>
    let s := if slice || s.atSlice pa then { s with mem := s.mem.set pa b } else (s.l1Fill c (pa / 64) va).l1Write c pa b
    s.storeGlobal c (pa + 1) (va + 1) rest

/-- Insert into a rising list of numbers. -/
def insertWord (n : Nat) : List Nat → List Nat
  | [] => [n]
  | x :: xs => if n < x then n :: x :: xs else if n == x then x :: xs else x :: insertWord n xs

/-- An atomic reaches a word of 4 bytes, or two: every L1 copy is written back and dropped, so that plain loads return
the atomic's result, and from then on the word has its single copy at the slice (R156; log 62). -/
def State.flushFor (s : State) (pa size : Nat) : State :=
  let s := (s.coresWith fun k => k.l1.any fun l => l.pa == pa / 64).foldl (fun s c => s.l1Drop c (pa / 64)) s
  { s with sliced := if size == 8 then insertWord (pa / 4) (insertWord (pa / 4 + 1) s.sliced) else insertWord (pa / 4) s.sliced }

/-! ### Performing a lane -/

/-- An access with bytes of the Slice and of the Cached class is two accesses (R139): lane n takes the Cached bytes,
lane 32 + n those at the slice. -/
def Lane.split (l : Lane) : List Lane :=
  if l.slice.any id && !l.slice.all id then [l, { l with lane := l.lane + 32 }] else [l]

/-- The class of each byte of a global lane; none for a byte that the other half of a split access takes (R139). -/
def Lane.parts (l : Lane) : List (Option Bool) :=
  if l.slice.any id && !l.slice.all id then
    l.slice.map fun b => if b == decide (32 ≤ l.lane) then some b else none
  else l.slice.map some

def State.loadLane (s : State) (w : SlotIx) (l : Lane) : State × W64 :=
  match l.place with
  | .global pa =>
    let (s, bs) := s.loadGlobal (SlotIx.core w) pa l.va.toNat l.parts
    (s, bytesWord bs)
  | .own cl off | .remote cl off => (s, bytesWord ((s.cluster cl).mem.read off l.size))
  | .scratch c off => (s, bytesWord ((s.core c).scratch.read off l.size))

def State.storeLane (s : State) (w : SlotIx) (l : Lane) : State :=
  let bs := wordBytes l.size l.data
  match l.place with
  | .global pa => s.storeGlobal (SlotIx.core w) pa l.va.toNat (l.parts.zip bs)
  | .own cl off | .remote cl off => s.modCluster cl fun x => { x with mem := x.mem.write off bs }
  | .scratch c off => s.modCore c fun x => { x with scratch := x.scratch.write off bs }

/-- Whether an earlier lane keeps a later one from being performed: they overlap, and are not the halves of one
access. -/
def Lane.before (x l : Lane) : Bool := x.lane % 32 < l.lane % 32 && x.overlaps l

/-- Accesses to overlapping bytes are performed in program order, and the lanes of one access in ascending order
where they overlap (R138, R144, R185): no earlier lane that overlaps is still to be performed. -/
def laneFree (outs : List Access) (i : Nat) (l : Lane) : Bool :=
  (outs.take i).all (fun a => a.todo.all fun x => !x.overlaps l) &&
  match outs[i]? with
  | some a => a.todo.all fun x => !x.before l
  | none => false

def Thread.modAccess (t : Thread) (i : Nat) (f : Access → Access) : Thread := { t with outs := updateAt t.outs i f }

/-- A lane has been performed with a value. -/
def Access.perform (a : Access) (lane : Nat) (x : W64) : Access :=
  { a with todo := a.todo.filter (fun l => l.lane != lane), got := a.got ++ [(lane, x)] }

def LdW.size : LdW → Nat
  | .n8 | .s8 => 1
  | .n16 | .s16 => 2
  | .n32 | .s32 => 4
  | .w64 => 8

/-- Extension of a loaded value (R143). -/
def LdW.extend (w : LdW) (x : W64) : W64 :=
  match w with
  | .n8 => (x.setWidth 8).setWidth 64
  | .n16 => (x.setWidth 16).setWidth 64
  | .n32 => (x.setWidth 32).setWidth 64
  | .s8 => (x.setWidth 8).signExtend 64
  | .s16 => (x.setWidth 16).signExtend 64
  | .s32 => (x.setWidth 32).signExtend 64
  | .w64 => x

/-- The old value of an atomic as a g register takes it (R182). -/
def amoResult (ty : AmoTy) (x : W64) : W64 :=
  match ty with
  | .i32 => (x.setWidth 32).signExtend 64
  | .f32 => (x.setWidth 32).setWidth 64
  | .i64 => x

/-- What an access returned in a lane, its halves together (R139); none for a masked lane. -/
def gotLane (got : List (Nat × W64)) (n : Nat) : Option W64 :=
  match got.filter fun x => x.1 % 32 == n with
  | [] => none
  | xs => some (xs.foldl (fun acc x => acc ||| x.2) 0)

/-- The lanes of a v register that an access returned; a masked lane is zeroed or kept (R111). -/
def mergeLanes (z : Bool) (old : Vec) (got : List (Nat × W64)) : Vec :=
  Vector.ofFn fun i =>
    match gotLane got i.val with
    | some x => x.setWidth 32
    | none => if z then 0 else old[i]

/-- Report an uncorrectable error of an rlx load to the management controller and mark its destination register
poisoned, with its lowest failing lane (R360); g0 holds no mark, since a write to it is discarded. -/
def State.poisonReg (s : State) (w : SlotIx) (r : Option GV) (bad : List (Nat × W64)) : State :=
  let s := { s with mgmt := { s.mgmt with ueReports := s.mgmt.ueReports + 1 } }
  match r, bad with
  | some r, x :: rest =>
    let low := rest.foldl (fun acc y => if y.1 % 32 < acc.1 % 32 then y else acc) x
    if r == .g 0 then s
    else s.modThread w fun t => { (t.cure r) with poison := (t.cure r).poison ++ [⟨unified r, low.2, low.1 % 32⟩] }
  | _, _ => s

/-- The completion of an access: its result is written and it leaves the thread's list (R137). -/
def State.finishAccess (s : State) (w : SlotIx) (i : Nat) : State :=
  let t := s.thread w
  match t.outs[i]? with
  | none => s
  | some a =>
    if !a.todo.isEmpty then s
    else
      let s := s.modThread w fun t => { t with outs := t.outs.eraseIdx i }
      let x := (gotLane a.got 0).getD 0
      match a.kind with
      | .store => s
      | .load d lw => if a.bad.isEmpty then s.deliver w d (LdW.extend lw x) else s.poisonReg w (match d with | .reg r => some (.g r) | _ => none) a.bad
      | .vload d z =>
        if a.bad.isEmpty then
          match d with
          | some d => s.modThread w fun t => t.setV d (mergeLanes z t.v[d] a.got)
          | none => s
        else s.poisonReg w (d.map GV.v) a.bad
      | .amo _ ty d _ | .amocas ty d _ => s.deliver w d (amoResult ty x)
      | .vamo _ _ d _ =>
        match d with
        | some d => s.modThread w fun t => t.setV d (mergeLanes false t.v[d] a.got)
        | none => s
      | .det _ d _ => (s.deliver w d 0).modThread w Thread.done
      | .vdet _ d _ => (s.modThread w fun t => t.setV d (mergeLanes false t.v[d] a.got)).modThread w Thread.done

/-- Record an access as outstanding; one with no lane is complete at once. -/
def addAccess (a : Access) : Op Unit := modify fun s =>
  let i := s.me.outs.length
  (s.modMe fun t => { t with outs := t.outs ++ [a] }).finishAccess s.cur i

/-- Whether the scratchpad lock of another thread stalls a lane that is to be performed (R372). -/
def State.lockedOut (s : State) (w : SlotIx) (l : Lane) : Bool :=
  match l.place with
  | .scratch c off => (s.core c).locksOut w off l.size
  | _ => false

/-- Whether a journal entry holds the remote lanes of the same vst as an access (R144). -/
def Access.entry (a : Access) (key : Nat) : Bool := a.kind == .store && a.keys.any fun k => k.2 == BitVec.ofNat 64 key

/-- Whether a lower lane of the same vst, in a journal entry, has still to write some byte of a lane (R144). -/
def State.laneBehind (s : State) (w : SlotIx) (i : Nat) (l : Lane) : Bool :=
  ((s.thread w).outs[i]?).any fun a =>
    (s.core (SlotIx.core w)).journal.any fun j => a.entry j.key && j.lanes.any fun x => x.before l

/-- Whether an outstanding lane is not to be performed yet: an earlier one of its bytes is to come first (R138, R144), a
lock stalls it (R372), or a message that its thread sent before it is under way (R165; log 65). -/
def State.heldBack (s : State) (w : SlotIx) (i : Nat) (l : Lane) : Bool :=
  let outs := (s.thread w).outs
  !laneFree outs i l || s.laneBehind w i l || s.lockedOut w l || (s.sendOut w && !(outs[i]?).any Access.rlx)

/-- Perform one lane of an outstanding load: an rlx load that meets an uncorrectable error poisons its
destination (R360). -/
def State.loadOne (s : State) (w : SlotIx) (i : Nat) (l : Lane) : State :=
  if s.heldBack w i l then s
  else
    let bad := s.fails w l
    let (s, x) := s.loadLane w l
    s.modThread w fun t => t.modAccess i fun a =>
      let a := a.perform l.lane x
      if bad && a.rlx then { a with bad := a.bad ++ [(l.lane, l.va)] } else a

def State.storeOne (s : State) (w : SlotIx) (i : Nat) (l : Lane) : State :=
  if s.heldBack w i l then s
  else (s.storeLane w l).modThread w fun t => t.modAccess i fun a => a.perform l.lane 0

/-- The lanes of an outstanding access that a mask selects, still to be performed. -/
def State.lanesOf (s : State) (w : SlotIx) (i : Nat) (mask : W64) : List Lane :=
  match (s.thread w).outs[i]? with
  | some a => a.todo.filter fun l => mask.getLsbD l.lane
  | none => []

end Sys2Proof.Machine
end

