-- ==== Sys2Proof/Machine/Memory.lean ====
section
/-! DEFINITION. Memory access class (R143 to R154): opcodes 0x80 to 0x8A, and the events that perform, complete,
acknowledge and refuse its accesses. The rlx forms share the Ops (R51, R138). -/

namespace Sys2Proof.Machine

/-- The IP moves past the instruction, and past the marked head too when the prefix is present (R51). -/
def advanceBy (rlx : Bool) : Op Unit := fun s =>
  let c := SlotIx.core s.cur
  let n := s.after c (if rlx then s.me.ip + 1 else s.me.ip)
  .ok ((), s.modMe fun t => { t with ip := n })

/-- Issue of a memory instruction (R137, R138): without rlx every earlier access is complete; with it, at most 8
rlx accesses are outstanding. -/
def memIssue (rlx : Bool) : Op Unit := fun s =>
  if rlx then (if (s.me.outs.filter Access.rlx).length ≥ 8 then .error (.wait .access) else .ok ((), s))
  else if s.me.outs.isEmpty then .ok ((), s)
  else .error (.wait .access)

/-- Issue of an access that is performed as it issues: every earlier one is complete (R137), and every message of the
thread delivered (R165; log 65). -/
def nowIssue : Op Unit := do
  memIssue false
  delivered

/-- Step 7 of R141, and the fabric's check (R419), for a load that is not marked: the lowest failing lane. -/
def noBad (ls : List Lane) : Op Unit := fun s =>
  match ls.find? (s.fails s.cur) with
  | some l => .error (.trap 0x0C l.va (BitVec.ofNat 64 l.lane))
  | none => .ok ((), s)

def notHeldAll (store : Bool) : List Lane → Op Unit
  | [] => pure ()
  | l :: ls => do
    notHeld l store
    notHeldAll store ls

def remoteReadyAll : List Lane → Op Unit
  | [] => pure ()
  | l :: ls => do
    remoteReady l
    remoteReadyAll ls

/-- ld, marked or not (R143). -/
def memLd (rlx : Bool) (d a b : GReg) (lw : LdW) (imm : BitVec 16) : Op Unit := do
  memIssue rlx
  ready [.g a, .g b] [.g d]
  let x ← srcG a
  let y ← srcG b
  let l ← checkAddr (loadSpec (LdW.size lw)) 0 (addr x y imm)
  notHeld l false
  remoteReady l
  if !rlx then noBad [l]
  let dst ← reserve d
  addAccess ⟨.load dst lw, rlx, l.split, [], [], []⟩
  advanceBy rlx

/-- The destination clusters that lanes of the remote window address, in lane order (R151). -/
def remoteClusters (ls : List Lane) : List ClusterIx :=
  ls.foldl (fun acc l => match l.place with
    | .remote cl _ => if acc.contains cl then acc else acc ++ [cl]
    | _ => acc) []

def Lane.posted (l : Lane) : Bool :=
  match l.place with
  | .remote _ _ => true
  | _ => false

/-- The free entries of a journal of 32 (R151). -/
def Core.freeEntries (c : Core) : List Nat := indices 32 fun n => c.journal.all fun j => j.entry != n

/-- Allocate one journal entry for each destination cluster, in one step (R151), and answer their keys; unless it is
marked, after every message of the thread is delivered (R165; log 65). DESIGN CHOICE (log 80): the address that
POSTED_REFUSED reports for an entry (R365) is that of its lowest lane. -/
def post (rlx : Bool) (kind : JKind) (ls : List Lane) : Op (List Nat) := fun s =>
  let cls := remoteClusters ls
  let free := s.myCore.freeEntries
  if !rlx && !cls.isEmpty && s.sendOut s.cur then .error (.wait .retryBuffer)
  else if free.length < cls.length then .error (.wait .journal)
  else
    let es := ((cls.zip free).zip (List.range cls.length)).map fun ((cl, n), i) =>
      let mine := ls.filter fun l => l.goesTo cl
      ({ entry := n
         key := s.uids + i
         w := s.cur
         uid := s.me.uid
         part := s.me.part
         cl := cl
         epoch := (s.cluster cl).epoch
         kind := kind
         lanes := mine
         va := ((mine.head?).map Lane.va).getD 0
         state := .sent } : JEntry)
    .ok (es.map JEntry.key, { s with uids := s.uids + cls.length }.modMyCore fun c => { c with journal := c.journal ++ es })

/-- Post the remote lanes of a store and leave the others outstanding (R137, R144, R151). -/
def storeLanes (rlx : Bool) (ls : List Lane) : Op Unit := do
  let keys ← post rlx .store (ls.filter Lane.posted)
  let near := (ls.filter fun l => !l.posted).flatMap Lane.split
  if !near.isEmpty then addAccess ⟨.store, rlx, near, [], keys.map fun k => (0, BitVec.ofNat 64 k), []⟩

/-- st, marked or not (R143). -/
def memSt (rlx : Bool) (d a b : GReg) (lw : LdW) (imm : BitVec 16) : Op Unit := do
  memIssue rlx
  ready [.g a, .g b, .g d] []
  let x ← srcG a
  let y ← srcG b
  let data ← srcG d
  let l ← checkAddr (storeSpec (LdW.size lw)) 0 (addr x y imm)
  notHeld l true
  storeLanes rlx [{ l with data := data }]
  advanceBy rlx

/-- The source registers of a vector address (R144). -/
def VAddr.sources : VAddr → List GV
  | .unit b => [.g b]
  | .str b c => [.g b, .g c]
  | .gat b => [.v b]

/-- The lane addresses of vld and vst (R144). -/
def vAddrs (a : GReg) (v : VAddr) (imm : BitVec 16) : Op (Vector W64 32) := do
  let x ← srcG a
  let none_ : Vec := Vector.replicate 32 0
  match v with
  | .unit b =>
    let y ← srcG b
    return laneAddrs (x + y) imm 4 none_
  | .str b c =>
    let y ← srcG b
    let z ← srcG c
    return laneAddrs (x + y) imm z none_
  | .gat b =>
    let y ← srcV b
    return laneAddrs x imm 0 y

/-- The unmasked lanes with their addresses, ascending. -/
def maskedAddrs (mask : W32) (as : Vector W64 32) : List (Nat × W64) :=
  (List.finRange 32).filterMap fun i => if mask.getLsbD i.val then some (i.val, as[i]) else none

/-- vld, marked or not (R144). -/
def memVld (rlx : Bool) (d : VReg) (a : GReg) (v : VAddr) (imm : BitVec 16) (m : Mask) : Op Unit := do
  memIssue rlx
  ready (.g a :: VAddr.sources v) [.v d] (keptBy m d)
  let as ← vAddrs a v imm
  let mask ← srcK m.k
  let ls ← checkLanes (loadSpec 4) (maskedAddrs mask as)
  notHeldAll false ls
  remoteReadyAll ls
  if !rlx then noBad ls
  addAccess ⟨.vload d m.z, rlx, ls.flatMap Lane.split, [], [], []⟩
  advanceBy rlx

/-- vst, marked or not (R144). -/
def memVst (rlx : Bool) (d : VReg) (a : GReg) (v : VAddr) (imm : BitVec 16) (k : KReg) : Op Unit := do
  memIssue rlx
  ready (.g a :: VAddr.sources v ++ [.v d]) []
  let as ← vAddrs a v imm
  let data ← srcV d
  let mask ← srcK k
  let ls ← checkLanes (storeSpec 4) (maskedAddrs mask as)
  notHeldAll true ls
  storeLanes rlx (ls.map fun l => { l with data := (laneOfVec data l.lane).setWidth 64 })
  advanceBy rlx
where
  /-- Lane n of a register. -/
  laneOfVec (v : Vec) (n : Nat) : W32 := v[n % 32]'(Nat.mod_lt _ (by decide))

/-- ld (R143). -/
def execLd (d a b : GReg) (w : LdW) (imm : BitVec 16) (s : State) : Out := s.run (memLd false d a b w imm)

/-- st (R143). -/
def execSt (d a b : GReg) (w : LdW) (imm : BitVec 16) (s : State) : Out := s.run (memSt false d a b w imm)

/-- vld (R144). -/
def execVld (d : VReg) (a : GReg) (addr : VAddr) (imm : BitVec 16) (m : Mask) (s : State) : Out :=
  s.run (memVld false d a addr imm m)

/-- vst (R144). -/
def execVst (d : VReg) (a : GReg) (addr : VAddr) (imm : BitVec 16) (k : KReg) (s : State) : Out :=
  s.run (memVst false d a addr imm k)

/-! ### Full/empty words (R145, R146) -/

/-- The cluster and word of a local place. -/
def Place.word : Place → Option (ClusterIx × Nat)
  | .own cl off | .remote cl off => some (cl, off / 8)
  | _ => none

def Cluster.isFull (c : Cluster) (word : Nat) : Bool := c.full.contains word


def Cluster.setFull (c : Cluster) (word : Nat) (full : Bool) : Cluster :=
  { c with full := if full then insertWord word c.full else c.full.filter fun x => x != word }

def Cluster.wordAt (c : Cluster) (word : Nat) : W64 := bytesWord (c.mem.read (8 * word) 8)

/-- Store a word and set it full. -/
def Cluster.fillWord (c : Cluster) (word : Nat) (x : W64) : Cluster :=
  ({ c with mem := c.mem.write (8 * word) (wordBytes 8 x) }).setFull word true

def FeKind.isLoad : FeKind → Bool
  | .keep _ | .take _ => true
  | .fill _ => false

/-- Whether a request can be served now: its bit stands right, and no earlier request of its kind waits (R146). -/
def Cluster.servesNow (c : Cluster) (r : FeWait) : Bool :=
  c.isFull r.word == r.kind.isLoad && !c.fe.any fun x => x.word == r.word && x.kind.isLoad == r.kind.isLoad

/-- Room in the bank's queue of 64 entries (R146). -/
def Cluster.hasRoom (c : Cluster) (word : Nat) : Bool :=
  (c.fe.filter fun x => x.word % 64 == word % 64).length < 64

/-- Change the journal entry with a key, in a core or in a saved context. -/
def Core.setKey (c : Core) (key : Nat) (st : SendState) : Core :=
  { c with journal := updateAll c.journal (fun j => j.key == key) fun j => { j with state := st } }

def State.setKey (s : State) (key : Nat) (st : SendState) : State :=
  { s with
    cores := mapVector s.cores fun c => c.setKey key st
    saved := s.saved.map fun k => { k with core := k.core.setKey key st } }

/-- The effect of a served request at its bank, and on who asked for it. -/
def State.feServe (s : State) (cl : ClusterIx) (r : FeWait) : State :=
  let x := (s.cluster cl).wordAt r.word
  match r.kind with
  | .keep d =>
    match r.who with
    | .thread w => s.deliver w d x
    | .journal _ => s
  | .take d =>
    let s := s.modCluster cl fun c => c.setFull r.word false
    match r.who with
    | .thread w => s.deliver w d x
    | .journal _ => s
  | .fill data =>
    let s := s.modCluster cl fun c => c.fillWord r.word data
    match r.who with
    | .thread _ => s
    | .journal key => s.setKey key .performed

/-- A request of the current thread at a bank: served, queued, or refused for want of room (R146). -/
def feRequest (va : W64) (cl : ClusterIx) (word : Nat) (kind : FeKind) : Op Unit := do
  let s ← get
  let r : FeWait := ⟨word, .thread s.cur, kind⟩
  if (s.cluster cl).servesNow r then
    set (s.feServe cl r)
    advance
  else if (s.cluster cl).hasRoom word then
    modify fun s => s.modCluster cl fun c => { c with fe := c.fe ++ [r] }
    parkAs (.bank cl va)
  else parkAs (.bankRefused cl va r)

/-- ldsync.keep and ldsync.take (R145): step 7 of R141 is tested when the word is served. -/
def execLdsync (take : Bool) (d a b : GReg) (imm : BitVec 16) (s : State) : Out := s.run do
  nowIssue
  ready [.g a, .g b] [.g d]
  let x ← srcG a
  let y ← srcG b
  let l ← checkAddr (feSpec needR) 0 (addr x y imm)
  notHeld l false
  remoteReady l
  match l.place.word with
  | none => advance
  | some (cl, word) =>
    let s ← get
    if s.fabricFails s.cur l || (s.cluster cl).servesNow ⟨word, .thread s.cur, .keep (.reg d)⟩ then noBad [l]
    let dst ← reserve d
    parksHere
    feRequest l.va cl word (if take then .take dst else .keep dst)

/-- stfill and stfill.wait (R145): posted through the remote window (R151). -/
def execStfill (wait : Bool) (d a b : GReg) (imm : BitVec 16) (s : State) : Out := s.run do
  nowIssue
  ready [.g a, .g b, .g d] []
  let x ← srcG a
  let y ← srcG b
  let data ← srcG d
  let l ← checkAddr (feSpec needW) 0 (addr x y imm)
  notHeld l true
  if l.posted then
    let _ ← post false (.fill wait) [{ l with data := data }]
    advance
  else
    match l.place.word with
    | none => advance
    | some (cl, word) =>
      if wait then feRequest l.va cl word (.fill data)
      else
        modify fun s => s.modCluster cl fun c => c.fillWord word data
        advance

/-- femark.empty and femark.full (R145). -/
def execFemark (full : Bool) (a b : GReg) (imm : BitVec 16) (s : State) : Out := s.run do
  nowIssue
  ready [.g a, .g b] []
  let x ← srcG a
  let y ← srcG b
  let l ← checkAddr (feSpec needW) 0 (addr x y imm)
  notHeld l true
  if l.posted then
    let _ ← post false (.mark full) [l]
    advance
  else
    match l.place.word with
    | none => advance
    | some (cl, word) =>
      modify fun s => s.modCluster cl fun c => c.setFull word full
      advance

/-- A plain load or store. -/
def AccKind.isPlain : AccKind → Bool
  | .load _ _ | .vload _ _ | .store => true
  | .amo _ _ _ _ | .amocas _ _ _ | .vamo _ _ _ _ | .det _ _ _ | .vdet _ _ _ => false

/-- The lines that outstanding loads and stores of a core's threads wait for: each is a miss (R147). -/
def State.missLines (s : State) (c : CoreIx) : List Nat :=
  ((slotsOf c).flatMap fun w => (s.thread w).outs.flatMap fun a =>
    if a.kind.isPlain then a.todo.filterMap fun l => match l.place with
      | .global pa => if l.slice.all id || (s.core c).l1.any (fun x => x.pa == pa / 64) then none else some (pa / 64)
      | _ => none
    else []).eraseDups

/-- pref (R147): a load miss's fill of the line when nothing forbids it, otherwise nothing. It never faults after decode,
so it waits for its sources but reads a poisoned one as it stands (R360; log 56). -/
def execPref (mc : Bool) (a b : GReg) (imm : BitVec 16) (s : State) : Out := s.run do
  ready ([GV.g a, GV.g b].filter s.me.maps) [] [.g a, .g b]
  let x ← srcG a
  let y ← srcG b
  let s ← get
  if !mc then
    match checkAddr (loadSpec 1) 0 (addr x y imm) s with
    | .ok (l, s') =>
      match l.place with
      | .global pa =>
        let c := SlotIx.core s.cur
        if l.slice == [false] && !s'.atSlice pa && !s'.fails s.cur l && (s'.missLines c).length < 32 then
          set (s'.l1Fill c (pa / 64) l.va.toNat)
      | _ => pure ()
    | .error _ => pure ()
  advance

def AccKind.reads : AccKind → Bool
  | .load _ _ | .vload _ _ | .amo _ _ _ _ | .amocas _ _ _ | .vamo _ _ _ _ => true
  | .store | .det _ _ _ | .vdet _ _ _ => false

def AccKind.stores : AccKind → Bool
  | .store | .amo _ _ _ _ | .amocas _ _ _ | .vamo _ _ _ _ => true
  | .load _ _ | .vload _ _ | .det _ _ _ | .vdet _ _ _ => false

/-- Whether stores of a tepi of a thread through the remote window are still to be performed (R269). -/
def State.tilePosted (s : State) (w : SlotIx) : Bool :=
  (s.core (SlotIx.core w)).tile.segments.any fun g => g.uid == (s.thread w).uid && g.lanes.any Lane.posted

/-- Whether a fence's condition holds for a thread (R148, R160, R269; messages: log 65). -/
def State.fenceDone (s : State) (w : SlotIx) (k : FenceKind) : Bool :=
  match k with
  | .all => (s.thread w).outs.isEmpty && !s.posted w && !s.tileStores w && !s.sendOut w
  | .ld => (s.thread w).outs.all fun a => !a.kind.reads
  | .st => ((s.thread w).outs.all fun a => !a.kind.stores) && !s.tileStores w
  | .posted => !s.posted w && !s.tilePosted w

/-- fence (R148). -/
def execFence (kind : FenceKind) (s : State) : Out := s.run do
  waitIf (!(← get).fenceDone s.cur kind) .fence
  advance

/-- Whether a slot is next in a wait list (R149): the list is empty or it stands first. -/
def nextIn (xs : List SlotIx) (w : SlotIx) : Bool :=
  match xs with
  | [] => true
  | x :: _ => x == w

/-- mbput (R149). -/
def execMbput (d : GReg) (n : Fin 4) (s : State) : Out := s.run do
  nowIssue
  let m := (← get).myCore.mailbox[n]
  waitIf (m.full || !nextIn m.puts s.cur) (.mbput n)
  ready [.g d] []
  let x ← srcG d
  modify fun s => s.modMyCore fun c => c.modBox n fun m =>
    { m with full := true, val := x, puts := m.puts.filter fun y => y != s.cur }
  advance

/-- mbget (R149). -/
def execMbget (d : GReg) (n : Fin 4) (s : State) : Out := s.run do
  nowIssue
  let m := (← get).myCore.mailbox[n]
  waitIf (!m.full || !nextIn m.gets s.cur) (.mbget n)
  ready [] [.g d]
  modify fun s => s.modMyCore fun c => c.modBox n fun m =>
    { m with full := false, gets := m.gets.filter fun y => y != s.cur }
  dstG d m.val
  advance

/-! ### Events -/

/-- Perform the lanes a mask selects of an outstanding load, and complete it when none remains (R137, R139). -/
def execLoadReturn (w : SlotIx) (i : Nat) (lanes : W64) (s : State) : Out :=
  match (s.thread w).outs[i]? with
  | some ⟨.load _ _, _, _, _, _, _⟩ | some ⟨.vload _ _, _, _, _, _, _⟩ =>
    .next (((s.lanesOf w i lanes).foldl (fun s l => s.loadOne w i l) s).finishAccess w i)
  | _ => .next s

/-- Perform the lanes a mask selects of an outstanding store, and complete it when none remains (R137, R139). -/
def execStoreComplete (w : SlotIx) (i : Nat) (lanes : W64) (s : State) : Out :=
  match (s.thread w).outs[i]? with
  | some ⟨.store, _, _, _, _, _⟩ =>
    .next (((s.lanesOf w i lanes).foldl (fun s l => s.storeOne w i l) s).finishAccess w i)
  | _ => .next s

def Core.journalEntry (c : Core) (e : Nat) : Option JEntry := c.journal.find? fun j => j.entry == e

def Core.setJournal (c : Core) (e : Nat) (st : SendState) : Core :=
  { c with journal := updateAll c.journal (fun j => j.entry == e) fun j => { j with state := st } }

/-- An entry goes out in order: no earlier entry of its thread for its cluster, and no earlier store of the matrix
unit, is still unperformed (R151, R153, R269). -/
def Core.mayPerform (c : Core) (e : Nat) : Bool :=
  match c.journalEntry e with
  | none => false
  | some j => j.state == .sent &&
      ((c.journal.takeWhile fun x => x.entry != e).all fun x => x.w != j.w || x.cl != j.cl || x.state == .performed) &&
      c.tile.segments.all fun g => g.key > j.key || !g.goesTo j.uid j.cl

/-- Why the far side refuses an entry, if it does (R153): 1 drained or reassigned, 2 permission withdrawn, 3 an
uncorrectable error at the bank. An issuing cluster that has left the partition is in no permission table. DESIGN
CHOICE (log 80): where several hold, the reason is the first in the order of R153. -/
def State.refusal (s : State) (j : JEntry) : Option Nat :=
  let near := SlotIx.cluster j.w
  if (s.cluster j.cl).epoch != j.epoch || (s.cluster j.cl).part != some j.part then some 1
  else if (s.cluster near).part != some j.part || !s.permitted j.cl (s.vcluster near) near then some 2
  else if j.lanes.any s.bad then some 3
  else none

/-- Pending events stand in the order they arose, those of one cycle in ascending cause code (R358). -/
def insertAsync (a : Async) : List Async → List Async
  | [] => [a]
  | x :: xs => if x.arose == a.arose && a.code.ult x.code then a :: x :: xs else x :: insertAsync a xs

/-- An asynchronous event becomes pending in a thread, wherever its context is (R358). -/
def State.pendAsync (s : State) (w : SlotIx) (uid : Nat) (a : Async) : State :=
  s.modOwner w uid fun t => { t with pend := insertAsync a t.pend }

/-- The journal entry that an event names: entry n of context i as 32 i + n (R154). -/
def State.journalAt (s : State) (c : CoreIx) (entry : Nat) : Option (Core × JEntry) :=
  (s.view c (entry / 32)).bind fun k => (k.journalEntry (entry % 32)).map fun j => (k, j)

def State.setEntry (s : State) (c : CoreIx) (entry : Nat) (st : SendState) : State :=
  s.modView c (entry / 32) fun k => k.setJournal (entry % 32) st

/-- Whether an entry carries a barrier arrival, whose refusals are those of R328. -/
def JEntry.arrives (j : JEntry) : Bool :=
  match j.kind with
  | .arrive _ _ _ => true
  | _ => false

/-- Whether what comes before a lane of an entry is performed: the thread's earlier relaxed accesses to its bytes (R138),
and of the same vst the lower lanes over them (R144). -/
def State.loadsDone (s : State) (j : JEntry) (l : Lane) : Bool :=
  (s.thread j.w).uid != j.uid ||
  (s.thread j.w).outs.all fun a => a.todo.all fun x => !x.overlaps l || (a.entry j.key && l.before x)

/-- The far bank performs one lane of a posted store: it leaves the entry, unless an access that comes before it is still
to be performed (R138, R144, R155). -/
def State.postLane (s : State) (c : CoreIx) (entry : Nat) (l : Lane) : State :=
  match s.journalAt c entry with
  | none => s
  | some (_, j) =>
    if (j.lanes.any fun x => x.before l) || !s.loadsDone j l then s
    else
      let rest (x : JEntry) : JEntry := { x with lanes := x.lanes.filter fun y => y.lane != l.lane }
      (s.storeLane j.w l).modView c (entry / 32) fun k =>
        { k with journal := updateAll k.journal (fun x => x.entry == entry % 32) rest }

/-- An entry of which no lane is left is performed (R151). -/
def State.postDone (s : State) (c : CoreIx) (entry : Nat) : State :=
  match s.journalAt c entry with
  | none => s
  | some (_, j) => if j.lanes.isEmpty then s.setEntry c entry .performed else s

/-- The far bank performs the lanes a mask selects of a posted store, or a posted stfill or femark (R151, R145, R155),
after the thread's earlier relaxed loads of its bytes (R138). -/
def execPostedStorePerform (c : CoreIx) (entry : Nat) (lanes : W32) (s : State) : Out :=
  match s.journalAt c entry with
  | none => .next s
  | some (k, j) =>
    if !k.mayPerform (entry % 32) || (s.refusal j).isSome || !(j.kind == .store || j.lanes.all (s.loadsDone j)) then .next s
    else
      match j.kind with
      | .store =>
        .next (((j.lanes.filter fun l => lanes.getLsbD l.lane).foldl (fun s l => s.postLane c entry l) s).postDone c entry)
      | .mark full =>
        .next ((j.lanes.foldl (fun s l => match l.place.word with
          | some (cl, word) => s.modCluster cl fun x => x.setFull word full
          | none => s) s).setEntry c entry .performed)
      | .fill wait =>
        match j.lanes.head?.bind fun l => l.place.word.map fun p => (p.1, p.2, l.data) with
        | none => .next s
        | some (cl, word, data) =>
          let r : FeWait := ⟨word, .journal j.key, .fill data⟩
          if !wait || (s.cluster cl).servesNow r then .next ((s.feServe cl { r with who := .thread j.w }).setEntry c entry .performed)
          else if (s.cluster cl).hasRoom word then
            .next ((s.modCluster cl fun x => { x with fe := x.fe ++ [r] }).setEntry c entry .queued)
          else .next s
      | .arrive _ _ _ => .next s

/-- The acknowledgement frees the entry (R151). -/
def execPostedStoreAck (c : CoreIx) (entry : Nat) (s : State) : Out :=
  .next (s.modView c (entry / 32) fun k =>
    { k with journal := k.journal.filter fun j => j.entry != entry % 32 || j.state != .performed })

/-- The far side refuses an entry (R153): POSTED_REFUSED becomes pending in its thread. -/
def execPostedRefused (c : CoreIx) (entry : Nat) (s : State) : Out :=
  match s.journalAt c entry with
  | none => .next s
  | some (k, j) =>
    match s.refusal j with
    | none => .next s
    | some reason =>
      if j.arrives || (!k.mayPerform (entry % 32) && j.state != .queued) then .next s
      else
        let s := s.modCluster j.cl fun x => { x with fe := x.fe.filter fun r => r.who != .journal j.key }
        let s := (s.setEntry c entry (.refused reason)).count c 13 1
        .next (s.pendAsync j.w j.uid ⟨0x28, s.now, j.va, BitVec.ofNat 64 (j.entry + 256 * reason), some j.entry, none⟩)

/-- The address of the full/empty word that a thread waits for. -/
def Thread.bankVa (t : Thread) : W64 :=
  match t.wait with
  | .bank _ va | .bankRefused _ va _ => va
  | _ => 0

/-- The reservation of a request of a thread. -/
def FeKind.dst : FeKind → Option Dst
  | .keep d | .take d => some d
  | .fill _ => none

/-- The word of a bank as an access of a thread through the window it used. -/
def feLane (cl : ClusterIx) (word : Nat) (va : W64) : Lane :=
  ⟨0, va, match window va with
    | .own _ => .own cl (8 * word)
    | _ => .remote cl (8 * word), 8, [], 0⟩

/-- A waiting thread is served (R146), and goes on after its instruction; an ldsync whose word has an uncorrectable
error raises DATA_UE, exactly, and leaves the word as it is (R141 step 7). -/
def State.serveThread (s : State) (w : SlotIx) (cl : ClusterIx) (r : FeWait) : State :=
  let t := s.thread w
  if r.kind.isLoad && s.fails w (feLane cl r.word t.bankVa) then (s.undo w r.kind.dst).takeTrap w false 0x0C t.ip t.bankVa 0
  else (s.feServe cl r).modThread w Thread.done

/-- The journal entry with a key, in a core or in a saved context. -/
def State.entryOf (s : State) (key : Nat) : Option JEntry :=
  (s.cores.toList ++ s.saved.map SavedCore.core).findSome? fun k => k.journal.find? fun j => j.key == key

/-- A bank serves the first waiter of a word that it can (R146); a posted one that is to be refused waits for that (R153). -/
def execFeWaiterService (cl : ClusterIx) (word : Nat) (s : State) : Out :=
  let c := s.cluster cl
  match c.fe.find? fun r => r.word == word && r.kind.isLoad == c.isFull word with
  | none => .next s
  | some r =>
    let t := s.modCluster cl fun x => { x with fe := x.fe.erase r }
    match r.who with
    | .thread w => .next (t.serveThread w cl r)
    | .journal key => if (s.entryOf key).any fun j => (s.refusal j).isSome then .next s else .next (t.feServe cl r)

/-- A request that its bank refused for want of room is sent again (R146). -/
def execBankQueueResend (w : SlotIx) (s : State) : Out :=
  match (s.thread w).wait with
  | .bankRefused cl va r =>
    if (s.cluster cl).servesNow r then .next (s.serveThread w cl r)
    else if (s.cluster cl).hasRoom r.word then
      .next ((s.modCluster cl fun c => { c with fe := c.fe ++ [r] }).modThread w fun t => { t with wait := .bank cl va })
    else .next s
  | _ => .next s

/-- An eviction writes a line's dirty bytes back and frees its way (R140). -/
def execL1Eviction (c : CoreIx) (line : Nat) (s : State) : Out := .next (s.l1Drop c line)

/-- A line enters an instruction cache (R41). -/
def execIcacheFill (c : CoreIx) (line : W64) (s : State) : Out :=
  if ((s.cluster (CoreIx.cluster c)).part).isNone || ((s.core c).icache.any fun l => l.va == lineBase line) then .next s
  else .next (s.fetchLine c (lineBase line)).1

/-- A fetch ahead of the IP (R366): a translation or permission fault or an uncorrectable error poisons the line and
reports nothing. -/
def execFetchAhead (c : CoreIx) (line : W64) (s : State) : Out :=
  let va := lineBase line
  if ((s.cluster (CoreIx.cluster c)).part).isNone || ((s.core c).icache.any fun l => l.va == va) then .next s
  else
    match s.readLine c (s.partOf (CoreIx.cluster c)) va with
    | (s, .line bs) =>
      .next (s.modCore c fun x => x.icachePut ⟨va, bs, if s.ue.contains (.icache c va) then some 0x0B else none⟩)
    | (s, .fault code) => .next (s.modCore c fun x => x.icachePut ⟨va, [], some code⟩)
    | (s, .host _) => .next s

/-- A walk finishes and caches its translation (R381), appending to the dirty log where R383 asks for it; with the
log full in the final round the partition's cores are to be pre-empted (R414). -/
def execPageWalkComplete (c : CoreIx) (va : W64) (write : Bool) (s : State) : Out :=
  let cl := CoreIx.cluster c
  if (s.cluster cl).part.isNone || !inGlobal va then .next s
  else
    let p := s.partOf cl
    match s.walkNow c p va.toNat (if write then needW else needR) with
    | (s, .logFull _) => .next (s.logStall p)
    | (s, _) => .next s

end Sys2Proof.Machine
end

