-- ==== Sys2Proof/Machine/Atomic.lean ====
section
/-! DEFINITION. Atomic class and the memory-side atomic units (R178 to R196): opcodes 0x90 to 0x93, the deterministic
mode, and the writes of DETM, DETSPILL and DETSPILLN. -/

namespace Sys2Proof.Machine

/-- The slice that serves a physical address (R11). -/
def sliceOf (pa : Nat) : Nat := ((pa >>> 8) ^^^ (pa >>> 14) ^^^ (pa >>> 20)) % 64

/-- The die that a slice lies on, and the HBM stack it fronts (R9). -/
def sliceDie (slice : Nat) : Nat := slice >>> 4
def sliceStack (slice : Nat) : Nat := slice >>> 3

def AmoTy.size : AmoTy → Nat
  | .i64 => 8
  | _ => 4

/-- RoundNE32(v × m) (R183). -/
def mulFloat (v m : Nat) : Nat :=
  (finish fmtF32 .rne false ((fmtF32.val v).mul (.fin false m 0))).1

/-- The operand after Adj (R183). -/
def adjust (op : AmoOp) (ty : AmoTy) (v : Nat) (m : Nat) : Nat :=
  match op with
  | .add => v * m % 2 ^ (8 * AmoTy.size ty)
  | .fadd => mulFloat v m
  | _ => v

/-- n of an atomic from the old value o and the operand v of a thread of multiplicity m (R180, R182, R183). -/
def amoValue (op : AmoOp) (ty : AmoTy) (o v m : Nat) : Nat :=
  let w := 8 * AmoTy.size ty
  let a := adjust op ty v m
  let sgn (x : Nat) : Int := if x ≥ 2 ^ (w - 1) then (x : Int) - 2 ^ w else x
  match op with
  | .add => (o + a) % 2 ^ w
  | .and => o &&& a
  | .or => o ||| a
  | .xor => if m % 2 == 0 then o else o ^^^ a
  | .mins => if sgn a < sgn o then a else o
  | .maxs => if sgn a > sgn o then a else o
  | .minn => min o a
  | .maxn => max o a
  | .swap => a
  | .fadd => (fAdd fmtF32 .rne o a).1
  | .fmin => (fMinMax fmtF32 false o a).1
  | .fmax => (fMinMax fmtF32 true o a).1

/-- Bits(x, w - 1, 0) of an operand (R182). -/
def lowOperand (ty : AmoTy) (x : W64) : W64 := if ty == .i64 then x else (x.setWidth 32).setWidth 64

/-! ### The deterministic mode -/

def Partition.used (p : Partition) : Nat := p.reserved + p.spills.length

/-- Whether a partition has an unapplied update or a spill reservation (R187). -/
def State.detBusy (s : State) (p : PartIx) : Bool := (s.part p).used != 0 || s.buffers.any fun b => b.part == p

/-- The sort key of an update (R190). -/
def detKey (team : W32) (tid seq : Nat) (op : AmoOp) : W64 :=
  BitVec.ofNat 64 ((team.toNat * 128 + tid) * 2 ^ 25 + seq * 2 + boolNat (op == .fadd))

def detCount (tm : Team) (tid : Nat) : Nat := ((tm.det.find? fun x => x.1 == tid).map Prod.snd).getD 0

def Team.setDet (tm : Team) (tid n : Nat) : Team :=
  { tm with det := (tm.det.filter fun x => x.1 != tid) ++ (if n == 0 then [] else [(tid, n)]) }

/-- The lowest indices of the spill area that hold no unapplied record (R191). -/
def Partition.freeIndex (p : Partition) : Nat :=
  ((List.range (p.spills.length + 1)).find? fun i => p.spills.all fun x => x.index != i).getD 0

/-- Virtual address of a spill record (R191). -/
def Partition.spillAddr (p : Partition) (i : Nat) : Nat := p.detspill.toNat * 64 + 16 * i

/-- CAP as a reservation in a cycle meets it: a write of CAP in the same cycle comes after the reservation (R196). -/
def Partition.capAt (p : Partition) (now : Nat) : W32 :=
  match p.capWas with
  | some (t, old) => if t == now then old else p.cap
  | none => p.cap

/-- Reserve records for n updates to addresses, or raise DET_SPILL_FULL (R191, R192): the sequence counter first,
then the capacity. A write of CAP in the same cycle is ignored then (R196). DESIGN CHOICE (log 67): a thread whose
team has no record, as a loaded block's may, finds no capacity. -/
def detReserve (va : W64) (n : Nat) (op : AmoOp) : Op (List W64) := fun s =>
  let t := s.me
  let p := s.partOf (SlotIx.cluster s.cur)
  let tid := t.tid.toNat
  let cap := (s.part p).capAt s.now
  match s.teamOf t with
  | none => .error (.trap 0x30 va 1)
  | some tm =>
    let seq := detCount tm tid
    if seq + n > 2 ^ 24 - 1 then .error (.trap 0x30 va 2)
    else if (s.part p).used + n > cap.toNat then .error (.trap 0x30 va 1)
    else
      let s := if n == 0 then s else s.modPart p fun x => { x with reserved := x.reserved + n, cap := cap }
      let s := s.modTeamOf t fun tm => tm.setDet tid (seq + n)
      .ok ((List.range n).map fun i => detKey t.team tid (seq + i) op, s)

/-! ### Instructions -/

/-- Send det updates: the thread goes on when a slice has accepted the last of them (R179, R192). -/
def sendDet (kind : AccKind) (op : AmoOp) (va : W64) (ls : List Lane) : Op Unit := do
  let keys ← detReserve va ls.length op
  parkAs (.det none none)
  addAccess ⟨kind, false, ls, [], (ls.map Lane.lane).zip keys, []⟩

/-- amo, marked or not (R182). -/
def memAmo (rlx : Bool) (op : AmoOp) (ty : AmoTy) (det : Bool) (d a b c : GReg) : Op Unit := do
  memIssue rlx
  ready [.g a, .g b, .g c] [.g d]
  let x ← srcG a
  let y ← srcG b
  let z ← srcG c
  let l ← checkAddr (amoSpec (AmoTy.size ty) det) 0 (x + y)
  notHeld l true
  if !det then noBad [l]
  let l := { l with data := lowOperand ty z }
  let mul := (← get).me.mul.toNat
  let dst ← reserve d
  if det then sendDet (.det op dst mul) op l.va [l]
  else
    addAccess ⟨.amo op ty dst mul, rlx, [l], [], [], []⟩
    advanceBy rlx

/-- amocas, marked or not (R184). -/
def memAmocas (rlx : Bool) (ty : AmoTy) (d a b c : GReg) : Op Unit := do
  memIssue rlx
  ready [.g a, .g b, .g c, .g d] [.g d]
  let x ← srcG a
  let y ← srcG b
  let z ← srcG c
  let new ← srcG d
  let l ← checkAddr (amoSpec (AmoTy.size ty) false) 0 (x + y)
  notHeld l true
  noBad [l]
  let dst ← reserve d
  addAccess ⟨.amocas ty dst (lowOperand ty new), rlx, [{ l with data := lowOperand ty z }], [], [], []⟩
  advanceBy rlx

/-- vamo, marked or not (R185): the index in vB counts elements. DESIGN CHOICE (log 66): TRAPVA of its DET_SPILL_FULL is
the address of the lowest unmasked lane. -/
def memVamo (rlx : Bool) (op : AmoOp) (ty : AmoTy) (det : Bool) (d : VReg) (a : GReg) (b c : VReg) (imm : BitVec 16)
    (k : KReg) : Op Unit := do
  memIssue rlx
  ready [.g a, .v b, .v c] [.v d] (if k.val == 0 then [] else [.v d])
  let x ← srcG a
  let idx ← srcV b
  let data ← srcV c
  let mask ← srcK k
  let as : Vector W64 32 := Vector.ofFn fun i => x + (idx[i].setWidth 64) * 4 + imm.signExtend 64
  let ls ← checkLanes (amoSpec 4 det) (maskedAddrs mask as)
  notHeldAll true ls
  if !det then noBad ls
  let ls := ls.map fun l => { l with data := (memVst.laneOfVec data l.lane).setWidth 64 }
  let mul := (← get).me.mul.toNat
  if det then sendDet (.vdet op d mul) op (((ls.head?).map Lane.va).getD 0) ls
  else
    addAccess ⟨.vamo op ty d mul, rlx, ls, [], [], []⟩
    advanceBy rlx

/-- amo (R182). -/
def execAmo (op : AmoOp) (ty : AmoTy) (det : Bool) (d a b c : GReg) (s : State) : Out :=
  s.run (memAmo false op ty det d a b c)

/-- amocas (R184). -/
def execAmocas (ty : AmoTy) (d a b c : GReg) (s : State) : Out := s.run (memAmocas false ty d a b c)

/-- vamo (R185). -/
def execVamo (op : AmoOp) (ty : AmoTy) (det : Bool) (d : VReg) (a : GReg) (b c : VReg) (imm : BitVec 16) (k : KReg)
    (s : State) : Out := s.run (memVamo false op ty det d a b c imm k)

/-- The drains of a partition stand in their total order, those of one cycle with the lower slot first (R194). -/
def insertDrain (d : Drain) : List Drain → List Drain
  | [] => [d]
  | x :: xs => if x.entered == d.entered && d.w.val < x.w.val then d :: x :: xs else x :: insertDrain d xs

/-- amodrain (R193): a marker is on its way to every slice, once every posted store of the thread is acknowledged too
(R159). -/
def execAmodrain (d : GReg) (s : State) : Out := s.run do
  synchronised
  ready [] [.g d]
  let dst ← reserve d
  parkAs (.drain dst 0 false)
  modify fun s => s.modPart (s.partOf (SlotIx.cluster s.cur)) fun p =>
    { p with drains := insertDrain ⟨s.cur, s.me.uid, s.now, BitVec.allOnes 64⟩ p.drains }

/-! ### Events -/

/-- The word of an atomic before and after it (R182, R184); none for a failed compare. -/
def AccKind.atomicStep (k : AccKind) (o v : Nat) : Option Nat :=
  match k with
  | .amo op ty _ m | .vamo op ty _ m => some (amoValue op ty o v m)
  | .amocas _ _ new => if o == v then some new.toNat else none
  | _ => none

def AccKind.isAtomic : AccKind → Bool
  | .amo _ _ _ _ | .amocas _ _ _ | .vamo _ _ _ _ => true
  | _ => false

/-- The slice performs one atomic as one step, after the L1 copies of its word were given up (R156, R179). An uncorrectable
error of the word was met at issue (R178; log 86). -/
def execAtomicPerform (w : SlotIx) (i lane : Nat) (s : State) : Out :=
  let t := s.thread w
  match t.outs[i]?, (s.lanesOf w i (BitVec.ofNat 64 (2 ^ lane))).head? with
  | some a, some l =>
    match l.place with
    | .global pa =>
      if !a.kind.isAtomic || s.heldBack w i l then .next s
      else
        let s := s.flushFor pa l.size
        let o := s.mem.word pa l.size
        let s := match a.kind.atomicStep o l.data.toNat with
          | some n => { s with mem := s.mem.write pa (natBytes l.size n) }
          | none => s
        .next ((s.modThread w fun t => t.modAccess i fun a => a.perform lane (BitVec.ofNat 64 o)).finishAccess w i)
    | _ => .next s
  | _, _ => .next s

def AccKind.detParts : AccKind → Option (AmoOp × Nat)
  | .det op _ m | .vdet op _ m => some (op, m)
  | _ => none

/-- A lane of a det access has been accepted. -/
def State.accepted (s : State) (w : SlotIx) (i lane : Nat) (p : PartIx) : State :=
  let s := s.modPart p fun x => { x with reserved := x.reserved - 1 }
  (s.modThread w fun t => t.modAccess i fun a => a.perform lane 0).finishAccess w i

/-- The updates with some keys leave the units of a partition; a buffer that holds none is free. -/
def State.dropKeys (s : State) (p : PartIx) (keys : List W64) : State :=
  let kept := s.buffers.map fun b =>
    if b.part == p then { b with entries := b.entries.filter fun e => !keys.contains e.1 } else b
  { s with buffers := kept.filter fun b => !b.entries.isEmpty }.modPart p fun x =>
    { x with spills := x.spills.filter fun y => !keys.contains y.key }

/-- The SEQ of a sort key (R190). -/
def keySeq (key : W64) : Nat := bits key 24 1

/-- The issuer of a sort key (R190). -/
def keyIssuer (key : W64) : Nat := key.toNat / 2 ^ 25

/-- The issuers of updates of a partition that are not applied. -/
def State.issuers (s : State) (p : PartIx) : List Nat :=
  let held := (s.buffers.filter fun b => b.part == p).flatMap (fun b => b.entries.map fun e => keyIssuer e.1) ++
    (s.part p).spills.map fun x => keyIssuer x.key
  if (s.part p).reserved == 0 then held
  else held ++ s.threads.toList.flatMap fun t => if t.part != p then [] else t.outs.flatMap fun a =>
    if a.kind.detParts.isNone then []
    else a.keys.filterMap fun k => if a.todo.any fun l => l.lane == k.1 then some (keyIssuer k.2) else none

/-- A counter returns to 0 when no update with its issuer remains unapplied (R190), at the home of every team of the
partition, wherever that cluster now belongs. -/
def State.resetCounters (s : State) (p : PartIx) : State :=
  let live := s.issuers p
  { s with clusters := mapVector s.clusters fun c => { c with teams := c.teams.map fun tm =>
    if tm.part == p then { tm with det := tm.det.filter fun x => live.contains (tm.team.toNat * 128 + x.1) } else tm } }

/-- The sequence counter once the updates with some keys are withdrawn: it goes back to the first of them, unless
another thread of the team index has taken later ones (R190, R209). -/
def seqBack (keys : List W64) (n : Nat) : Nat :=
  match keys.head?, keys.getLast? with
  | some a, some b => if n == keySeq b + 1 then keySeq a else n
  | _, _ => n

/-- A det access is withdrawn before its acceptance (R192), with every lane of it: nothing of it remains sent or reserved. -/
def State.detRetract (s : State) (w : SlotIx) (i : Nat) : State :=
  let t := s.thread w
  let p := s.partOf (SlotIx.cluster w)
  match t.outs[i]? with
  | none => s
  | some a =>
    let keys := a.keys.map Prod.snd
    let s := (s.dropKeys p keys).modPart p fun x => { x with reserved := x.reserved - a.todo.length }
    let s := s.modTeamOf t fun tm => tm.setDet t.tid.toNat (seqBack keys (detCount tm t.tid.toNat))
    (s.modThread w fun t => { t with outs := t.outs.eraseIdx i, wait := .run }).resetCounters p

/-- The g destination that a det access reserved. -/
def AccKind.detDst : AccKind → Option Dst
  | .det _ d _ => some d
  | _ => none

/-- An update whose spill write fails is withdrawn with DET_SPILL_FULL (R192). -/
def State.detWithdraw (s : State) (w : SlotIx) (i : Nat) (va : W64) : State :=
  let t := s.thread w
  ((s.detRetract w i).undo w ((t.outs[i]?).bind fun a => a.kind.detDst)).takeTrap w false 0x30 t.ip va 3

/-- The slice accepts a det update into the word's buffer, a free buffer, or the spill area (R191), after the L1 copies
of its word were given up (R156). -/
def execDetUpdateAccept (w : SlotIx) (i lane : Nat) (s : State) : Out :=
  let t := s.thread w
  match t.outs[i]?, (s.lanesOf w i (BitVec.ofNat 64 (2 ^ lane))).head? with
  | some a, some l =>
    match l.place, a.kind.detParts with
    | .global pa, some (op, m) =>
      if s.heldBack w i l then .next s
      else
        let s := s.flushFor pa l.size
        let p := s.partOf (SlotIx.cluster w)
        let key := ((a.keys.find? fun k => k.1 == lane).map Prod.snd).getD 0
        let value := BitVec.ofNat 32 (adjust op .i32 l.data.toNat m)
        let sl := sliceOf pa
        let entry := (key, value)
        match s.buffers.find? fun b => b.part == p && b.pa == pa with
        | some b =>
          if b.entries.length < 16 then
            .next ({ s with buffers := updateAll s.buffers (fun b => b.part == p && b.pa == pa) fun b =>
              { b with entries := b.entries ++ [entry] } }.accepted w i lane p)
          else spill s p pa sl key value l.va
        | none =>
          if (s.buffers.filter fun b => b.slice == sl).length < 64 then
            .next ({ s with buffers := s.buffers ++ [({ part := p, slice := sl, pa := pa, entries := [entry] } : Buffer)] }.accepted w i lane p)
          else spill s p pa sl key value l.va
    | _, _ => .next s
  | _, _ => .next s
where
  /-- Write a spill record at the lowest free index (R191); a host-stage failure asks the host first (R382). -/
  spill (s : State) (p : PartIx) (pa sl : Nat) (key : W64) (value : W32) (lva : W64) : Out :=
    let ix := (s.part p).freeIndex
    let va := BitVec.ofNat 64 ((s.part p).spillAddr ix)
    match if inGlobal va then s.step5 w needW 0 va else .error (.trap 0x06 va 0) with
    | .ok (spa, s) =>
      let word := (lva.toNat % 2 ^ 34) / 4
      let s := { s with mem := s.mem.write spa (wordBytes 8 key ++ natBytes 4 value.toNat ++ natBytes 4 word) }
      let s := s.modPart p fun x => { x with spills := x.spills ++ [⟨ix, sl, pa, key, value⟩] }
      .next (s.accepted w i lane p)
    | .error (.trap _ _ _) => .next (s.detWithdraw w i lva)
    | .error (.host ipa _ _ _) =>
      match (s.thread w).wait with
      | .det asked declined =>
        if declined == some ipa then .next (s.detWithdraw w i lva)
        else if asked == some ipa then .next s
        else .next ((s.hostWait w ipa).modThread w fun t => { t with wait := .det (some ipa) declined })
      | _ => .next s
    | .error (.wait .log) => .next (s.logStall p)
    | .error _ => .next s

/-- Insert into a list of updates in ascending key. -/
def insertKey (e : W64 × W32) : List (W64 × W32) → List (W64 × W32)
  | [] => [e]
  | x :: xs => if e.1.ult x.1 then e :: x :: xs else x :: insertKey e xs

def sortKeys (xs : List (W64 × W32)) : List (W64 × W32) := xs.foldr insertKey []

/-- Apply one update to a word's bits (R193). -/
def applyUpdate (x : Nat) (e : W64 × W32) : Nat :=
  if e.1.getLsbD 0 then (fAdd fmtF32 .rne x e.2.toNat).1 else (x + e.2.toNat) % 2 ^ 32

/-- The words of a slice for which a partition holds updates. -/
def State.detWords (s : State) (p : PartIx) (sl : Nat) : List Nat :=
  let xs := (s.buffers.filter fun b => b.part == p && b.slice == sl).map Buffer.pa ++
    ((s.part p).spills.filter fun x => x.slice == sl).map Spill.pa
  xs.foldl (fun acc x => if acc.contains x then acc else acc ++ [x]) []

/-- Whether an uncorrectable error lies in a global word. -/
def State.badWord (s : State) (pa : Nat) : Bool := s.bad ⟨0, 0, .global pa, 4, [], 0⟩

/-- The keys of det accesses of which some lane is not accepted: such an access may still be withdrawn as a whole (R192),
so a drain takes none of its lanes (log 13). -/
def State.openKeys (s : State) (p : PartIx) : List W64 :=
  if (s.part p).reserved == 0 then []
  else s.threads.toList.flatMap fun t => if t.part != p then [] else
    (t.outs.filter fun a => a.kind.detParts.isSome).flatMap fun a => a.keys.map Prod.snd

/-- Drain one word (R193): its updates in ascending key, but those of an access that is not accepted; a word whose read
fails is withheld and reported. DESIGN CHOICE (log 84): a spill record counts as it was accepted, whatever software
has stored over the bytes of the spill area since. -/
def State.drainWord (s : State) (p : PartIx) (held : List W64) (pa : Nat) : State × Nat × Bool :=
  if s.badWord pa then ({ s with mgmt := { s.mgmt with ueReports := s.mgmt.ueReports + 1 } }, 0, true)
  else
    let taken := ((s.buffers.filter fun b => b.part == p && b.pa == pa).flatMap Buffer.entries ++
      ((s.part p).spills.filter fun x => x.pa == pa).map fun x => (x.key, x.value)).filter fun e => !held.contains e.1
    let n := (sortKeys taken).foldl applyUpdate (s.mem.word pa 4)
    let s := { s with mem := s.mem.write pa (natBytes 4 n) }
    (s.dropKeys p (taken.map Prod.fst), taken.length, false)

/-- A drain marker reaches a slice (R193, R194): the slice applies for the earliest drain still to reach it; the
drain completes when every slice has finished. -/
def execDrainMarker (p : PartIx) (slice : Fin 64) (s : State) : Out :=
  match (s.part p).drains.find? fun d => d.pending.getLsbD slice.val with
  | none => .next s
  | some d =>
    let held := s.openKeys p
    let (s, n, bad) := (s.detWords p slice.val).foldl (fun (acc : State × Nat × Bool) pa =>
      let (s, k, b) := acc.1.drainWord p held pa
      (s, acc.2.1 + k, acc.2.2 || b)) (s, 0, false)
    let s := s.resetCounters p
    let left := d.pending &&& ~~~(BitVec.ofNat 64 (2 ^ slice.val))
    let s := s.modPart p fun x => { x with
      drains := (updateAll x.drains (fun y => y == d) fun y => { y with pending := left }).filter fun y => y.pending != 0 }
    match (s.thread d.w).wait with
    | .drain dst k b =>
      if (s.thread d.w).uid != d.uid then .next s
      else if left == 0 then
        .next ((s.deliver d.w dst (BitVec.ofNat 64 (k + n) ||| (if b || bad then atBit 63 1 else 0))).modThread d.w Thread.done)
      else .next (s.modThread d.w fun t => { t with wait := .drain dst (k + n) (b || bad) })
    | _ => .next s

/-- A write of DETM (R187). -/
def State.setDetm (s : State) (p : PartIx) (x : W64) : State :=
  if s.detBusy p then s else s.modPart p fun y => { y with detm := x.extractLsb' 34 23 }

/-- A write of DETSPILL (R188, R189). -/
def State.setDetspill (s : State) (p : PartIx) (x : W64) : State :=
  if (s.part p).used != 0 then s else s.modPart p fun y => { y with detspill := x.extractLsb' 6 51 }

/-- A write of DETSPILLN (R189). -/
def State.setDetspilln (s : State) (p : PartIx) (x : W64) : State :=
  if (s.part p).used != 0 then s
  else s.modPart p fun y => { y with cap := x.setWidth 32, capWas := some (s.now, y.capAt s.now) }

/-- A write of DETM (R187). -/
def execDetmWrite (p : PartIx) (value : W64) (s : State) : Out := .next (s.setDetm p value)

/-- A write of DETSPILL (R188, R189). -/
def execDetspillWrite (p : PartIx) (value : W64) (s : State) : Out := .next (s.setDetspill p value)

/-- A write of DETSPILLN (R189). -/
def execDetspillnWrite (p : PartIx) (value : W64) (s : State) : Out := .next (s.setDetspilln p value)

end Sys2Proof.Machine
end

