-- ==== Sys2Proof/Machine/Skimmer.lean ====
section
/-! DEFINITION. Tasks, their order and the skimmer (R200 to R227): write-backs and invalidations at the edges, tasks
held and released, threads that arrive at a core or leave their task, and the end of a team. -/

namespace Sys2Proof.Machine

/-! ### What a skimmer action does to one L1 (R223 to R225) -/

/-- Records that cover some byte. -/
def liveRegions (rs : List Region) : List Region := rs.filter fun r => regionExtent r != 0 && regionMode r != 0

/-- The records whose dirty bytes a leave writes back (R223). -/
def writeRegions (rs : List Region) : List Region := (liveRegions rs).filter regionWrites

/-- The records of the other tasks of a thread's team, whose bytes the thread may have written before it spawned. -/
def State.teamRecords (s : State) (t : Thread) : List Region :=
  match s.teamOf t with
  | none => []
  | some tm => (tm.tasks.filter fun k => k.id != t.task || t.view.isSome).flatMap Task.regions

/-- The records whose dirty bytes are written back before a full edge leaves a thread's core (R162, R223): its own, and
those under which it wrote as another task. -/
def State.edgeRecords (s : State) (t : Thread) : List Region := writeRegions (s.records t ++ s.teamRecords t)

def regionLines (r : Region) : Nat := (regionBase r + regionExtent r + 63) / 64 - regionBase r / 64

/-- The virtual line numbers to probe, when the records cover at most 64 lines (R225). -/
def probeLines (rs : List Region) : List Nat :=
  if (rs.map regionLines).sum ≤ 64 then rs.flatMap fun r => (List.range (regionLines r)).map (· + regionBase r / 64) else []

/-- Probed lines with the physical lines they translate to. -/
def State.probed (s : State) (c : CoreIx) (rs : List Region) : List (Nat × Nat) :=
  (probeLines rs).filterMap fun v =>
    match walk s.mem (s.part (s.partOf (CoreIx.cluster c))) (64 * v) ⟨false, false, false⟩ with
    | .ok r => some ((r.entry.pa + (64 * v - r.entry.base)) / 64, v)
    | .error _ => none

/-- The bytes of a line that records cover, under the virtual addresses it was reached or probed under. Records of more
lines than are probed stand for every byte, since the line may have other virtual addresses (R224, R169; log 10). -/
def L1Line.within (l : L1Line) (probes : List (Nat × Nat)) (rs : List Region) : W64 :=
  if (rs.map regionLines).sum > 64 then BitVec.allOnes 64
  else
  let names := l.vas ++ (probes.filter fun p => p.1 == l.pa).map Prod.snd
  BitVec.ofNat 64 ((List.range 64).foldl (fun acc i =>
    if names.any fun v => rs.any (regionCovers (64 * v + i)) then acc + 2 ^ i else acc) 0)

/-- Write back the dirty bytes within records; the lines stay valid (R223). -/
def State.skimWriteBack (s : State) (c : CoreIx) (rs : List Region) : State :=
  let probes := s.probed c rs
  (s.core c).l1.foldl (fun s l =>
    let d := l.dirty &&& l.within probes rs
    if d == 0 then s
    else ({ s with mem := { l with dirty := d }.writeTo s.mem }.modCore c fun x =>
      { x with l1 := updateAll x.l1 (fun y => y.pa == l.pa) fun y => { y with dirty := y.dirty &&& ~~~d } }).count c 9 1) s

/-- Invalidate the lines within records; each first writes back its dirty bytes (R224). -/
def State.skimInvalidate (s : State) (c : CoreIx) (rs : List Region) : State :=
  let probes := s.probed c rs
  (s.core c).l1.foldl (fun s l =>
    if l.within probes rs == 0 then s
    else (if l.dirty == 0 then s else s.count c 9 1).l1Drop c l.pa) s

/-! ### Order of tasks (R205 to R207) -/

/-- Whether an earlier task that has not ended conflicts with a task of the list (R207). -/
def Team.holds (tm : Team) (id : Nat) : Bool :=
  match tm.tasks.find? fun k => k.id == id with
  | none => false
  | some k => (tm.tasks.takeWhile fun k => k.id != id).any fun e => recordsConflict e.regions k.regions

/-- Whether a thread's task is held (R207). -/
def State.held (s : State) (t : Thread) : Bool := ((s.teamOf t).map fun tm => tm.holds t.task).getD false

/-- Whether a thread runs a member task (R228). -/
def State.member (s : State) (t : Thread) : Bool := ((s.taskOf t).map Task.member).getD false

/-- Tasks held by a cluster's skimmer (R208). -/
def Cluster.taskCount (c : Cluster) : Nat := (c.teams.map fun tm => tm.tasks.length).sum

/-- A thread arrives at its core (R224): invalidating before it issues, or at once when its task declares no byte. -/
def State.enterCore (s : State) (w : SlotIx) : State :=
  let rs := liveRegions (s.records (s.thread w))
  if rs.isEmpty then s.modThread w fun t => { t with wait := .run, edgeDone := false, parks := false }
  else (s.startSkim (SlotIx.core w) .invalidate rs w .go).modThread w fun t => { t with wait := .skimmer, edgeDone := false }

/-- The task of a thread starts or resumes at its core: held (R207), or arriving there (R224). -/
def State.arrive (s : State) (w : SlotIx) : State :=
  if s.held (s.thread w) then s.modThread w fun t => { t with wait := .held, edgeDone := false, parks := false }
  else s.enterCore w

/-- Every slot of a partition. -/
def State.slotsIn (s : State) (p : PartIx) : List SlotIx :=
  (s.clustersOf p).flatMap fun cl => (coresOf cl).flatMap slotsOf

/-- The held threads of a team whose task is held no longer start (R207). -/
def State.releaseHeld (s : State) (p : PartIx) (home : ClusterIx) (team : W32) : State :=
  (s.slotsIn p).foldl (fun s w =>
    let t := s.thread w
    if t.wait == .held && t.team == team && t.home == home && t.part == p then s.arrive w else s) s

/-- The place of a thread as its leave records it. -/
def State.leaver (s : State) (w : SlotIx) : Leaver :=
  let t := s.thread w
  ⟨w, s.globalSlot w, t.part, t.home, t.team, t.task⟩

/-- A cluster's record of a team that has ended goes, with its instances, which hold no thread, and what is on its way
to them. The generation counters stay until the next launch of the team (R248). -/
def State.dropTeam (s : State) (home : ClusterIx) (p : PartIx) (team : W32) : State :=
  let s := s.modCluster home fun c => { c with
    teams := c.teams.filter fun t => t.part != p || t.team != team
    inst := c.inst.filter fun i => i.part != p || i.team != team
    freed := c.freed + (c.inst.filter fun i => i.part == p && i.team == team).length }
  { s with endings := s.endings.filter fun e => e.home != home || e.part != p || e.team != team }

/-- A task with no thread and no continuation ends (R204): what it held may start, and with the last task the team
ends with its KIND 3 record (R407, R425). -/
def State.endTask (s : State) (l : Leaver) : State :=
  match s.teamAt l.home l.part l.team with
  | none => s
  | some tm =>
    match tm.tasks.find? fun k => k.id == l.task with
    | none => s
    | some k =>
      if k.threads != 0 || k.conts != 0 then s
      else
        let left := tm.tasks.filter fun k => k.id != l.task
        if left.isEmpty then
          (s.dropTeam l.home l.part l.team).complete tm.fn tm.q { kind := 3, cseq := tm.cseq, team := tm.team, slot := l.slot }
        else (s.modTeam l.home l.part l.team fun tm => { tm with tasks := left }).releaseHeld l.part l.home l.team

/-- A thread stops executing its task; cont says that a continuation of it waits (R204). -/
def State.leaveTask (s : State) (l : Leaver) (cont : Bool) : State :=
  (s.modTeam l.home l.part l.team fun tm => tm.modTask l.task fun k =>
    { k with threads := k.threads - 1, conts := k.conts + boolNat cont }).endTask l

/-! ### Slots -/

/-- Release the griddle as grelease does (R287), if the slot holds it. -/
def Core.dropGriddle (c : Core) (n : Fin 16) : Core :=
  if c.griddle.holder == some n then { c with griddle := Griddle.reset } else c

/-- Release the scratchpad lock as spunlock does (R372), if the slot holds it. -/
def Core.dropLock (c : Core) (w : SlotIx) : Core :=
  match c.lock with
  | some l => if l.holder == w then { c with lock := none } else c
  | none => c

/-- A thread gives up its claim and its lock (R108, R220, R234). -/
def State.dropClaims (s : State) (w : SlotIx) : State :=
  s.modCore (SlotIx.core w) fun c => (c.dropGriddle (SlotIx.num w)).dropLock w

/-- What is left in a slot whose thread has ended: its registers stay until a launch sets them (R19, R177). -/
def Thread.freed (t : Thread) : Thread :=
  { t with
    occ := false, wait := .run, uid := 0, outs := [], poison := [], pend := [], notes := [], mark := none
    named := none, popped := [], frozenBy := none, view := none, edgeDone := false, parks := false, flightTo := 0
    yielded := 0, reservedBy := 0, claimed := [] }

/-- The slots that a thread's unmerge reserved are free for others again (R241). -/
def State.unreserve (s : State) (w : SlotIx) : State :=
  if (s.thread w).claimed.isEmpty then s
  else
    ((s.thread w).claimed.foldl (fun s x => s.modThread x fun t => { t with reservedBy := 0 }) s).modThread w fun t =>
      { t with claimed := [] }

/-- A slot becomes free (R20): messages for it are discarded (R326), and it waits in no list. -/
def State.freeSlot (s : State) (w : SlotIx) : State :=
  ((s.unreserve w).modThread w Thread.freed).modCore (SlotIx.core w) fun c =>
    { c with inbox := c.inbox.filter fun m => m.slot != SlotIx.num w }

/-- Release the forwarding entries of a thread, in saved contexts too (R338). -/
def State.dropForwards (s : State) (uid : Nat) : State :=
  let drop (c : Core) : Core := { c with forward := c.forward.filter fun f => f.uid != uid }
  { s with cores := mapVector s.cores drop, saved := s.saved.map fun k => { k with core := drop k.core } }

/-- Whether a slot is a free candidate (R21, R241, R338), on a core that is not being pre-empted or drained (R384,
R397). -/
def State.candidate (s : State) (w : SlotIx) : Bool :=
  !(s.thread w).occ && (s.thread w).reservedBy == 0 && !s.xslot w && !(s.core (SlotIx.core w)).stopping &&
  !(s.cluster (SlotIx.cluster w)).draining && !((s.core (SlotIx.core w)).forward.any fun f => f.old == SlotIx.num w)

def State.candidates (s : State) (c : CoreIx) : List SlotIx := (slotsOf c).filter s.candidate

/-- The cores of a cluster in rotation from a core (R217, R241). -/
def coresFrom (c : CoreIx) : List CoreIx :=
  let xs := coresOf (CoreIx.cluster c)
  xs.drop (CoreIx.num c).val ++ xs.take (CoreIx.num c).val

/-- The lowest free candidate slot of this core, else of the cores after it in rotation (R217, R241). -/
def State.slotNear (s : State) (c : CoreIx) : Option SlotIx := ((coresFrom c).flatMap s.candidates).head?

/-- A core is not eligible to steal: when it is again, its first request goes to the core after it, and the answer to a
request that is out moves nothing on (R22). -/
def Core.stealAfresh (c : Core) : Core := { c with stealFrom := 0, stealLate := c.victim.isSome }

/-- A new thread takes a slot; its core, when it next may steal, begins afresh (R22). -/
def State.place (s : State) (w : SlotIx) (t : Thread) : State :=
  { (s.setThread w { t with occ := true, uid := s.uids }).modCore (SlotIx.core w) Core.stealAfresh with uids := s.uids + 1 }

/-- Weight that has ended counts at the team's sieve (R229): E rises, and the indices are free. -/
def Team.ended (tm : Team) (mul : Nat) (idset : BitVec 128) : Team :=
  { tm with exited := tm.exited + mul, used := tm.used &&& ~~~idset }

/-- Member weight that ends (R229): it counts at once in the cluster of the sieve, elsewhere once the report arrives. -/
def State.countExit (s : State) (w : SlotIx) : State :=
  let t := s.thread w
  if !s.member t then s
  else if SlotIx.cluster w == t.home then s.modTeamOf t fun tm => tm.ended t.mul.toNat t.idset
  else { s with endings := s.endings ++ [⟨t.home, t.part, t.team, t.mul.toNat, t.idset⟩] }

/-- A thread of a team at its launch values (R19, R209): the mode and the vector of the launch (log 15). -/
def Team.thread (tm : Team) (home : ClusterIx) (task : Nat) : Thread :=
  { Thread.reset with
    occ := true
    team := tm.team
    teamn := BitVec.ofNat 8 tm.teamn
    trapvec := tm.vector
    priv := tm.priv
    part := tm.part
    home := home
    task := task }

end Sys2Proof.Machine
end

