-- ==== Sys2Proof/Machine/Sieve.lean ====
section
/-! DEFINITION. The sieve (R228 to R238): the hash of a meet, arrivals, equality, the close by count or by window, the
release of its members, and the end of a thread, which can complete a close. -/

namespace Sys2Proof.Machine

/-- The contribution of unified register i to the hash (R230). -/
def Thread.hashWord (t : Thread) (i : Fin 64) : W32 :=
  if h : i.val < 32 then
    let x := t.greg ⟨i.val, h⟩
    x.extractLsb' 0 32 ^^^ x.extractLsb' 32 32
  else t.v[i.val - 32].foldl (fun acc x => acc ^^^ x) 0

/-- The hash over the declared registers, in ascending unified index (R230). -/
def Thread.meetHash (t : Thread) (mask : W64) : W32 :=
  (List.finRange 64).foldl (fun h i => if mask.getLsbD i.val then h.rotateLeft 5 ^^^ t.hashWord i else h) 0

/-- The arrival of a thread in an instance: destination, live mask and hash. -/
def Thread.arrival (t : Thread) : Option (Dst × W64 × W32) :=
  match t.wait with
  | .sieveIn d _ mask h => some (d, mask, h)
  | _ => none

/-- Whether two threads hold the same values in the declared registers (R232). -/
def sameDeclared (a b : Thread) (mask : W64) : Bool :=
  (List.finRange 32).all (fun i => !mask.getLsbD i.val || a.greg i == b.greg i) &&
  (List.finRange 32).all (fun i => !mask.getLsbD (32 + i.val) || a.v[i] == b.v[i])

/-- The full comparison of two arrivals of one instance (R232). -/
def sameArrival (a b : Thread) : Bool :=
  match a.arrival, b.arrival with
  | some (_, ma, ha), some (_, mb, hb) =>
    ha == hb && ma == mb && a.ip == b.ip && a.idset &&& b.idset == 0 && sameDeclared a b ma
  | _, _ => false

/-- Same key, whatever the comparison says (R232). -/
def sameHash (a b : Thread) : Bool :=
  match a.arrival, b.arrival with
  | some (_, _, ha), some (_, _, hb) => ha == hb
  | _, _ => false

/-- The status word of R236. -/
def meetStatus (gen : BitVec 16) (nabs : Nat) (coll full win : Bool) : W32 :=
  BitVec.ofNat 32 (gen.toNat * 65536 + nabs * 256 + boolNat coll * 8 + boolNat full * 4 + boolNat win * 2 +
    boolNat (nabs != 0))

/-- A meet returns its status: D, MEETST.LAST and the sticky bits (R238, R239). -/
def State.meetReturn (s : State) (w : SlotIx) (d : Dst) (status : W32) : State :=
  (s.deliver w d (status.setWidth 64)).modThread w fun t =>
    { t with meetst :=
        (t.meetst.extractLsb' 33 1 ||| status.extractLsb' 2 1) ++ (t.meetst.extractLsb' 32 1 ||| status.extractLsb' 3 1) ++ status }.done

/-- Once every leave of a close is complete, the released members invalidate (R235). -/
def State.settleClose (s : State) (home : ClusterIx) (n : Nat) : State :=
  let waits (k : Skim) : Bool := match k.after with
    | .close m _ => m == n
    | _ => false
  if (s.cluster home).skims.any waits then s
  else
    ((coresOf home).flatMap slotsOf).foldl (fun s w =>
      match (s.thread w).wait with
      | .sieveOut _ _ m =>
        let rs := liveRegions (s.records (s.thread w))
        if m != n || rs.isEmpty then s else s.startSkim (SlotIx.core w) .invalidate rs w .nothing
      | _ => s) s

/-- The leave of one arrival at a close (R235); an absorbed thread's leave of its task counts when its write-back is
complete (R223). -/
def State.closeLeave (s : State) (w : SlotIx) (n : Nat) (gone : Option Leaver) : State :=
  let rs := s.edgeRecords (s.thread w)
  if rs.isEmpty then
    match gone with
    | some l => s.leaveTask l false
    | none => s
  else s.startSkim (SlotIx.core w) .writeBack rs w (.close n gone)

/-- A destination entry that a thread reserved in its core queue goes with the thread (R234). -/
def State.dropEntry (s : State) (w : SlotIx) (d : Dst) : State :=
  match d with
  | .reg _ => s
  | .queue k => s.modCore (SlotIx.core w) fun c => { c with queue := c.queue.filter fun e => e.ticket != k }

/-- One arrival at the close of its instance: it is absorbed, or released with its status (R234, R235). before is the
state in which arrivals are compared. DESIGN CHOICE (log 73): collisions are judged among the arrivals that are in
the instance when it closes, so one that was withdrawn sets no COLL. -/
def State.closeOne (before : State) (i : Inst) (byWin : Bool) (n : Nat) (s : State) (w : SlotIx) : State :=
  let t := before.thread w
  let group := i.arrivals.filter fun x => x == w || sameArrival (before.thread x) t
  let lowest := group.all fun x => t.tid.toNat ≤ (before.thread x).tid.toNat
  if lowest then
    let coll := i.arrivals.any fun x => x != w && sameHash (before.thread x) t && !sameArrival (before.thread x) t
    let status := meetStatus i.gen (group.length - 1) coll false byWin
    let ids := group.foldl (fun acc x => acc ||| (before.thread x).idset) 0
    let mul := group.foldl (fun acc x => acc + (before.thread x).mul) 0
    match t.arrival with
    | some (d, _, _) =>
      (s.closeLeave w n none).modThread w fun t => { t with idset := ids, mul := mul, wait := .sieveOut d status n }
    | none => s
  else
    let s := s.count (SlotIx.core w) 7 1
    let s := { s with mgmt := { s.mgmt with absorbed := s.mgmt.absorbed + 1 } }
    let s := match t.arrival with
      | some (d, _, _) => s.dropEntry w d
      | none => s
    let s := if t.migr then s.dropForwards t.uid else s
    ((s.closeLeave w n (some (before.leaver w))).dropClaims w).freeSlot w

/-- An instance closes (R233 to R235). -/
def State.closeInst (s : State) (home : ClusterIx) (i : Inst) (byWin : Bool) : State :=
  let n := s.uids
  let s := { s with uids := n + 1 }.modCluster home fun c => { c with inst := c.inst.erase i, freed := c.freed + 1 }
  (i.arrivals.foldl (s.closeOne i byWin n) s).settleClose home n

/-- A + E = W (R233). -/
def State.countMet (s : State) (tm : Team) (i : Inst) : Bool :=
  (i.arrivals.map fun w => (s.thread w).mul.toNat).sum + tm.exited == tm.weight

/-- Whether the count of an instance is met (R233). -/
def State.instMet (s : State) (home : ClusterIx) (i : Inst) : Bool :=
  (s.teamAt home i.part i.team).any fun tm => s.countMet tm i

/-- Close every instance of a team whose count is met. -/
def State.closeByCount (s : State) (home : ClusterIx) (p : PartIx) (team : W32) : State :=
  match s.teamAt home p team with
  | none => s
  | some tm =>
    ((s.cluster home).inst.filter fun i => i.part == p && i.team == team && s.countMet tm i).foldl
      (fun s i => s.closeInst home i false) s

def GenCount.is (g : GenCount) (p : PartIx) (team : W32) (id : BitVec 8) : Bool :=
  g.part == p && g.team == team && g.id == id

/-- The generation counter of a (team, meet id) (R231). -/
def Cluster.gen (c : Cluster) (p : PartIx) (team : W32) (id : BitVec 8) : BitVec 16 :=
  ((c.gens.find? fun g => g.is p team id).map GenCount.gen).getD 0

def Cluster.nextGen (c : Cluster) (p : PartIx) (team : W32) (id : BitVec 8) : Cluster :=
  { c with gens := (c.gens.filter fun g => !g.is p team id) ++ [⟨p, team, id, c.gen p team id + 1⟩] }

/-- An arrival reaches the sieve (R231): it joins, opens, or passes through. -/
def State.meetArrive (s : State) (w : SlotIx) : State :=
  let t := s.thread w
  let p := t.part
  match t.wait, s.teamOf t with
  | .sieveWay d id mask h, some _ =>
    let here (i : Inst) : Bool := i.part == p && i.team == t.team && i.id == id
    let k := s.cluster t.home
    let joined := k.inst.any here
    if !joined && k.inst.length + k.freed ≥ 64 then
      s.meetReturn w d (meetStatus (k.gen p t.team id) 0 false true false)
    else
      let c := SlotIx.core w
      let s := s.count c 6 1
      let s := { s with mgmt := { s.mgmt with meetArrivals := s.mgmt.meetArrivals + 1 } }
      let s := s.modThread w fun t => { t with wait := .sieveIn d id mask h }
      let s :=
        if joined then
          s.modCluster t.home fun x => { x with inst := updateAll x.inst here fun i => { i with arrivals := i.arrivals ++ [w] } }
        else
          let i : Inst := {
            team := t.team
            part := p
            id := id
            gen := k.gen p t.team id
            win := t.meetwin
            opener := t.uid
            clock := c
            opened := (s.core c).cycle
            frozen := none
            arrivals := [w] }
          s.modCluster t.home fun x => { x with inst := x.inst ++ [i] }.nextGen p t.team id
      s.closeByCount t.home p t.team
  | _, _ => s

/-- Whether the window of an instance has passed (R233). -/
def State.windowOver (s : State) (i : Inst) : Bool :=
  i.win != 0 && i.frozen.isNone && i.win.toNat ≤ ((s.core i.clock).cycle - i.opened).toNat

/-- Every instance whose count is met closes (R233, R244). -/
def State.closeCounts (s : State) : State :=
  (allClusters.filter fun cl => (s.cluster cl).inst.any (s.instMet cl)).foldl (fun s cl =>
    ((s.cluster cl).inst.filter (s.instMet cl)).foldl (fun s i => s.closeInst cl i false) s) s

/-- Every instance whose window has passed closes (R233). -/
def State.closeWindows (s : State) : State :=
  (allClusters.filter fun cl => (s.cluster cl).inst.any s.windowOver).foldl (fun s cl =>
    ((s.cluster cl).inst.filter s.windowOver).foldl (fun s i => s.closeInst cl i true) s) s

/-- The report of an ending reaches the team's sieve (R229), and a close that this completes takes place. DESIGN CHOICE
(log 85): the reports of the device arrive in the order of the endings. -/
def State.reportEnding (s : State) : State :=
  match s.endings with
  | [] => s
  | e :: rest =>
    ({ s with endings := rest }.modTeam e.home e.part e.team fun tm => tm.ended e.mul e.idset).closeByCount e.home e.part e.team

/-- A waiting member leaves its instance (R243); the window is unchanged. -/
def State.leaveInst (s : State) (w : SlotIx) : State :=
  s.modCluster (s.thread w).home fun c => { c with inst := c.inst.map fun i => { i with arrivals := i.arrivals.filter fun x => x != w } }

/-- A thread ends: its claims are released, its weight counts as exited if it ends that way, and its slot is free. -/
def State.vacateSlot (s : State) (w : SlotIx) (counts : Bool) : State :=
  let t := s.thread w
  let s := if counts then s.countExit w else s
  let s := if t.migr then s.dropForwards t.uid else s
  (s.dropClaims w).freeSlot w

/-- A thread ends by exit or KILL (R108, R409): a close that this completes takes place, and it leaves its task. -/
def State.endThread (s : State) (w : SlotIx) (counts : Bool) : State :=
  let l := s.leaver w
  ((s.vacateSlot w counts).closeByCount l.home l.part l.team).leaveTask l false

/-- A thread ends by join (R220). cont says that a continuation of its task waits in a frame. A close that this completes
takes place at the end of the cycle, when every fork of the cycle has counted (R244). -/
def State.endJoin (s : State) (w : SlotIx) (counts cont : Bool) : State := (s.vacateSlot w counts).leaveTask (s.leaver w) cont

end Sys2Proof.Machine
end

