-- ==== Sys2Proof/Machine/Vector.lean ====
section
/-! DEFINITION. Vector and mask class (R109 to R134): opcodes 0x40 to 0x6E. -/

namespace Sys2Proof.Machine

/-- The mould of R117: read A, B and C, compute every element, write D under the mask and set the flags. -/
def vec3 (ty : ETy) (m : Mask) (f : Nat → Nat → Nat → Nat × Flags) (d : VReg) (a b c : GV) : Op Unit := do
  ready [a, b, c] [.v d] (keptBy m d)
  let x ← srcGV a ty
  let y ← srcGV b ty
  let z ← srcGV c ty
  let mask ← srcK m.k
  let (r, fl) := lanewise ty mask f x y z
  dstV d m r
  setFlags fl
  advance

def vec2 (ty : ETy) (m : Mask) (f : Nat → Nat → Nat × Flags) (d : VReg) (a b : GV) : Op Unit := do
  ready [a, b] [.v d] (keptBy m d)
  let x ← srcGV a ty
  let y ← srcGV b ty
  let mask ← srcK m.k
  let (r, fl) := lanewise ty mask (fun x y _ => f x y) x y x
  dstV d m r
  setFlags fl
  advance

def vec1 (ty : ETy) (m : Mask) (f : Nat → Nat × Flags) (d : VReg) (a : GV) : Op Unit := do
  ready [a] [.v d] (keptBy m d)
  let x ← srcGV a ty
  let mask ← srcK m.k
  let (r, fl) := lanewise ty mask (fun x _ _ => f x) x x x
  dstV d m r
  setFlags fl
  advance

/-- vadd (R117). -/
def elemAdd (ty : ETy) (rm : RMode) (x y : Nat) : Nat × Flags :=
  if ty.isFloat then fAdd ty.fmt rm x y else (x + y, 0)

/-- vsub (R117). -/
def elemSub (ty : ETy) (rm : RMode) (x y : Nat) : Nat × Flags :=
  if ty.isFloat then fSub ty.fmt rm x y else (x + (2 ^ ty.width - y), 0)

/-- vmul (R117). -/
def elemMul (ty : ETy) (rm : RMode) (x y : Nat) : Nat × Flags :=
  if ty.isFloat then fMul ty.fmt rm x y else (x * y, 0)

/-- vfma (R117, R73). -/
def elemFma (ty : ETy) (rm : RMode) (x y z : Nat) : Nat × Flags :=
  if ty.isFloat then fFma ty.fmt rm x y z else (x * y + z, 0)

/-- vmin and vmax (R117, R118): equal operands return a. -/
def elemMinMax (ty : ETy) (max : Bool) (x y : Nat) : Nat × Flags :=
  if ty.isFloat then fMinMax ty.fmt max x y
  else (if (if max then ty.int y > ty.int x else ty.int y < ty.int x) then y else x, 0)

/-- vabs (R117). -/
def elemAbs (ty : ETy) (x : Nat) : Nat × Flags :=
  if ty.isFloat then (x % 2 ^ (ty.width - 1), 0) else ((ty.int x).natAbs, 0)

/-- vneg (R117). -/
def elemNeg (ty : ETy) (x : Nat) : Nat × Flags :=
  if ty.isFloat then (x ^^^ 2 ^ (ty.width - 1), 0) else (2 ^ ty.width - x, 0)

/-- vshl (R68). -/
def elemShl (ty : ETy) (x y : Nat) : Nat × Flags := (x <<< (y % ty.width), 0)

/-- vshr (R68). -/
def elemShr (ty : ETy) (x y : Nat) : Nat × Flags := (x >>> (y % ty.width), 0)

/-- vsar (R68): fills with copies of the element's top bit. -/
def elemSar (ty : ETy) (x y : Nat) : Nat × Flags :=
  let v : Int := if x ≥ 2 ^ (ty.width - 1) then (x : Int) - 2 ^ ty.width else x
  (wrapNat ty.width (v / 2 ^ (y % ty.width)), 0)

/-- vadd (R117). -/
def execVadd (d : VReg) (a b : GV) (ty : ETy) (rm : RMode) (m : Mask) (s : State) : Out :=
  s.run (vec2 ty m (elemAdd ty rm) d a b)

/-- vsub (R117). -/
def execVsub (d : VReg) (a b : GV) (ty : ETy) (rm : RMode) (m : Mask) (s : State) : Out :=
  s.run (vec2 ty m (elemSub ty rm) d a b)

/-- vmul (R117). -/
def execVmul (d : VReg) (a b : GV) (ty : ETy) (rm : RMode) (m : Mask) (s : State) : Out :=
  s.run (vec2 ty m (elemMul ty rm) d a b)

/-- vfma (R117, R73). -/
def execVfma (d : VReg) (a b : GV) (c : VReg) (ty : ETy) (rm : RMode) (m : Mask) (s : State) : Out :=
  s.run (vec3 ty m (elemFma ty rm) d a b (.v c))

/-- vmin (R117, R118). -/
def execVmin (d : VReg) (a b : GV) (ty : ETy) (m : Mask) (s : State) : Out :=
  s.run (vec2 ty m (elemMinMax ty false) d a b)

/-- vmax (R117, R118). -/
def execVmax (d : VReg) (a b : GV) (ty : ETy) (m : Mask) (s : State) : Out :=
  s.run (vec2 ty m (elemMinMax ty true) d a b)

/-- vabs (R117). -/
def execVabs (d : VReg) (a : GV) (ty : ETy) (m : Mask) (s : State) : Out := s.run (vec1 ty m (elemAbs ty) d a)

/-- vneg (R117). -/
def execVneg (d : VReg) (a : GV) (ty : ETy) (m : Mask) (s : State) : Out := s.run (vec1 ty m (elemNeg ty) d a)

/-- vand (R117). -/
def execVand (d : VReg) (a b : GV) (ty : ETy) (m : Mask) (s : State) : Out :=
  s.run (vec2 ty m (fun x y => (x &&& y, 0)) d a b)

/-- vor (R117). -/
def execVor (d : VReg) (a b : GV) (ty : ETy) (m : Mask) (s : State) : Out :=
  s.run (vec2 ty m (fun x y => (x ||| y, 0)) d a b)

/-- vxor (R117). -/
def execVxor (d : VReg) (a b : GV) (ty : ETy) (m : Mask) (s : State) : Out :=
  s.run (vec2 ty m (fun x y => (x ^^^ y, 0)) d a b)

/-- vshl (R117, R68). -/
def execVshl (d : VReg) (a b : GV) (ty : ETy) (m : Mask) (s : State) : Out := s.run (vec2 ty m (elemShl ty) d a b)

/-- vshr (R117, R68). -/
def execVshr (d : VReg) (a b : GV) (ty : ETy) (m : Mask) (s : State) : Out := s.run (vec2 ty m (elemShr ty) d a b)

/-- vsar (R117, R68). -/
def execVsar (d : VReg) (a b : GV) (ty : ETy) (m : Mask) (s : State) : Out := s.run (vec2 ty m (elemSar ty) d a b)

/-- The result of vcvt for each destination element (R119): none where the part does not write it. -/
def cvtElems (dst src : ETy) (rm : RMode) (part : Nat) (a : List Nat) : List (Option (Nat × Flags)) :=
  let ns := src.count
  let nd := dst.count
  (List.range nd).map fun e =>
    if ns ≥ nd then some (convert dst src rm (a.getD ((if ns == nd then 0 else part * nd) + e) 0))
    else if part * ns ≤ e && e < part * ns + ns then some (convert dst src rm (a.getD (e - part * ns) 0))
    else none

/-- The register of which a vcvt keeps elements: those outside the part of a narrower source (R119), or masked ones. -/
def cvtKept (dst src : ETy) (m : Mask) (d : VReg) : List GV := if src.count ≥ dst.count then keptBy m d else [.v d]

/-- vcvt (R119). -/
def execVcvt (d a : VReg) (dst src : ETy) (rm : RMode) (part : BitVec 6) (m : Mask) (s : State) : Out := s.run do
  ready [.v a] [.v d] (cvtKept dst src m d)
  let x ← srcV a
  let old ← srcV d
  let mask ← srcK m.k
  let n := 32 / dst.width
  let rs := (cvtElems dst src rm part.toNat (vecElems src x)).zip ((vecElems dst old).zip (List.range dst.count))
  let out := rs.map fun (r, o, e) =>
    match r with
    | none => o
    | some (y, _) => if mask.getLsbD (e / n) then y else if m.z then 0 else o
  let fl := rs.foldl (fun acc (r, _, e) =>
    match r with
    | some (_, f) => if mask.getLsbD (e / n) then acc ||| f else acc
    | none => acc) 0
  modify fun s => s.modMe fun t => t.setV d (ofElems dst out)
  setFlags fl
  advance

/-- vcmp on one lane (R120). -/
def VCond.holds (c : VCond) (x y : W32) : Bool × Flags :=
  match c with
  | .int c => (c.holds x y, 0)
  | .flt c => c.holds x.toNat y.toNat

/-- A mask from a test of each lane. -/
def maskOf (p : Fin 32 → Bool) : W32 :=
  (List.finRange 32).foldl (fun acc i => if p i then acc ||| BitVec.ofNat 32 (2 ^ i.val) else acc) 0

/-- vcmp (R120). -/
def execVcmp (c : VCond) (ty : ETy) (d : KReg) (a b : GV) (m : Mask) (s : State) : Out := s.run do
  ready [a, b] []
  let x ← srcGV a ty
  let y ← srcGV b ty
  let mask ← srcK m.k
  let rs : Vector (Bool × Flags) 32 := Vector.ofFn fun i => VCond.holds c x[i] y[i]
  dstK d m (maskOf fun i => rs[i].1)
  setFlags (laneFlags mask (rs.map Prod.snd))
  advance

/-- vsel (R121): K selects, and every lane is written. -/
def execVsel (d : VReg) (a b : GV) (ty : ETy) (k : KReg) (s : State) : Out := s.run do
  ready [a, b] [.v d]
  let x ← srcGV a ty
  let y ← srcGV b ty
  let sel ← srcK k
  dstV d ⟨0, false⟩ (Vector.ofFn fun i => if sel.getLsbD i.val then x[i] else y[i])
  advance

/-- Lane n mod 32 of a register. -/
def laneAt (v : Vec) (n : Nat) : W32 := v[n % 32]'(Nat.mod_lt _ (by decide))

/-- vperm (R121). -/
def execVperm (d a b : VReg) (m : Mask) (s : State) : Out := s.run do
  ready [.v a, .v b] [.v d] (keptBy m d)
  let x ← srcV a
  let y ← srcV b
  dstV d m (Vector.ofFn fun i => laneAt x y[i].toNat)
  advance

/-- vrot (R121): a count of 1 moves lane 1 into lane 0. -/
def execVrot (d a : VReg) (c : GReg) (m : Mask) (s : State) : Out := s.run do
  ready [.v a, .g c] [.v d] (keptBy m d)
  let x ← srcV a
  let n ← srcG c
  dstV d m (Vector.ofFn fun i => laneAt x (i.val + n.toNat % 32))
  advance

/-- vext (R122). -/
def execVext (d : GReg) (a : VReg) (c : GReg) (ty : ETy) (s : State) : Out := s.run do
  ready [.v a, .g c] [.g d]
  let x ← srcV a
  let n ← srcG c
  let y := laneAt x n.toNat
  dstG d (if ty == .s32 then y.signExtend 64 else y.setWidth 64)
  advance

/-- vins (R122): the other 31 lanes are unchanged. -/
def execVins (d : VReg) (a c : GReg) (s : State) : Out := s.run do
  ready [.g a, .g c] [.v d] [.v d]
  let x ← srcG a
  let n ← srcG c
  let old ← srcV d
  dstV d ⟨0, false⟩ (Vector.ofFn fun i => if i.val == n.toNat % 32 then x.setWidth 32 else old[i])
  advance

/-- vrcp (R79, R124). -/
def execVrcp (d : VReg) (a : GV) (m : Mask) (s : State) : Out := s.run (vec1 .f32 m fRcp d a)

/-- vrsqrt (R78, R124). -/
def execVrsqrt (d : VReg) (a : GV) (m : Mask) (s : State) : Out := s.run (vec1 .f32 m fRsqrt d a)

/-- vsqrt (R80, R124). -/
def execVsqrt (d : VReg) (a : GV) (m : Mask) (s : State) : Out := s.run (vec1 .f32 m fSqrt d a)

/-- vdiv (R80, R124). -/
def execVdiv (d : VReg) (a b : GV) (m : Mask) (s : State) : Out := s.run (vec2 .f32 m fDiv d a b)

/-- vlog2 (R80, R124). -/
def execVlog2 (d : VReg) (a : GV) (m : Mask) (s : State) : Out := s.run (vec1 .f32 m fLog2 d a)

/-- vexp2 (R80, R124). -/
def execVexp2 (d : VReg) (a : GV) (m : Mask) (s : State) : Out := s.run (vec1 .f32 m fExp2 d a)

/-- The elements of a register with those of masked lanes replaced by zero (R125, R127). -/
def maskedElems (ty : ETy) (mask : W32) (v : Vec) : List Nat :=
  vecElems ty (mergeV mask true v v)

/-- The elements of the unmasked lanes, in element order (R125). -/
def selectedElems (ty : ETy) (mask : W32) (v : Vec) : List Nat :=
  (List.finRange 32).flatMap fun i => if mask.getLsbD i.val then laneSplit ty v[i] else []

/-- The result of vredsum (R76, R125). -/
def redSum (ty : ETy) (xs : List Nat) : W64 × Flags :=
  if ty == .f32 then
    let (r, fl) := treeSum 5 xs
    (BitVec.ofNat 64 r, fl)
  else if ty.isFloat then
    let ys := xs.map (convert .f32 ty .rne)
    let (r, fl) := treeSum 6 (ys.map Prod.fst)
    (BitVec.ofNat 64 r, ys.foldl (fun acc y => acc ||| y.2) fl)
  else (BitVec.ofInt 64 ((xs.map ty.int).foldl (· + ·) 0), 0)

/-- vredsum (R125). -/
def execVredsum (d : GReg) (a : VReg) (ty : ETy) (k : KReg) (s : State) : Out := s.run do
  ready [.v a] [.g d]
  let x ← srcV a
  let mask ← srcK k
  let (r, fl) := redSum ty (maskedElems ty mask x)
  dstG d r
  setFlags fl
  advance

/-- The value of an element of an integer type as a register holds it (R125, R126). -/
def ETy.extend (ty : ETy) (x : Int) : W64 := BitVec.ofInt 64 (if ty == .n32 then x % 2 ^ 32 else x)

/-- The result of vredmin and vredmax (R125). -/
def redMinMax (ty : ETy) (max : Bool) (xs : List Nat) : W64 × Flags :=
  if ty.isFloat then
    let f := ty.fmt
    let fl := flagIf (xs.any fun x => (f.val x).isSnan) flagInv
    let nums := xs.filter fun x => (f.rank x).isSome
    let r := match nums with
      | [] => if xs.isEmpty then f.inf max else f.nan
      | x :: rest => rest.foldl (fun acc y => (fMinMax f max acc y).1) x
    (BitVec.ofNat 64 r, fl)
  else
    let r := match xs.map ty.int with
      | [] => if max then ty.bounds.1 else ty.bounds.2
      | x :: rest => rest.foldl (fun acc y => if (if max then y > acc else y < acc) then y else acc) x
    (ETy.extend ty r, 0)

/-- A reduction of the unmasked elements of vA to gD. -/
def reduce (f : List Nat → W64 × Flags) (d : GReg) (a : VReg) (ty : ETy) (k : KReg) : Op Unit := do
  ready [.v a] [.g d]
  let x ← srcV a
  let mask ← srcK k
  let (r, fl) := f (selectedElems ty mask x)
  dstG d r
  setFlags fl
  advance

/-- vredmin (R125). -/
def execVredmin (d : GReg) (a : VReg) (ty : ETy) (k : KReg) (s : State) : Out :=
  s.run (reduce (redMinMax ty false) d a ty k)

/-- vredmax (R125). -/
def execVredmax (d : GReg) (a : VReg) (ty : ETy) (k : KReg) (s : State) : Out :=
  s.run (reduce (redMinMax ty true) d a ty k)

/-- The result of vmaxi and vmini over the unmasked lanes with their indices (R126): an earlier lane wins a tie. -/
def indexed (ty : ETy) (max : Bool) (xs : List (Nat × Nat)) : W64 × Flags :=
  let pack (i v : Nat) : W64 := BitVec.ofNat 64 (i * 2 ^ 32 + v)
  if ty == .f32 then
    let f := fmtF32
    let fl := flagIf (xs.any fun x => (f.val x.2).isSnan) flagInv
    let better (x y : Nat) : Bool := match f.rank x, f.rank y with
      | some a, some b => if max then b > a else b < a
      | _, _ => false
    let r := match xs.filter fun x => (f.rank x.2).isSome, xs with
      | [], [] => pack 0xFFFFFFFF (f.inf max)
      | [], x :: _ => pack x.1 f.nan
      | x :: rest, _ =>
        let w := rest.foldl (fun acc y => if better acc.2 y.2 then y else acc) x
        pack w.1 w.2
    (r, fl)
  else
    let better (x y : Nat) : Bool := if max then ty.int y > ty.int x else ty.int y < ty.int x
    match xs with
    | [] => (pack 0xFFFFFFFF (wrapNat 32 (if max then ty.bounds.1 else ty.bounds.2)), 0)
    | x :: rest =>
      let w := rest.foldl (fun acc y => if better acc.2 y.2 then y else acc) x
      (pack w.1 w.2, 0)

/-- The unmasked lanes with their indices, ascending. -/
def selectedLanes (mask : W32) (v : Vec) : List (Nat × Nat) :=
  (List.finRange 32).flatMap fun i => if mask.getLsbD i.val then [(i.val, v[i].toNat)] else []

def indexedExtreme (max : Bool) (d : GReg) (a : VReg) (ty : ETy) (k : KReg) : Op Unit := do
  ready [.v a] [.g d]
  let x ← srcV a
  let mask ← srcK k
  let (r, fl) := indexed ty max (selectedLanes mask x)
  dstG d r
  setFlags fl
  advance

/-- vmaxi (R126). -/
def execVmaxi (d : GReg) (a : VReg) (ty : ETy) (k : KReg) (s : State) : Out := s.run (indexedExtreme true d a ty k)

/-- vmini (R126). -/
def execVmini (d : GReg) (a : VReg) (ty : ETy) (k : KReg) (s : State) : Out := s.run (indexedExtreme false d a ty k)

/-- vrng (R81 to R83, R131). -/
def execVrng (d : VReg) (uni : Bool) (m : Mask) (s : State) : Out := s.run do
  ready [] [.v d] (keptBy m d)
  let t := (← get).me
  raiseIf (t.rngctr.extractLsb' 0 24 == 0xFFFFFF#24) 0x31 0 0
  dstV d m (Vector.ofFn fun i =>
    let raw := rngRaw t.rngkey t.rngctr i.val
    if uni then rngUni raw else raw)
  modify fun s => s.modMe fun t => { t with rngctr := t.rngctr + 1 }
  advance

/-- One lane of the residual before the sum (R129). -/
def residLane (p q : Nat) : Nat × Flags :=
  let (d, fl) := fSub fmtF32 .rne p q
  match fmtF32.cmpVal d with
  | none => (fmtF32.nan, fl)
  | some v => (if v > 0 then d else 0, fl)

/-- vresid (R129). -/
def execVresid (d a b : VReg) (m : Mask) (s : State) : Out := s.run do
  ready [.v a, .v b] [.v d] (keptBy m d)
  let p ← srcV a
  let q ← srcV b
  let mask ← srcK m.k
  let rs : Vector (Nat × Flags) 32 := Vector.ofFn fun i =>
    if mask.getLsbD i.val then residLane p[i].toNat q[i].toNat else (0, 0)
  let (sum, fl) := treeSum 5 (rs.toList.map Prod.fst)
  let zero := fmtF32.cmpVal sum == some 0
  dstV d m (if zero then p else rs.map fun r => BitVec.ofNat 32 r.1)
  setFlags (laneFlags mask (rs.map Prod.snd) ||| fl ||| flagIf zero flagResz)
  advance

/-- The prefix sums with the flags of each step (R77, R127). -/
def scanSums (add : Nat → Nat → Nat × Flags) : Nat → List Nat → List (Nat × Flags)
  | _, [] => []
  | acc, x :: xs =>
    let r := add acc x
    r :: scanSums add r.1 xs

/-- The whole scan: element 0 is an arithmetic result of its own (R77). -/
def scanAll (ty : ETy) : List Nat → List (Nat × Flags)
  | [] => []
  | x :: xs =>
    if ty.isFloat then
      let v := ty.fmt.val x
      let r := finish ty.fmt .rne v.isSnan (some v)
      r :: scanSums (fAdd ty.fmt .rne) r.1 xs
    else (x, 0) :: scanSums (fun a b => ((a + b) % 2 ^ ty.width, 0)) x xs

/-- vscan (R127). -/
def execVscan (d a : VReg) (ty : ETy) (m : Mask) (s : State) : Out := s.run do
  ready [.v a] [.v d] (keptBy m d)
  let x ← srcV a
  let mask ← srcK m.k
  let rs := scanAll ty (maskedElems ty mask x)
  dstV d ⟨m.k, m.z⟩ (ofElems ty (rs.map Prod.fst))
  let n := 32 / ty.width
  setFlags ((rs.zip (List.range ty.count)).foldl
    (fun acc (r, e) => if mask.getLsbD (e / n) then acc ||| r.2 else acc) 0)
  advance

/-- vpopc (R128). -/
def execVpopc (d a : VReg) (ty : ETy) (m : Mask) (s : State) : Out :=
  s.run (vec1 ty m (fun x => (popNat ty.width x, 0)) d (.v a))

/-- The class bit of an f32 value (R128). -/
def f32Class (x : Nat) : Nat :=
  match fmtF32.val x with
  | .nan _ => 0
  | .inf _ => 1
  | .fin _ m _ => if m == 0 then 4 else if m < 2 ^ 23 then 3 else 2

/-- vclass (R128). -/
def execVclass (d : KReg) (a : VReg) (classes : BitVec 5) (m : Mask) (s : State) : Out := s.run do
  ready [.v a] []
  let x ← srcV a
  dstK d m (maskOf fun i => classes.getLsbD (f32Class x[i].toNat))
  advance

/-- vmov (R123). -/
def execVmov (d : VReg) (a : GV) (m : Mask) (s : State) : Out := s.run (vec1 .s32 m (fun x => (x, 0)) d a)

/-- vidx (R123). -/
def execVidx (d : VReg) (a : GReg) (m : Mask) (s : State) : Out := s.run do
  ready [.g a] [.v d] (keptBy m d)
  let x ← srcG a
  dstV d m (Vector.ofFn fun i => BitVec.ofNat 32 i.val + x.setWidth 32)
  advance

/-- The mould of the mask instructions, which are not masked (R133). -/
def maskOp (f : W32 → W32 → W32) (d a b : KReg) : Op Unit := do
  let x ← srcK a
  let y ← srcK b
  modify fun s => s.modMe fun t => t.setK d (f x y)
  advance

/-- kand (R133). -/
def execKand (d a b : KReg) (s : State) : Out := s.run (maskOp (· &&& ·) d a b)

/-- kor (R133). -/
def execKor (d a b : KReg) (s : State) : Out := s.run (maskOp (· ||| ·) d a b)

/-- kxor (R133). -/
def execKxor (d a b : KReg) (s : State) : Out := s.run (maskOp (· ^^^ ·) d a b)

/-- knot (R133). -/
def execKnot (d a : KReg) (s : State) : Out := s.run (maskOp (fun x _ => ~~~x) d a a)

/-- kmov kD, kA (R134). -/
def execKmovKk (d a : KReg) (s : State) : Out := s.run (maskOp (fun x _ => x) d a a)

/-- kmov kD, gA (R134). -/
def execKmovKg (d : KReg) (a : GReg) (s : State) : Out := s.run do
  ready [.g a] []
  let x ← srcG a
  modify fun s => s.modMe fun t => t.setK d (x.setWidth 32)
  advance

/-- kmov gD, kA (R134). -/
def execKmovGk (d : GReg) (a : KReg) (s : State) : Out := s.run do
  ready [] [.g d]
  let x ← srcK a
  dstG d (x.setWidth 64)
  advance

/-- kpopc (R133). -/
def execKpopc (d : GReg) (a : KReg) (s : State) : Out := s.run do
  ready [] [.g d]
  let x ← srcK a
  dstG d (BitVec.ofNat 64 (popNat 32 x.toNat))
  advance

/-- rngadv (R83, R132). -/
def execRngadv (a : GReg) (s : State) : Out := s.run do
  ready [.g a] []
  let x ← srcG a
  let pos := (← get).me.rngctr.toNat / 2 ^ 24 + x.toNat
  raiseIf (pos ≥ 2 ^ 40) 0x31 0 0
  modify fun s => s.modMe fun t => { t with rngctr := BitVec.ofNat 64 (pos * 2 ^ 24) }
  advance

end Sys2Proof.Machine
end

