-- ==== Sys2Proof/Machine/Barrier.lean ====
section
/-! DEFINITION. Cluster barriers and group reduction (R339 to R346): opcodes 0xE6 to 0xEA, the update port, and the
events of a barrier. -/

namespace Sys2Proof.Machine

/-! ### The update port (R340) -/

/-- What becomes of an arrival at a barrier: counted in a phase, late, or beyond 128 contributions (R340, R346). -/
inductive Verdict where
  | counted (phase : BitVec 16)
  | late
  | crowded
deriving DecidableEq, Repr

def BarEvent.weight : BarEvent → Nat
  | .arrive _ _ mul _ _ | .remote _ mul _ => mul
  | _ => 0

def BarEvent.edge : BarEvent → Bool
  | .arrive _ _ _ e _ | .remote _ _ e => e
  | _ => false

def BarEvent.contrib : BarEvent → Option Contrib
  | .arrive _ _ _ _ c => c
  | _ => none

/-- Count one arrival into the current phase, if it fits (R340, R346). -/
def Barrier.take (b : Barrier) (x : BarEvent) : Barrier × Verdict :=
  if b.arr.toNat + x.weight > b.exp.toNat then (b, .late)
  else if x.contrib.isSome && b.contribs.length ≥ 128 then (b, .crowded)
  else
    ({ b with
      arr := b.arr + BitVec.ofNat 16 x.weight
      contribs := b.contribs ++ x.contrib.toList
      edged := b.edged || x.edge }, .counted b.phase)

/-- Count arrivals in order. -/
def Barrier.takeAll (b : Barrier) : List BarEvent → Barrier × List (BarEvent × Verdict)
  | [] => (b, [])
  | x :: xs =>
    let (b, v) := b.take x
    let (b, vs) := b.takeAll xs
    (b, (x, v) :: vs)

/-- A bar.cfg (R343): it discards the arrivals of earlier cycles with their contributions. -/
def Barrier.configure (b : Barrier) (x : BarEvent) : Barrier :=
  match x with
  | .config _ _ n reload => { b with exp := n, breload := reload, arr := 0, bytes := reload, contribs := [] }
  | _ => b

/-- The change of BYTES by an event (R340). -/
def BarEvent.change : BarEvent → BitVec 40
  | .bytes n => - BitVec.ofNat 40 n
  | .expect _ _ delta => delta
  | _ => 0

def BarEvent.isConfig : BarEvent → Bool
  | .config _ _ _ _ => true
  | _ => false

def BarEvent.isLocal : BarEvent → Bool
  | .arrive _ _ _ _ _ => true
  | _ => false

def BarEvent.isRemote : BarEvent → Bool
  | .remote _ _ _ => true
  | _ => false

/-- The slot an event comes from; others come first. -/
def BarEvent.slot (s : State) : BarEvent → Nat
  | .arrive w _ _ _ _ | .expect w _ _ | .config w _ _ _ => s.globalSlot w
  | _ => 0

/-- Insertion by a key, after equal ones. -/
def insertBy {α : Type} (key : α → Nat) (x : α) : List α → List α
  | [] => [x]
  | y :: ys => if key x < key y then x :: y :: ys else y :: insertBy key x ys

def sortBy {α : Type} (key : α → Nat) (xs : List α) : List α := xs.foldl (fun acc x => insertBy key x acc) []

/-- The barrier after the events of one cycle have been evaluated (R340): the new state, the verdicts of the arrivals
that were taken first, whether the phase advanced, and the verdicts of those counted after that. -/
structure Evaluation where
  after : Barrier
  first : List (BarEvent × Verdict)
  advanced : Bool
  second : List (BarEvent × Verdict)
deriving DecidableEq, Repr

def Barrier.evaluate (b : Barrier) (key : BarEvent → Nat) (evs : List BarEvent) : Evaluation :=
  let cfgs := sortBy key (evs.filter BarEvent.isConfig)
  let b := cfgs.foldl Barrier.configure b
  let bytes := evs.foldl (fun acc x => acc + x.change) b.bytes
  let arrivals := sortBy key (evs.filter BarEvent.isLocal) ++ evs.filter BarEvent.isRemote
  let (b, first) := b.takeAll arrivals
  if !evs.isEmpty && b.arr == b.exp && bytes == 0 && cfgs.isEmpty then
    let late := (first.filter fun x => x.2 == .late).map Prod.fst
    let (b, second) := { b with phase := b.phase + 1, arr := 0, bytes := b.breload, contribs := [], port := [.again] }.takeAll late
    ⟨b, first.filter fun x => x.2 != .late, true, second⟩
  else
    ⟨{ b with bytes := bytes, port := if cfgs.isEmpty then [] else [.again] }, first, false, []⟩

/-! ### What an evaluation does to threads -/

/-- Reduce contributions of one operation and type in ascending order (R346). -/
def reduceContribs (op : GrpOp) (ty : GrpTy) (xs : List W64) : W64 :=
  match op, ty with
  | .fsum, _ =>
    match xs with
    | [] => 0
    | x :: rest => rest.foldl (fun acc y => BitVec.ofNat 64 (fAdd fmtF32 .rne acc.toNat y.toNat).1) x
  | .sum, _ => xs.foldl (· + ·) 0
  | .min, .f32 => (redMinMax .f32 false (xs.map BitVec.toNat)).1
  | .max, .f32 => (redMinMax .f32 true (xs.map BitVec.toNat)).1
  | .min, .s64 => (xs.drop 1).foldl (fun acc y => if y.toInt < acc.toInt then y else acc) (xs.headD 0)
  | .max, .s64 => (xs.drop 1).foldl (fun acc y => if y.toInt > acc.toInt then y else acc) (xs.headD 0)
  | .min, .n64 => (xs.drop 1).foldl (fun acc y => if y.toNat < acc.toNat then y else acc) (xs.headD 0)
  | .max, .n64 => (xs.drop 1).foldl (fun acc y => if y.toNat > acc.toNat then y else acc) (xs.headD 0)

/-- The result of a phase for an operation and type (R346); a free value when a bar.cfg has discarded every
contribution of that kind (log 18). -/
def State.groupResult (s : State) (cs : List Contrib) (op : GrpOp) (ty : GrpTy) : State × W64 :=
  let xs := sortBy Contrib.order (cs.filter fun c => c.op == op && c.ty == ty)
  if xs.isEmpty then (s.useFree, Config.groupValue s.frees) else (s, reduceContribs op ty (xs.map Contrib.val))

/-- The lines of the running task are invalidated when a wait returns from a phase with an edge arrival (R162, R224). -/
def State.afterBarrier (s : State) (w : SlotIx) (edged : Bool) : State :=
  let rs := liveRegions (s.records (s.thread w))
  if !edged || rs.isEmpty then s.modThread w Thread.done
  else (s.startSkim (SlotIx.core w) .invalidate rs w .finish).modThread w fun t => { t with wait := .skimmer }

/-- A grpred of the phase that has advanced receives its result (R346). -/
def State.releaseGroup (cl : ClusterIx) (id : Fin 64) (phase : BitVec 16) (cs : List Contrib) (edged : Bool) (s : State)
    (w : SlotIx) : State :=
  let t := s.thread w
  match t.wait with
  | .group d i p op ty =>
    if i != id || p != phase || t.home != cl then s
    else
      let (s, x) := s.groupResult cs op ty
      (s.deliver w d x).afterBarrier w edged
  | _ => s

/-- A pending mark of that phase receives its result (R346). -/
def GrpMark.resolve (x : W64) (m : GrpMark) : GrpMark := { m with result := some x }

def State.resolveMark (cl : ClusterIx) (id : Fin 64) (phase : BitVec 16) (cs : List Contrib) (s : State) (t : Thread) :
    State :=
  match t.mark with
  | none => s
  | some m =>
    if m.id != id || m.phase != phase || m.result.isSome || t.home != cl then s
    else
      let (s, x) := s.groupResult cs m.op m.ty
      { s with
        threads := mapVector s.threads fun y => if y.uid == t.uid then { y with mark := y.mark.map (GrpMark.resolve x) } else y
        saved := s.saved.map fun k => { k with threads := mapVector k.threads fun y =>
          if y.uid == t.uid then { y with mark := y.mark.map (GrpMark.resolve x) } else y }
        away := s.away.map fun k => if k.2.uid == t.uid then (k.1, { k.2 with mark := k.2.mark.map (GrpMark.resolve x) }) else k }

/-- Every thread of a partition, in slots and in saved contexts. -/
def State.threadsIn (s : State) (p : PartIx) : List Thread :=
  ((s.slotsIn p).map s.thread ++ ((s.saved.filter fun k => k.part == p).flatMap fun k => k.threads.toList) ++
    s.away.map Prod.snd).filter fun t => t.occ && t.part == p

/-- A phase advances (R340, R346): its waiting grpreds are released together and its marks take their results; a
bar.wait reads PHASE when it issues again. -/
def State.barrierAdvance (s : State) (cl : ClusterIx) (id : Fin 64) (phase : BitVec 16) (cs : List Contrib) (edged : Bool) :
    State :=
  if cs.isEmpty && !(s.threadsIn (s.partOf cl)).any fun t => t.mark.isSome || (match t.wait with
      | .group _ _ _ _ _ => true
      | _ => false)
  then s
  else
    let s := (s.slotsIn (s.partOf cl)).foldl (State.releaseGroup cl id phase cs edged) s
    (s.threadsIn (s.partOf cl)).foldl (State.resolveMark cl id phase cs) s

/-- The outcome of one arrival for its thread or journal entry (R340, R341, R346, R328). -/
def State.arrivalOutcome (id : Fin 64) (s : State) (r : BarEvent × Verdict) : State :=
  match r with
  | (.arrive w d _ _ none, .counted phase) => (s.deliver w d (phase.setWidth 64)).modThread w Thread.done
  | (.arrive w d _ _ (some k), .counted phase) =>
    s.modThread w fun t => { t with
      wait := .group d id phase k.op k.ty
      mark := none
      parkedAt := (s.core (SlotIx.core w)).cycle }
  | (.arrive w d _ _ _, v) =>
    let aux := BitVec.ofNat 64 (id.val + (if v == .crowded then 64 else 0))
    (s.undo w (some d)).takeTrap w false 0x20 (s.thread w).ip 0 aux
  | (.remote key _ _, v) =>
    let st : SendState := match v with
      | .counted _ => .performed
      | _ => .gone 3
    s.setKey key st
  | _ => s

/-- The outcome of a bar.exp or bar.cfg for its thread: D receives the PHASE in which it counted (R343). -/
def State.changeOutcome (phase : BitVec 16) (s : State) (x : BarEvent) : State :=
  match x with
  | .expect w d _ | .config w d _ _ => (s.deliver w d (phase.setWidth 64)).modThread w Thread.done
  | _ => s

def State.barrier (s : State) (cl : ClusterIx) (id : Fin 64) : Barrier := (s.cluster cl).barrier[id]

def State.setBarrier (s : State) (cl : ClusterIx) (id : Fin 64) (b : Barrier) : State :=
  s.modCluster cl fun c => { c with barrier := c.barrier.set id b }

/-- Evaluate the events of one cycle at a barrier (R340, R348). -/
def State.barrierEvents (s : State) (cl : ClusterIx) (id : Fin 64) (evs : List BarEvent) : State :=
  let b := s.barrier cl id
  let r := b.evaluate (BarEvent.slot s) evs
  let s := s.setBarrier cl id { r.after with gathering := false }
  let s := evs.foldl (State.changeOutcome b.phase) s
  let s := r.first.foldl (State.arrivalOutcome id) s
  if !r.advanced then s
  else
    let cs := b.contribs ++ r.first.flatMap fun x => match x.2 with
      | .counted _ => x.1.contrib.toList
      | _ => []
    r.second.foldl (State.arrivalOutcome id) (s.barrierAdvance cl id b.phase cs r.after.edged)

/-- An event reaches the update port: it joins the cycle being gathered, or is a cycle of its own, with the
evaluation that the previous one left (R340). -/
def State.barrierEvent (s : State) (cl : ClusterIx) (id : Fin 64) (x : BarEvent) : State :=
  let b := s.barrier cl id
  if b.gathering then s.setBarrier cl id { b with port := b.port ++ [x] }
  else s.barrierEvents cl id (b.port ++ [x])

/-! ### Instructions -/

/-- Whether the home cluster of a thread is still the one its team was placed on (R344). -/
def State.homeAlive (s : State) (t : Thread) : Bool :=
  let c := s.cluster t.home
  c.part == some t.part && (s.teamOf t).any fun tm => tm.epoch == c.epoch

/-- The TARGET_GONE that a barrier instruction raises when the home cluster has been reset or reassigned (R328, R344). -/
def State.homeGone (s : State) : Async := ⟨0x22, s.now, 0, 1, none, none⟩

/-- A barrier instruction of a thread whose home cluster has been reset or reassigned raises TARGET_GONE, an asynchronous
event (R344, R365). DESIGN CHOICE (log 76): it does nothing else, the thread goes on after it, and one such event is
pending at most. -/
def atHome (body : Op Unit) : Op Unit := fun s =>
  if s.homeAlive s.me then body s
  else
    let same (a : Async) : Bool := a.code == 0x22 && a.journal.isNone && a.retry.isNone
    advance (if s.me.pend.any same then s else s.modMe fun t => { t with pend := insertAsync s.homeGone t.pend })

/-- Another instruction of the class that names a barrier clears the pending mark (R346). -/
def dropMark : Op Unit := modify fun s => s.modMe fun t => { t with mark := none }

/-- The instruction reaches the update port of a barrier of its home cluster, and its thread goes on when the event
has been evaluated (R340, R341, R343). -/
def atPort (id : Fin 64) (d : Dst) (x : BarEvent) : Op Unit := do
  let next ← nextIp
  modify fun s =>
    let home := s.me.home
    let s := s.modMe fun t => { t with resume := next }
    let s := if (s.barrier home id).gathering then s.modMe fun t => { t with wait := .port d, parkedAt := s.myCore.cycle } else s
    s.barrierEvent home id x

/-- The write-back of a leave that the edge bit asks for (R341). -/
def edgeFirst (edge : Bool) : Op Unit := do
  let s ← get
  let rs := s.edgeRecords s.me
  if edge && !s.me.edgeDone && !rs.isEmpty then stopWith (.edge .writeBack rs)

/-- bar.arv and bar.arv.edge (R341). -/
def execBarArv (edge : Bool) (d : GReg) (id : Fin 64) (s : State) : Out := s.run do
  synchronised
  atHome do
    ready [] [.g d]
    edgeFirst edge
    dropMark
    let dst ← reserve d
    let s ← get
    atPort id dst (.arrive s.cur dst s.me.mul.toNat edge none)

/-- The cluster that a .rem arrival names, checked as send checks its cluster (R339, R325): bits [63:7] of g[A] are
not used. -/
def remoteHome (x : W64) : Op ClusterIx := fun s =>
  let cl := SlotIx.cluster s.cur
  let v := x.toNat % 128
  match s.physical (s.partOf cl) v with
  | none => .error (.trap 0x06 x 0)
  | some far => if s.permitted cl v far then .ok (far, s) else .error (.trap 0x07 x 0)

/-- A remote arrival takes a journal entry (R151, R341). -/
def postArrival (edge : Bool) (id : Fin 64) (far : ClusterIx) (va : W64) : Op Unit := do
  let s ← get
  match s.myCore.freeEntries with
  | [] => waitFor .journal
  | n :: _ =>
    let e : JEntry := {
      entry := n
      key := s.uids
      w := s.cur
      uid := s.me.uid
      part := s.me.part
      cl := far
      epoch := (s.cluster far).epoch
      kind := .arrive id s.me.mul.toNat edge
      lanes := []
      va := va
      state := .sent }
    set ({ s with uids := s.uids + 1 }.modMyCore fun c => { c with journal := c.journal ++ [e] })

/-- bar.arv.rem and bar.arv.rem.edge (R341): posted. -/
def execBarArvRem (edge : Bool) (d a : GReg) (id : Fin 64) (s : State) : Out := s.run do
  synchronised
  atHome do
    ready [.g a] [.g d]
    let x ← srcG a
    let far ← remoteHome x
    edgeFirst edge
    postArrival edge id far x
    dropMark
    dstG d 0xFFFFFFFFFFFFFFFF
    advance

/-- bar.wait (R342): the phase operand is read when it issues, and again when it re-executes; earlier posted stores are
performed first (R159, R165). -/
def execBarWait (d : GReg) (id : Fin 64) (s : State) : Out := s.run do
  synchronised
  atHome do
    ready [.g d] [.g d]
    let x ← srcG d
    let s ← get
    let b := s.barrier s.me.home id
    waitIf (b.phase == x.setWidth 16) (.barWait id (x.setWidth 16) d)
    let rs := liveRegions (s.records s.me)
    if b.edged && !s.me.edgeDone && !rs.isEmpty then stopWith (.edge .invalidate rs)
    dropMark
    dstG d (b.phase.setWidth 64)
    advance

/-- bar.exp (R343). -/
def execBarExp (d a : GReg) (id : Fin 64) (s : State) : Out := s.run do
  quiet
  atHome do
    ready [.g a] [.g d]
    let x ← srcG a
    dropMark
    let dst ← reserve d
    atPort id dst (.expect (← get).cur dst (x.setWidth 40))

/-- bar.cfg (R343). -/
def execBarCfg (d a b : GReg) (id : Fin 64) (s : State) : Out := s.run do
  quiet
  atHome do
    ready [.g a, .g b] [.g d]
    let x ← srcG a
    let y ← srcG b
    dropMark
    let dst ← reserve d
    atPort id dst (.config (← get).cur dst (x.setWidth 16) (y.setWidth 40))

/-- The contribution of a thread (R346). -/
def Thread.contribution (t : Thread) (op : GrpOp) (ty : GrpTy) (x : W64) : Contrib where
  order := t.team.toNat * 128 + t.tid.toNat
  op := op
  ty := ty
  val := match op, ty with
    | .fsum, _ => BitVec.ofNat 64 (mulFloat (x.toNat % 2 ^ 32) t.mul.toNat)
    | .sum, _ => x * t.mul.setWidth 64
    | _, .f32 => BitVec.ofNat 64 (x.toNat % 2 ^ 32)
    | _, _ => x

/-- The arrival of a grpred with its contribution (R346). -/
def groupArrive (op : GrpOp) (ty : GrpTy) (edge : Bool) (d : GReg) (id : Fin 64) (x : W64) : Op Unit := do
  edgeFirst edge
  dropMark
  let dst ← reserve d
  let s ← get
  atPort id dst (.arrive s.cur dst s.me.mul.toNat edge (some (s.me.contribution op ty x)))

/-- A grpred of the thread's pending mark (R346): it takes the result, or waits on for it. -/
def groupAgain (d : GReg) (id : Fin 64) (m : GrpMark) : Op Unit := do
  match m.result with
  | some r =>
    let s ← get
    let rs := liveRegions (s.records s.me)
    if (s.barrier s.me.home id).edged && !s.me.edgeDone && !rs.isEmpty then stopWith (.edge .invalidate rs)
    dropMark
    dstG d r
    advance
  | none =>
    dropMark
    let dst ← reserve d
    parkAs (.group dst id m.phase m.op m.ty)
    modify fun s => s.modMe fun t => { t with parkedAt := t.parkedAt - m.waited }

/-- grpred (R346). -/
def execGrpred (op : GrpOp) (ty : GrpTy) (edge : Bool) (d a b : GReg) (s : State) : Out := s.run do
  synchronised
  atHome do
    ready [.g a, .g b] [.g d]
    let x ← srcG a
    let y ← srcG b
    let id : Fin 64 := (y.extractLsb' 0 6).toFin
    match (← get).me.mark with
    | some m => if m.id == id then groupAgain d id m else groupArrive op ty edge d id x
    | none => groupArrive op ty edge d id x

/-! ### Events -/

/-- The next cycle's evaluation of a barrier (R340). -/
def execBarrierReevaluate (cl : ClusterIx) (id : Fin 64) (s : State) : Out :=
  let b := s.barrier cl id
  if b.port.isEmpty && !b.gathering then .next s else .next (s.barrierEvents cl id b.port)

/-- A remote arrival reaches its barrier (R341), or the cluster has been reset, drained or reassigned (R344). -/
def execRemoteBarrierArrival (c : CoreIx) (entry : Nat) (s : State) : Out :=
  match s.journalAt c entry with
  | none => .next s
  | some (k, j) =>
    match j.kind with
    | .arrive id mul edge =>
      let first := k.mayPerform (entry % 32)
      if (s.refusal j).isSome && (j.state == .queued || first) then .next (s.setEntry c entry (.gone 1))
      else if !first then .next s
      else .next ((s.setEntry c entry .queued).barrierEvent j.cl id (.remote j.key mul edge))
    | _ => .next s

/-- Whether the BARTMO count of a parked thread has passed (R342). -/
def State.barTimedOut (s : State) (w : SlotIx) : Bool :=
  let t := s.thread w
  t.bartmo != 0 && t.bartmo.toNat ≤ ((s.core (SlotIx.core w)).cycle - t.parkedAt).toNat

/-- BAR_TIMEOUT (R342, R346): a grpred keeps its arrival and leaves a pending mark. -/
def execBarTimeout (w : SlotIx) (s : State) : Out :=
  let t := s.thread w
  if !s.barTimedOut w then .next s
  else
    match t.wait with
    | .retry (.barWait id p _) =>
      if (s.barrier t.home id).phase == p then .next (s.takeTrap w false 0x21 t.ip 0 (BitVec.ofNat 64 id.val)) else .next s
    | .group d id p op ty =>
      let s := (s.undo w (some d)).modThread w fun t => { t with mark := some ⟨id, p, op, ty, none, 0⟩ }
      .next (s.takeTrap w false 0x21 t.ip 0 (BitVec.ofNat 64 id.val))
    | _ => .next s

end Sys2Proof.Machine
end

