-- ==== Sys2Proof/Machine/Tile.lean ====
section
/-! DEFINITION. Tile class (R249 to R278): opcodes 0xC0 to 0xC7, the matrix unit and its queue, remote commands and the
epilogue buffer. -/

namespace Sys2Proof.Machine

def State.modTile (s : State) (c : CoreIx) (f : Tile → Tile) : State := s.modCore c fun x => { x with tile := f x.tile }

/-! ### Issue (R250, R251) -/

/-- An entry joins the queue of the issuing core; a stalled thread waits for its start. -/
def enqueueTile (kind : TileKind) (stall : Bool) : Op Unit := do
  let s ← get
  let token := s.myCore.tile.tokens
  if stall then parkAs (.tileStart token none) else advance
  modify fun s => s.modTile (SlotIx.core s.cur) fun x =>
    { x with queue := x.queue ++ [⟨token, s.cur, s.me.uid, none, kind⟩], tokens := token + 1 }

/-- tmac (R263). -/
def execTmac (fl : TFlags) (a b c : GReg) (s : State) : Out := s.run do
  nowIssue
  ready [.g a, .g b, .g c] []
  let x ← srcG a
  let y ← srcG b
  let z ← srcG c
  let s ← get
  enqueueTile (.tmac fl x y z s.me.tfmt s.myCore.tile.trapen) true

/-- tmacr (R265). -/
def execTmacr (fl : TFlags) (ch : Fin 4) (d a b c : GReg) (s : State) : Out := s.run do
  ready [.g a, .g b, .g c, .g d] []
  let x ← srcG a
  let y ← srcG b
  let z ← srcG c
  let cap ← srcG d
  modify fun s =>
    let t := s.me
    let cmd : Tmacr := {
      key := s.uids
      src := s.cur
      uid := t.uid
      ch := ch
      cap := cap
      fl := fl
      a := x
      b := y
      c := z
      tfmt := t.tfmt
      count := t.tmacrs
      phase := .sent }
    { s with tmacrs := s.tmacrs ++ [cmd], uids := s.uids + 1 }.modMe fun t => { t with tmacrs := t.tmacrs + 1 }
  advance

/-- tzero (R268). -/
def execTzero (kind : TzKind) (a : GReg) (s : State) : Out := s.run do
  ready [.g a] []
  let x ← srcG a
  enqueueTile (.tzero kind x) false

/-- The register operand of an activation (R269). -/
def TepiAct.factor : TepiAct → Option GReg
  | .clamp c | .leaky c => some c
  | .none | .relu => none

/-- tepi (R269). -/
def execTepi (ty : ETy) (act : TepiAct) (rm : RMode) (d a b : GReg) (imm : BitVec 16) (s : State) : Out := s.run do
  nowIssue
  let cs : List GV := match TepiAct.factor act with
    | some c => [.g c]
    | none => []
  ready ([.g a, .g b] ++ cs ++ [.g d]) []
  let x ← srcG a
  let y ← srcG b
  let f ← match TepiAct.factor act with
    | some c => srcG c
    | none => pure 0
  let base ← srcG d
  enqueueTile (.tepi ty act rm (base + imm.signExtend 64) x y f) true

/-- tacc.get (R271). -/
def execTaccGet (outer : Bool) (d : VReg) (a : GReg) (grp : Fin 4) (m : Mask) (s : State) : Out := s.run do
  ready [.g a] [.v d] (keptBy m d)
  let x ← srcG a
  let mask ← srcK m.k
  enqueueTile (.taccGet outer d x grp m mask) false

/-- tacc.put (R271). -/
def execTaccPut (outer : Bool) (d : VReg) (a : GReg) (grp : Fin 4) (k : KReg) (s : State) : Out := s.run do
  ready [.g a, .v d] []
  let x ← srcG a
  let data ← srcV d
  let mask ← srcK k
  enqueueTile (.taccPut outer data x grp mask) false

/-- tplane (R272). -/
def execTplane (d a : GReg) (seq : BitVec 16) (s : State) : Out := s.run do
  nowIssue
  ready [.g a, .g d] []
  let x ← srcG a
  let y ← srcG d
  enqueueTile (.tplane y x seq (← get).me.tfmt) true

/-- tsync (R273). -/
def execTsync (s : State) : Out := s.run do
  let s ← get
  let uid := s.me.uid
  let tile := s.myCore.tile
  let open_ := tile.queue.any (fun o => o.of uid) || (match tile.running with
    | some x => x.op.of uid
    | none => false) || (tile.epi.any fun g => g.uid == uid && g.held.isNone) || s.tmacrs.any fun x => x.uid == uid
  waitIf open_ .tile
  advance

/-- tscale (R274). -/
def execTscale (a : GReg) (tag : BitVec 16) (s : State) : Out := s.run do
  nowIssue
  ready [.g a] []
  let x ← srcG a
  enqueueTile (.tscale x tag) true

/-- tscale.key (R275). -/
def execTscaleKey (a : GReg) (idx : Fin 8) (s : State) : Out := s.run do
  ready [.g a] []
  let x ← srcG a
  enqueueTile (.key x idx) false

/-! ### Checks at start (R263) -/

/-- A scratchpad range of a tile start: window, alignment, end, then what holds it back (R263, R372, R150, R251). -/
def State.tileSpan (s : State) (c : CoreIx) (w : SlotIx) (va : W64) (len : Nat) (store : Bool) : Except Stop Nat :=
  match s.localPlace w 0 va with
  | .error e => .error e
  | .ok (some (.scratch _ off)) =>
    if va.toNat % 64 != 0 then .error (.trap 0x05 va 0)
    else if off + len > scratchSize then .error (.trap 0x06 (BitVec.ofNat 64 (scratchBase + scratchSize)) 0)
    else if (s.core c).locksOut w off len then .error (.wait .scratch)
    else if s.scoreHolds c va len store then .error (.wait .transfer)
    else if s.tileHolds w ⟨0, va, .scratch c off, len, [], 0⟩ then .error (.wait .tile)
    else .ok off
  | .ok _ => .error (.trap 0x07 va (permAux 0 0))

/-- DATA_UE of a scratchpad range at its first failing byte. -/
def State.tileRead (s : State) (c : CoreIx) (va : W64) (off len : Nat) : Except Stop Nat :=
  match s.ue.find? fun u => match u with
    | .scratch d a => d == c && off ≤ a && a < off + len
    | _ => false with
  | some (.scratch _ a) => .error (.trap 0x0C (va + BitVec.ofNat 64 (a - off)) 0)
  | _ => .ok (bytesNat ((s.core c).scratch.read off len))

/-- The rows operand (R262): row0 and M. -/
def rowsOf (x : W64) : Nat × Nat := (bits x 15 8, min (bits x 7 0) 128)

/-- Whether a plane-group header is well formed for a weight precision (R252). -/
def headerOk (group wprec : Nat) : Bool := group / 2 ^ 16 % 2 ^ 496 == wprec + 64 * 2 ^ 16 + 128 * 2 ^ 24

/-- TRAPAUX of SCALE_SEQ (R263). -/
def seqAux (code seq tag : Nat) : W64 := BitVec.ofNat 64 (seq + tag * 2 ^ 16 + code * 2 ^ 32)

/-- Bytes of the rows of an activation block, and of the whole block (R254). -/
def rowBytes (tfmt : BitVec 6) : Nat := if tfmt.getLsbD 0 then 128 else 64
def blockSize (tfmt : BitVec 6) (m : Nat) : Nat := m * rowBytes tfmt + 2 * m

/-- The start of a tmac (R263). -/
def State.startTmac (s : State) (c : CoreIx) (o : TileOp) (a b rows : W64) (tfmt : BitVec 6) : Except Stop TileRun := do
  let wprec := tfmt.toNat / 2
  let m := (rowsOf rows).2
  let g ← s.tileSpan c o.w a (groupSize wprec) false
  let r ← s.tileSpan c o.w b (blockSize tfmt m) false
  let group ← s.tileRead c a g (groupSize wprec)
  let block ← s.tileRead c b r (blockSize tfmt m)
  let seq := group % 2 ^ 16
  let tile := (s.core c).tile
  match tile.fifo with
  | [] => .error (.trap 0x11 a (seqAux 3 seq 0))
  | head :: _ =>
    if !headerOk group wprec then .error (.trap 0x11 a (seqAux 2 seq head.tag.toNat))
    else if seq != head.tag.toNat then .error (.trap 0x11 a (seqAux 1 seq head.tag.toNat))
    else .ok ⟨o, group, block, head, tile.valid, []⟩

/-- The plain start of an entry that reads nothing. -/
def Tile.bare (x : Tile) (o : TileOp) : TileRun := ⟨o, 0, 0, ⟨0, []⟩, x.valid, []⟩

/-- The start of a tplane (R272): the source, then the destination. -/
def State.startTplane (s : State) (c : CoreIx) (o : TileOp) (dst src : W64) (tfmt : BitVec 6) : Except Stop TileRun := do
  let wprec := tfmt.toNat / 2
  let x ← s.tileSpan c o.w src (sourceSize wprec) false
  let _ ← s.tileSpan c o.w dst (groupSize wprec) true
  let data ← s.tileRead c src x (sourceSize wprec)
  return { (s.core c).tile.bare o with data := data }

/-- The start of a tscale: the FIFO has room (R274). -/
def State.startTscale (s : State) (c : CoreIx) (o : TileOp) (a : W64) : Except Stop TileRun := do
  let x ← s.tileSpan c o.w a 256 false
  let data ← s.tileRead c a x 256
  if (s.core c).tile.fifo.length ≥ 8 then .error (.wait .tile)
  else return { (s.core c).tile.bare o with data := data }

/-! ### tepi (R269) -/

/-- y of an activation, on f32 bits; f is the register operand (R269). -/
def TepiAct.apply (act : TepiAct) (x f : Nat) : Nat :=
  let f := f % 2 ^ 32
  let nan (v : Nat) : Bool := (fmtF32.val v).isNan
  match act with
  | .none => x
  | .relu => if nan x then fmtF32.nan else (fMinMax fmtF32 true x 0).1
  | .clamp _ =>
    let b := f % 2 ^ 31
    if nan x || nan f then fmtF32.nan else (fMinMax fmtF32 false (fMinMax fmtF32 true x (b + 2 ^ 31)).1 b).1
  | .leaky _ =>
    if nan x then fmtF32.nan
    else if ((fmtF32.cmpVal x).getD 0) ≥ 0 then x
    else (fMul fmtF32 .rne x f).1

def Tile.entry (x : Tile) (r j : Nat) : AccEntry := x.acc[(128 * r + j) % 16384]'(Nat.mod_lt _ (by decide))

/-- The bytes that row r of the accumulator store becomes (R269). -/
def Tile.rowImage (x : Tile) (ty : ETy) (act : TepiAct) (rm : RMode) (f : W64) (r : Nat) : List Byte :=
  (List.range 128).flatMap fun j =>
    natBytes (ETy.width ty / 8) (convert ty .f32 rm (TepiAct.apply act (x.entry r j).outer.toNat f.toNat)).1

/-- A part of eight bytes of a checked 64-byte lane. -/
def Lane.part (l : Lane) (bs : List Byte) (k : Nat) : Lane :=
  { l with
    lane := k
    va := l.va + BitVec.ofNat 64 (8 * k)
    place := match l.place with
      | .global pa => .global (pa + 8 * k)
      | .own cl off => .own cl (off + 8 * k)
      | .remote cl off => .remote cl (off + 8 * k)
      | .scratch c off => .scratch c (off + 8 * k)
    size := 8
    slice := (l.slice.drop (8 * k)).take 8
    data := bytesWord ((bs.drop (8 * k)).take 8) }

/-- Steps 1, 2, 5 and 6 of R141 for 64 destination bytes; TRAPVA of UNDECLARED is the first byte that fails. -/
def checkChunk (va : W64) : Op Lane := fun s =>
  match checkAddr { size := 64, align := 1, need := needW } 0 va s with
  | .error (.trap 0x08 _ aux) =>
    let bad := (List.range 64).find? fun i => !regionsPermit (s.records s.me) needW (va.toNat + i) 1
    .error (.trap 0x08 (va + BitVec.ofNat 64 (bad.getD 0)) aux)
  | r => r

/-- The guest page of the translation that a core holds for an address: base and size, of size 0 for none (R374). -/
def State.guestPage (s : State) (c : CoreIx) (va : W64) : Nat × Nat :=
  if !inGlobal va then (0, 0)
  else
    let armed := s.logArmed (s.partOf (CoreIx.cluster c))
    (((s.core c).tlb.find? (TlbEntry.serves armed needW va.toNat)).map fun e => (e.gbase, e.gsize)).getD (0, 0)

/-- The drains and assignments of a remote place's cluster (R153). -/
def State.epochAt (s : State) : Place → Nat
  | .remote cl _ => (s.cluster cl).epoch
  | .own _ _ | .scratch _ _ | .global _ => 0

/-- Check and cut the rows of a tepi into segments, row by row. -/
def tepiRows (image : Nat → List Byte) (base stride : W64) (row0 m : Nat) : List Nat → Op (List Segment)
  | [] => return []
  | i :: rest => do
    let bs := image ((row0 + i) % 128)
    let segs ← chunks bs (base + BitVec.ofNat 64 i * stride) (List.range (bs.length / 64))
    let more ← tepiRows image base stride row0 m rest
    return segs ++ more
where
  /-- The 64-byte segments of one row. -/
  chunks (bs : List Byte) (va : W64) : List Nat → Op (List Segment)
    | [] => return []
    | k :: rest => do
      let at_ := va + BitVec.ofNat 64 (64 * k)
      let l ← checkChunk at_
      notHeld l true
      let s ← get
      let part := (bs.drop (64 * k)).take 64
      let more ← chunks bs va rest
      return {
        seg := 0
        key := s.uids
        page := s.guestPage (SlotIx.core s.cur) at_
        epoch := s.epochAt l.place
        w := s.cur
        uid := s.me.uid
        va := at_
        lanes := (List.range 8).map (l.part part)
        stale := false
        held := none
        again := false } :: more

/-- The start of a tepi (R269). -/
def startTepi (o : TileOp) (ty : ETy) (act : TepiAct) (rm : RMode) (base stride rows factor : W64) : Op TileRun := do
  let (row0, m) := rowsOf rows
  match (List.range m).find? fun i => (base + BitVec.ofNat 64 i * stride).toNat % 64 != 0 with
  | some i => raise 0x05 (base + BitVec.ofNat 64 i * stride) 0
  | none =>
    let tile := (← get).myCore.tile
    let segs ← tepiRows (tile.rowImage ty act rm factor) base stride row0 m (List.range m)
    match tile.epi.find? fun g => g.held.isSome with
    | some g => raise 0x13 g.va (atBit 63 1)
    | none =>
      modify fun s => { s with uids := s.uids + 1 }
      return { tile.bare o with segs := segs }

/-- The start checks of an entry at a core: a new state, with what the entry read. -/
def State.tileCheck (s : State) (c : CoreIx) (o : TileOp) : Except Stop (State × TileRun) :=
  match o.kind with
  | .tmac _ a b rows tfmt _ => (s.startTmac c o a b rows tfmt).map fun r => (s, r)
  | .tplane dst src _ tfmt => (s.startTplane c o dst src tfmt).map fun r => (s, r)
  | .tscale a _ => (s.startTscale c o a).map fun r => (s, r)
  | .tepi ty act rm base stride rows factor =>
    (startTepi o ty act rm base stride rows factor { s with cur := o.w }).map fun r => ({ r.2 with cur := s.cur }, r.1)
  | .tzero _ _ | .taccGet _ _ _ _ _ _ | .taccPut _ _ _ _ _ | .key _ _ | .flush => .ok (s, (s.core c).tile.bare o)

/-! ### Remote commands (R265, R266) -/

def State.setTmacr (s : State) (key : Nat) (ph : RPhase) : State :=
  { s with tmacrs := updateAll s.tmacrs (fun x => x.key == key) fun x => { x with phase := ph } }

/-- The requested bits, as capability bits [15:10] number them (R265, R266). -/
def TFlags.requested (fl : TFlags) : Nat := 1 + boolNat fl.first * 2 + boolNat fl.promote * 4 + boolNat fl.pop * 8

/-- Whether capability and key table grant a command (R266 reason 1). -/
def Tmacr.granted (x : Tmacr) (keys : Vector KeyEntry 8) : Bool :=
  let want : BitVec 6 := BitVec.ofNat 6 (TFlags.requested x.fl)
  bits x.cap 63 48 == 0 && bits x.cap 15 14 == 0 && x.cap.extractLsb' 10 6 &&& want == want &&
  keys.toList.any fun k => k.valid && k.key == x.cap.extractLsb' 16 32 && k.ops &&& want == want

/-- The core a capability names (R265). -/
def State.tmacrTarget (s : State) (x : Tmacr) : Option CoreIx :=
  let n := bits x.cap 9 0
  let near := SlotIx.cluster x.src
  match s.physical (s.partOf near) (n / 8) with
  | none => none
  | some cl => if s.permitted near (n / 8) cl then some (coreOf cl ⟨n % 8, Nat.mod_lt _ (by decide)⟩) else none

/-- A remote command reaches its target's queue (R265, R267). -/
def execTmacrCommand (i : Nat) (s : State) : Out :=
  match s.tmacrs[i]? with
  | none => .next s
  | some x =>
    let same (y : Tmacr) : Bool :=
      SlotIx.core y.src == SlotIx.core x.src && bits y.cap 9 0 == bits x.cap 9 0 && y.ch == x.ch && y.phase == .sent
    if x.phase != .sent || (s.tmacrs.take i).any same then .next s
    else
      match s.tmacrTarget x with
      | none => .next (s.setTmacr x.key (.refused 2 0))
      | some c =>
        if (s.core c).stopping || (s.savedIx c).isSome then .next (s.setTmacr x.key (.refused 4 0))
        else
          let s := s.modTile c fun y => { y with
            queue := y.queue ++ [⟨y.tokens, x.src, x.uid, some x.key, .tmac x.fl x.a x.b x.c x.tfmt false⟩]
            tokens := y.tokens + 1 }
          .next (s.setTmacr x.key .queued)

/-- The acknowledgement of a remote command reaches its source (R266). -/
def execTmacrAck (i : Nat) (s : State) : Out :=
  match s.tmacrs[i]? with
  | some x => if x.phase == .done then .next { s with tmacrs := s.tmacrs.eraseIdx i } else .next s
  | none => .next s

/-- A refusal reaches its source: TILE_CAP becomes pending (R266). -/
def execTileCap (i : Nat) (s : State) : Out :=
  match s.tmacrs[i]? with
  | none => .next s
  | some x =>
    match x.phase with
    | .refused reason code =>
      let aux := bits x.cap 9 0 + TFlags.requested x.fl * 2 ^ 10 + x.count.toNat * 2 ^ 16 + reason * 2 ^ 32 + code * 2 ^ 36
      let s := { s with tmacrs := s.tmacrs.eraseIdx i }
      .next (s.pendAsync x.src x.uid ⟨0x12, s.now, x.a, BitVec.ofNat 64 aux, none, none⟩)
    | _ => .next s

/-! ### Start -/

/-- An entry leaves the queue without starting. -/
def State.dropTile (s : State) (c : CoreIx) (token : Nat) : State :=
  s.modTile c fun x => { x with queue := x.queue.filter fun o => o.token != token }

/-- Whether the issuing thread is stalled until an entry starts (R251), and until it completes (R264). -/
def TileKind.stalls : TileKind → Bool
  | .tmac _ _ _ _ _ _ | .tepi _ _ _ _ _ _ _ | .tplane _ _ _ _ | .tscale _ _ => true
  | .tzero _ _ | .taccGet _ _ _ _ _ _ | .taccPut _ _ _ _ _ | .key _ _ | .flush => false

def TileKind.trapen : TileKind → Bool
  | .tmac _ _ _ _ _ t => t
  | _ => false

/-- The refusal of a remote command whose start check fails (R266 reason 3): the SCALE_SEQ code, or 8. -/
def startRefusal (code : BitVec 8) (aux : W64) : RPhase := .refused 3 (if code == 0x11 then bits aux 35 32 else 8)

/-- A start check failed: an exact trap of the stalled thread, or a refusal of a remote command. -/
def State.tileFail (s : State) (c : CoreIx) (o : TileOp) (code : BitVec 8) (va aux : W64) : State :=
  let s := s.dropTile c o.token
  match o.remote with
  | some key => s.setTmacr key (startRefusal code aux)
  | none => if (s.thread o.w).uid == o.uid then (s.undo o.w none).takeTrap o.w false code (s.thread o.w).ip va aux else s

/-- Rows released by a tepi at its start (R269). -/
def Tile.release (x : Tile) (rows : W64) : Tile :=
  let (row0, m) := rowsOf rows
  { x with acc := (List.range m).foldl (fun acc i =>
      (List.finRange 128).foldl (fun acc j =>
        acc.setIfInBounds (128 * ((row0 + i) % 128) + j.val) ⟨0, 0⟩) acc) x.acc }

/-- An entry has started: its thread goes on, unless it waits for completion. -/
def State.tileStarted (s : State) (c : CoreIx) (r : TileRun) : State :=
  let o := r.op
  let s := (s.dropTile c o.token).modTile c fun x =>
    let x := { x with running := some r }
    match o.kind with
    | .tepi _ _ _ _ _ rows _ => x.release rows
    | _ => x
  if o.remote.isNone && o.kind.stalls && !o.kind.trapen && (s.thread o.w).uid == o.uid then s.modThread o.w Thread.done else s

/-- The host's answer that a stalled entry carries (R382). -/
def Thread.tileWait (t : Thread) (token : Nat) : Option (Option Nat) :=
  match t.wait with
  | .tileStart k d => if k == token then some d else none
  | _ => none

/-- The next entry of a tile queue starts (R250). -/
def execTileStart (c : CoreIx) (s : State) : Out :=
  let tile := (s.core c).tile
  match tile.queue with
  | [] => .next s
  | o :: rest =>
    if o.kind == .flush then
      let s := s.modTile c fun x => { x with queue := rest, fifo := [] }
      .next (if (s.thread o.w).uid == o.uid && ((s.thread o.w).tileWait o.token).isSome then s.modThread o.w Thread.done else s)
    else if tile.running.isSome then .next s
    else
      let declined := if o.remote.isNone && o.kind.stalls then (s.thread o.w).tileWait o.token else some none
      let refused : Bool := match o.remote with
        | some key => (s.tmacrs.find? fun x => x.key == key).any fun x => !x.granted tile.keys
        | none => false
      match declined with
      | none => .next s
      | some answer =>
        if refused then
          match o.remote with
          | some key => .next ((s.dropTile c o.token).setTmacr key (.refused 1 0))
          | none => .next s
        else
          match s.tileCheck c o with
          | .ok (s, r) => .next (s.tileStarted c r)
          | .error (.trap code va aux) => .next (s.tileFail c o code va aux)
          | .error (.host ipa code va aux) =>
            if answer == some ipa then .next (s.tileFail c o code va aux) else .next (s.hostWait o.w ipa)
          | .error (.wait .log) => .next (s.logStall (s.partOf (CoreIx.cluster c)))
          | .error _ => .next s

/-! ### The arithmetic of a tmac (R87, R88) -/

/-- One pass: what a set bit of each k adds, and the row of weight bits. Ternary rows pair a sign row with a magnitude
row (R84). -/
structure Pass where
  scale : Int
  lanes : List (Int × Nat × Nat)
deriving DecidableEq, Repr

/-- The 128-bit row k of plane j of a plane group (R253). -/
def planeRow (group j k : Nat) : Nat := group / 2 ^ (8 * (64 + 1024 * j + 16 * k)) % 2 ^ 128

/-- The bytes of an activation row with their weights, low byte first (R85). -/
def rowPasses (block : Nat) (wide : Bool) (i : Nat) : List (Int × List Int) :=
  let byte (n : Nat) : Nat := block / 2 ^ (8 * n) % 256
  let signed (x : Nat) : Int := if x ≥ 128 then (x : Int) - 256 else x
  if wide then
    [(1, (List.range 64).map fun k => (byte (128 * i + 2 * k) : Int)),
     (256, (List.range 64).map fun k => signed (byte (128 * i + 2 * k + 1)))]
  else [(1, (List.range 64).map fun k => signed (byte (64 * i + k)))]

/-- The passes of row i in their order (R87). The lanes carry sign row and magnitude row; a plane bit is a magnitude. -/
def passesOf (group block : Nat) (tfmt : BitVec 6) (i : Nat) : List Pass :=
  let wprec := tfmt.toNat / 2
  (rowPasses block (tfmt.getLsbD 0) i).flatMap fun (weight, xs) =>
    if wprec == 0 then
      [⟨weight, (xs.zip (List.range 64)).map fun (x, k) => (x, planeRow group 0 k, planeRow group 1 k)⟩]
    else
      (List.range wprec).map fun j =>
        ⟨weight * (if j + 1 == wprec then -(2 ^ j : Int) else 2 ^ j),
          (xs.zip (List.range 64)).map fun (x, k) => (x, 0, planeRow group j k)⟩

/-- The exact contribution of a pass to a column (R87). -/
def Pass.sum (p : Pass) (j : Nat) : Int :=
  p.scale * p.lanes.foldl (fun acc (x, sg, mg) =>
    if mg.testBit j then (if sg.testBit j then acc - x else acc + x) else acc) 0

/-- The saturating additions of one cell, and the first pass that saturates (R87). -/
def runPasses (ps : List Pass) (j : Nat) (inner : Int) : Int × Option Nat :=
  (ps.zip (List.range ps.length)).foldl (fun (acc : Int × Option Nat) (p, n) =>
    let t := acc.1 + p.sum j
    let x := clampInt (-(2 ^ 31)) (2 ^ 31 - 1) t
    (x, if x != t && acc.2.isNone then some n else acc.2)) (inner, none)

/-- Promotion (R88), on f32 bits. -/
def promoteCell (inner : Int) (outer sA sW : Nat) : Nat :=
  let p := (fMul fmtF32 .rne sA sW).1
  let t := (finish fmtF32 .rne false ((Num.fin (inner < 0) inner.natAbs 0).mul (fmtF32.val p))).1
  (fAdd fmtF32 .rne outer t).1

/-- Row scale i of an activation block (R254). -/
def rowScale (block : Nat) (tfmt : BitVec 6) (m i : Nat) : BitVec 16 :=
  BitVec.ofNat 16 (block / 2 ^ (8 * (m * rowBytes tfmt + 2 * i)))

/-- One cell of a tmac: its new entry and the first pass that saturates (R263). -/
def tmacCell (fl : TFlags) (ps : List Pass) (sA : Nat) (head : ScaleEntry) (j : Nat) (e : AccEntry) : AccEntry × Option Nat :=
  let (x, sat) := runPasses ps j (if fl.first then 0 else e.inner.toInt)
  if fl.promote then
    (⟨0, BitVec.ofNat 32 (promoteCell x e.outer.toNat sA (scaleF32 (head.scales.getD j 0)))⟩, sat)
  else (⟨BitVec.ofInt 32 x, e.outer⟩, sat)

/-- A tmac over its rows: the new store, and the first saturating addition as row, column, pass (R263, R264). -/
def Tile.tmac (x : Tile) (r : TileRun) (fl : TFlags) (rows : W64) (tfmt : BitVec 6) :
    Vector AccEntry 16384 × Option (Nat × Nat × Nat) :=
  let (row0, m) := rowsOf rows
  (List.range m).foldl (fun acc i =>
    let row := (row0 + i) % 128
    if !r.valid.getLsbD row then acc
    else
      let ps := passesOf r.data r.rows tfmt i
      let sA := scaleF32 (rowScale r.rows tfmt m i)
      (List.range 128).foldl (fun acc j =>
        let (e, sat) := tmacCell fl ps sA r.head j (x.entry row j)
        (acc.1.setIfInBounds (128 * row + j) e, match acc.2, sat with
          | none, some p => some (row, j, p)
          | was, _ => was)) acc) (x.acc, none)

/-! ### Completion -/

/-- The rows of a tzero (R268). -/
def Tile.zero (x : Tile) (kind : TzKind) (rows : W64) : Tile :=
  let (row0, m) := rowsOf rows
  let hit := (List.range m).map fun i => (row0 + i) % 128
  let mask : BitVec 128 := BitVec.ofNat 128 ((hit.map fun r => 2 ^ r).sum)
  let each (f : AccEntry → AccEntry) : Tile :=
    { x with acc := hit.foldl (fun acc r => (List.range 128).foldl (fun acc j =>
        acc.setIfInBounds (128 * r + j) (f (x.entry r j))) acc) x.acc }
  match kind with
  | .inner => each fun e => { e with inner := 0 }
  | .outer => each fun e => { e with outer := 0 }
  | .both => each fun _ => ⟨0, 0⟩
  | .valid => { x with valid := x.valid ||| mask }
  | .invalid => { x with valid := x.valid &&& ~~~mask }

/-- The 32 entries that a tacc.get reads (R271). -/
def Tile.getRow (x : Tile) (outer : Bool) (row : W64) (grp : Fin 4) : Vec :=
  Vector.ofFn fun i =>
    let e := x.entry (bits row 6 0) (32 * grp.val + i.val)
    if outer then e.outer else e.inner

/-- A tacc.put (R271). -/
def Tile.putRow (x : Tile) (outer : Bool) (data : Vec) (row : W64) (grp : Fin 4) (mask : W32) : Tile :=
  { x with acc := (List.finRange 32).foldl (fun acc i =>
      let e := x.entry (bits row 6 0) (32 * grp.val + i.val)
      if mask.getLsbD i.val then
        acc.setIfInBounds (128 * bits row 6 0 + 32 * grp.val + i.val) (if outer then { e with outer := data[i] } else { e with inner := data[i] })
      else acc) x.acc }

/-- The plane group that a tplane builds from its source (R272, R252, R253), as one number. -/
def planeGroup (src wprec : Nat) (seq : BitVec 16) : Nat :=
  let size := if wprec ≤ 8 then 1 else 2
  let weight (k n : Nat) : Nat := src / 2 ^ (8 * size * (128 * k + n)) % 2 ^ (8 * size)
  let bit (j k n : Nat) : Bool :=
    let x := weight k n
    if wprec == 0 then (if j == 0 then x ≥ 2 ^ (8 * size - 1) else x != 0) else x.testBit j
  let row (j k : Nat) : Nat := (List.range 128).foldl (fun acc n => if bit j k n then acc + 2 ^ n else acc) 0
  let plane (j : Nat) : Nat := (List.range 64).foldr (fun k acc => row j k + 2 ^ 128 * acc) 0
  let header := seq.toNat + (wprec + 64 * 2 ^ 16 + 128 * 2 ^ 24) * 2 ^ 16
  header + 2 ^ 512 * (List.range (planeCount wprec)).foldr (fun j acc => plane j + 2 ^ 8192 * acc) 0

/-- The scale entry that a number of 256 bytes holds (R255, R274). -/
def scaleEntry (tag : BitVec 16) (data : Nat) : ScaleEntry :=
  ⟨tag, (List.range 128).map fun j => BitVec.ofNat 16 (data / 2 ^ (16 * j))⟩

/-- Segments take the free places of the epilogue buffer in order (R270). -/
def Tile.buffer (x : Tile) (segs : List Segment) : Tile × List Segment :=
  let free := indices 64 fun n => x.epi.all fun g => g.seg != n
  ({ x with epi := x.epi ++ (segs.zip free).map fun (g, n) => { g with seg := n } }, segs.drop free.length)

/-- The entry that runs is over. -/
def State.tileOver (s : State) (c : CoreIx) (o : TileOp) : State :=
  let s := s.modTile c fun x => { x with running := none }
  match o.remote with
  | some key => s.setTmacr key .done
  | none => if o.kind.trapen && (s.thread o.w).uid == o.uid then s.modThread o.w Thread.done else s

/-- The passes of a format (R263). -/
def passCount (tfmt : BitVec 6) : Nat := max 1 (tfmt.toNat / 2) * (if tfmt.getLsbD 0 then 2 else 1)

/-- A tmac completes (R263, R264). -/
def State.endTmac (s : State) (c : CoreIx) (r : TileRun) (fl : TFlags) (rows : W64) (tfmt : BitVec 6) (trapen : Bool) : State :=
  let (acc, sat) := (s.core c).tile.tmac r fl rows tfmt
  match trapen, sat with
  | true, some (row, col, pass) =>
    let s := s.modTile c fun x => { x with running := none }
    if (s.thread r.op.w).uid == r.op.uid then
      (s.undo r.op.w none).takeTrap r.op.w false 0x10 (s.thread r.op.w).ip 0 (BitVec.ofNat 64 (row + col * 2 ^ 7 + pass * 2 ^ 14))
    else s
  | _, _ =>
    let s := s.modCore c fun k => { k with passes := k.passes + passCount tfmt }
    (s.modTile c fun x => { x.saturate sat.isSome with acc := acc, fifo := if fl.pop then x.fifo.drop 1 else x.fifo }).tileOver c r.op

/-- The entry that runs completes (R263), and acknowledges a remote source (R266); a tplane writes no range that another
thread has locked (R372). -/
def execTileComplete (c : CoreIx) (s : State) : Out :=
  match (s.core c).tile.running with
  | none => .next s
  | some r =>
    match r.op.kind with
    | .tmac fl _ _ rows tfmt trapen => .next (s.endTmac c r fl rows tfmt trapen)
    | .tzero kind rows => .next ((s.modTile c fun x => x.zero kind rows).tileOver c r.op)
    | .tepi _ _ _ _ _ _ _ =>
      let (x, left) := (s.core c).tile.buffer r.segs
      let s := s.modTile c fun _ => { x with running := some { r with segs := left } }
      .next (if left.isEmpty then s.tileOver c r.op else s)
    | .taccGet outer d row grp m mask =>
      let v := (s.core c).tile.getRow outer row grp
      let s := match d with
        | some d =>
          if (s.thread r.op.w).uid == r.op.uid then s.modThread r.op.w fun t => t.setV d (mergeV mask m.z t.v[d] v) else s
        | none => s
      .next (s.tileOver c r.op)
    | .taccPut outer data row grp mask => .next ((s.modTile c fun x => x.putRow outer data row grp mask).tileOver c r.op)
    | .tplane dst _ seq tfmt =>
      let wprec := tfmt.toNat / 2
      let bs := natBytes (groupSize wprec) (planeGroup r.data wprec seq)
      let off := dst.toNat - scratchBase
      if (s.core c).locksOut r.op.w off (groupSize wprec) then .next s
      else .next ((s.modCore c fun x => { x with scratch := x.scratch.write off bs }).tileOver c r.op)
    | .tscale _ tag =>
      if (s.core c).tile.fifo.length ≥ 8 then .next s
      else .next ((s.modTile c fun x => { x with fifo := x.fifo ++ [scaleEntry tag r.data] }).tileOver c r.op)
    | .key value idx =>
      .next ((s.modTile c fun x => { x with
        keys := x.keys.set idx ⟨value.getLsbD 63, value.extractLsb' 32 6, value.extractLsb' 0 32⟩ }).tileOver c r.op)
    | .flush => .next (s.tileOver c r.op)

/-! ### The epilogue buffer (R270) -/

/-- Why the store of a segment is refused, if it is. -/
def State.segRefusal (s : State) (g : Segment) : Option Nat :=
  let near := SlotIx.cluster g.w
  let far (l : Lane) : Bool := match l.place with
    | .remote cl _ => (s.cluster cl).epoch != g.epoch || (s.cluster cl).part != (s.cluster near).part ||
        !s.permitted cl (s.vcluster near) near || s.bad l
    | _ => false
  if g.lanes.any far then some 1
  else if g.lanes.any s.bad then some 2
  else if g.stale then some 3
  else none

def Tile.heldCount (x : Tile) : Nat := (x.epi.filter fun g => g.held.isSome).length

/-- A segment is held and EPI_STORE becomes pending in its thread (R270). -/
def State.holdSegment (s : State) (c : CoreIx) (g : Segment) (reason : Nat) : State :=
  let s := s.modTile c fun x => { x with epi := updateAll x.epi (fun y => y.seg == g.seg) fun y => { y with held := some reason, again := false } }
  let aux := g.seg + (s.core c).tile.heldCount * 256 + reason * 65536
  s.pendAsync g.w g.uid ⟨0x13, s.now, g.va, BitVec.ofNat 64 aux, none, none⟩

/-- Whether an earlier posted store of the thread to the segment's cluster is still to be performed (R151, R269). -/
def Core.segBehind (k : Core) (g : Segment) : Bool :=
  k.journal.any fun j => j.uid == g.uid && j.key < g.key && j.state != .performed && g.goesTo j.uid j.cl

/-- The store of a segment: performed, or refused and held (R270), after earlier overlapping segments and, through the
remote window, in the order of the thread's posted stores; another thread's lock stalls it (R372). -/
def execEpiStore (c : CoreIx) (seg : Nat) (s : State) : Out :=
  let tile := (s.core c).tile
  match tile.epi.find? fun g => g.seg == seg with
  | none => .next s
  | some g =>
    let before := tile.epi.takeWhile fun y => y.seg != seg
    if g.held.isSome || (s.core c).segBehind g || g.lanes.any (s.lockedOut g.w) ||
      before.any fun y => y.held.isNone && y.lanes.any fun a => g.lanes.any a.overlaps then .next s
    else
      match s.segRefusal g with
      | some reason => .next (s.holdSegment c g reason)
      | none =>
        .next ((g.lanes.foldl (fun s l => s.storeLane g.w l) s).modTile c fun x =>
          { x with epi := x.epi.filter fun y => y.seg != seg })

/-- A held segment translated again at page pa. -/
def Segment.replayed (g : Segment) (pa : Option Nat) : Segment :=
  { g with
    held := none
    stale := false
    again := false
    lanes := match pa with
      | none => g.lanes
      | some pa => g.lanes.map fun l => { l with place := .global (pa + (l.va - g.va).toNat) } }

/-- Store a segment that has been translated again: performed, or refused and held once more (R270). -/
def State.storeAgain (s : State) (c : CoreIx) (g : Segment) : State :=
  match s.segRefusal g with
  | some reason => s.holdSegment c g reason
  | none =>
    (g.lanes.foldl (fun s l => s.storeLane g.w l) s).modTile c fun x => { x with epi := x.epi.filter fun y => y.seg != g.seg }

/-- Replay one held segment (R270): translated and stored again, or held with reason 3. declined is the intermediate
address that the host has declined to resolve (R382); until it answers, and while the log stalls the translation
(R414) or a lock the store (R372), the replay waits. -/
def State.replayOne (s : State) (c : CoreIx) (declined : Option Nat) (g : Segment) : Except Stop State :=
  if g.lanes.any (s.lockedOut g.w) then .error (.wait .scratch)
  else if !inGlobal g.va then .ok (s.storeAgain c (g.replayed none))
  else
    match s.step5 g.w needW 0 g.va with
    | .ok (pa, s) => .ok (s.storeAgain c { g.replayed (some pa) with page := s.guestPage c g.va })
    | .error (.wait why) => .error (.wait why)
    | .error (.host ipa code va aux) => if declined == some ipa then .ok (s.holdSegment c g 3) else .error (.host ipa code va aux)
    | .error _ => .ok (s.holdSegment c g 3)

/-- Replay segments in turn, up to one that must wait. -/
def State.replayAll (s : State) (c : CoreIx) (declined : Option Nat) : List Segment → State × Option Stop
  | [] => (s, none)
  | g :: rest =>
    match s.replayOne c declined g with
    | .ok s => s.replayAll c declined rest
    | .error e => (s, some e)

/-- EPIREPLAY command 1 (R270): the held segments in their original order. Once the host has declined an address, the
replay that waited for it goes on with what it has still to take. -/
def State.epiReplay (s : State) (c : CoreIx) (declined : Option Nat) : State × Option Stop :=
  let s := if declined.isSome then s
    else s.modTile c fun x => { x with epi := x.epi.map fun g => { g with again := g.held.isSome } }
  s.replayAll c declined ((s.core c).tile.epi.filter Segment.again)

/-- EPIREPLAY command 2 (R270). -/
def State.epiDiscard (s : State) (c : CoreIx) : State :=
  s.modTile c fun x => { x with epi := x.epi.filter fun g => g.held.isNone }

/-- Whether a tile instruction of the core's own threads has still to start (R259). -/
def Tile.unstarted (x : Tile) : Bool := x.queue.any fun o => o.remote.isNone

/-- The flush that a write of TSEQ.FLUSH asks for, of a thread that waits for it. -/
def Tile.flushFor (x : Tile) (w : SlotIx) (uid : Nat) : TileOp := ⟨x.tokens, w, uid, none, .flush⟩

/-- Put an entry behind the last one of the core's own threads, ahead of the remote commands after it. -/
def flushBehind (e : TileOp) (q : List TileOp) : List TileOp :=
  let tail := (q.reverse.takeWhile fun o => o.remote.isSome).reverse
  q.take (q.length - tail.length) ++ e :: tail

/-- Writing TSEQ.FLUSH (R259): at once when no tile instruction of the core's threads has still to start, else behind
the last of them. -/
def State.tseqFlush (s : State) (c : CoreIx) : State :=
  s.modTile c fun x =>
    if x.unstarted then { x with queue := flushBehind (x.flushFor 0 0) x.queue, tokens := x.tokens + 1 }
    else { x with fifo := [] }

/-- TSEQ.FLUSH (R259). -/
def execTseqFlush (c : CoreIx) (s : State) : Out := .next (s.tseqFlush c)

/-- EPIREPLAY command 1 (R270), as far as its translations go. -/
def execEpiReplay (c : CoreIx) (s : State) : Out :=
  .next (s.epiReplay c none).1

/-- EPIREPLAY command 2 (R270). -/
def execEpiDiscard (c : CoreIx) (s : State) : Out := .next (s.epiDiscard c)

end Sys2Proof.Machine
end

