-- ==== Sys2Proof/Machine/Transfer.lean ====
section
/-! DEFINITION. Transfer class and the copy engine (R301 to R323): opcodes 0xD8 to 0xDB, the sectors of a transfer, its
completion, its errors and its notification. -/

namespace Sys2Proof.Machine

/-! ### The parameter block and the control word (R303, R304) -/

def Transfer.notify (t : Transfer) : Bool := t.ctl.getLsbD 4
def Transfer.barEn (t : Transfer) : Bool := t.ctl.getLsbD 5
def Transfer.barId (t : Transfer) : Fin 64 := (t.ctl.extractLsb' 6 6).toFin
def Transfer.seq (t : Transfer) : BitVec 16 := t.ctl.extractLsb' 32 16
def Transfer.vrow0 (t : Transfer) : Nat := bits t.ctl 54 48
def Transfer.scalEn (t : Transfer) : Bool := t.ctl.getLsbD 55
def Transfer.vcnt (t : Transfer) : Nat := bits t.ctl 63 56

/-- The transfer that a block describes (R303). -/
def Transfer.ofBlock (m : Memory) (off : Nat) (w : SlotIx) (t : Thread) : Transfer :=
  let word (i : Nat) : W64 := BitVec.ofNat 64 (m.word (off + 8 * i) 8)
  { num := 0
    w := w
    uid := t.uid
    part := t.part
    home := t.home
    team := t.team
    src := word 0
    dst := word 1
    rowBytes := bits (word 2) 63 32
    rows := bits (word 2) 31 0
    sstride := word 3
    dstride := word 4
    ctl := word 5
    marg := word 6
    handler := word 7
    state := .flight
    words := []
    bytes := 0
    dests := []
    scales := none
    hostWait := none
    declined := none
    halted := false
    flits := []
    order := 0 }

def inScratch (va : W64) : Bool :=
  match window va with
  | .scratch _ => true
  | _ => false

def inLocal (va : W64) : Bool :=
  match window va with
  | .own _ | .remote _ _ => true
  | _ => false

/-- Greatest common divisor of a core stride and 8 (R306). -/
def strideGcd (n : Nat) : Nat := if n % 2 == 1 then 1 else if n % 4 == 2 then 2 else if n == 4 then 4 else 8

/-- Whether every destination row of a plain transfer lies in local memory (R308). -/
def Transfer.dstLocal (t : Transfer) : Bool :=
  (List.range t.rows).all fun r =>
    let a := t.dst + BitVec.ofNat 64 r * t.dstride
    inLocal a && inLocal (a + BitVec.ofNat 64 (t.rowBytes - 1))

/-- The causes for which xgo refuses a block (R315). -/
def Transfer.breaks (t : Transfer) : Nat → Bool
  | 1 => t.mode > 2
  | 2 => t.rows == 0 || t.rows > 65536 || t.rowBytes == 0 || t.rowBytes > 2 ^ 24 || (t.barEn && t.total == 2 ^ 40)
  | 3 => t.fill && (t.mode != 0 || !t.dstLocal || t.dst.toNat % 8 != 0 || t.rowBytes % 8 != 0 || t.dstride.toNat % 8 != 0)
  | 4 => t.mode == 1 && (t.block == 0 || t.block % 64 != 0 || t.cstride == 0 || t.ncore == 0 || t.ncore > 8 ||
      t.ncore > 8 / strideGcd t.cstride || t.dstride != 0 || !inScratch t.dst)
  | 5 => t.mode == 2 && (t.vcnt > 128 || (t.scalEn && t.marg.toNat % 64 != 0) || !inScratch t.dst)
  | 6 => t.notify && (!inGlobal t.handler || t.handler.toNat % 64 == 0)
  | 7 => bits t.ctl 31 26 != 0 || bits t.ctl 15 12 != 0 || (t.mode != 2 && bits t.ctl 63 32 != 0) ||
      (t.mode != 1 && bits t.ctl 25 19 != 0) || (t.mode == 0 && (bits t.ctl 18 16 != 0 || t.marg != 0)) ||
      (t.mode == 1 && bits t.marg 63 32 != 0) || (!t.notify && t.handler != 0)
  | _ => false

/-- The lowest refusal code of a block, if any (R315). -/
def Transfer.refusalCode (t : Transfer) : Option Nat := [1, 2, 3, 4, 5, 6, 7].find? t.breaks

/-! ### Status (R311, R312) -/

def XState.code : XState → Nat
  | .flight => 0
  | .complete => 1
  | .error _ => 2
  | .cancelled => 3

def XState.err : XState → Nat
  | .error code => code
  | _ => 0

/-- Whether a flit of a transfer is on its way: not acknowledged over a link that is up (R415). -/
def State.flitOut (s : State) (f : Fin 16 × Nat × Nat) : Bool :=
  s.ports[f.1].up && !s.ports[f.1].refused.contains f.2.1 && s.ports[f.1].unacked.any fun x => x.seq == f.2.1

/-- Whether the peer refused a flit, or its link is down with the flit unacknowledged (R415, R416). -/
def State.flitFailed (s : State) (f : Fin 16 × Nat × Nat) : Bool :=
  s.ports[f.1].refused.contains f.2.1 || (!s.ports[f.1].up && s.ports[f.1].unacked.any fun x => x.seq == f.2.1)

def State.flitsOut (s : State) (t : Transfer) : Bool := t.flits.any s.flitOut
def State.flitsFailed (s : State) (t : Transfer) : Bool := t.flits.any s.flitFailed

/-- The lowest stream offset that is not written: what was sent and is not performed is not (R310, R312). -/
def State.lowest (s : State) (t : Transfer) : Nat :=
  (t.flits.filter fun f => s.flitOut f || s.flitFailed f).foldl (fun n f => min n f.2.2) t.bytes

/-- The status word (R312). -/
def State.xstatus (s : State) (t : Transfer) : W64 :=
  let bytes := match t.state with
    | .complete => t.total
    | .flight => s.lowest t
    | .error _ | .cancelled => t.bytes
  BitVec.ofNat 64 (t.state.code * 2 ^ 62 + t.state.err * 2 ^ 56 + bytes)

/-- The status of a stale id (R312). -/
def staleStatus : W64 := atBit 62 1 ||| atBit 55 1

/-- The entry that an id names, unless it is stale (R311). -/
def Core.transfer (c : Core) (id : W64) : Option (Fin 16 × Transfer) :=
  let e : Fin 16 := (id.extractLsb' 0 4).toFin
  match c.score[e] with
  | none => none
  | some t => if bits id 63 32 == 0 && t.num == id.extractLsb' 4 28 then some (e, t) else none

/-! ### Where the bytes are (R305 to R308) -/

/-- What stops a sector: an error code (R310), a host-stage failure (R382), or a wait for a lock or the log. -/
inductive XStop where
  | error (code : Nat)
  | host (ipa : Nat)
  | wait (log : Bool)
deriving DecidableEq, Repr

/-- The address of stream offset o at the source. -/
def Transfer.srcAddr (t : Transfer) (o : Nat) : W64 :=
  t.src + BitVec.ofNat 64 (o / t.rowBytes) * t.sstride + BitVec.ofNat 64 (o % t.rowBytes)

/-- The core and the address of stream offset o at the destination; the core is that of a scratchpad. -/
def Transfer.dstAddr (t : Transfer) (o : Nat) : CoreIx × W64 :=
  let cl := SlotIx.cluster t.w
  match t.mode with
  | 1 =>
    let b := o / t.block
    (coreOf cl ⟨t.blockCore b % 8, Nat.mod_lt _ (by decide)⟩,
      t.dst + BitVec.ofNat 64 (b / t.ncore * t.block + o % t.block))
  | m =>
    let a := t.dst + BitVec.ofNat 64 (o / t.rowBytes) * t.dstride + BitVec.ofNat 64 (o % t.rowBytes)
    (if m == 2 then coreOf cl ⟨t.core0 % 8, Nat.mod_lt _ (by decide)⟩ else SlotIx.core t.w, a)

/-- The place of a source byte: error codes 1, 2 and 5 (R310). -/
def State.srcPlace (s : State) (t : Transfer) (va : W64) : State × Except XStop Place :=
  let cl := SlotIx.cluster t.w
  let held (p : Place) : Except XStop Place :=
    if p.inPool then .error (.error 2) else if s.bad ⟨0, va, p, 1, [], 0⟩ then .error (.error 5) else .ok p
  match window va with
  | .none => (s, .error (.error 1))
  | .own off => (s, held (.own cl off))
  | .scratch off => (s, held (.scratch (SlotIx.core t.w) off))
  | .remote v off =>
    match s.physical t.part v with
    | none => (s, .error (.error 1))
    | some far => if s.permitted cl v far then (s, held (.remote far off)) else (s, .error (.error 2))
  | .global =>
    match s.translate (SlotIx.core t.w) t.part va.toNat needR with
    | (s, .ok pa) => (s, if inAperture pa then .error (.error 2) else held (.global pa))
    | (s, .absent) => (s, .error (.error 1))
    | (s, .perm _) => (s, .error (.error 2))
    | (s, .host ipa) => (s, if t.declined == some ipa then .error (.error 1) else .error (.host ipa))
    | (s, .logFull _) => (s, .error (.wait true))

/-- The aperture's port, and the address it carries (R416). -/
def aperturePort (pa : Nat) : Fin 16 := ⟨pa / 2 ^ 44 % 16, Nat.mod_lt _ (by decide)⟩

/-- The cluster that a vcluster of the destination names, or an error: 6 when it has been drained or reassigned since the
transfer began (R310). -/
def State.dstCluster (s : State) (t : Transfer) (v : Nat) : Except XStop ClusterIx :=
  match t.dests[v]?, s.physical t.part v with
  | some (far, epoch), _ => if (s.cluster far).epoch == epoch then .ok far else .error (.error 6)
  | none, some far => .ok far
  | none, none => .error (.error 3)

/-- The place of a destination byte: error codes 3, 4 and 6 (R310, R416). -/
def State.dstPlace (s : State) (t : Transfer) (c : CoreIx) (va : W64) : State × Except XStop Place :=
  let cl := SlotIx.cluster t.w
  match window va with
  | .scratch off =>
    let locked := match (s.core c).lock with
      | some l => meets off 1 l.base (64 * l.units)
      | none => false
    (s, if locked then .error (.wait false) else .ok (.scratch c off))
  | w =>
    if t.mode != 0 then (s, .error (.error 3))
    else
      match w with
      | .own off => (s, if poolBase ≤ off then .error (.error 4) else .ok (.own cl off))
      | .remote v off =>
        match s.dstCluster t v with
        | .error e => (s, .error e)
        | .ok far =>
          if !s.permitted cl v far || poolBase ≤ off then (s, .error (.error 4))
          else if !s.permitted far (s.vcluster cl) cl || s.bad ⟨0, va, .remote far off, 1, [], 0⟩ then (s, .error (.error 6))
          else (s, .ok (.remote far off))
      | .global =>
        match s.translate (SlotIx.core t.w) t.part va.toNat needW with
        | (s, .ok pa) => (s, if inAperture pa && !s.ports[aperturePort pa].up then .error (.error 6) else .ok (.global pa))
        | (s, .absent) => (s, .error (.error 3))
        | (s, .perm _) => (s, .error (.error 4))
        | (s, .host ipa) => (s, if t.declined == some ipa then .error (.error 3) else .error (.host ipa))
        | (s, .logFull _) => (s, .error (.wait true))
      | _ => (s, .error (.error 3))

/-- The byte at a place, as the engine reads it (R305, R315). -/
def State.byteAt (s : State) (p : Place) : Byte :=
  match p with
  | .global pa => s.mem.get pa
  | .own cl off | .remote cl off => (s.cluster cl).mem.get off
  | .scratch c off => (s.core c).scratch.get off

/-- One byte to write, of a stream offset. -/
structure XByte where
  off : Nat
  place : Place
  value : Byte
deriving DecidableEq, Repr

/-- The bytes of stream offsets o to o + n - 1, or what stops the sector at its first such offset, source before
destination (log 17). -/
def State.gatherBytes (s : State) (t : Transfer) (o : Nat) : Nat → State × Except XStop (List XByte)
  | 0 => (s, .ok [])
  | n + 1 =>
    match s.srcPlace t (t.srcAddr o) with
    | (s, .error e) => (s, .error e)
    | (s, .ok p) =>
      let (c, va) := t.dstAddr o
      match s.dstPlace t c va with
      | (s, .error e) => (s, .error e)
      | (s, .ok q) =>
        match s.gatherBytes t (o + 1) n with
        | (s, .error e) => (s, .error e)
        | (s, .ok rest) => (s, .ok (⟨o, q, s.byteAt p⟩ :: rest))

/-- Write one byte; under FILL the word whose last byte it is becomes full in the same step (R308). -/
def State.putByte (s : State) (fill : Bool) (x : XByte) : State :=
  match x.place with
  | .global pa => { s with mem := s.mem.set pa x.value }
  | .own cl off | .remote cl off => s.modCluster cl fun c =>
      let c := { c with mem := c.mem.set off x.value }
      if fill && off % 8 == 7 then c.setFull (off / 8) true else c
  | .scratch c off => s.modCore c fun k => { k with scratch := k.scratch.set off x.value }

/-- A run of bytes for one Carran port: the lowest stream offset, the aperture address and the bytes (R416). -/
structure Run where
  off : Nat
  addr : Nat
  bytes : List Byte
deriving DecidableEq, Repr

/-- The bytes that go out of one Carran port, each as a run (R416). -/
def apertureBytes (port : Fin 16) (xs : List XByte) : List Run :=
  xs.filterMap fun x => match x.place with
    | .global pa => if inAperture pa && aperturePort pa == port then some ⟨x.off, pa % 2 ^ 44, [x.value]⟩ else none
    | _ => none

/-- Neighbouring runs joined. -/
def joinRuns : List Run → List Run
  | [] => []
  | r :: rest =>
    match joinRuns rest with
    | x :: more =>
      if x.addr == r.addr + r.bytes.length then { r with bytes := r.bytes ++ x.bytes } :: more else r :: x :: more
    | [] => [r]

/-- The payload of a flit that carries a run of bytes (log 19). -/
def flitPayload (r : Run) : List Byte :=
  let bs := natBytes 8 r.addr ++ natBytes 8 r.bytes.length ++ r.bytes
  bs ++ List.replicate (240 - bs.length) 0

/-- Send a run of bytes out of a port: the flit waits for its acknowledgement (R415). -/
def Port.send (p : Port) (r : Run) : Port :=
  { p with next := p.next + 1, unacked := p.unacked ++ [⟨p.next, true, flitPayload r⟩] }

/-! ### Transfers in their scoreboard entries -/

/-- The entry, and of the contexts of a core the one, that an event about a transfer names: entry e of the core's own is
e, of the k-th saved one 16 (k + 1) + e (R322). -/
def scoreIx (n : Nat) : Fin 16 := ⟨n % 16, Nat.mod_lt _ (by decide)⟩

/-- The in-flight transfer of an entry of a core, or of a context saved from it (R322). -/
def State.transferAt (s : State) (c : CoreIx) (n : Nat) : Option Transfer :=
  (s.view c (n / 16)).bind fun k => (k.score[scoreIx n]).filter fun t => t.state == .flight && SlotIx.core t.w == c

/-- Change a transfer where it stands. -/
def State.modTransfer (s : State) (c : CoreIx) (n : Nat) (f : Transfer → Transfer) : State :=
  s.modView c (n / 16) fun k => { k with score := k.score.set (scoreIx n) (k.score[scoreIx n].map f) }

/-- The id of a transfer (R311). -/
def Transfer.id (t : Transfer) (n : Nat) : W64 := BitVec.ofNat 64 (t.num.toNat * 16 + n % 16)

/-- Threads of a core that wait for a transfer go on with its final status (R309, R316, R318). -/
def State.releaseXwaits (s : State) (c : CoreIx) (id status : W64) : State :=
  (slotsOf c).foldl (fun s w => match (s.thread w).wait with
    | .xwait d x | .xcancel d x => if x == id then (s.deliver w d status).modThread w Thread.done else s
    | _ => s) s

/-- The waiters of a transfer of an entry are released; those of a saved context execute afresh (R384). -/
def State.tellWaiters (s : State) (c : CoreIx) (n : Nat) (t : Transfer) : State :=
  if n < 16 then s.releaseXwaits c (t.id n) (s.xstatus t) else s

/-- Whether a stream word has been written or sent. -/
def Transfer.written (t : Transfer) (j : Nat) : Bool := 8 * j < t.bytes || t.words.contains j

/-- Move the lowest unwritten offset past written words. -/
def Transfer.settle (t : Transfer) : Nat → Transfer
  | 0 => t
  | n + 1 =>
    let j := t.bytes / 8
    if t.bytes % 8 == 0 && t.words.contains j then
      { t with bytes := min (t.bytes + 8) t.total, words := t.words.filter fun x => x != j }.settle n
    else t

def Transfer.wrote (t : Transfer) (js : List Nat) : Transfer :=
  { t with words := t.words ++ js, hostWait := none, declined := none }.settle (t.words.length + js.length)

/-- Bytes of a stream word: the last one may be short. -/
def Transfer.wordSize (t : Transfer) (j : Nat) : Nat := min 8 (t.total - 8 * j)

/-- The words of a sector that a turn writes: those of its mask that lie in the stream and are not written. -/
def Transfer.takes (t : Transfer) (sector : Nat) (mask : BitVec 8) : List Nat :=
  ((List.range 8).filter fun i => mask.getLsbD i && 64 * sector + 8 * i < t.total && !t.written (8 * sector + i)).map
    fun i => 8 * sector + i

/-- Whether every word of a sector has been written or sent. -/
def Transfer.whole (t : Transfer) (x : Nat) : Bool := (List.range 8).all fun i => t.written (8 * x + i) || t.total ≤ 64 * x + 8 * i

/-- The sectors below sector k of a transfer, of all its sectors at most, that still have words to write. -/
def Transfer.openBelow (t : Transfer) (k : Nat) : Nat :=
  let sectors := min k ((t.total + 63) / 64)
  let whole := ((t.words.map fun j => j / 8).eraseDups.filter fun x => x < sectors && t.whole x).length
  sectors - min sectors (t.bytes / 64) - whole

/-- The whole sectors below sector k that have words on their way out of a port (R319). -/
def State.sentBelow (s : State) (t : Transfer) (k : Nat) : Nat :=
  (((t.flits.filter s.flitOut).map fun f => f.2.2 / 64).eraseDups.filter fun x => x < k && t.whole x).length

/-- The tracking entries that the sectors below sector k of a transfer hold, or take once it is their turn: each until its
write has been performed (R319). -/
def State.entriesBelow (s : State) (t : Transfer) (k : Nat) : Nat :=
  (if t.halted then 0 else t.openBelow k) + s.sentBelow t k

/-- The transfers of a core that are in flight: its own, and those of contexts saved from it (R322). -/
def State.transfersOf (s : State) (c : CoreIx) : List Transfer :=
  let live (k : Core) : List Transfer := k.score.toList.filterMap fun e => e.filter fun t =>
    t.state == .flight && SlotIx.core t.w == c
  live (s.core c) ++ s.saved.flatMap fun k => live k.core

/-- Whether a transfer was started before another one of its core (R319). -/
def Transfer.earlier (a b : Transfer) : Bool := a.order < b.order

/-- Whether the engine has requested a sector: it serves the cores of the cluster in rotation, a core's transfers in the
order of their start, and has 4,096 tracking entries (R319; log 75). -/
def State.tracked (s : State) (c : CoreIx) (t : Transfer) (k : Nat) : Bool :=
  let all (x : Transfer) : Nat := s.entriesBelow x (x.total / 64 + 1)
  let front := (((s.transfersOf c).filter fun x => x.earlier t).map all).sum + s.entriesBelow t k
  let others := (coresOf (CoreIx.cluster c)).filter fun d => d != c
  front + (others.map fun d => min (front + 1) ((s.transfersOf d).map all).sum).sum < 4096

/-- A completion record about a team (R407, R409): nothing when the team is no more. -/
def State.teamRecord (s : State) (t : Transfer) (r : Completion) : State :=
  match s.teamAt t.home t.part t.team with
  | none => s
  | some tm => s.complete tm.fn (queueIx tm.fdom) { r with cseq := tm.cseq, team := t.team, slot := s.globalSlot t.w }

/-- The bytes of stream words in turn, or what stops the first that stops. -/
def State.gatherWords (s : State) (t : Transfer) : List Nat → State × Except XStop (List XByte)
  | [] => (s, .ok [])
  | j :: js =>
    match s.gatherBytes t (8 * j) (t.wordSize j) with
    | (s, .error e) => (s, .error e)
    | (s, .ok xs) =>
      match s.gatherWords t js with
      | (s, .error e) => (s, .error e)
      | (s, .ok rest) => (s, .ok (xs ++ rest))

/-- Write gathered bytes: those of an aperture go out of their ports as flits, which the second result names (R416). -/
def State.putBytes (s : State) (fill : Bool) (xs : List XByte) : State × List (Fin 16 × Nat × Nat) :=
  let out := (List.finRange 16).flatMap fun p => (joinRuns (apertureBytes p xs)).map fun r => (p, r)
  let near := xs.filter fun x => match x.place with
    | .global pa => !inAperture pa
    | _ => true
  let s := near.foldl (State.putByte · fill) s
  out.foldl (fun (acc : State × List (Fin 16 × Nat × Nat)) x =>
    let n := acc.1.ports[x.1].next
    ({ acc.1 with ports := acc.1.ports.set x.1 (acc.1.ports[x.1].send x.2) }, acc.2 ++ [(x.1, n, x.2.off)])) (s, [])

/-- The engine writes words of a sector (R155, R161, R305 to R308, R319): it waits for a lock, the log or the host, or is
left to TRANSFER_ERROR. -/
def execCopySector (c : CoreIx) (entry : Nat) (sector : Nat) (words : BitVec 8) (s : State) : Out :=
  match s.transferAt c entry with
  | none => .next s
  | some t =>
    let js := t.takes sector words
    if t.halted || js.isEmpty || !s.tracked c t sector then .next s
    else
      match s.gatherWords t js with
      | (s, .ok xs) =>
        let sent := s.putBytes t.fill xs
        .next (sent.1.modTransfer c entry fun t => { (t.wrote js) with flits := t.flits ++ sent.2 })
      | (s, .error (.host ipa)) =>
        if t.hostWait.isSome then .next s
        else .next ((s.teamRecord t { kind := 6, ip := BitVec.ofNat 64 ipa }).modTransfer c entry fun t =>
          { t with hostWait := some ipa })
      | (s, .error (.wait true)) => .next (s.logStall t.part)
      | (s, _) => .next s

/-- The scales that a stream-tile transfer pushes, as one number (R307). -/
def State.gatherScales (s : State) (t : Transfer) (i : Nat) : Nat → State × Except XStop (List Byte)
  | 0 => (s, .ok [])
  | n + 1 =>
    match s.srcPlace t (t.marg + BitVec.ofNat 64 i) with
    | (s, .error e) => (s, .error e)
    | (s, .ok p) =>
      match s.gatherScales t (i + 1) n with
      | (s, .error e) => (s, .error e)
      | (s, .ok rest) => (s, .ok (s.byteAt p :: rest))

/-- The validity mask that a stream-tile transfer writes (R307). -/
def Transfer.validMask (t : Transfer) : BitVec 128 :=
  BitVec.ofNat 128 ((List.range 128).foldl (fun acc r => if (r + 128 - t.vrow0 % 128) % 128 < t.vcnt then acc + 2 ^ r else acc) 0)

/-- A completion notification is queued in the issuing thread, one per entry, or discarded (R313). -/
def State.notifyEnd (s : State) (t : Transfer) (e : Nat) : State :=
  if !t.notify then s
  else s.modOwner t.w t.uid fun x =>
    if x.notifyEn && x.notes.all fun n => n.id.toNat % 16 != e % 16 then
      { x with notes := x.notes ++ [⟨(t.id e).setWidth 32, t.handler⟩] }
    else x

/-- A transfer completes (R309): status, scoreboard, barrier, waiters and notification. -/
def State.finishTransfer (s : State) (c : CoreIx) (e : Nat) (t : Transfer) : State :=
  let t' : Transfer := { t with state := .complete }
  let s := s.modTransfer c e fun _ => t'
  let s := if t.barEn then s.barrierEvent (SlotIx.cluster t.w) t.barId (.bytes t.total) else s
  (s.tellWaiters c e t').notifyEnd t e

/-- A transfer is cancelled (R318): every write that was sent has been performed or refused. -/
def State.cancelTransfer (s : State) (c : CoreIx) (e : Nat) (t : Transfer) : State :=
  let t' : Transfer := { t with state := .cancelled, bytes := s.lowest t }
  (s.modTransfer c e fun _ => t').tellWaiters c e t'

/-- The scale push of a stream-tile transfer, which waits for room (R255, R307), and its completion. -/
def State.pushScales (s : State) (c dest : CoreIx) (e : Nat) (t : Transfer) (x : ScaleEntry) : State :=
  if (s.core dest).tile.fifo.length ≥ 8 then s
  else (s.modTile dest fun y => { y with fifo := y.fifo ++ [x] }).finishTransfer c e t

/-- What is left to do of a transfer once every byte is written and acknowledged (R309): in stream-tile mode it reads the
scales and writes the mask, and the scale entry follows when there is room (R307). A halted one is cancelled once nothing is
on its way (R318). -/
def State.transferStep (s : State) (c : CoreIx) (e : Nat) (t : Transfer) : State :=
  if s.flitsOut t then s
  else if t.halted then s.cancelTransfer c e t
  else if t.bytes != t.total || s.flitsFailed t then s
  else if t.mode != 2 then s.finishTransfer c e t
  else
    let dest := coreOf (SlotIx.cluster t.w) ⟨t.core0 % 8, Nat.mod_lt _ (by decide)⟩
    let mask (s : State) : State := s.modTile dest fun x => { x with valid := t.validMask }
    match t.scales with
    | some x => s.pushScales c dest e t x
    | none =>
      if !t.scalEn then (mask s).finishTransfer c e t
      else
        match s.gatherScales t 0 256 with
        | (s, .ok bs) =>
          let x := scaleEntry t.seq (bytesNat bs)
          ((mask s).modTransfer c e fun t => { t with scales := some x }).pushScales c dest e t x
        | (s, .error (.host ipa)) =>
          if t.hostWait.isSome then s
          else (s.teamRecord t { kind := 6, ip := BitVec.ofNat 64 ipa }).modTransfer c e fun t => { t with hostWait := some ipa }
        | (s, _) => s

/-- The last step of a transfer (R309, R318). -/
def execTransferComplete (c : CoreIx) (entry : Nat) (s : State) : Out :=
  match s.transferAt c entry with
  | none => .next s
  | some t => .next (s.transferStep c entry t)

/-- The bytes from offset o on that the engine can write before it meets an error, n at most, with what their walks do. -/
def State.cleanBytes (s : State) (t : Transfer) (o : Nat) : Nat → State × List XByte
  | 0 => (s, [])
  | n + 1 =>
    match s.gatherBytes t o 1 with
    | (s, .ok xs) => let (s, rest) := s.cleanBytes t (o + 1) n; (s, xs ++ rest)
    | (s, .error _) => (s, [])

/-- The error that a transfer meets, if any: at the lowest word it has not written, or at its scales (R310; log 17). -/
def State.transferFails (s : State) (t : Transfer) : Option Nat :=
  if s.flitsFailed t then some 6
  else if t.bytes == t.total then
    if t.mode == 2 && t.scalEn && t.scales.isNone then
      match (s.gatherScales t 0 256).2 with
      | .error (.error _) => some 7
      | _ => none
    else none
  else
    match (s.gatherBytes t t.bytes (t.wordSize (t.bytes / 8))).2 with
    | .error (.error code) => some code
    | _ => none

/-- A transfer stops with an error (R310), the bytes below it written: no barrier, mask or scale action follows. -/
def execTransferError (c : CoreIx) (entry : Nat) (s : State) : Out :=
  match s.transferAt c entry with
  | none => .next s
  | some t =>
    match if t.halted then none else s.transferFails t with
    | none => .next s
    | some code =>
      let (s, xs) := if s.flitsFailed t || t.bytes == t.total then (s, []) else s.cleanBytes t t.bytes (t.wordSize (t.bytes / 8))
      let sent := s.putBytes t.fill xs
      let t' : Transfer := { t with bytes := t.bytes + xs.length, flits := t.flits ++ sent.2 }
      let t' : Transfer := { t' with state := .error code, bytes := sent.1.lowest t' }
      .next (((sent.1.modTransfer c entry fun _ => t').tellWaiters c entry t').notifyEnd t entry)

/-! ### Instructions -/

/-- The block that xgo names: its memory and offset, checked (R315). -/
def blockAt (va : W64) : Op (Memory × Nat) := do
  let s ← get
  let place ← match s.localPlace s.cur 0 va with
    | .error e => stopWith e
    | .ok (some (.own cl off)) => pure (Place.own cl off)
    | .ok (some (.scratch c off)) => pure (Place.scratch c off)
    | .ok _ => raise 0x07 va 0
  raiseIf (va.toNat % 64 != 0) 0x05 va 0
  raiseIf place.inPool 0x07 va (permAux 5 0)
  let l : Lane := ⟨0, va, place, 64, [], 0⟩
  notHeld l false
  delivered
  noBad [l]
  match place with
  | .own cl off => return ((s.cluster cl).mem, off)
  | .scratch c off => return ((s.core c).scratch, off)
  | _ => return ([], 0)

/-- PRIV from any slot but the enabled transfer slot (R50, R301). -/
def transferSlot : Op Unit := fun s => if s.xslot s.cur then .ok ((), s) else .error (.trap 0x04 0 s.headParcels)

/-- The lowest entry that holds no transfer in flight (R315). -/
def Core.freeScore (c : Core) : Option (Fin 16) :=
  (List.finRange 16).find? fun e => match c.score[e] with
    | some t => t.state != .flight
    | none => true

/-- xgo (R315). -/
def execXgo (d a : GReg) (s : State) : Out := s.run do
  transferSlot
  ready [.g a] [.g d]
  let x ← srcG a
  let (m, off) ← blockAt x
  quiet
  let s ← get
  match s.myCore.freeScore with
  | none => waitFor .transfer
  | some e =>
    let t := Transfer.ofBlock m off s.cur s.me
    match t.refusalCode with
    | some code => dstG d (atBit 63 1 ||| BitVec.ofNat 64 code)
    | none =>
      let n := s.myCore.xcount
      let dests := (s.clustersOf t.part).map fun cl => (cl, (s.cluster cl).epoch)
      let t : Transfer := { t with num := n, dests := dests, order := s.uids }
      modify fun s => { s with uids := s.uids + 1 }.modMyCore fun c => { c with score := c.score.set e (some t), xcount := n + 1 }
      dstG d (BitVec.ofNat 64 (n.toNat * 16 + e.val))
    advance

/-- A transfer that can complete has completed when an instruction asks for it (R309, R323). -/
def State.applyDue (s : State) (id : W64) : State :=
  match s.myCore.transfer id with
  | some (e, t) => if t.state == .flight then s.transferStep (SlotIx.core s.cur) e.val t else s
  | none => s

/-- xwait (R316): the thread parks until the transfer has ended, and takes its final status then. -/
def execXwait (d a : GReg) (s : State) : Out := s.run do
  ready [.g a] [.g d]
  let x ← srcG a
  modify fun s => s.applyDue x
  let s ← get
  match s.myCore.transfer x with
  | none => do dstG d staleStatus; advance
  | some (_, t) =>
    if t.state == .flight then
      let dst ← reserve d
      parkAs (.xwait dst x)
    else
      dstG d (s.xstatus t)
      advance

/-- xstat (R317). -/
def execXstat (d a : GReg) (s : State) : Out := s.run do
  ready [.g a] [.g d]
  let x ← srcG a
  modify fun s => s.applyDue x
  let s ← get
  match s.myCore.transfer x with
  | none => dstG d staleStatus
  | some (_, t) => dstG d (s.xstatus t)
  advance

/-- xcancel (R318): no further write is issued, and the thread stalls until what was sent has been performed or refused.
A completion that is due takes effect first (R323). -/
def execXcancel (d a : GReg) (s : State) : Out := s.run do
  ready [.g a] [.g d]
  let x ← srcG a
  modify fun s => s.applyDue x
  let s ← get
  match s.myCore.transfer x with
  | none => dstG d staleStatus; advance
  | some (e, t) =>
    if t.state != .flight then
      dstG d (s.xstatus t)
      advance
    else
      let dst ← reserve d
      parkAs (.xcancel dst x)
      modify fun s => (s.modTransfer (SlotIx.core s.cur) e.val fun t => { t with halted := true }).applyDue x

/-- Delivery of a completion notification at an instruction boundary in user mode (R313): the thread runs the handler of
the transfer. -/
def State.deliverNote (s : State) (w : SlotIx) : State :=
  s.modThread w fun t =>
    match t.notes with
    | [] => t
    | n :: rest =>
      if t.notifyActive || t.priv || t.handler then t
      else { t with
        notes := rest
        notifyActive := true
        savedip := t.ip.setWidth 57
        trapaux := n.id.setWidth 64
        ip := n.handler
        wait := .run
        edgeDone := false }

end Sys2Proof.Machine
end

