-- ==== Sys2Proof/Machine/Control.lean ====
section
/-! DEFINITION. The control registers (R53 and the field tables of the chapters): rdc and wrc (R101), the return of a
completion handler and the write of NOTIFY.EN (R313), and the prefix rlx (R51, R52). -/

namespace Sys2Proof.Machine

/-! ### Reads -/

def GState.code : GState → Nat
  | .idle => 0
  | .running => 1
  | .done => 2

/-- STATUS (R102). -/
def State.statusOf (s : State) (w : SlotIx) : W64 :=
  let t := s.thread w
  let own := (s.core (SlotIx.core w)).griddle.holder == some (SlotIx.num w)
  BitVec.ofNat 64 (boolNat t.priv + boolNat t.handler * 2 + boolNat (s.xslot w) * 4 + boolNat own * 8 + boolNat t.migr * 16)

/-- TSEQ (R259). -/
def Tile.seqWord (x : Tile) : W64 :=
  BitVec.ofNat 64 (((x.fifo.head?).map fun e => e.tag.toNat).getD 0 + x.fifo.length * 2 ^ 16)

/-- TSTAT (R260). -/
def Tile.statWord (x : Tile) : W64 :=
  BitVec.ofNat 64 (boolNat x.accsat + boolNat x.trapen * 2 + boolNat (x.heldCount != 0) * 4)

/-- GSTAT (R284). -/
def Griddle.statWord (g : Griddle) : W64 :=
  let holder := match g.holder with
    | some n => n.val * 2 ^ 32 + 2 ^ 36
    | none => 0
  BitVec.ofNat 64 (g.win.toNat + g.state.code * 2 ^ 16 + holder)

/-- MBST (R302). -/
def Core.mailboxWord (c : Core) : W64 :=
  BitVec.ofNat 64 ((List.finRange 4).foldl (fun acc n => acc + boolNat c.mailbox[n].full * 2 ^ n.val) 0)

/-- NOTIFY (R313). -/
def Thread.notifyWord (t : Thread) : W64 :=
  BitVec.ofNat 64 (boolNat t.notifyEn + t.savedip.toNat * 2 + boolNat t.notifyActive * 2 ^ 63)

/-- The value of a control register as a thread reads it (R53). -/
def State.readControl (s : State) (w : SlotIx) (index : Nat) : W64 :=
  let t := s.thread w
  let c := s.core (SlotIx.core w)
  let p := s.part (s.partOf (SlotIx.cluster w))
  match index with
  | 0x000 => t.tid.setWidth 64
  | 0x001 => t.mul.setWidth 64
  | 0x002 => t.team.setWidth 64
  | 0x003 => t.teamn.setWidth 64
  | 0x004 => BitVec.ofNat 64 (s.globalSlot w)
  | 0x005 => c.cycle
  | 0x006 => s.statusOf w
  | 0x010 => t.meetwin.setWidth 64
  | 0x011 => t.meetst.setWidth 64
  | 0x018 => t.rngkey
  | 0x019 => t.rngctr
  | 0x01A => t.vstat.setWidth 64
  | 0x020 => t.tfmt.setWidth 64
  | 0x021 => c.tile.seqWord
  | 0x022 => c.tile.statWord
  | 0x023 => BitVec.ofNat 64 (c.tile.heldCount * 256)
  | 0x028 => t.tkw.setWidth 64
  | 0x029 => c.griddle.statWord
  | 0x030 => BitVec.ofNat 64 (p.detm.toNat * 2 ^ 34)
  | 0x031 => BitVec.ofNat 64 (p.detspill.toNat * 64)
  | 0x032 => BitVec.ofNat 64 (p.used * 2 ^ 32 + p.cap.toNat)
  | 0x038 => t.qmap.setWidth 64
  | 0x039 => c.mailboxWord
  | 0x040 => t.trapvec.setWidth 64
  | 0x041 => t.trapcause.setWidth 64
  | 0x042 => t.trapip.setWidth 64
  | 0x043 => t.trapva
  | 0x044 => t.trapaux
  | 0x045 => t.pjent.setWidth 64
  | 0x046 => t.notifyWord
  | 0x050 => t.bartmo.setWidth 64
  | 0x058 => t.framep
  | 0x059 => BitVec.ofNat 64 ((s.records t).length + t.staged.length * 16)
  | n =>
    if h : 0x060 ≤ n ∧ n < 0x068 then (c.pmc[n - 0x060]'(by omega)).sel.setWidth 64
    else if h : 0x068 ≤ n ∧ n < 0x070 then (c.pmc[n - 0x068]'(by omega)).count.setWidth 64
    else 0

/-! ### Writes -/

/-- A write of an event select (R421): a reserved code leaves EVENT unchanged. -/
def Pmc.select (p : Pmc) (x : W64) : Pmc :=
  let code := if bits x 11 0 < 14 then bits x 11 0 else bits (p.sel.setWidth 64) 11 0
  { p with sel := BitVec.ofNat 17 (code + bits x 16 16 * 2 ^ 16) }

/-- A write of TFMT (R258): a reserved WPREC leaves the field unchanged. -/
def Thread.setTfmt (t : Thread) (x : W64) : Thread :=
  let p := bits x 5 1
  { t with tfmt := BitVec.ofNat 6 ((if p == 1 || p > 16 then t.tfmt.toNat / 2 else p) * 2 + bits x 0 0) }

/-- A write of TKW (R283): a value outside 1 to 1,024 leaves it unchanged. -/
def Thread.setTkw (t : Thread) (x : W64) : Thread :=
  let n := bits x 10 0
  if 1 ≤ n && n ≤ 1024 then { t with tkw := BitVec.ofNat 11 n } else t

/-- The return of a completion handler (R313). -/
def Thread.notifyReturn (t : Thread) : Thread :=
  if t.notifyActive then { t with notifyActive := false, ip := t.savedip.setWidth 64 } else t

/-- A write of a control register of a thread that may write it (R53): reserved and read-only fields are ignored. -/
def State.writeControl (s : State) (w : SlotIx) (index : Nat) (x : W64) : State :=
  let c := SlotIx.core w
  let p := s.partOf (SlotIx.cluster w)
  match index with
  | 0x010 => s.modThread w fun t => { t with meetwin := x.setWidth 32 }
  | 0x011 => s.modThread w fun t => { t with meetst := x.setWidth 34 }
  | 0x018 => s.modThread w fun t => { t with rngkey := x }
  | 0x019 => s.modThread w fun t => { t with rngctr := x }
  | 0x01A => s.modThread w fun t => { t with vstat := x.setWidth 6 }
  | 0x020 => s.modThread w fun t => t.setTfmt x
  | 0x021 => if x.getLsbD 32 then s.tseqFlush c else s
  | 0x022 => s.modTile c fun y => { y with accsat := x.getLsbD 0, trapen := x.getLsbD 1 }
  | 0x023 => if bits x 1 0 == 1 then (s.epiReplay c none).1 else if bits x 1 0 == 2 then s.epiDiscard c else s
  | 0x028 => s.modThread w fun t => t.setTkw x
  | 0x030 => s.setDetm p x
  | 0x031 => s.setDetspill p x
  | 0x032 => s.setDetspilln p x
  | 0x038 => s.modThread w fun t => { t with qmap := x.setWidth 8 }
  | 0x040 => s.modThread w fun t => { t with trapvec := x.setWidth 57 }
  | 0x041 => s.modThread w fun t => { t with trapcause := x.setWidth 10 }
  | 0x042 => s.modThread w fun t => { t with trapip := x.setWidth 57 }
  | 0x043 => s.modThread w fun t => { t with trapva := x }
  | 0x044 => s.modThread w fun t => { t with trapaux := x }
  | 0x046 => s.modThread w fun t => if t.notifyActive then t.notifyReturn else { t with notifyEn := x.getLsbD 0 }
  | 0x050 => s.modThread w fun t => { t with bartmo := x.setWidth 32 }
  | 0x058 => s.modThread w fun t => { t with framep := x }
  | n =>
    if h : 0x060 ≤ n ∧ n < 0x068 then
      s.modCore c fun k => { k with pmc := k.pmc.set (n - 0x060) ((k.pmc[n - 0x060]'(by omega)).select x) (by omega) }
    else if h : 0x068 ≤ n ∧ n < 0x070 then
      s.modCore c fun k => { k with
        pmc := k.pmc.set (n - 0x068) { k.pmc[n - 0x068]'(by omega) with count := x.setWidth 48 } (by omega) }
    else s

/-! ### Instructions -/

/-- rdc (R101): TRAPVEC is privileged (R53). -/
def execRdc (d : GReg) (index : BitVec 16) (s : State) : Out := s.run do
  if index == 0x040 then privileged
  ready [] [.g d]
  let s ← get
  dstG d (s.readControl s.cur index.toNat)
  advance

/-- The intermediate address that the host has declined to resolve for a waiting thread (R382). -/
def Wait.refusedIpa : Wait → Option Nat
  | .declined ipa => some ipa
  | _ => none

/-- A write of EPIREPLAY's command 1 by wrc: the thread goes on once the replay is complete (R101, R270). -/
def State.wrcReplay (s : State) : State :=
  match s.epiReplay (SlotIx.core s.cur) s.me.wait.refusedIpa with
  | (s, none) => s.modMe fun t => { t with ip := s.after (SlotIx.core s.cur) t.ip }
  | (s, some (.host ipa _ _ _)) => (s.undo s.cur none).hostWait s.cur ipa
  | (s, some (.wait why)) => (s.undo s.cur none).await why
  | (s, some _) => s

/-- A write of TSEQ.FLUSH by wrc that has tile instructions to wait for: it stands behind those (R259). -/
def flushLater : Op Unit := do
  let s ← get
  parkAs (.tileStart s.myCore.tile.tokens none)
  modify fun s => s.modTile (SlotIx.core s.cur) fun x =>
    { x with queue := flushBehind (x.flushFor s.cur s.me.uid) x.queue, tokens := x.tokens + 1 }

/-- wrc (R101): the trap registers and PJENT are privileged (R53); a write of NOTIFY in a completion handler is the
handler's return (R313). What a write sets off is complete before the thread goes on (R101): TSEQ.FLUSH waits for the
starts of the tile instructions issued before it (R259). -/
def execWrc (d : GReg) (index : BitVec 16) (s : State) : Out := s.run do
  if 0x040 ≤ index.toNat && index.toNat ≤ 0x045 then privileged
  ready [.g d] []
  let x ← srcG d
  let s ← get
  if index == 0x021 && x.getLsbD 32 && s.myCore.tile.unstarted then flushLater
  else if index == 0x023 && bits x 1 0 == 1 then set s.wrcReplay
  else
    let back := s.me.notifyActive && index == 0x046
    modify fun s => s.writeControl s.cur index.toNat x
    if !back then advance

/-- The return of a completion handler, as the write of NOTIFY makes it (R313). -/
def execNotifyReturn (w : SlotIx) (s : State) : Out := .next (s.modThread w Thread.notifyReturn)

/-- A write of NOTIFY.EN outside a completion handler (R313). -/
def execNotifyEnable (w : SlotIx) (en : Bool) (s : State) : Out :=
  .next (s.modThread w fun t => if t.notifyActive then t else { t with notifyEn := en })

/-! ### rlx (R51, R52) -/

/-- TRAPAUX of a fault of the rlx head at an index: its parcel and the following head's (R52). -/
def rlxAux (ps : List Parcel) (i : Nat) : W64 :=
  if i + 1 > lineNh ps then (lineHead ps i).setWidth 64 else (lineHead ps (i + 1) ++ lineHead ps i).setWidth 64

/-- The instruction that rlx marks at the IP, or TRAPAUX of the ILLEGAL_OP. -/
def State.marked (s : State) : Except W64 Instr :=
  let ps := s.parcelsAt (SlotIx.core s.cur) s.me.ip
  let i := headIx s.me.ip
  if i + 1 > lineNh ps then .error (rlxAux ps i)
  else
    let next := lineHead ps (i + 1)
    let tail := lineTail ps (i + 1)
    if !mayFollowRlx next then .error (rlxAux ps i)
    else
      match decode next tail with
      | .error _ => .error (headAux next tail)
      | .ok (.amo _ _ true _ _ _ _) | .ok (.vamo _ _ true _ _ _ _ _ _) => .error (headAux next tail)
      | .ok x => .ok x

/-- rlx and the instruction it marks issue as one (R51, R138). -/
def execRlx (s : State) : Out := s.run do
  match s.marked with
  | .error aux => raise 0x01 0 aux
  | .ok (.ld d a b w imm) => memLd true d a b w imm
  | .ok (.st d a b w imm) => memSt true d a b w imm
  | .ok (.vld d a addr imm m) => memVld true d a addr imm m
  | .ok (.vst d a addr imm k) => memVst true d a addr imm k
  | .ok (.amo op ty _ d a b c) => memAmo true op ty false d a b c
  | .ok (.amocas ty d a b c) => memAmocas true ty d a b c
  | .ok (.vamo op ty _ d a b c imm k) => memVamo true op ty false d a b c imm k
  | .ok _ => raise 0x01 0 s.headParcels

end Sys2Proof.Machine
end

