-- ==== Sys2Proof/Machine/Task.lean ====
section
/-! DEFINITION. Task class (R213 to R221): opcodes 0xA0 to 0xA7; exit (R108); the deques (R209, R210, R22) and the
skimmer's events. -/

namespace Sys2Proof.Machine

def RgnMode.code : RgnMode → Nat
  | .r => 1
  | .w => 2
  | .rw => 3
  | .nc => 4
  | .a => 5

/-- The record of rgn and rgnadd, counted against a number of records (R214): REGION_FULL 1 or 2. -/
def newRecord (mode : RgnMode) (base extent : W64) (count : Nat) : Op Region := do
  raiseIf (count ≥ 8) 0x09 0 1
  raiseIf (extent.toNat ≥ 2 ^ 40 || base.toNat + extent.toNat > 2 ^ 57) 0x09 0 2
  return mkRegion (RgnMode.code mode) extent.toNat base.toNat

/-- rgn (R214). -/
def execRgn (mode : RgnMode) (a b : GReg) (s : State) : Out := s.run do
  ready [.g a, .g b] []
  let x ← srcG a
  let y ← srcG b
  let r ← newRecord mode x y (← get).me.staged.length
  modify fun s => s.modMe fun t => { t with staged := t.staged ++ [r] }
  advance

/-- rgnclr (R214). -/
def execRgnclr (s : State) : Out := s.run do
  modify fun s => s.modMe fun t => { t with staged := [] }
  advance

/-- Tasks of a list before and after one. -/
def Team.earlier (tm : Team) (id : Nat) : List Task := tm.tasks.takeWhile fun k => k.id != id
def Team.later (tm : Team) (id : Nat) : List Task := (tm.tasks.dropWhile fun k => k.id != id).drop 1

def Task.conflicts (r : Region) (k : Task) : Bool := recordsConflict [r] k.regions

/-- Whether two threads execute the same task. -/
def Thread.sameTask (t x : Thread) : Bool :=
  x.occ && x.part == t.part && x.home == t.home && x.team == t.team && x.task == t.task

/-- The threads of a thread's task that have records of their own, wherever their contexts are. -/
def State.viewers (s : State) (t : Thread) : List Thread :=
  if ((s.taskOf t).map Task.threads).getD 0 ≤ 1 then []
  else (s.threads.toList ++ s.saved.flatMap fun k => k.threads.toList).filter fun x => t.sameTask x && x.view.isSome

/-- How many records the task of a thread holds, in its list or for one of its threads (R215). -/
def State.recordCount (s : State) (t : Thread) : Nat :=
  ((s.viewers t).map fun x => (s.records x).length).foldl max (max (s.records t).length (s.taskRecords t).length)

/-- A record joins those that a thread has of its own. -/
def Thread.extend (r : Region) (t : Thread) : Thread := { t with view := t.view.map fun rs => rs ++ [r] }

/-- The new record of a rgnadd joins the running task, for each of its threads, and this core's lines within it are
invalidated (R215). -/
def State.appendRecord (s : State) (w : SlotIx) (r : Region) : State :=
  let t := s.thread w
  let others := (s.viewers t).filter fun x => x.uid != t.uid
  let s := (s.modTaskOf t fun k => { k with regions := k.regions ++ [r] }).modThread w (Thread.extend r)
  let s := others.foldl (fun s x => s.modOwner w x.uid (Thread.extend r)) s
  if (liveRegions [r]).isEmpty then s.modThread w Thread.done
  else (s.startSkim (SlotIx.core w) .invalidate [r] w .finish).modThread w fun t => { t with wait := .skimmer, parks := true }

/-- rgnadd (R215). -/
def execRgnadd (mode : RgnMode) (a b : GReg) (s : State) : Out := s.run do
  ready [.g a, .g b] []
  let x ← srcG a
  let y ← srcG b
  let s ← get
  let r ← newRecord mode x y (s.recordCount s.me)
  let tasks := s.teamOf s.me
  raiseIf ((tasks.map fun tm => (tm.later s.me.task).any fun k => k.begun && k.conflicts r).getD false) 0x09 0 3
  parkAs (.rgnadd r)
  if !((tasks.map fun tm => (tm.earlier s.me.task).any (Task.conflicts r)).getD false) then
    modify fun s => s.appendRecord s.cur r

/-- A parked rgnadd appends its record once no earlier task conflicts with it (R215); a task that has reached 8 records
meanwhile makes it execute afresh. -/
def execRgnaddAppend (w : SlotIx) (s : State) : Out :=
  let t := s.thread w
  match t.wait, s.teamOf t with
  | .rgnadd r, some tm =>
    if (tm.earlier t.task).any (Task.conflicts r) then .next s
    else if s.recordCount t ≥ 8 then .next (s.modThread w fun t => { t with wait := .run })
    else .next (s.appendRecord w r)
  | _, _ => .next s

/-- Insert a task before or after another in a team's list (R205). -/
def insertTask (x : Task) (id : Nat) (before : Bool) : List Task → List Task
  | [] => [x]
  | k :: rest =>
    if k.id == id then (if before then x :: k :: rest else k :: x :: rest) else k :: insertTask x id before rest

/-- The continuation of a thread that spawns (R209). -/
def Thread.continuation (t : Thread) (ip : W64) (rs : List Region) (seq : Nat) : DequeEntry where
  g := Vector.ofFn fun i => t.g[i.val]
  ip := ip
  regions := rs
  framep := t.framep
  seq := BitVec.ofNat 64 seq
  idset := t.idset
  team := t.team
  tid := t.tid
  teamn := t.teamn
  mul := t.mul
  vstat := t.vstat
  rngkey := t.rngkey
  rngctr := t.rngctr
  meetwin := t.meetwin
  bartmo := t.bartmo
  part := t.part
  home := t.home
  task := t.task

/-- A new task of a team, with one thread (R204, R205). -/
def Team.addTask (tm : Team) (near : Nat) (before member : Bool) (rs : List Region) : Team :=
  { tm with
    tasks := insertTask ⟨tm.nextTask, rs, false, member, 1, 0⟩ near before tm.tasks
    nextTask := tm.nextTask + 1 }

/-- spawn (R216). -/
def execSpawn (target : BitVec 32) (s : State) : Out := s.run do
  synchronised
  let s ← get
  let dest := directTarget s.me.ip target
  checkTarget dest
  waitIf (s.myCore.deque.length ≥ 64 || (s.cluster s.me.home).taskCount ≥ 1024) .deque
  let back ← nextIp
  let t := s.me
  match s.teamOf t with
  | none => advance
  | some tm =>
    let e := t.continuation back (s.records t) tm.spawns
    modify fun s =>
      let s := s.modMyCore fun c => { c with deque := c.deque ++ [e] }
      let s := s.modTeamOf t fun tm =>
        { (tm.modTask t.task fun k => { k with threads := k.threads - 1, conts := k.conts + 1 }).addTask t.task true false t.staged with
          spawns := tm.spawns + 1 }
      (s.modMe fun t => { t with task := tm.nextTask, view := none, staged := [], framep := 0, ip := dest }).arrive s.cur

/-- The registers of a mask are delivered and not poisoned (R92, R360). -/
def maskReady (mask : W64) : Op Unit := fun s =>
  let gs : List GV := (List.finRange 32).filterMap fun i => if mask.getLsbD i.val then some (.g i) else none
  let vs : List GV := (List.finRange 32).filterMap fun i => if mask.getLsbD (32 + i.val) then some (.v i) else none
  if (gs ++ vs).any (s.pending s.cur) then .error (.wait .access)
  else
    match (gs ++ vs).findSome? fun r => s.me.poison.find? fun p => p.reg == unified r with
    | some p => .error (.trap 0x0C p.va (atBit 62 1 ||| BitVec.ofNat 64 p.lane))
    | none => .ok ((), s)

/-- The registers of a fork's arm (R217). -/
def Thread.selected (t arm : Thread) (mask : W64) : Thread :=
  { arm with
    g := Vector.ofFn fun i => if mask.getLsbD i.val && i.val != 0 then t.g[i] else 0
    v := Vector.ofFn fun i => if mask.getLsbD (32 + i.val) then t.v[i] else Vector.replicate 32 0 }

/-- The set that holds one team index. -/
def oneIndex (x : Nat) : BitVec 128 := BitVec.ofNat 128 (2 ^ x)

/-- fork (R217). An arm for another core first has this core's bytes written back (R162). DESIGN CHOICE (log 71): a fork
that finds no team index free creates no arm and does not count in the spawn sequence. -/
def execFork (d a : GReg) (target : BitVec 32) (s : State) : Out := s.run do
  synchronised
  let dest := directTarget (← get).me.ip target
  checkTarget dest
  ready [.g a] [.g d]
  let mask ← srcG a
  maskReady mask
  let s ← get
  let t := s.me
  match s.teamOf t with
  | none => advance
  | some tm =>
    match (List.range 128).find? fun x => !tm.used.getLsbD x with
    | none => dstG d 0x8000000000000001
    | some x =>
      waitIf ((s.cluster t.home).taskCount ≥ 1024) .slot
      match s.slotNear (SlotIx.core s.cur) with
      | none => waitFor .slot
      | some w =>
        let rs := s.edgeRecords t
        if SlotIx.core w != SlotIx.core s.cur && !t.edgeDone && !rs.isEmpty then stopWith (.edge .writeBack rs)
        let arm := { t.selected (tm.thread t.home tm.nextTask) mask with ip := dest, tid := BitVec.ofNat 7 x, idset := oneIndex x }
        modify fun s =>
          let s := s.modTeamOf t fun tm =>
            { tm.addTask t.task false true t.staged with
              spawns := tm.spawns + 1
              weight := tm.weight + 1
              used := tm.used ||| oneIndex x }
          ((s.place w arm).arrive w).modMe fun t => { t with staged := [] }
        dstG d (BitVec.ofNat 64 (s.globalSlot w))
    advance

/-! ### Frames (R218 to R220) -/

def frameSpec (need : Need) : AccSpec := { size := 256, align := 256, need := need, fe := true }

/-- The canonical address of a local place (R218). -/
def State.canonicalPlace (s : State) (cl : ClusterIx) (off : Nat) : W64 := remoteAddr (s.vcluster cl) off

/-- The frame that an instruction addresses: its lane, cluster and offset. -/
def frameAt (va : W64) : Op (Lane × ClusterIx × Nat) := do
  let l ← checkAddr (frameSpec needRW) 0 va
  notHeld l true
  remoteReady l
  match l.place.word with
  | some (cl, word) => return (l, cl, 8 * word)
  | none => raise 0x07 va 0

def OpenFrame.at_ (f : OpenFrame) (cl : ClusterIx) (off : Nat) : Bool := f.cl == cl && f.off == off

/-- frame (R219). DESIGN CHOICE (log 70): over a frame in which a continuation waits, it drops what the skimmer recorded,
and that continuation's task does not end. -/
def execFrame (d a : GReg) (n : BitVec 16) (s : State) : Out := s.run do
  nowIssue
  ready [.g a] [.g d]
  let x ← srcG a
  let (_, cl, off) ← frameAt x
  let s ← get
  let t := s.me
  let bytes := natBytes 8 n.toNat ++ List.replicate 0x48 0 ++ wordBytes 8 t.framep ++ List.replicate 0xA8 0
  modify fun s =>
    let s := s.modCluster cl fun c => { c with mem := c.mem.write off bytes }
    (s.modTeamOf t fun tm => { tm with frames := tm.frames.filter fun f => !f.at_ cl off }).modMe fun t =>
      { t with framep := s.canonicalPlace cl off }
  dstG d t.framep
  advance

/-- The bytes 0x08 to 0xFF of a frame as its owner stores them (R218); PREV stays as it is. -/
def Thread.frameImage (t : Thread) (ip prev : W64) (rs : List Region) : List Byte :=
  wordBytes 8 ip ++ (List.range 7).flatMap (fun i => wordBytes 8 (t.g.toList.getD (i + 1) 0)) ++
  natBytes 8 (rs.length + t.tid.toNat * 16 + t.mul.toNat * 2 ^ 11 + t.vstat.toNat * 2 ^ 19) ++
  wordBytes 8 prev ++ natBytes 8 (t.meetwin.toNat + t.bartmo.toNat * 2 ^ 32) ++
  natBytes 16 t.idset.toNat ++ wordBytes 8 t.rngkey ++ wordBytes 8 t.rngctr ++
  (List.range 8).flatMap fun i => natBytes 16 ((rs.map BitVec.toNat).getD i 0)

/-- The records a frame holds (R218, R201): empty and malformed ones take no place. DESIGN CHOICE (log 69): a NREC of 9 to
15, which only software stores, reads as 8. -/
def frameRecords (m : Memory) (off n : Nat) : List Region :=
  ((List.range (min n 8)).map fun i => BitVec.ofNat 128 (m.word (off + 0x80 + 16 * i) 16)).filter fun r =>
    !regionBad r && regionMode r != 0

/-- The continuation that a frame holds, as a thread of a team (R218, R209). -/
def Thread.ofFrame (base : Thread) (m : Memory) (off : Nat) (framep : W64) : Thread :=
  let id := BitVec.ofNat 64 (m.word (off + 0x48) 8)
  let waits := BitVec.ofNat 64 (m.word (off + 0x58) 8)
  { base with
    ip := BitVec.ofNat 64 (m.word (off + 8) 8)
    g := Vector.ofFn fun i => if 1 ≤ i.val && i.val ≤ 7 then BitVec.ofNat 64 (m.word (off + 8 + 8 * i.val) 8) else 0
    tid := id.extractLsb' 4 7
    mul := id.extractLsb' 11 8
    vstat := id.extractLsb' 19 6
    meetwin := waits.extractLsb' 0 32
    bartmo := waits.extractLsb' 32 32
    idset := BitVec.ofNat 128 (m.word (off + 0x60) 16)
    rngkey := BitVec.ofNat 64 (m.word (off + 0x70) 8)
    rngctr := BitVec.ofNat 64 (m.word (off + 0x78) 8)
    framep := framep }

/-- Whether a task has no thread, and no continuation but one at most. -/
def Task.alone (k : Task) : Bool := k.threads == 0 && k.conts ≤ 1

/-- A continuation of a task becomes a thread (R204): the stored records are the task's, unless other threads or
continuations of the task have records of their own. waits says that the continuation was counted. -/
def Task.resume (rs : List Region) (waits : Bool) (k : Task) : Task :=
  { k with regions := if k.alone then rs else k.regions, threads := k.threads + 1, conts := k.conts - boolNat waits }

/-- The records of the resumed thread where its task keeps others (R209, R220; log 11). -/
def Task.viewOf (rs : List Region) (k : Task) : Option (List Region) := if k.alone then none else some rs

/-- The task that the skimmer recorded for a frame, if it has not ended, and whether a continuation of it waits in the
frame (R220). -/
def Team.frameTask (tm : Team) (cl : ClusterIx) (off : Nat) : Option (Task × Bool) :=
  (tm.frames.find? fun f => f.at_ cl off).bind fun f => (tm.tasks.find? fun k => k.id == f.task).map fun k => (k, f.waits)

/-- The last child resumes the continuation of a frame in its slot (R220). -/
def State.resumeFrame (s : State) (w : SlotIx) (cl : ClusterIx) (off : Nat) : State :=
  let t := s.thread w
  match s.teamOf t with
  | none => s
  | some tm =>
    let m := (s.cluster cl).mem
    let rs := frameRecords m off (m.word (off + 0x48) 8 % 16)
    let (id, view, tm') := match tm.frameTask cl off with
      | some (k, waits) => (k.id, k.viewOf rs, tm.modTask k.id (Task.resume rs waits))
      | none =>
        let k : Task := { id := tm.nextTask, regions := rs, begun := false, member := false, threads := 1, conts := 0 }
        (tm.nextTask, none, { tm with tasks := tm.tasks ++ [k], nextTask := tm.nextTask + 1 })
    let cont := { (tm.thread t.home id).ofFrame m off (s.canonicalPlace cl off) with view := view }
    let s := s.modTeamOf t fun _ =>
      { tm' with frames := updateAll tm.frames (fun f => f.at_ cl off) fun f => { f with waits := false } }
    ((s.endJoin w true false).place w cont).arrive w

/-- The thread that executes waits in a parking point if a skimmer action keeps it (R26). -/
def parkedSkim (w : SlotIx) : Out → Out
  | .next t => .next (if (t.thread w).wait == .skimmer then t.modThread w fun x => { x with parks := true } else t)
  | o => o

/-- join (R220). DESIGN CHOICE (log 81): the last child's join of a frame for which no task is recorded makes a new task, and
waits for room for it (R208). -/
def execJoin (a : GReg) (s : State) : Out := parkedSkim s.cur <| s.run do
  synchronised
  ready [.g a] []
  let x ← srcG a
  let (l, cl, off) ← frameAt x
  noBad [l]
  let s ← get
  let t := s.me
  let rs := s.edgeRecords t
  if !t.edgeDone && !rs.isEmpty then stopWith (.edge .writeBack rs)
  let m := (s.cluster cl).mem
  let hdr := m.word off 8
  let n := hdr % 2 ^ 32
  raiseIf (n == 0) 0x07 x (permAux 4 0)
  let owner := t.framep == s.canonicalPlace cl off
  let saved := owner || bitOf hdr 32
  let unknown := ((s.teamOf t).bind fun tm => tm.frameTask cl off).isNone
  waitIf (n == 1 && !owner && saved && unknown && (s.cluster t.home).taskCount ≥ 1024) .deque
  let back ← nextIp
  let hdr' := hdr - 1 + (if owner && !bitOf hdr 32 then 2 ^ 32 else 0)
  let image := if owner then t.frameImage back (BitVec.ofNat 64 (m.word (off + 0x50) 8)) (s.records t) else []
  modify fun s => s.modCluster cl fun c => { c with mem := (c.mem.write off (natBytes 8 hdr')).write (off + 8) image }
  if owner then
    modify fun s => s.modTeamOf t fun tm =>
      { tm with frames := (tm.frames.filter fun f => !f.at_ cl off) ++ [⟨cl, off, t.task, n > 1⟩] }
  if n > 1 then modify fun s => s.endJoin s.cur (!owner) owner
  else if owner then modify fun s => (s.modMe fun t => { t with ip := back }).arrive s.cur
  else if saved then modify fun s => s.resumeFrame s.cur cl off
  else modify fun s => s.endJoin s.cur true false

/-- edge (R221), after every earlier access (log 16). -/
def execEdge (s : State) : Out := s.run do
  quiet
  let s ← get
  let rs := writeRegions (s.records s.me)
  if !s.me.edgeDone && !rs.isEmpty then stopWith (.edge .writeBack rs)
  advance

/-! ### exit -/

/-- Whether a tmacr of a thread is neither acknowledged nor refused (R267): either takes it off the list. -/
def State.tmacrOpen (s : State) (uid : Nat) : Bool := s.tmacrs.any fun x => x.uid == uid

/-- Whether everything that exit waits for is over (R108, R267, R330). -/
def State.finished (s : State) (w : SlotIx) : Bool :=
  let t := s.thread w
  t.outs.isEmpty && !s.posted w && !(s.core (SlotIx.core w)).retry.any (fun e => e.w == w) && !s.tmacrOpen t.uid &&
  !s.tileStores w

/-- exit (R108): the leave's write-back first, then the thread waits to retire. -/
def execExit (s : State) : Out := s.run do
  let s ← get
  waitIf (!s.finished s.cur) .access
  let rs := s.edgeRecords s.me
  if !s.me.edgeDone && !rs.isEmpty then stopWith (.edge .writeBack rs)
  parkAs .exiting

/-- What a killed thread cannot answer any more goes: its refused entries, held segments and pending events (R409). -/
def State.abandon (s : State) (w : SlotIx) : State :=
  let uid := (s.thread w).uid
  let ended (st : SendState) : Bool := match st with
    | .refused _ => true
    | _ => false
  (s.modCore (SlotIx.core w) fun c => { c with
    journal := c.journal.filter fun j => j.w != w || !ended j.state
    retry := c.retry.filter fun e => e.w != w || !ended e.state
    tile := { c.tile with epi := c.tile.epi.filter fun g => g.uid != uid || g.held.isNone } }).modThread w fun t =>
      { t with pend := [], named := none }

/-- A killed thread ends once everything that exit waits for is over (R409): its leave's write-back, the KIND 5 record,
and the end (R425). -/
def State.endKilled (s : State) (w : SlotIx) (f : FuncIx) (q : Fin 16) (cseq : W32) (counted : Bool) : State :=
  let s := s.abandon w
  if !s.finished w then s
  else
    let s := s.skimWriteBack (SlotIx.core w) (s.edgeRecords (s.thread w))
    let s := s.complete f q { kind := 5, cseq := cseq, team := (s.thread w).team, slot := s.globalSlot w }
    s.endThread w (!counted)

/-- exit retires (R108); an asynchronous event that has arrived is delivered first. A killed thread ends as exit ends
one (R409). -/
def execExitRetire (w : SlotIx) (s : State) : Out :=
  let t := s.thread w
  match t.wait with
  | .exiting => .next (if !s.finished w || !(t.pend.isEmpty || t.handler) then s else s.endThread w true)
  | .killed f q cseq counted => .next (s.endKilled w f q cseq counted)
  | _ => .next s

/-! ### Deques and stealing -/

/-- A deque entry resumes in a slot (R209). -/
def State.resumeEntry (s : State) (w : SlotIx) (e : DequeEntry) : State :=
  match s.teamAt e.home e.part e.team with
  | none => s
  | some tm =>
    let t := { tm.thread e.home e.task with
      view := (tm.tasks.find? fun k => k.id == e.task).bind (Task.viewOf e.regions)
      ip := e.ip
      g := Vector.ofFn fun i => if h : 1 ≤ i.val ∧ i.val ≤ 7 then e.g[i.val]'(by omega) else 0
      framep := e.framep
      idset := e.idset
      tid := e.tid
      teamn := e.teamn
      mul := e.mul
      vstat := e.vstat
      rngkey := e.rngkey
      rngctr := e.rngctr
      meetwin := e.meetwin
      bartmo := e.bartmo }
    (s.modTeam e.home e.part e.team fun tm => tm.modTask e.task (Task.resume e.regions true)).place w t

/-- A core pops its near-end entry into its lowest free candidate slot, once in a cycle (R210). -/
def State.pop (s : State) (c : CoreIx) : State :=
  match (s.core c).deque.getLast?, s.candidates c with
  | some e, w :: _ =>
    if (s.core c).popped then s
    else
      let s := { s with filled := true }.modCore c fun x => { x with deque := x.deque.dropLast, popped := true }
      (s.resumeEntry w e).arrive w
  | _, _ => s

/-- DEQUE_POP (R210). -/
def execDequePop (c : CoreIx) (s : State) : Out := .next (s.pop c)

/-- The cores a core may steal from, in the order of R22 from the core after it. -/
def State.victims (s : State) (c : CoreIx) : List CoreIx :=
  let cl := CoreIx.cluster c
  let cls := (s.clustersOf (s.partOf cl)).filter fun x => s.permitted cl (s.vcluster x) x
  let all := cls.flatMap coresOf
  (all.filter fun x => x.val > c.val) ++ all.filter fun x => x.val < c.val

/-- Whether a core may steal (R210): a thread that has not been found waiting, and whose operands have arrived, counts
as ready (log 1). -/
def State.maySteal (s : State) (c : CoreIx) : Bool :=
  (s.cluster (CoreIx.cluster c)).part.isSome && (s.core c).deque.isEmpty && !(s.candidates c).isEmpty &&
  !(slotsOf c).any fun w => (s.thread w).occ && (s.thread w).wait == .run && !(s.core c).cycle.ult (s.thread w).flightTo

/-- An idle core asks the next victim (R22). -/
def execStealRequest (c : CoreIx) (s : State) : Out :=
  if (s.core c).victim.isSome then .next s
  else if !s.maySteal c then .next (s.modCore c fun x => { x with stealFrom := 0 })
  else
    let vs := s.victims c
    match vs[(s.core c).stealFrom % vs.length]? with
    | some v => .next (s.modCore c fun x => { x with victim := some v })
    | none => .next s

/-- A steal request is answered (R22, R210): the far-end entry of the victim's deque, after the leave of its core
(R223), or "empty". The owner's pop of the cycle comes first (R23). DESIGN CHOICE (log 82): where the core has no free
candidate slot any more, the entry stays and the answer is "empty". -/
def execStealAnswer (c : CoreIx) (s : State) : Out :=
  match (s.core c).victim with
  | none => .next s
  | some v =>
    let s := s.pop v
    let empty := s.modCore c fun x => { x with
      victim := none
      stealFrom := if x.stealLate || !s.maySteal c then 0 else x.stealFrom + 1
      stealLate := false }
    match (s.core v).deque, s.candidates c with
    | e :: rest, w :: _ =>
      let s := { s with filled := true }.modCore v fun x => { x with deque := rest }
      let s := s.modCore c fun x => { x with victim := none, stealFrom := 0, stealLate := false }
      let s := (s.count c 8 1).resumeEntry w e
      let rs := s.edgeRecords (s.thread w)
      if rs.isEmpty then .next (s.arrive w)
      else .next ((s.startSkim v .writeBack rs w .arrive).modThread w fun t => { t with wait := .skimmer })
    | _, _ => .next empty

/-! ### The skimmer's events -/

/-- A skimmer action completes and its token arrives (R225, R226); actions on one core are served in turn. -/
def execSkimmerActionComplete (cl : ClusterIx) (token : Nat) (s : State) : Out :=
  match (s.cluster cl).skims.find? fun k => k.token == token with
  | none => .next s
  | some k =>
    if ((s.cluster cl).skims.takeWhile fun x => x.token != token).any fun x => x.core == k.core then .next s
    else
      let s := match k.kind with
        | .writeBack => s.skimWriteBack k.core k.regions
        | .invalidate => s.skimInvalidate k.core k.regions
      let s := s.modCluster cl fun c => { c with skims := c.skims.filter fun x => x.token != token }
      match k.after with
      | .nothing => .next s
      | .again => .next (s.modOwner k.w k.uid fun t => { t with wait := .run, edgeDone := true, parks := false })
      | .arrive =>
        if (s.thread k.w).uid == k.uid then .next (s.arrive k.w)
        else .next (s.modOwner k.w k.uid fun t => { t with wait := .held })
      | .go => .next (s.modOwner k.w k.uid fun t => { t with wait := .run, parks := false })
      | .finish => .next (s.modOwner k.w k.uid Thread.done)
      | .close n gone =>
        let s := match gone with
          | some l => s.leaveTask l false
          | none => s
        .next (s.settleClose cl n)

end Sys2Proof.Machine
end

