-- ==== Sys2Proof/Machine/Meet.lean ====
section
/-! DEFINITION. Meet class (R239 to R241): opcodes 0xB0 to 0xB2, and the sieve's events. -/

namespace Sys2Proof.Machine

/-- The conditions of MEET_BAD with TRAPAUX 3, 2 and 4, in that order (R239). -/
def mayMeet : Op Unit := do
  let s ← get
  let t := s.me
  raiseIf t.handler 0x18 0 3
  raiseIf (!s.member t) 0x18 0 2
  raiseIf (SlotIx.cluster s.cur != t.home) 0x18 0 4

/-- meet (R239): the thread is on its way to the sieve. DESIGN CHOICE (log 72): a poisoned g[A] or declared register
raises DATA_UE (R360), though R239 says that meet raises no other fault after decode. -/
def execMeet (d a : GReg) (id : BitVec 8) (s : State) : Out := s.run do
  mayMeet
  ready [.g a] [.g d]
  let mask ← srcG a
  let t := (← get).me
  raiseIf (mask.extractLsb' 24 8 &&& t.qmap != 0) 0x18 0 1
  synchronised
  maskReady mask
  let dst ← reserve d
  parkAs (.sieveWay dst id mask (t.meetHash mask))

/-- idset.lo and idset.hi (R240). -/
def execIdset (hi : Bool) (d : GReg) (s : State) : Out := s.run do
  ready [] [.g d]
  let t := (← get).me
  dstG d (t.idset.extractLsb' (if hi then 64 else 0) 64)
  advance

/-- A copy for one team index (R241). -/
def Thread.split (t : Thread) (x : Nat) (d : GReg) (ip : W64) : Thread :=
  { t.setG d t.mul.toNat with
    ip := ip
    tid := BitVec.ofNat 7 x
    mul := 1
    idset := oneIndex x
    migr := false
    pjent := 0
    notes := []
    pend := []
    named := none
    mark := none
    tmacrs := 0
    edgeDone := false
    parks := false
    flightTo := 0
    yielded := 0
    claimed := []
    popped := []
    wait := .run }

/-- Place the copies of unmerge in the slots chosen; those on another core arrive there (R241, R224), their task having
begun (R207). -/
def State.splitOver (s : State) (d : GReg) (ip : W64) : List (Nat × SlotIx) → State
  | [] => s
  | (x, w) :: rest =>
    let s' := (s.place w (s.me.split x d ip)).modTaskOf s.me fun k => { k with threads := k.threads + 1 }
    (if SlotIx.core w == SlotIx.core s.cur then s' else s'.enterCore w).splitOver d ip rest

/-- A v register for which a tacc.get of the thread is still to come (R271). -/
def State.taccOpen (s : State) (w : SlotIx) : Bool := (List.finRange 32).any fun r => s.pending w (.v r)

/-- The slots that unmerge takes (R241): those it has reserved at issue, else the free candidates from this core on. -/
def State.splitSlots (s : State) : List SlotIx :=
  if s.me.claimed.isEmpty then
    ((coresFrom (SlotIx.core s.cur)).flatMap s.candidates).take (s.me.mul.toNat - 1)
  else s.me.claimed

/-- An unmerge whose write-back comes first keeps its slots (R241). -/
def reserveSplit (slots : List SlotIx) (w : SlotIx) : Out → Out
  | .next t =>
    .next (if (t.thread w).wait != .skimmer then t
      else (slots.foldl (fun t x => t.modThread x fun y => { y with reservedBy := (t.thread w).uid }) t).modThread w fun y =>
        { y with claimed := slots })
  | o => o

/-- unmerge (R241): a slot that a placement or a pop has taken in this cycle is not seen to be free before the next. -/
def execUnmerge (d : GReg) (s : State) : Out := reserveSplit s.splitSlots s.cur <| s.run do
  mayMeet
  synchronised
  ready [] [.g d]
  let s ← get
  waitIf (s.taccOpen s.cur) .access
  let t := s.me
  let m := t.mul.toNat
  let slots := s.splitSlots
  if m == 1 then dstG d 1
  else
    waitIf (s.filled && t.claimed.isEmpty) .slot
    if slots.length < m - 1 then dstG d 0
    else
      let rs := s.edgeRecords t
      let crosses := slots.any fun w => SlotIx.core w != SlotIx.core s.cur
      if crosses && !t.edgeDone && !rs.isEmpty then stopWith (.edge .writeBack rs)
      let back ← nextIp
      let others := (List.range 128).filter fun x => t.idset.getLsbD x && x != t.tid.toNat
      modify fun s => (s.splitOver d back (others.zip slots)).modMe fun t =>
        { t with mul := 1, idset := oneIndex t.tid.toNat, claimed := [] }
      dstG d (BitVec.ofNat 64 m)
  advance

/-- A meet reaches the sieve (R231). -/
def execMeetArrival (w : SlotIx) (s : State) : Out := .next (s.meetArrive w)

/-- The window of an instance expires (R233). -/
def execMeetWindowExpiry (cl : ClusterIx) (inst : Nat) (s : State) : Out :=
  match (s.cluster cl).inst[inst]? with
  | none => .next s
  | some i => if s.windowOver i then .next (s.closeInst cl i true) else .next s

/-- A released member's D and MEETST are written and it unparks, once every write-back of the close and its own
invalidation are complete (R235). -/
def execMeetRelease (w : SlotIx) (s : State) : Out :=
  match (s.thread w).wait with
  | .sieveOut d status n =>
    let busy := (s.cluster (SlotIx.cluster w)).skims.any fun k =>
      k.uid == (s.thread w).uid || (match k.after with
        | .close m _ => m == n
        | _ => false)
    if busy then .next s else .next (s.meetReturn w d status)
  | _ => .next s

end Sys2Proof.Machine
end

