-- ==== Sys2Proof/Machine/Message.lean ====
section
/-! DEFINITION. Messages, core queues, elastic rings and migration (R324 to R338): opcodes 0xE0 to 0xE5, and the events
of messages and of forwarding. -/

namespace Sys2Proof.Machine

/-! ### Messages (R325 to R330) -/

/-- The slot that send names, checked (R325). -/
def sendTarget (x : W64) : Op SlotIx := fun s =>
  let cl := SlotIx.cluster s.cur
  match (if x.toNat < 2 ^ 14 then s.slotNamed (s.partOf cl) x.toNat else none) with
  | none => .error (.trap 0x06 x 0)
  | some w => if s.permitted cl (x.toNat / 128) (SlotIx.cluster w) then .ok (w, s) else .error (.trap 0x07 x 0)

/-- send (R325): earlier posted stores to the destination cluster, those of the matrix unit too (R269), are acknowledged
first. -/
def execSend (ch : Fin 4) (d a b : GReg) (s : State) : Out := s.run do
  quiet
  ready [.g a, .g b, .g d] []
  let x ← srcG a
  let hi ← srcG b
  let lo ← srcG d
  let dst ← sendTarget x
  let s ← get
  let far := SlotIx.cluster dst
  waitIf (s.myCore.journal.any (fun j => j.w == s.cur && j.cl == far) ||
    s.myCore.tile.segments.any fun g => g.goesTo s.me.uid far) .journal
  match indices 16 fun n => s.myCore.retry.all fun e => e.entry != n with
  | [] => waitFor .retryBuffer
  | n :: _ =>
    let e : RetryEntry := {
      entry := n
      w := s.cur
      uid := s.me.uid
      part := s.me.part
      dst := dst
      dstName := x.setWidth 14
      epoch := (s.cluster far).epoch
      ch := ch
      lo := lo
      hi := hi
      tries := 0
      state := .sent }
    modify fun s => s.modMyCore fun c => { c with retry := c.retry ++ [e] }
    advance

/-- Whether recv takes a message (R329). -/
def Msg.suits (m : Msg) (n : Fin 16) (ch : Fin 5) : Bool := m.slot == n && (ch.val == 4 || m.ch.val == ch.val)

/-- The register after D, which recv also writes (R329). -/
def GReg.next (d : GReg) : GReg := ⟨(d.val + 1) % 32, Nat.mod_lt _ (by decide)⟩

/-- recv (R329). -/
def execRecv (ch : Fin 5) (d : GReg) (s : State) : Out := s.run do
  quiet
  delivered
  let s ← get
  match s.myCore.inbox.find? fun m => m.suits (SlotIx.num s.cur) ch with
  | none => waitFor .recv
  | some m =>
    ready [] [.g d, .g (GReg.next d)]
    modify fun s => s.modMyCore fun c => { c with inbox := c.inbox.erase m }
    dstG d m.lo
    dstG (GReg.next d) m.hi
    advance

/-- qmap (R333): D is written into the register file, whatever either map holds. -/
def execQmap (d a : GReg) (s : State) : Out := s.run do
  ready [.g a] []
  modify fun s => if s.pending s.cur (.g d) then s.lose [.g d] else s
  let x ← srcG a
  let s ← get
  let n := (s.myCore.queue.filter fun e => e.val.isSome).length
  modify fun s => s.modMe fun t => { t with qmap := x.setWidth 8 }.setG d (BitVec.ofNat 64 (n * 256 + t.qmap.toNat))
  advance

/-! ### Elastic rings (R334 to R336) -/

/-- A ring descriptor (R334). -/
structure Ring where
  base : Nat
  cap : Nat
  count : Nat
  head : Nat
  last : Nat
  first : Nat
  lent : Nat
deriving DecidableEq, Repr

/-- Read a descriptor; none if it breaks R334. -/
def ringAt (m : Memory) (off : Nat) : Option Ring :=
  let a := m.word off 8
  let b := m.word (off + 8) 8
  let x := m.word (off + 16) 8
  let y := m.word (off + 24) 8
  let r : Ring := ⟨a, b, x / 2 ^ 32, x % 2 ^ 32, y / 2 ^ 24 % 256, y / 2 ^ 16 % 256, y % 2 ^ 16⟩
  if a < 2 ^ 22 && a % 8 == 0 && 1 ≤ b && b ≤ 65536 && a + 8 * b ≤ poolBase && r.count ≤ b && r.head < b &&
      y < 2 ^ 32 && r.lent ≤ 256 && (r.lent == 0 || r.count == b)
  then some r else none

/-- Store the fields that change (R334). -/
def Ring.store (r : Ring) (m : Memory) (off : Nat) : Memory :=
  m.write (off + 16) (natBytes 8 (r.count * 2 ^ 32 + r.head) ++ natBytes 8 (r.last * 2 ^ 24 + r.first * 2 ^ 16 + r.lent))

/-- Local offset of a home slot, counted from the oldest entry. -/
def Ring.slot (r : Ring) (i : Nat) : Nat := r.base + 8 * ((r.head + i) % r.cap)

/-- Local offset of a pool slot (R335). -/
def poolSlot (p : Nat) : Nat := poolBase + 16 * p

/-- ringput's step at the controller (R336): the memory, the pool and the status; none when it has no room. -/
def Ring.put (r : Ring) (m : Memory) (off : Nat) (pool : BitVec 256) (free : Option Nat) (x : W64) :
    Option (Memory × BitVec 256 × Nat) :=
  if r.lent == 0 && r.count < r.cap then
    some ({ r with count := r.count + 1 }.store (m.write (r.slot r.count) (wordBytes 8 x)) off, pool, 0)
  else
    match free with
    | none => none
    | some p =>
      let m := m.write (poolSlot p) (wordBytes 8 x ++ List.replicate 8 0)
      let m := if r.lent == 0 then m else m.write (poolSlot r.last + 8) [BitVec.ofNat 8 p]
      let r := { r with last := p, first := if r.lent == 0 then p else r.first, lent := r.lent + 1 }
      some (r.store m off, pool ||| BitVec.ofNat 256 (2 ^ p), 1)

/-- ringget's step at the controller on a ring that is not empty (R336). -/
def Ring.get (r : Ring) (m : Memory) (off : Nat) (pool : BitVec 256) : Memory × BitVec 256 × W64 :=
  let x := bytesWord (m.read (r.slot 0) 8)
  let r := { r with head := (r.head + 1) % r.cap, count := r.count - 1 }
  if r.lent == 0 then (r.store m off, pool, x)
  else
    let p := r.first
    let next := (m.get (poolSlot p + 8)).toNat
    let m := m.write (r.slot r.count) (m.read (poolSlot p) 8)
    let r := { r with count := r.count + 1, first := if r.lent == 1 then r.first else next, lent := r.lent - 1 }
    (r.store m off, pool &&& ~~~BitVec.ofNat 256 (2 ^ p), x)

def ringSpec : AccSpec := { size := 32, align := 32, need := needRW, fe := true }

/-- The descriptor that an instruction addresses: its cluster, offset and fields (R336). -/
def ringOf (va : W64) : Op (ClusterIx × Nat × Ring) := do
  let l ← checkAddr ringSpec 0 va
  notHeld l true
  remoteReady l
  let s ← get
  match l.place.word with
  | none => raise 0x07 va 0
  | some (cl, word) =>
    match ringAt (s.cluster cl).mem (8 * word) with
    | none => raise 0x07 va (permAux 6 0)
    | some r => return (cl, 8 * word, r)

/-- Whether a ring has no home slot for a put (R336). -/
def Ring.full (r : Ring) : Bool := r.lent != 0 || r.count ≥ r.cap

/-- The cycle since which a thread waits in a ringput for a pool slot of a cluster; none if it does not, or if its ring
has a home slot again. -/
def State.putSince (s : State) (cl : ClusterIx) (w : SlotIx) : Option Nat :=
  match (s.thread w).wait with
  | .retry (.ringPut c off since) => if c == cl && (ringAt (s.cluster cl).mem off).any Ring.full then some since else none
  | _ => none

/-- The ringputs that wait and go before this one for returned pool slots (R348): those that wait longer, of equal ones the
lower slot (log 23). -/
def State.ringAhead (s : State) (cl : ClusterIx) : Nat :=
  let mine := s.putSince cl s.cur
  ((s.slotsIn (s.partOf (SlotIx.cluster s.cur))).filter fun w => w != s.cur && match s.putSince cl w, mine with
    | none, _ => false
    | some _, none => true
    | some a, some b => a < b || (a == b && w.val < s.cur.val)).length

/-- A free slot of a cluster's pool, beyond those that ringputs ahead of this one take (R336, R348; log 23). -/
def State.freePool (s : State) (cl : ClusterIx) : Option Nat :=
  let xs := indices 256 fun p => !(s.cluster cl).pool.getLsbD p
  if xs.length ≤ s.ringAhead cl then none else xs[Config.poolSlot s.frees % xs.length]?

/-- ringput and ringput.try (R336). -/
def execRingput (try_ : Bool) (d a b : GReg) (imm : BitVec 16) (s : State) : Out := s.run do
  quiet
  delivered
  ready [.g a, .g b] [.g d]
  let x ← srcG a
  let data ← srcG b
  let (cl, off, r) ← ringOf (x + imm.signExtend 64)
  let s ← get
  let c := s.cluster cl
  let lends := r.full
  let free := if lends then s.freePool cl else none
  match r.put c.mem off c.pool free data with
  | some (m, pool, status) =>
    modify fun s => (if lends then s.useFree else s).modCluster cl fun c => { c with mem := m, pool := pool }
    dstG d (BitVec.ofNat 64 status)
    advance
  | none =>
    if try_ then
      dstG d 2
      advance
    else waitFor (.ringPut cl off (match s.me.wait with
      | .retry (.ringPut c o since) => if c == cl && o == off then since else s.now
      | _ => s.now))

/-- ringget, and ringget.try with its status register (R336). -/
def execRingget (d a : GReg) (status : Option GReg) (imm : BitVec 16) (s : State) : Out := s.run do
  quiet
  delivered
  ready [.g a] (.g d :: (status.map GV.g).toList)
  let x ← srcG a
  let (cl, off, r) ← ringOf (x + imm.signExtend 64)
  let c := (← get).cluster cl
  if r.count == 0 then
    match status with
    | none => waitFor .ringGet
    | some b =>
      dstG b 0
      advance
  else
    let (m, pool, data) := r.get c.mem off c.pool
    modify fun s => s.modCluster cl fun c => { c with mem := m, pool := pool }
    dstG d data
    match status with
    | none => advance
    | some b =>
      dstG b 1
      advance

/-! ### Migration and forwarding (R337, R338) -/

/-- The core of a partition with a number, vcluster × 8 + core (R337). -/
def State.coreNamed (s : State) (p : PartIx) (n : Nat) : Option CoreIx :=
  (s.physical p (n / 8)).map fun cl => coreOf cl ⟨n % 8, Nat.mod_lt _ (by decide)⟩

/-- Move a thread with its inbox messages to a slot of another core, leaving a forwarding entry (R337, R338). -/
def State.moveThread (s : State) (w w' : SlotIx) : State :=
  let t := s.thread w
  let n := SlotIx.num w
  let mine := (s.core (SlotIx.core w)).inbox.filter fun m => m.slot == n
  let s := if t.migr then s.dropForwards t.uid else s
  let s := (s.dropClaims w).freeSlot w
  let s := s.setThread w' { t with migr := true, flightTo := 0, yielded := 0 }
  let s := s.modCore (SlotIx.core w') fun c => { c with
    inbox := c.inbox ++ mine.map fun m => { m with slot := SlotIx.num w' }
    stealFrom := 0
    stealLate := c.victim.isSome }
  s.modCore (SlotIx.core w) fun c => { c with forward := c.forward ++ [⟨n, w', t.uid, c.cycle⟩] }

/-- Whether the matrix unit of a thread's core has instructions of the thread still to complete, whose results and order
stay with the core (R271, R273). -/
def State.tileOpen (s : State) (w : SlotIx) : Bool :=
  let uid := (s.thread w).uid
  let tile := (s.core (SlotIx.core w)).tile
  tile.queue.any (fun o => o.of uid) || match tile.running with
    | some x => x.op.of uid
    | none => false

/-- migrate (R337). -/
def execMigrate (d a : GReg) (s : State) : Out := s.run do
  waitIf (!s.finished s.cur) .access
  waitIf (s.tileOpen s.cur) .tile
  ready [.g a] [.g d]
  let x ← srcG a
  let s ← get
  let t := s.me
  let cl := SlotIx.cluster s.cur
  let here := SlotIx.core s.cur
  let n := x.toNat % 1024
  match s.coreNamed (s.partOf cl) n with
  | none => do dstG d 2; advance
  | some dest =>
    if !s.permitted cl (n / 8) (CoreIx.cluster dest) then do dstG d 2; advance
    else if t.qmap != 0 then do dstG d 3; advance
    else if t.handler || t.notifyActive then do dstG d 4; advance
    else if dest == here then do dstG d 1; advance
    else
      let mine := (s.core here).inbox.filter fun m => m.slot == SlotIx.num s.cur
      match s.candidates dest with
      | [] => do dstG d 0; advance
      | w' :: _ =>
        if (s.core dest).inbox.length + mine.length > 32 || (s.core here).forward.length ≥ 16 then do dstG d 0; advance
        else
          let rs := s.edgeRecords t
          if !t.edgeDone && !rs.isEmpty then stopWith (.edge .writeBack rs)
          dstG d 1
          advance
          modify fun s => (((s.modMe Thread.settled).moveThread s.cur w').arrive w')

/-! ### Events -/

/-- Whether an entry still holds back the later messages to its core and channel (R325, R327). -/
def RetryEntry.holds (e : RetryEntry) : Bool :=
  match e.state with
  | .gone _ => false
  | .refused reason => reason == 0
  | _ => true

def RetryEntry.sameWay (a b : RetryEntry) : Bool := a.dstName.toNat / 16 == b.dstName.toNat / 16 && a.ch == b.ch

def Core.retryEntry (c : Core) (e : Nat) : Option RetryEntry := c.retry.find? fun r => r.entry == e

def Core.modRetry (c : Core) (e : Nat) (f : RetryEntry → RetryEntry) : Core :=
  { c with retry := updateAll c.retry (fun r => r.entry == e) f }

def Core.dropRetry (c : Core) (e : Nat) : Core := { c with retry := c.retry.filter fun r => r.entry != e }

/-- Whether a message is the next of its core for its destination core and channel (R325), and of its thread (R165;
log 65). -/
def Core.mayArrive (c : Core) (e : RetryEntry) : Bool :=
  e.state == .sent && (c.retry.takeWhile fun r => r.entry != e.entry).all fun r =>
    !(r.holds && r.sameWay e) && !(r.uid == e.uid && r.state.underWay)

/-- What an inbox does with a message, given its messages, whether the slot holds a thread, and where a forwarding
entry sends it (R326, R338). -/
inductive Delivery where
  | accept
  | forward (w : SlotIx)
  | nack
  | gone
deriving DecidableEq, Repr

def Core.offer (c : Core) (inbox : List Msg) (n : Fin 16) (occ : Bool) : Delivery :=
  match c.forward.find? fun f => f.old == n with
  | some f => .forward f.new
  | none => if inbox.length ≥ 32 then .nack else if occ then .accept else .gone

/-- A forwarding entry has forwarded (R338). -/
def Core.forwarded (c : Core) (n : Fin 16) : Core :=
  { c with forward := updateAll c.forward (fun f => f.old == n) fun f => { f with last := c.cycle } }

/-- The retry-buffer entry that an event names: entry n of context i as 16 i + n (R154). -/
def State.retryAt (s : State) (c : CoreIx) (entry : Nat) : Option (Core × RetryEntry) :=
  (s.view c (entry / 16)).bind fun k => (k.retryEntry (entry % 16)).map fun e => (k, e)

def State.modEntry (s : State) (c : CoreIx) (entry : Nat) (f : RetryEntry → RetryEntry) : State :=
  s.modView c (entry / 16) fun k => k.modRetry (entry % 16) f

/-- A message reaches the inbox of its destination's core, or the image of a saved context (R325, R326, R330, R338). The
forwarding entries of the slots of a core stay with the core (log 87). -/
def execMessageArrival (c : CoreIx) (entry : Nat) (s : State) : Out :=
  match s.retryAt c entry with
  | none => .next s
  | some (k, e) =>
    if !k.mayArrive e then .next s
    else
      let dest := SlotIx.core e.dst
      let cl := CoreIx.cluster dest
      let n := SlotIx.num e.dst
      let set (st : SendState) : State := s.modEntry c entry fun r => { r with state := st }
      if (s.cluster cl).epoch != e.epoch || (s.cluster cl).part != some e.part then .next (set (.gone 1))
      else
        let image := (s.savedIx dest).bind fun i => s.saved[i]?
        let inbox := ((image.map SavedCore.core).getD (s.core dest)).inbox
        let occ := match image with
          | some x => x.threads[n].occ
          | none => (s.thread e.dst).occ
        let upd (s : State) (f : Core → Core) : State :=
          match s.savedIx dest with
          | some i => { s with saved := updateAt s.saved i fun x => { x with core := f x.core } }
          | none => s.modCore dest f
        match (s.core dest).offer inbox n occ with
        | .accept =>
          .next (upd (s.modView c (entry / 16) fun x => x.dropRetry (entry % 16)) fun x =>
            { x with inbox := x.inbox ++ [⟨n, e.ch, e.lo, e.hi⟩] })
        | .forward w =>
          let s := s.modEntry c entry fun r => { r with dst := w, epoch := (s.cluster (SlotIx.cluster w)).epoch }
          .next (s.modCore dest fun x => x.forwarded n)
        | .nack => .next (set .nack)
        | .gone => .next (set (.gone 2))

/-- TRAPAUX of NACK_EXHAUSTED (R327). -/
def RetryEntry.exhaustedAux (e : RetryEntry) : W64 := BitVec.ofNat 64 (e.entry + e.dstName.toNat * 2 ^ 4 + e.ch.val * 2 ^ 18)

/-- A NACK reaches the sending core (R327): a retry is scheduled, or NACK_EXHAUSTED becomes pending. -/
def execNack (c : CoreIx) (entry : Nat) (s : State) : Out :=
  match s.retryAt c entry with
  | none => .next s
  | some (k, e) =>
    if e.state != .nack then .next s
    else
      let n := e.tries + 1
      let s := (s.count c 12 1)
      let s := { s with mgmt := { s.mgmt with nacks := s.mgmt.nacks + 1 } }
      if n ≥ 16 then
        let s := s.modEntry c entry fun r => { r with tries := n, state := .refused 0 }
        let s := { s with mgmt := { s.mgmt with exhausted := s.mgmt.exhausted + 1 } }
        .next (s.pendAsync e.w e.uid ⟨0x29, s.now, 0, e.exhaustedAux, none, some e.entry⟩)
      else
        let until_ := k.cycle + BitVec.ofNat 64 (min (64 * 2 ^ (n - 1)) 65536)
        .next (s.modEntry c entry fun r => { r with tries := n, state := .backoff until_ })

/-- A scheduled retry sends the entry again (R327); the count stands still while the context is saved. -/
def execNackRetry (c : CoreIx) (entry : Nat) (s : State) : Out :=
  match (s.core c).retryEntry entry with
  | none => .next s
  | some e =>
    match e.state with
    | .backoff t =>
      if t.toNat ≤ (s.core c).cycle.toNat then .next (s.modEntry c entry fun r => { r with state := .sent }) else .next s
    | _ => .next s

/-- TARGET_GONE becomes pending in the sender (R326, R328, R341). kind says that it is a journal entry. -/
def execTargetGone (c : CoreIx) (kind : Bool) (entry : Nat) (s : State) : Out :=
  if kind then
    match s.journalAt c entry with
    | none => .next s
    | some (_, j) =>
      match j.state with
      | .gone cause =>
        let aux := BitVec.ofNat 64 (2 ^ 16 + j.entry * 256 + cause)
        .next ((s.setEntry c entry (.refused cause)).pendAsync j.w j.uid ⟨0x22, s.now, j.va, aux, some j.entry, none⟩)
      | _ => .next s
  else
    match s.retryAt c entry with
    | none => .next s
    | some (_, e) =>
      match e.state with
      | .gone cause =>
        let aux := BitVec.ofNat 64 (e.entry * 256 + cause)
        let s := s.modEntry c entry fun r => { r with state := .refused cause }
        .next (s.pendAsync e.w e.uid ⟨0x22, s.now, e.dstName.setWidth 64, aux, none, some e.entry⟩)
      | _ => .next s

/-- A forwarding entry is released after 16,384 cycles in which it forwarded nothing (R338). -/
def execForwardingRelease (c : CoreIx) (i : Nat) (s : State) : Out :=
  match (s.core c).forward[i]? with
  | none => .next s
  | some f =>
    if ((s.core c).cycle - f.last).toNat < 16384 then .next s
    else .next (s.modCore c fun k => { k with forward := k.forward.eraseIdx i })

end Sys2Proof.Machine
end

