-- ==== Sys2Proof/Machine/System.lean ====
section
/-! DEFINITION. System class without the context block (R355 to R374): opcodes 0x04, 0x05, 0x09 to 0x0B; waits withdrawn
(R154); the delivery of asynchronous events and of completion notifications; and the hold limit of the lock. -/

namespace Sys2Proof.Machine

/-! ### Withdrawing a wait (R154, R243) -/

/-- Whether the tile-queue entry a thread waits for has still to start (R277). -/
def State.tileQueued (s : State) (w : SlotIx) (token : Nat) : Bool :=
  (s.core (SlotIx.core w)).tile.queue.any fun o => o.token == token

/-- Whether the instruction a thread waits in has had no effect, so that it may be withdrawn. -/
def State.interruptible (s : State) (w : SlotIx) : Bool :=
  match (s.thread w).wait with
  | .run | .retry _ | .bank _ _ | .bankRefused _ _ _ | .sieveWay _ _ _ _ | .sieveIn _ _ _ _ | .rgnadd _ | .port _
  | .group _ _ _ _ _ | .xwait _ _ | .xcancel _ _ | .hostStage _ | .declined _ | .exiting => true
  | .tileStart token _ => s.tileQueued w token
  | .det asked _ => asked.isSome
  | .sieveOut _ _ _ | .skimmer | .held | .drain _ _ _ | .stopped _ | .killed _ _ _ _ => false

def BarEvent.from_ (w : SlotIx) : BarEvent → Bool
  | .arrive x _ _ _ _ | .expect x _ _ | .config x _ _ _ => x == w
  | .remote _ _ _ | .bytes _ | .again => false

/-- The tile-queue entry for which a thread stalls, of those that have not started (R277). -/
def State.stalledToken (s : State) (w : SlotIx) : Option Nat :=
  ((s.core (SlotIx.core w)).tile.queue.find? fun o => o.of (s.thread w).uid && o.kind.stalls).map TileOp.token

/-- Withdraw a waiting instruction (R154, R241, R243, R277, R344): it executes afresh. A grpred keeps its arrival, and
leaves its pending mark (R346). -/
def State.withdraw (s : State) (w : SlotIx) : State :=
  let t := s.thread w
  let afresh (s : State) (d : Option Dst) : State :=
    (((s.unreserve w).leaveQueues w).undo w d).modThread w fun t => { t with wait := .run, edgeDone := false, parks := false }
  match t.wait with
  | .run | .retry _ | .rgnadd _ | .exiting => afresh s none
  | .hostStage _ => afresh ((s.stalledToken w).elim s (s.dropTile (SlotIx.core w))) none
  | .xwait d _ | .xcancel d _ => afresh s (some d)
  | .bank cl _ =>
    let mine (r : FeWait) : Bool := r.who == .thread w
    let d := ((s.cluster cl).fe.find? mine).bind fun r => r.kind.dst
    afresh (s.modCluster cl fun c => { c with fe := c.fe.filter fun r => !mine r }) d
  | .bankRefused _ _ r => afresh s r.kind.dst
  | .sieveWay d _ _ _ => afresh s (some d)
  | .sieveIn d _ _ _ => afresh (s.leaveInst w) (some d)
  | .port d =>
    afresh (s.modCluster t.home fun c => { c with
      barrier := mapVector c.barrier fun b => { b with port := b.port.filter fun x => !x.from_ w } }) (some d)
  | .group d id p op ty =>
    (afresh s (some d)).modThread w fun t => { t with mark := some ⟨id, p, op, ty, none, 0⟩ }
  | .tileStart token _ => if s.tileQueued w token then afresh (s.dropTile (SlotIx.core w) token) none else s
  | .det asked _ =>
    match (if asked.isSome then t.outs.findIdx? fun a => a.kind.detParts.isSome else none) with
    | some i => afresh (s.detRetract w i) ((t.outs[i]?).bind fun a => a.kind.detDst)
    | none => s
  | .declined _ | .sieveOut _ _ _ | .skimmer | .held | .drain _ _ _ | .stopped _ | .killed _ _ _ _ => s

/-! ### Delivery at an instruction boundary (R313, R358) -/

/-- Whether an asynchronous event is delivered at the next boundary (R358). -/
def State.asyncReady (s : State) (w : SlotIx) : Bool :=
  let t := s.thread w
  s.mayIssue w && !t.pend.isEmpty && !t.handler && s.interruptible w

/-- Deliver the first pending asynchronous event (R357, R358, R364): a trap whose TRAPIP is the instruction that would
have issued. An entry that the host must first resolve leaves it pending (R382). -/
def State.deliverAsync (s : State) (w : SlotIx) : State :=
  let t := s.thread w
  match t.pend with
  | [] => s
  | a :: rest =>
    let s := s.withdraw w
    let r := s.takeTrap w true a.code t.ip a.va a.aux
    match (r.thread w).wait with
    | .hostStage _ => r
    | _ =>
      let gone := a.code == 0x22 && a.journal.isNone
      let r := r.modThread w fun t => { t with
        pend := rest
        named := if gone || (a.journal.isNone && a.retry.isNone) then none else some a
        pjent := match a.journal with
          | some e => BitVec.ofNat 6 (32 + e)
          | none => 0 }
      match a.retry with
      | some e => if gone then r.modCore (SlotIx.core w) fun c => c.dropRetry e else r
      | none => r

/-- Whether a completion notification is delivered at the next boundary (R313). -/
def State.noteReady (s : State) (w : SlotIx) : Bool :=
  let t := s.thread w
  s.mayIssue w && !t.notes.isEmpty && !t.notifyActive && !t.priv && !t.handler && t.pend.isEmpty && s.interruptible w

/-- A pending asynchronous event is delivered (R358). -/
def execAsyncTrapDelivery (w : SlotIx) (s : State) : Out :=
  if s.asyncReady w then .next (s.deliverAsync w) else .next s

/-- A completion notification is delivered (R313) to a thread that waits. One that may try its instruction takes it at
its turn, after a trap that the instruction raises (R358). -/
def execNotifyDelivery (w : SlotIx) (s : State) : Out :=
  if s.noteReady w && !s.mayTry w then .next ((s.withdraw w).deliverNote w) else .next s

/-! ### trap and rett -/

/-- trap (R369): TRAPIP is the IP of the instruction after it. -/
def execTrap (code : BitVec 16) (s : State) : Out :=
  let n := s.after (SlotIx.core s.cur) s.me.ip
  .next (s.takeTrap s.cur false 0x3F n 0 (code.setWidth 64))

/-- rett (R370, R367). -/
def execRett (s : State) : Out := s.run do
  privileged
  modify fun s => s.returnTrap s.cur

/-! ### The scratchpad lock (R371 to R373) -/

/-- The scratchpad range of splock, checked in the order of R371: its offset. -/
def lockRange (va : W64) (units : Nat) : Op Nat := do
  let s ← get
  match s.localPlace s.cur 0 va with
  | .error e => stopWith e
  | .ok (some (.scratch _ off)) => do
    raiseIf (va.toNat % 64 != 0) 0x05 va 0
    raiseIf (off + 64 * units > scratchSize) 0x06 (BitVec.ofNat 64 (scratchBase + scratchSize)) 0
    return off
  | .ok _ => raise 0x07 va 0

/-- splock (R371). -/
def execSplock (a : GReg) (n : BitVec 16) (s : State) : Out := s.run do
  privileged
  quiet
  ready [.g a] []
  let x ← srcG a
  let off ← lockRange x n.toNat
  let s ← get
  let take (since : W64) : Op Unit := modify fun s => s.modMyCore fun c => { c with
    lock := some ⟨s.cur, off, n.toNat, since⟩
    lockWait := c.lockWait.filter fun w => w != s.cur }
  match s.myCore.lock with
  | some l => if l.holder == s.cur then take l.since else waitFor .lock
  | none => if nextIn s.myCore.lockWait s.cur then take s.myCore.cycle else waitFor .lock
  advance

/-- spunlock (R373). -/
def execSpunlock (d : GReg) (s : State) : Out := s.run do
  privileged
  ready [] [.g d]
  let s ← get
  let mine := s.myCore.lock.any fun l => l.holder == s.cur
  modify fun s => s.modMyCore fun c => c.dropLock s.cur
  dstG d (if mine then 1 else 0)
  advance

/-- At 4,096 cycles the lock is released, and SPLOCK_HOLD becomes pending in its holder (R372). -/
def State.expireLock (s : State) (c : CoreIx) : State :=
  match (s.core c).lock with
  | none => s
  | some l =>
    if ((s.core c).cycle - l.since).toNat < 4096 then s
    else
      let a : Async := ⟨0x38, s.now, BitVec.ofNat 64 (scratchBase + l.base), BitVec.ofNat 64 l.units, none, none⟩
      (s.modCore c fun k => { k with lock := none }).modThread l.holder fun t => { t with pend := insertAsync a t.pend }

/-- SPLOCK_HOLD (R372). -/
def execSplockHold (c : CoreIx) (s : State) : Out := .next (s.expireLock c)

/-- Every lock whose hold limit has passed is released (R372). -/
def State.expireLocks (s : State) : State := (s.coresWith fun k => k.lock.isSome).foldl State.expireLock s

/-! ### tlbinv (R374) -/

/-- What a tlbinv removes: every translation made from a guest page that its scope covers, given the page's base and
size; byte is true of every address that such a page may hold. -/
structure Scope where
  page : Nat → Nat → Bool
  byte : Nat → Bool

def pageScope (a : Nat) : Scope where
  page := fun base size => base ≤ a && a < base + size
  byte := fun x => x / 2 ^ 30 == a / 2 ^ 30

def rangeScope (a n : Nat) : Scope where
  page := fun base size => meets base size a n
  byte := fun x => meets (x / 2 ^ 30 * 2 ^ 30) (2 ^ 30) a n

def allScope : Scope where
  page := fun _ _ => true
  byte := fun _ => true

/-- Whether an access of a partition that took a translation of the scope is still to be performed (R374). -/
def State.inFlight (s : State) (p : PartIx) (k : Scope) : Bool :=
  (s.slotsIn p).any fun w => (s.thread w).outs.any fun a => a.todo.any fun l => match l.place with
    | .global _ => k.byte l.va.toNat
    | _ => false

/-- A segment whose translation a scope covers is refused when it is to be stored (R270 reason 3). -/
def Segment.expire (k : Scope) (g : Segment) : Segment :=
  if g.page.2 != 0 && k.page g.page.1 g.page.2 then { g with stale := true } else g

/-- Remove the translations of a scope and the fetch-ahead marks within it (R366, R374); tepi stores that have still to
be performed are refused (R270 reason 3). -/
def State.invalidate (s : State) (p : PartIx) (k : Scope) : State :=
  let s := s.dropTlb p fun e => e.gsize != 0 && k.page e.gbase e.gsize
  (s.clustersOf p).foldl (fun s cl => (coresOf cl).foldl (fun s c => s.modCore c fun x => { x with
    icache := x.icache.filter fun l => l.poison.isNone || !k.byte l.va.toNat
    tile := { x.tile with
      epi := x.tile.epi.map (Segment.expire k)
      running := x.tile.running.map fun r => { r with segs := r.segs.map (Segment.expire k) } } }) s) s

/-- The common part of the three kinds. -/
def tlbinv (k : Scope) : Op Unit := do
  let s ← get
  let p := s.partOf (SlotIx.cluster s.cur)
  waitIf (s.inFlight p k) .access
  modify fun s => s.invalidate p k
  advance

/-- tlbinv.page (R374). -/
def execTlbinvPage (a : GReg) (s : State) : Out := s.run do
  privileged
  quiet
  ready [.g a] []
  let x ← srcG a
  tlbinv (pageScope x.toNat)

/-- tlbinv.range (R374). -/
def execTlbinvRange (a b : GReg) (s : State) : Out := s.run do
  privileged
  quiet
  ready [.g a, .g b] []
  let x ← srcG a
  let y ← srcG b
  if y == 0 then advance else tlbinv (rangeScope x.toNat y.toNat)

/-- tlbinv.all (R374). -/
def execTlbinvAll (s : State) : Out := s.run do
  privileged
  quiet
  tlbinv allScope

end Sys2Proof.Machine
end

