-- ==== Sys2Proof/Machine/Context.lean ====
section
/-! DEFINITION. The thread context block (R375 to R377): its bytes, its checks, and opcodes 0x0C and 0x0D. -/

namespace Sys2Proof.Machine

/-! ### The block's bytes (R377) -/

def recordBytes (rs : List Region) : List Byte :=
  (List.range 8).flatMap fun i => natBytes 16 ((rs.map BitVec.toNat).getD i 0)

/-- The sixteen control registers of a block, in order. -/
def Thread.blockRegs (t : Thread) : List W64 :=
  [t.meetwin.setWidth 64, t.meetst.setWidth 64, t.rngkey, t.rngctr, t.vstat.setWidth 64, t.tfmt.setWidth 64,
   t.tkw.setWidth 64, t.qmap.setWidth 64, t.trapvec.setWidth 64, t.trapcause.setWidth 64, t.trapip.setWidth 64, t.trapva,
   t.trapaux, t.notifyWord, t.bartmo.setWidth 64, t.framep]

def Thread.isHeld (t : Thread) : Bool := t.wait == .held

def Thread.isStopped (t : Thread) : Bool :=
  match t.wait with
  | .stopped _ => true
  | _ => false

/-- The word at 0x1128. edge says that a skimmer action is outstanding (R226). -/
def Thread.blockFlags (t : Thread) (edge : Bool) : Nat :=
  boolNat t.priv + boolNat t.handler * 2 + boolNat t.migr * 4 + boolNat edge * 8 + boolNat t.isHeld * 16 +
  boolNat (t.pend.any fun a => a.code == 0x38) * 32 + boolNat t.isStopped * 64

/-- The words at 0x11E0 and 0x11E8 (R346). -/
def Thread.blockMark (t : Thread) : Nat × W64 :=
  match t.mark with
  | none => (0, 0)
  | some m => (m.phase.toNat + m.id.val * 2 ^ 16 + boolNat m.result.isSome * 2 ^ 62 + 2 ^ 63, m.result.getD 0)

/-- The queued notifications (R313, R377). -/
def Thread.blockNotes (t : Thread) : List Byte :=
  (List.range 16).flatMap fun i => natBytes 8 (((t.notes.map fun n => n.id.toNat + 2 ^ 63)).getD i 0)

/-- XOR of the 8-byte words of a list of bytes. -/
def xorWords (bs : List Byte) : Nat → W64
  | 0 => 0
  | n + 1 => bytesWord (bs.take 8) ^^^ xorWords (bs.drop 8) n

def checkConst : W64 := 0x4A4E0001

/-- The vcluster of a thread's home cluster (R10, R377), or, of one that has left the partition since, the number of the
partition's clusters below it (log 24). -/
def State.homeNumber (s : State) (t : Thread) : Nat := ((s.clustersOf t.part).filter fun cl => cl.val < t.home.val).length

/-- The first 5,112 bytes of a block. edge and token are those of R226. -/
def State.blockBody (s : State) (t : Thread) (edge : Bool) (token : Nat) : List Byte :=
  let rs := s.records t
  let seq := ((s.teamOf t).map fun tm => detCount tm t.tid.toNat).getD 0
  let poison := t.poison.foldl (fun (acc : W64) p => acc ||| atBit p.reg.toNat 1) 0
  (List.finRange 32).flatMap (fun i => wordBytes 8 (t.greg i)) ++
  (List.finRange 32).flatMap (fun i => t.v[i].toList.flatMap fun x => natBytes 4 x.toNat) ++
  (List.finRange 8).flatMap (fun i => natBytes 4 (t.kreg i).toNat) ++
  natBytes 8 (t.ip.toNat % 2 ^ 57) ++ natBytes 8 (t.blockFlags edge) ++
  natBytes 8 (t.team.toNat + t.teamn.toNat * 2 ^ 32 + t.tid.toNat * 2 ^ 40 + t.mul.toNat * 2 ^ 48 +
    s.homeNumber t * 2 ^ 56 + boolNat (s.member t) * 2 ^ 63) ++
  natBytes 16 t.idset.toNat ++ t.blockRegs.flatMap (wordBytes 8) ++
  natBytes 8 (seq + rs.length * 2 ^ 32 + t.staged.length * 2 ^ 36) ++ wordBytes 8 poison ++ natBytes 8 (token % 2 ^ 32) ++
  natBytes 8 t.blockMark.1 ++ wordBytes 8 t.blockMark.2 ++ List.replicate 16 0 ++
  recordBytes rs ++ recordBytes t.staged ++ t.blockNotes ++ List.replicate 112 0 ++
  natBytes 8 (s.part t.part).partid.toNat

/-- A whole block (R377). -/
def State.block (s : State) (t : Thread) (edge : Bool) (token : Nat) : List Byte :=
  let body := s.blockBody t edge token
  body ++ wordBytes 8 (xorWords body 639 ^^^ checkConst)

/-! ### Reading a block -/

def blockWord (bs : List Byte) (off : Nat) : Nat := bytesNat ((bs.drop off).take 8)

/-- Whether the bits of a word from lo up to hi are all 0. -/
def zeroBits (x hi lo : Nat) : Bool := x / 2 ^ lo % 2 ^ (hi + 1 - lo) == 0

/-- Whether a block may be loaded by a partition: its CHECK, its tag, the form of its IP, and its reserved bytes (R376). -/
def blockOk (bs : List Byte) (partid : Nat) : Bool :=
  let w := blockWord bs
  xorWords bs 639 ^^^ checkConst == BitVec.ofNat 64 (w 0x13F8) && w 0x13F0 == partid &&
  w 0x1120 < 2 ^ 57 && 1 ≤ w 0x1120 % 64 && w 0x1120 % 64 ≤ 31 && zeroBits (w 0x1128) 63 7 && zeroBits (w 0x1130) 47 47 &&
  zeroBits (w 0x11C8) 31 24 && zeroBits (w 0x11C8) 63 40 && zeroBits (w 0x11D8) 63 32 && zeroBits (w 0x11E0) 61 22 &&
  w 0x11F0 == 0 && w 0x11F8 == 0 && ((bs.drop 0x1380).take 112).all fun b => b == 0

/-- n records from an offset of a block. -/
def blockRecords (bs : List Byte) (off n : Nat) : List Region :=
  (List.range (min n 8)).map fun i => BitVec.ofNat 128 (bytesNat ((bs.drop (off + 16 * i)).take 16))

/-- The poison marks of a block, with the addresses known of the thread when it was saved (log 24). -/
def blockPoison (bs : List Byte) (old : List Poison) (frees : Nat) : List Poison :=
  (indices 64 fun i => blockWord bs 0x11D0 / 2 ^ i % 2 == 1).map fun i =>
    (old.find? fun p => p.reg.toNat == i).getD ⟨BitVec.ofNat 6 i, Config.lostWord frees, 0⟩

/-- The queued notifications of a block, with the handlers known of the thread when it was saved (log 24). -/
def blockNotesOf (bs : List Byte) (old : List Note) (frees : Nat) : List Note :=
  ((List.range 16).map fun i => blockWord bs (0x1300 + 8 * i)).filterMap fun x =>
    if x / 2 ^ 63 == 0 then none
    else
      let id := BitVec.ofNat 32 x
      some ((old.find? fun n => n.id == id).getD ⟨id, Config.lostWord frees⟩)

/-- The pending mark of a block (R346). -/
def blockMarkOf (bs : List Byte) (old : Option GrpMark) : Option GrpMark :=
  let x := blockWord bs 0x11E0
  if x / 2 ^ 63 == 0 then none
  else
    let held := x / 2 ^ 62 % 2 == 1
    some {
      id := ⟨x / 2 ^ 16 % 64, Nat.mod_lt _ (by decide)⟩
      phase := BitVec.ofNat 16 x
      op := (old.map GrpMark.op).getD .fsum
      ty := (old.map GrpMark.ty).getD .f32
      result := if held then some (BitVec.ofNat 64 (blockWord bs 0x11E8)) else old.bind GrpMark.result
      waited := 0 }

/-- The thread of a block (R376, R377). old is the thread as it was saved, where the block came from a cxsave. -/
def threadOfBlock (bs : List Byte) (old : Thread) (part : PartIx) (home : ClusterIx) (moved : Bool) (frees : Nat) : Thread :=
  let w (off : Nat) : W64 := BitVec.ofNat 64 (blockWord bs off)
  let r (i : Nat) : W64 := w (0x1148 + 8 * i)
  let ids := w 0x1130
  let fl := w 0x1128
  { Thread.reset with
    occ := true
    ip := w 0x1120
    g := Vector.ofFn fun i => if i.val == 0 then 0 else w (8 * i.val)
    v := Vector.ofFn fun i => Vector.ofFn fun j => BitVec.ofNat 32 (bytesNat ((bs.drop (0x100 + 128 * i.val + 4 * j.val)).take 4))
    k := Vector.ofFn fun i => BitVec.ofNat 32 (bytesNat ((bs.drop (0x1100 + 4 * i.val)).take 4))
    tid := ids.extractLsb' 40 7
    mul := ids.extractLsb' 48 8
    team := ids.extractLsb' 0 32
    teamn := ids.extractLsb' 32 8
    idset := BitVec.ofNat 128 (bytesNat ((bs.drop 0x1138).take 16))
    part := part
    home := home
    task := old.task
    priv := fl.getLsbD 0
    handler := fl.getLsbD 1
    migr := fl.getLsbD 2 || moved
    meetwin := (r 0).setWidth 32
    meetst := (r 1).setWidth 34
    rngkey := r 2
    rngctr := r 3
    vstat := (r 4).setWidth 6
    tfmt := (r 5).setWidth 6
    tkw := (r 6).setWidth 11
    qmap := (r 7).setWidth 8
    trapvec := (r 8).setWidth 57
    trapcause := (r 9).setWidth 10
    trapip := (r 10).setWidth 57
    trapva := r 11
    trapaux := r 12
    notifyEn := (r 13).getLsbD 0
    savedip := (r 13).extractLsb' 1 57
    notifyActive := (r 13).getLsbD 63
    bartmo := (r 14).setWidth 32
    framep := r 15
    staged := blockRecords bs 0x1280 (bits (w 0x11C8) 39 36)
    poison := blockPoison bs old.poison frees
    pend := if fl.getLsbD 5 then
        (match old.pend.filter fun a => a.code == 0x38 with
          | [] => [⟨0x38, 0, Config.lostWord frees, Config.lostWord (frees + 1), none, none⟩]
          | as => as)
      else []
    notes := blockNotesOf bs old.notes frees
    mark := blockMarkOf bs old.mark }

/-! ### Instructions -/

/-- One piece of 64 bytes of a block, checked by R141 steps 1 to 5 (R375). -/
def blockPiece (need : Need) (a : W64) : Op Lane := fun s =>
  match s.localPlace s.cur 0 a with
  | .error e => .error e
  | .ok place =>
    if a.toNat % 64 != 0 then .error (.trap 0x05 a 0)
    else
      match place with
      | some p => if p.inPool then .error (.trap 0x07 a (permAux 5 0)) else .ok (⟨0, a, p, 64, [], 0⟩, s)
      | none =>
        match s.step5 s.cur need 0 a with
        | .error e => .error e
        | .ok (pa, s) => .ok (⟨0, a, .global pa, 64, [], 0⟩, s)

/-- Pieces of a block, each held as an access of its thread is (R150, R251, R372). -/
def blockLanes (need : Need) (va : W64) : List Nat → Op (List Lane)
  | [] => return []
  | i :: rest => do
    let l ← blockPiece need (va + BitVec.ofNat 64 (64 * i))
    notHeld l need.w
    let ls ← blockLanes need va rest
    return l :: ls

/-- Write the pieces of a block, global ones at the memory-side slices (R375). -/
def State.putBlock (s : State) : List Lane → List Byte → State
  | [], _ => s
  | l :: ls, bs =>
    let x := bs.take 64
    let s := match l.place with
      | .global pa => { s with mem := s.mem.write pa x }
      | .own cl off | .remote cl off => s.modCluster cl fun c => { c with mem := c.mem.write off x }
      | .scratch c off => s.modCore c fun k => { k with scratch := k.scratch.write off x }
    s.putBlock ls (bs.drop 64)

/-- Read the pieces of a block (R376). -/
def State.getBlock (s : State) (ls : List Lane) : List Byte :=
  ls.flatMap fun l => match l.place with
    | .global pa => s.mem.read pa 64
    | .own cl off | .remote cl off => (s.cluster cl).mem.read off 64
    | .scratch c off => (s.core c).scratch.read off 64

def SendState.isRefused : SendState → Bool
  | .refused _ => true
  | _ => false

/-- Whether a slot's thread has nothing under way: what exit waits for is over, or refused (R375, R384). -/
def State.quietSlot (s : State) (w : SlotIx) : Bool :=
  let t := s.thread w
  let c := s.core (SlotIx.core w)
  let resting : Bool := match t.wait with
    | .run | .held | .stopped _ => true
    | _ => false
  resting && t.outs.isEmpty && (c.journal.all fun j => j.w != w || j.state.isRefused) &&
  (c.retry.all fun e => e.w != w || e.state.isRefused) && !s.tmacrOpen t.uid &&
  (match c.tile.running with
    | some x => !x.op.of t.uid
    | none => true) && (c.tile.queue.all fun o => !o.of t.uid) && c.tile.epi.all fun g => g.uid != t.uid || g.held.isSome

/-- Whether a target keeps what a block cannot hold: status 4 (R375). -/
def State.encumbered (s : State) (w : SlotIx) : Bool :=
  let t := s.thread w
  let c := s.core (SlotIx.core w)
  (c.journal.any fun j => j.w == w) || (c.retry.any fun e => e.w == w) || (c.tile.epi.any fun g => g.uid == t.uid) ||
  (t.pend.any fun a => a.code != 0x38) || c.inbox.any fun m => m.slot == SlotIx.num w

/-- The waiting instruction of a target is withdrawn, and it issues nothing more (R375). -/
def State.freeze (s : State) (w : SlotIx) (by_ : Nat) : State :=
  (s.withdraw w).modThread w fun t => { t with
    wait := (match t.wait with
      | .declined _ => .run
      | x => x)
    frozenBy := some by_ }

/-- Move a thread out of its slot into a block: its leave of the core (R223) is complete with it. -/
def State.saveThread (s : State) (w : SlotIx) (ls : List Lane) : State :=
  let t := { s.thread w with frozenBy := none }
  let s := s.skimWriteBack (SlotIx.core w) (s.edgeRecords t)
  let s := s.putBlock ls (s.block t false 0)
  let s := if t.migr then s.dropForwards t.uid else s
  { (s.dropClaims w).freeSlot w with away := s.away ++ [(w, t)] }

/-- cxsave (R375): it waits, and issues again, until its target has nothing under way. -/
def execCxsave (d a b : GReg) (s : State) : Out := s.run do
  privileged
  quiet
  delivered
  ready [.g a, .g b] [.g d]
  let x ← srcG a
  let y ← srcG b
  let ls ← blockLanes needW x (List.range 80)
  let s ← get
  let w := slotOf (SlotIx.core s.cur) (y.extractLsb' 0 4).toFin
  let t := s.thread w
  if !t.occ || w == s.cur || s.xslot w then do dstG d 0; advance
  else if t.qmap != 0 then do dstG d 3; advance
  else
    let s' := s.freeze w s.me.uid
    if !s'.quietSlot w then modify fun _ => s'.undo s.cur none
    else if s'.encumbered w then
      modify fun _ => s'.modThread w fun t => { t with frozenBy := none }
      dstG d 4
      advance
    else
      modify fun _ => s'.saveThread w ls
      dstG d 1
      advance

/-- The task of a loaded thread: that of the thread as it was saved; a block of other origin gets a task of its own
(log 24). -/
def State.rejoin (s : State) (t : Thread) (known : Bool) (rs : List Region) (member : Bool) : State × Nat :=
  if known then (s, t.task)
  else
    match s.teamOf t with
    | none => (s, 0)
    | some tm =>
      (s.modTeamOf t fun tm => { tm with
        tasks := tm.tasks ++ [{ id := tm.nextTask, regions := rs, begun := true, member := member, threads := 1, conts := 0 }]
        nextTask := tm.nextTask + 1 }, tm.nextTask)

/-- The running records of a block. -/
def blockRun (bs : List Byte) : List Region := blockRecords bs 0x1200 (bits (BitVec.ofNat 64 (blockWord bs 0x11C8)) 35 32)

/-- Whether a saved thread is the one that a block names: its team and TID, and its home where the partition still has
that; exact asks that the place in the code, the frame and the g registers agree too, since several threads may share a
TID (R209). -/
def State.blockNames (s : State) (bs : List Byte) (part : PartIx) (exact : Bool) (k : SlotIx × Thread) : Bool :=
  let ids := BitVec.ofNat 64 (blockWord bs 0x1130)
  let t := k.2
  let home : Bool := (s.cluster t.home).part != some part || s.physical part (ids.extractLsb' 56 7).toNat == some t.home
  let same : Bool := t.ip.toNat % 2 ^ 57 == blockWord bs 0x1120 && t.framep.toNat == blockWord bs 0x11C0 &&
    (List.finRange 32).all fun i => (t.greg i).toNat == blockWord bs (8 * i.val)
  t.part == part && home && t.team == ids.extractLsb' 0 32 && t.tid == ids.extractLsb' 40 7 && (!exact || same)

/-- The saved thread that a block holds, if it came from a cxsave: its place in the list. -/
def State.awayIx (s : State) (bs : List Byte) (part : PartIx) : Option Nat :=
  match s.away.findIdx? (s.blockNames bs part true) with
  | some i => some i
  | none => s.away.findIdx? (s.blockNames bs part false)

/-- The home cluster of a block's thread: as it was saved, or the one that the block names. Where the partition has none of
that number, the home is a cluster outside it, so that the thread's barrier instructions raise TARGET_GONE (R344). -/
def State.blockHome (s : State) (bs : List Byte) (part : PartIx) : ClusterIx :=
  let ids := blockWord bs 0x1130
  match (s.awayIx bs part).bind fun i => s.away[i]?, s.physical part (ids / 2 ^ 56 % 128) with
  | some k, _ => k.2.home
  | none, some cl => cl
  | none, none => (allClusters.find? fun cl =>
      (s.cluster cl).part != some part && (s.teamAt cl part (BitVec.ofNat 32 ids)).isNone).getD 0

/-- Whether loading a block needs a task of its own, which the home cluster has no room for (R208). -/
def State.loadCrowded (s : State) (bs : List Byte) (part : PartIx) : Bool :=
  let home := s.blockHome bs part
  (s.awayIx bs part).isNone && (s.teamAt home part (BitVec.ofNat 32 (blockWord bs 0x1130))).isSome && (s.cluster home).taskCount ≥ 1024

/-- Load the thread of a block into a slot: an arrival at the core (R376, R224), with the block's records (R377); a
stopped thread stays stopped. -/
def State.loadThread (s : State) (w : SlotIx) (bs : List Byte) (part : PartIx) : State :=
  let at_ := s.awayIx bs part
  let home := s.blockHome bs part
  let old := at_.bind fun i => s.away[i]?
  let rs := blockRun bs
  let t := threadOfBlock bs ((old.map Prod.snd).getD Thread.reset) part home ((old.map fun k => k.1 != w).getD true) s.frees
  let (s, task) := s.rejoin t old.isSome rs ((BitVec.ofNat 64 (blockWord bs 0x1130)).getLsbD 63)
  let uid := (old.map fun k => k.2.uid).getD s.uids
  let away := match at_ with
    | some i => s.away.eraseIdx i
    | none => s.away
  let s := { s with away := away, frees := s.frees + 2, uids := s.uids + 1 }
  let t := { t with task := task, uid := uid }
  let s := s.setThread w { t with view := if s.taskRecords t == rs then none else some rs }
  if bitOf (blockWord bs 0x1128) 6 then
    (s.skimInvalidate (SlotIx.core w) (liveRegions (s.records (s.thread w)))).modThread w fun t => { t with wait := .stopped 0 }
  else s.arrive w

/-- cxload (R376): it takes its slot before any pop or placement of the cycle, so one that comes after those waits for the
next cycle; and it waits for room for a task (R208). -/
def execCxload (d a : GReg) (s : State) : Out := s.run do
  privileged
  synchronised
  ready [.g a] [.g d]
  let x ← srcG a
  let ls ← blockLanes needR x (List.range 80)
  let s ← get
  let p := s.partOf (SlotIx.cluster s.cur)
  let bs := s.getBlock ls
  waitIf s.filled .slot
  match s.candidates (SlotIx.core s.cur) with
  | [] => dstG d 0x8000000000000001
  | w :: _ =>
    if !blockOk bs (s.part p).partid.toNat then dstG d 0x8000000000000002
    else do
      waitIf (s.loadCrowded bs p) .slot
      modify fun s => s.loadThread w bs p
      dstG d (BitVec.ofNat 64 (s.globalSlot w))
  advance

end Sys2Proof.Machine
end

