-- ==== Sys2Proof/Machine/Griddle.lean ====
section
/-! DEFINITION. Temporal class (R279 to R295): opcodes 0xD0 to 0xD6 and the end of a wave. -/

namespace Sys2Proof.Machine

/-- NEVER (R279). -/
def never : W32 := 0xFFFFFFFF

def Griddle.cell (g : Griddle) (k j : Nat) : BitVec 9 := g.cells[(64 * k + j) % 4096]'(Nat.mod_lt _ (by decide))
def Griddle.connected (g : Griddle) (k j : Nat) : Bool := (g.cell k j).getLsbD 8
def Griddle.delay (g : Griddle) (k j : Nat) : Nat := (g.cell k j).toNat % 256

/-- Arrivals t[k] of column j over its connected inputs; none is NEVER (R279). -/
def Griddle.arrivals (g : Griddle) (j : Nat) : List (Nat × Option Nat) :=
  (List.finRange 64).filterMap fun k =>
    if g.connected k.val j then
      let a := g.staged[k].toNat
      some (k.val, if a < g.win.toNat then some (a + g.delay k.val j) else none)
    else none

/-- The first of a list of arrivals with the least or greatest time. -/
def extreme (greatest : Bool) : List (Nat × Nat) → Option (Nat × Nat)
  | [] => none
  | (k, t) :: rest =>
    match extreme greatest rest with
    | none => some (k, t)
    | some (k', t') => if (if greatest then t' > t else t' < t) then some (k', t') else some (k, t)

/-- tick[j] and win[j] (R279). -/
def Griddle.column (g : Griddle) (j : Nat) : W32 × W32 :=
  let xs := g.arrivals j
  let rises := xs.filterMap fun x => match x.2 with
    | some t => if t < g.win.toNat then some (x.1, t) else none
    | none => none
  let and_ := g.modes.getLsbD j
  let r := if and_ && rises.length != xs.length then none else extreme and_ rises
  match r with
  | some (k, t) => (BitVec.ofNat 32 t, BitVec.ofNat 32 k)
  | none => (never, never)

def modGriddle (f : Griddle → Griddle) : Op Unit := modify fun s => s.modMyCore fun c => { c with griddle := f c.griddle }

/-- The issuing thread holds the claim (R281). -/
def holdsGriddle : Op Unit := do
  let s ← get
  raiseIf (s.myCore.griddle.holder != some (SlotIx.num s.cur)) 0x1A 0 1

/-- Stall until a running wave has ended (R287 to R290). -/
def noWave : Op Unit := do waitIf ((← get).myCore.griddle.state == .running) .wave

/-- gclaim (R286). -/
def execGclaim (d : GReg) (s : State) : Out := s.run do
  ready [] [.g d]
  let s ← get
  match s.myCore.griddle.holder with
  | none =>
    modGriddle fun g => { g with holder := some (SlotIx.num s.cur) }
    dstG d 1
  | some n => dstG d (if n == SlotIx.num s.cur then 1 else 0)
  advance

/-- grelease (R287). -/
def execGrelease (s : State) : Out := s.run do
  holdsGriddle
  noWave
  modGriddle fun _ => Griddle.reset
  advance

/-- The column and the first input of a gdelay operand (R288). -/
def cellBase (x : W64) : Nat × Nat := (bits x 5 0, 32 * bits x 6 6)

/-- gdelay put (R288). -/
def execGdelay (d : VReg) (a : GReg) (s : State) : Out := s.run do
  holdsGriddle
  noWave
  ready [.g a, .v d] []
  let x ← srcG a
  let v ← srcV d
  let (j, k) := cellBase x
  modGriddle fun g => { g with cells := (List.finRange 32).foldl (fun cs i =>
    cs.setIfInBounds (64 * (k + i.val) + j) (v[i].extractLsb' 0 9)) g.cells }
  advance

/-- gdelay.get (R288). -/
def execGdelayGet (d : VReg) (a : GReg) (s : State) : Out := s.run do
  holdsGriddle
  noWave
  ready [.g a] [.v d]
  let x ← srcG a
  let g := (← get).myCore.griddle
  let (j, k) := cellBase x
  modify fun s => s.modMe fun t => t.setV d (Vector.ofFn fun i => (g.cell (k + i.val) j).setWidth 32)
  advance

/-- Stage a group of inputs (R290). -/
def Griddle.stage (g : Griddle) (grp : Bool) (v : Vec) : Griddle :=
  { g with staged := Vector.ofFn fun k =>
      if (k.val < 32) == !grp then v[k.val % 32]'(Nat.mod_lt _ (by decide)) else g.staged[k] }

/-- glaunch (R290). -/
def execGlaunch (d : VReg) (grp : Bool) (s : State) : Out := s.run do
  holdsGriddle
  noWave
  ready [.v d] []
  let v ← srcV d
  modGriddle fun g => g.stage grp v
  advance

/-- A cell of a core with an uncorrectable error (R282): its input and column. -/
def State.badCell (s : State) (c : CoreIx) : Option (Nat × Nat) :=
  s.ue.findSome? fun u => match u with
    | .cell d k j => if d == c then some (k.val, j.val) else none
    | _ => none

/-- glaunch.go (R290). -/
def execGlaunchGo (d : VReg) (grp : Bool) (s : State) : Out := s.run do
  holdsGriddle
  raiseIf ((← get).myCore.griddle.state != .idle) 0x1A 0 2
  ready [.v d] []
  let v ← srcV d
  let s ← get
  let c := SlotIx.core s.cur
  match s.badCell c with
  | some (k, j) => raise 0x0C 0 (BitVec.ofNat 64 (j + 64 * k))
  | none =>
    modGriddle fun g => { g.stage grp v with win := s.me.tkw, state := .running, started := s.myCore.cycle }
    modify fun s => s.count c 11 1
    advance

/-- gcap waits for a running wave (R291). -/
def waveResults : Op Griddle := do
  holdsGriddle
  let g := (← get).myCore.griddle
  raiseIf (g.state == .idle) 0x1A 0 3
  waitIf (g.state == .running) .gcap
  return g

/-- gcap into a v register (R291). -/
def execGcap (d : VReg) (grp ix : Bool) (s : State) : Out := s.run do
  let g ← waveResults
  ready [] [.v d]
  modify fun s => s.modMe fun t => t.setV d (Vector.ofFn fun i =>
    let j := (if grp then 32 else 0) + i.val
    (if ix then g.winner else g.tick)[j % 64]'(Nat.mod_lt _ (by decide)))
  advance

/-- gcap into a g register (R291). -/
def execGcapScalar (d a : GReg) (s : State) : Out := s.run do
  let g ← waveResults
  ready [.g a] [.g d]
  let x ← srcG a
  let j : Fin 64 := ⟨bits x 5 0 % 64, Nat.mod_lt _ (by decide)⟩
  dstG d (g.winner[j] ++ g.tick[j])
  advance

/-- greset (R292). -/
def execGreset (s : State) : Out := s.run do
  holdsGriddle
  modGriddle fun g => { Griddle.reset with cells := g.cells, modes := g.modes, holder := g.holder }
  advance

/-- gmode (R289). -/
def execGmode (a : GReg) (s : State) : Out := s.run do
  holdsGriddle
  noWave
  ready [.g a] []
  let x ← srcG a
  modGriddle fun g => { g with modes := x }
  advance

/-- The results that a running wave latches (R279, R290). -/
def Griddle.latch (g : Griddle) : Griddle :=
  { g with
    state := .done
    tick := Vector.ofFn fun j => (g.column j.val).1
    winner := Vector.ofFn fun j => (g.column j.val).2 }

/-- A wave ends TKW + 6 cycles after its start (R290). -/
def execWaveEnd (c : CoreIx) (s : State) : Out :=
  let g := (s.core c).griddle
  if g.state == .running && ((s.core c).cycle - g.started).toNat ≥ g.win.toNat + 6 then
    .next (s.modCore c fun x => { x with griddle := x.griddle.latch })
  else .next s

end Sys2Proof.Machine
end

