-- ==== Sys2Proof/Machine/Preempt.lean ====
section
/-! DEFINITION. Pre-emption of a core, restore and live migration (R384 to R387): what must be over first, the save area,
and the move of a core context. -/

namespace Sys2Proof.Machine

/-! ### Quieting a core (R384) -/

/-- A bar.wait whose phase has advanced is released before its core is pre-empted (R348). -/
def State.releaseBar (s : State) (w : SlotIx) (d : GReg) (id : Fin 64) : State :=
  match execBarWait d id { s with cur := w } with
  | .next y => { y with cur := s.cur }
  | _ => s

/-- Withdraw a thread of a core that is being pre-empted (R154, R243, R277, R344). A bar.wait whose phase stands stays as it
is, so that its BARTMO count goes on after the restore, and so does that of a grpred. -/
def State.withdrawFor (s : State) (w : SlotIx) : State :=
  let t := s.thread w
  match t.wait with
  | .retry (.barWait id p d) =>
    if (s.barrier t.home id).phase == p then s
    else
      let y := s.releaseBar w d id
      if y.interruptible w then y.withdraw w else y
  | .declined _ => s.modThread w fun t => { t with wait := .run }
  | .group _ _ _ _ _ =>
    let waited := (s.core (SlotIx.core w)).cycle - t.parkedAt
    (s.withdraw w).modThread w fun t => { t with mark := t.mark.map fun m => { m with waited := waited } }
  | _ => if t.occ && s.interruptible w then s.withdraw w else s

/-- Remote commands that have not started are refused with reason 4 (R277). -/
def State.refuseRemote (s : State) (c : CoreIx) : State :=
  (s.core c).tile.queue.foldl (fun s o => match o.remote with
    | some key => (s.dropTile c o.token).setTmacr key (.refused 4 0)
    | none => s) s

/-- Instances whose count is met or whose window has passed close before a pre-emption withdraws their arrivals (R243,
R244). -/
def State.closeFirst (s : State) (c : CoreIx) : State :=
  (slotsOf c).foldl (fun s w =>
    let home := (s.thread w).home
    let here (i : Inst) : Bool := i.arrivals.contains w && (s.instMet home i || s.windowOver i)
    match (s.cluster home).inst.find? here with
    | some i => s.closeInst home i (!s.instMet home i)
    | none => s) s

/-- The request: no slot of the core issues, and waits are withdrawn (R384 steps 1 and 2). -/
def State.stopCore (s : State) (c : CoreIx) : State :=
  ((slotsOf c).foldl State.withdrawFor ((s.closeFirst c).modCore c fun k => { k with stopping := true })).refuseRemote c

/-- Whether a thread has nothing under way that the save must wait for; a skimmer action may go on (R226). -/
def State.atRest (s : State) (w : SlotIx) : Bool :=
  let t := s.thread w
  !t.occ || (t.outs.isEmpty && match t.wait with
    | .run | .held | .skimmer | .stopped _ | .retry (.barWait _ _ _) => true
    | _ => false)

/-- Whether a transfer reads or writes the scratchpad of a core (R322). -/
def Transfer.touches (t : Transfer) (c : CoreIx) : Bool :=
  let rows (a stride : W64) : Bool := (List.range t.rows).any fun r => inScratch (a + BitVec.ofNat 64 r * stride)
  let scales : Bool := t.mode == 2 && t.ctl.getLsbD 55 && inScratch t.marg
  let issuer := SlotIx.core t.w
  let n := (CoreIx.num c).val
  CoreIx.cluster issuer == CoreIx.cluster c &&
  ((issuer == c && (rows t.src t.sstride || scales || (t.mode == 0 && rows t.dst t.dstride))) ||
   (t.mode == 1 && (List.range ((t.total + t.block - 1) / t.block)).any fun b => t.blockCore b == n) ||
   (t.mode == 2 && t.core0 == n))

def Core.flights (k : Core) : List Transfer :=
  k.score.toList.filterMap fun e => match e with
    | some t => if t.state == .flight then some t else none
    | none => none

/-- The transfers in flight of a cluster, in its cores and in contexts saved from them (R322). -/
def State.flightsOf (s : State) (cl : ClusterIx) : List Transfer :=
  (coresOf cl).flatMap (fun c => (s.core c).flights) ++
  (s.saved.flatMap fun k => k.core.flights).filter fun t => SlotIx.cluster t.w == cl

/-- Whether the context of a core may be saved (R384 steps 3 and 4). -/
def State.coreQuiet (s : State) (c : CoreIx) : Bool :=
  let k := s.core c
  (slotsOf c).all s.atRest && k.tile.running.isNone && k.tile.queue.isEmpty && (k.tile.epi.all fun g => g.held.isSome) &&
  k.griddle.state != .running && (s.flightsOf (CoreIx.cluster c)).all fun t => !t.touches c

/-! ### The save area (R385) -/

/-- Bytes of the area whose values R385 leaves to the device. -/
def ownBytes (use_ from_ n : Nat) : List Byte := (List.range n).map fun i => Config.areaByte use_ (from_ + i)

/-- The block of a free slot: zero IP and zero CHECK. -/
def freeBlock (use_ off : Nat) : List Byte :=
  ownBytes use_ off 0x1120 ++ List.replicate 8 0 ++ ownBytes use_ (off + 0x1128) 0x2D0 ++ List.replicate 8 0

/-- The 256 bytes of a deque entry (R209); its region block has the entry's own index. -/
def DequeEntry.bytes (e : DequeEntry) (index : Nat) : List Byte :=
  (List.finRange 8).flatMap (fun i => if i.val == 0 then [] else wordBytes 8 e.g[i]) ++
  natBytes 8 (e.ip.toNat % 2 ^ 57 + index * 2 ^ 57) ++ recordBytes e.regions ++ wordBytes 8 e.framep ++ wordBytes 8 e.seq ++
  natBytes 16 e.idset.toNat ++
  natBytes 8 (e.team.toNat + e.tid.toNat * 2 ^ 32 + e.teamn.toNat * 2 ^ 40 + e.mul.toNat * 2 ^ 48 + e.vstat.toNat * 2 ^ 56) ++
  wordBytes 8 e.rngkey ++ wordBytes 8 e.rngctr ++ natBytes 8 (e.meetwin.toNat + e.bartmo.toNat * 2 ^ 32)

def dequeBytes (use_ off : Nat) (es : List DequeEntry) : List Byte :=
  (es.zipIdx.flatMap fun x => x.1.bytes x.2) ++ ownBytes use_ (off + 256 * es.length) (256 * (64 - es.length))

def areaSize : Nat := 0x80000

/-- The skimmer action that a thread waits for (R226). -/
def State.edgeToken (s : State) (w : SlotIx) : Option Nat :=
  (allClusters.findSome? fun cl => (s.cluster cl).skims.find? fun k => k.uid == (s.thread w).uid).map Skim.token

/-- The bytes of the griddle row of an area (R385): cells, modes, staged inputs, state, latched results and claim, in
that order, then 0 (log 77). -/
def Griddle.bytes (g : Griddle) : List Byte :=
  let words (xs : Vector W32 64) : List Byte := xs.toList.flatMap fun x => natBytes 4 x.toNat
  let holder := match g.holder with
    | some n => n.val + 16
    | none => 0
  let bs := natBytes 4608 (g.cells.toList.foldr (fun x acc => x.toNat + 512 * acc) 0) ++ wordBytes 8 g.modes ++ words g.staged ++
    natBytes 8 (g.win.toNat + g.state.code * 2 ^ 16) ++ words g.tick ++ words g.winner ++ natBytes 8 holder ++ wordBytes 8 g.started
  bs ++ List.replicate (8192 - bs.length) 0

/-- The bytes of the epilogue row of an area (R385): 64 bytes for each segment number, 0 where it is free (log 77). -/
def Tile.epiBytes (x : Tile) : List Byte :=
  (List.range 64).flatMap fun n => match x.epi.find? fun g => g.seg == n with
    | some g => natBytes 64 (bytesNat (g.lanes.flatMap fun l => wordBytes 8 l.data))
    | none => List.replicate 64 0

/-- A core save area without its CHECK (R385). -/
def State.areaBody (s : State) (c : CoreIx) : List Byte :=
  let k := s.core c
  let n := s.frees
  (slotsOf c).zipIdx.flatMap (fun x =>
    let t := s.thread x.1
    if t.occ then s.block t (t.wait == .skimmer) ((s.edgeToken x.1).getD 0) else freeBlock n (5120 * x.2)) ++
  k.scratch.read 0 scratchSize ++
  k.tile.acc.toList.flatMap (fun e => natBytes 4 e.inner.toNat ++ natBytes 4 e.outer.toNat) ++
  dequeBytes n 0x74000 k.deque ++ k.griddle.bytes ++ k.tile.epiBytes ++ ownBytes n 0x7B000 0x4FF8

/-- The place of the save area of a core of a partition (R393). -/
def Partition.areaAt (p : Partition) (v n : Nat) : Nat := p.savebase.toNat + (8 * v + n) * areaSize

/-! ### Taking a context off its core -/

/-- The context of a core, as it is saved. Its forwarding entries stay with the core, whose slots they are about (R338; log
87). -/
def State.capture (s : State) (c : CoreIx) : SavedCore where
  part := s.partOf (CoreIx.cluster c)
  vcluster := s.vcluster (CoreIx.cluster c)
  num := CoreIx.num c
  epoch := (s.cluster (CoreIx.cluster c)).epoch
  core := { s.core c with forward := [] }
  threads := Vector.ofFn fun n => s.thread (slotOf c n)
  tokens := allClusters.flatMap fun cl => (s.cluster cl).skims.filter fun k =>
    (slotsOf c).any fun w => (s.thread w).occ && (s.thread w).uid == k.uid
  check := Config.areaCheck (s.areaBody c)

/-- What a core keeps when its context has left: its clock, caches, counters and forwarding entries, and the contents of
its scratchpad and tile state (R257, R338; log 20). -/
def Core.vacated (k : Core) : Core :=
  { Core.reset with
    cycle := k.cycle
    lastSlot := k.lastSlot
    mhz := k.mhz
    spare := k.spare
    icache := k.icache
    l1 := k.l1
    tlb := k.tlb
    scratch := k.scratch
    forward := k.forward
    pmc := k.pmc
    passes := k.passes
    turned := k.turned
    popped := k.popped
    tile := { k.tile with queue := [], running := none, epi := [] } }

/-- The windows opened by threads of a core freeze while its context is saved (R384). -/
def State.freezeWindows (s : State) (c : CoreIx) : State :=
  let mine (i : Inst) : Bool := (slotsOf c).any fun w => (s.thread w).occ && (s.thread w).uid == i.opener
  (s.clustersOf (s.partOf (CoreIx.cluster c))).foldl (fun s cl => s.modCluster cl fun x => { x with
    inst := updateAll x.inst mine fun i => { i with frozen := some ((s.core i.clock).cycle - i.opened) } }) s

/-- The leaves of the tasks on a core (R223) with what its continuations wrote (R163), the windows, and the slots given
up; a slot that an unmerge has reserved stays so (R241). -/
def State.vacate (s : State) (c : CoreIx) : State :=
  let ws := slotsOf c
  let s := ws.foldl (fun s w => s.skimWriteBack c (s.edgeRecords (s.thread w))) s
  let s := (s.core c).l1.foldl (fun s l => s.l1Clean c l.pa) s
  let s := s.freezeWindows c
  (ws.foldl (fun s w => s.setThread w { Thread.reset with reservedBy := (s.thread w).reservedBy }) s).modCore c Core.vacated

/-- Whether a saved context lies in the area of a core of a partition (R384, R393). -/
def SavedCore.inArea (k : SavedCore) (p : PartIx) (v : Nat) (n : Fin 8) : Bool := k.part == p && k.vcluster == v && k.num == n

/-- Whether a saved context holds nothing that a restore would bring back to work. -/
def SavedCore.idle (k : SavedCore) : Bool :=
  let c := k.core
  (k.threads.all fun t => !t.occ) && c.deque.isEmpty && c.journal.isEmpty && c.retry.isEmpty && c.inbox.isEmpty && c.queue.isEmpty &&
  (c.mailbox.all fun m => !m.full) && (c.score.all fun t => t.isNone) && c.tile.epi.isEmpty

/-- The saved context in a core's area, if any. -/
def State.inArea (s : State) (c : CoreIx) : Option SavedCore :=
  let cl := CoreIx.cluster c
  s.saved.find? fun k => k.inArea (s.partOf cl) (s.vcluster cl) (CoreIx.num c)

/-- Save the context of a quiet core to its area (R384 step 6), where it takes the place of an idle one. -/
def State.saveCore (s : State) (c : CoreIx) : State :=
  let k := s.capture c
  let body := s.areaBody c
  let at_ := (s.part k.part).areaAt k.vcluster k.num.val
  let s := s.vacate c
  { s with
    mem := s.mem.write at_ (body ++ wordBytes 8 k.check)
    saved := (s.saved.filter fun x => !x.inArea k.part k.vcluster k.num) ++ [k]
    frees := s.frees + 1 }

/-- One core is pre-empted as far as it goes now: requested, and saved once it is quiet. A core whose area still holds
an earlier context that is not idle keeps its own (log 20). -/
def State.preemptCore (s : State) (c : CoreIx) : State :=
  if (s.cluster (CoreIx.cluster c)).part.isNone || (s.inArea c).any (fun k => !k.idle) then s
  else
    let s := s.stopCore c
    if s.coreQuiet c then s.saveCore c else s

/-- PREEMPT (R384): it stands until the core is quiet. -/
def execPreempt (c : CoreIx) (s : State) : Out := .next (s.preemptCore c)

/-! ### Putting a context on a core -/

/-- Whether a core is free for a context (R386): its slots free and unreserved, and nothing under way in it. -/
def State.coreFree (s : State) (c : CoreIx) : Bool :=
  let k := s.core c
  (slotsOf c).all (fun w => !(s.thread w).occ && (s.thread w).reservedBy == 0) && k.forward.isEmpty && k.deque.isEmpty && k.journal.isEmpty && k.retry.isEmpty &&
  k.flights.isEmpty && k.tile.queue.isEmpty && k.tile.running.isNone && k.tile.epi.isEmpty && k.griddle.holder.isNone &&
  !k.stopping && !(s.cluster (CoreIx.cluster c)).draining

/-- The slot of a core with the number of another slot. -/
def slotOn (c : CoreIx) (w : SlotIx) : SlotIx := slotOf c (SlotIx.num w)

def SendState.later (d : W64) : SendState → SendState
  | .backoff t => .backoff (t + d)
  | x => x

/-- A core's state on another core: the counts that run go on where they stood. -/
def Core.onto (k live : Core) (c : CoreIx) : Core :=
  let d := live.cycle - k.cycle
  { k with
    cycle := live.cycle
    lastSlot := live.lastSlot
    mhz := live.mhz
    spare := live.spare
    icache := live.icache
    l1 := live.l1
    tlb := live.tlb
    pmc := live.pmc
    passes := live.passes
    victim := live.victim
    stealFrom := 0
    stealLate := live.victim.isSome
    stopping := false
    turned := live.turned
    popped := live.popped
    lock := k.lock.map fun l => { l with holder := slotOn c l.holder, since := l.since + d }
    retry := k.retry.map fun e => { e with w := slotOn c e.w, state := e.state.later d }
    journal := k.journal.map fun j => { j with w := slotOn c j.w }
    score := mapVector k.score (Option.map fun t => { t with w := slotOn c t.w })
    forward := live.forward
    tile := { k.tile with epi := k.tile.epi.map fun g => { g with w := slotOn c g.w } } }

/-- The windows opened by threads of a context count on by the new core's clock. -/
def State.thawWindows (s : State) (k : SavedCore) (c : CoreIx) : State :=
  let mine (i : Inst) : Bool := k.threads.toList.any fun t => t.occ && t.uid == i.opener
  let thaw (i : Inst) : Inst := match i.frozen with
    | some n => { i with frozen := none, clock := c, opened := (s.core c).cycle - n }
    | none => i
  (s.clustersOf k.part).foldl (fun s cl => s.modCluster cl fun x => { x with inst := updateAll x.inst mine thaw }) s

/-- One thread of a context takes its slot (R386, R10): its task arrives at the core (R224), the invalidation at once,
and a held one is checked again (R226). d is the shift of the clock. -/
def State.placeThread (moved : Bool) (d : W64) (s : State) (w : SlotIx) (t : Thread) : State :=
  if !t.occ then s
  else
    let s := if moved && t.migr then s.dropForwards t.uid else s
    let s := s.setThread w { t with migr := t.migr || moved, parkedAt := t.parkedAt + d, flightTo := 0, yielded := 0 }
    let s := s.skimInvalidate (SlotIx.core w) (liveRegions (s.records t))
    match t.wait with
    | .stopped _ | .retry (.barWait _ _ _) => s
    | .held => s.modThread w fun x => { x with wait := if s.held x then .held else .run }
    | _ => s.modThread w fun x => { x with wait := .run }

/-- A context takes a free core. from_ is the core it left. -/
def State.placeCore (s : State) (k : SavedCore) (c : CoreIx) (moved : Bool) : State :=
  let d := (s.core c).cycle - k.core.cycle
  let s := (s.modCore c fun live => k.core.onto live c).thawWindows k c
  (List.finRange 16).foldl (fun s n => s.placeThread moved d (slotOf c n) k.threads[n]) s

/-- Whether the transfers and the tokens that a context waits for are over (R322, R226). -/
def State.mayPlace (s : State) (k : SavedCore) (c : CoreIx) : Bool :=
  (k.tokens.all fun x => !(s.cluster (CoreIx.cluster x.core)).skims.any fun y => y.token == x.token && y.uid == x.uid) &&
  k.core.flights.all fun t => SlotIx.cluster t.w == CoreIx.cluster c

/-- The forwarding entries that a live migration leaves (R387). -/
def SavedCore.forwards (k : SavedCore) (c : CoreIx) (now : W64) : List Forward :=
  (List.finRange 16).filterMap fun n =>
    if k.threads[n].occ then some ⟨n, slotOf c n, k.threads[n].uid, now⟩ else none

/-- LIVE_MIGRATION (R387): it stands until the core is quiet and the target free. -/
def execLiveMigration (c target : CoreIx) (s : State) : Out :=
  let near := CoreIx.cluster c
  let far := CoreIx.cluster target
  if (s.cluster near).part.isNone || (s.cluster far).part != (s.cluster near).part || c == target || !s.coreFree target then .next s
  else
    let s := s.stopCore c
    let k := s.capture c
    if !s.coreQuiet c || !s.mayPlace k target then .next s
    else
      .next (((s.vacate c).placeCore k target true).modCore c fun x => { x with forward := x.forward ++ k.forwards target x.cycle })

end Sys2Proof.Machine
end

