-- ==== Sys2Proof/Machine/Host.lean ====
section
/-! DEFINITION. Commands and the dispatch controller (R393 to R395, R404 to R409): the walk of the control block tree,
the checks of a launch, placement (R19 to R21), and the answers to RESUME, KILL, HINVAL and RESOLVE. -/

namespace Sys2Proof.Machine

/-! ### Control block nodes (R393, R394) -/

def nodeWord (m : Memory) (a off : Nat) : Nat := m.word (a + off) 8

def nodeLevel (m : Memory) (a : Nat) : Nat := nodeWord m a 0 % 256
def nodePrio (m : Memory) (a : Nat) : Nat := nodeWord m a 0 / 2 ^ 8 % 256
def nodePartid (m : Memory) (a : Nat) : Nat := nodeWord m a 0 / 2 ^ 16 % 2 ^ 16
def nodeFdom (m : Memory) (a : Nat) : Nat := nodeWord m a 0 / 2 ^ 32 % 2 ^ 16
def nodeParent (m : Memory) (a : Nat) : Nat := nodeWord m a 8
def nodeSlotMax (m : Memory) (a : Nat) : Nat := nodeWord m a 0x10 % 2 ^ 32
def nodeCmdMax (m : Memory) (a : Nat) : Nat := nodeWord m a 0x10 / 2 ^ 32
def nodeFlag (m : Memory) (a i : Nat) : Bool := bitOf (nodeWord m a 0x18) i
def nodeClusters (m : Memory) (a : Nat) : BitVec 128 := BitVec.ofNat 128 (m.word (a + 0x30) 16)

/-- XEN, GSTAGE and LOGARM of a node. -/
def nodePolicy (m : Memory) (a : Nat) : Nat := nodeWord m a 0x18 % 16 / 4 * 2 + nodeWord m a 0x18 % 2

/-- Whether the configuration image in use allows a node for a partition of n clusters: its policies and a template (R418);
none in use allows every one (log 21). -/
def Mgmt.allows (x : Mgmt) (m : Memory) (a n : Nat) : Bool :=
  x.config.isEmpty || (Config.policy x.config (nodePolicy m a) && Config.template x.config (m.read a 128) n)

/-- XEN of a partition as its node says it now (R395), where the configuration image allows the node; otherwise as it was
(R418). -/
def State.xenNow (s : State) (p : PartIx) : Bool :=
  let a := (s.part p).node.toNat
  if s.mgmt.allows s.mem a (s.clustersOf p).length then nodeFlag s.mem a 0 else (s.part p).xen

/-- The partition goes by its node's XEN from here on (R301, R395). -/
def State.renewXen (s : State) (p : PartIx) : State := s.modPart p fun x => { x with xen := s.xenNow p }

/-- The form of one node: its alignment, its level and its zero fields (R393). -/
def nodeOk (m : Memory) (a : Nat) : Bool :=
  a % 128 == 0 && nodeLevel m a ≤ 5 && nodeWord m a 0 / 2 ^ 48 == 0 && nodeWord m a 0x18 / 16 == 0 &&
  nodeWord m a 0x58 / 2 ^ 16 == 0 && m.word (a + 0x60) 32 == 0

/-- The nodes from one up to the root; none when one breaks R393. -/
def nodePath (m : Memory) : Nat → Nat → Option (List Nat)
  | 0, _ => none
  | n + 1, a =>
    if !nodeOk m a then none
    else if nodeLevel m a == 0 then (if nodeParent m a == 0 then some [a] else none)
    else
      match nodePath m n (nodeParent m a) with
      | some (b :: rest) => if nodeLevel m a == nodeLevel m b + 1 then some (a :: b :: rest) else none
      | _ => none

/-- The value of the nearest node that does not inherit; the root never inherits (R394). -/
def nearest (inherit : Nat) (read : Nat → Nat) (path : List Nat) : Nat :=
  match path.find? fun a => read a != inherit with
  | some a => read a
  | none => (path.getLast?.map read).getD 0

/-- The fault domain of a partition: that of its node, or the one it inherits (R394). -/
def State.faultDomain (s : State) (p : PartIx) : Nat :=
  nearest 0xFFFF (nodeFdom s.mem) ((nodePath s.mem 6 (s.part p).node.toNat).getD [(s.part p).node.toNat])

/-- CORE_RESTORE (R386): an area whose CHECK fails is refused, and reported to the fault domain (R385, R394; log 20). -/
def execCoreRestore (i : Nat) (c : CoreIx) (s : State) : Out :=
  match s.saved[i]? with
  | none => .next s
  | some k =>
    let p := s.part k.part
    let at_ := p.areaAt k.vcluster k.num.val
    if (s.cluster (CoreIx.cluster c)).part != some k.part || !s.coreFree c || !s.mayPlace k c then .next s
    else if Config.areaCheck (s.mem.read at_ (areaSize - 8)) != bytesWord (s.mem.read (at_ + areaSize - 8) 8) then
      let q := queueIx (s.faultDomain k.part)
      .next (s.complete (funcOf k.part) q { kind := 4, slot := k.vcluster * 128 + k.num.val * 16 })
    else
      let moved := s.vcluster (CoreIx.cluster c) != k.vcluster || CoreIx.num c != k.num
      .next ({ s with saved := s.saved.eraseIdx i }.placeCore k c moved)

def pathBudgets (m : Memory) (path : List Nat) : List Budget :=
  path.map fun a => ⟨BitVec.ofNat 64 a, nodeSlotMax m a, nodeCmdMax m a⟩

/-! ### Commands (R405) -/

def cmdWord (cmd : List Byte) (off : Nat) : Nat := bytesNat ((cmd.drop off).take 8)
def cmdKind (cmd : List Byte) : Nat := cmdWord cmd 0 % 256
def cmdFlag (cmd : List Byte) (i : Nat) : Bool := bitOf (cmdWord cmd 0) i
def cmdSeq (cmd : List Byte) : W32 := BitVec.ofNat 32 (cmdWord cmd 0 / 2 ^ 32)
def cmdTeam (cmd : List Byte) : W32 := BitVec.ofNat 32 (cmdWord cmd 0x18)
def cmdTeamn (cmd : List Byte) : Nat := cmdWord cmd 0x18 / 2 ^ 32 % 256
def cmdCore (cmd : List Byte) : Nat := cmdWord cmd 0x18 / 2 ^ 40 % 2 ^ 10
def cmdRegions (cmd : List Byte) : Nat := cmdWord cmd 0x60 % 16

/-- The flags of a launch: code refresh (R41), privileged, transfer (R301). -/
def cmdRefresh (cmd : List Byte) : Bool := cmdFlag cmd 8
def cmdPriv (cmd : List Byte) : Bool := cmdFlag cmd 9
def cmdTransfer (cmd : List Byte) : Bool := cmdFlag cmd 10

/-- The zero fields of a command (R405). -/
def commandZeros (cmd : List Byte) : Bool :=
  zeroBits (cmdWord cmd 0) 31 16 && zeroBits (cmdWord cmd 0) 15 11 && zeroBits (cmdWord cmd 0x18) 63 50 &&
  zeroBits (cmdWord cmd 0x60) 63 4 && bytesNat ((cmd.drop 0x70).take 16) == 0

/-- The zero fields of a launch (R405); the target core belongs to the transfer flag (log 21). -/
def launchZeros (cmd : List Byte) : Bool := commandZeros cmd && (cmdTransfer cmd || cmdCore cmd == 0)

/-- The region records that a launch names. -/
def State.launchRegions (s : State) (f : FuncIx) (cmd : List Byte) : List Region :=
  (List.range (min (cmdRegions cmd) 8)).map fun i =>
    BitVec.ofNat 128 (bytesNat (s.busRead f (cmdWord cmd 0x58 + 16 * i) 16))

/-- The image block of a launch: `.local` address and length, `.scratch` address and length (R405). -/
structure Images where
  local_ : Nat
  localLen : Nat
  scratch : Nat
  scratchLen : Nat
deriving DecidableEq, Repr

def State.launchImages (s : State) (f : FuncIx) (cmd : List Byte) : Images :=
  let a := cmdWord cmd 0x68
  if a == 0 then ⟨0, 0, 0, 0⟩
  else
    let w (i : Nat) : Nat := bytesNat (s.busRead f (a + 8 * i) 8)
    ⟨w 0, w 1, w 2, w 3⟩

/-- The partition that a path leads to, if the function may name it (R395): the one whose node is at level 1. -/
def State.pathPart (s : State) (f : FuncIx) (path : List Nat) : Option PartIx :=
  match path.reverse with
  | _ :: a :: _ => allParts.find? fun p =>
      (s.part p).live && (s.part p).node.toNat == a && (f.val == 64 || funcOf p == f)
  | _ => none

/-- The partition of a function (R403). -/
def State.funcPart (s : State) (f : FuncIx) : Option PartIx := allParts.find? fun p => (s.part p).live && funcOf p == f

/-- The core of a transfer launch (R301). -/
def State.launchCore (s : State) (p : PartIx) (cmd : List Byte) : Option CoreIx := s.coreNamed p (cmdCore cmd)

/-- The lowest status of a launch, or the partition and the path it goes by (R406); XEN is the node's at the walk
(R395). -/
def State.launchStatus (s : State) (f : FuncIx) (cmd : List Byte) : Except Nat (PartIx × List Nat) :=
  match nodePath s.mem 6 (cmdWord cmd 8) with
  | none => .error 1
  | some path =>
    match s.pathPart f path with
    | none => .error 1
    | some p =>
      let xen := s.xenNow p
      let n := cmdTeamn cmd
      let im := s.launchImages f cmd
      if !launchZeros cmd || cmdRegions cmd > 8 || (s.launchRegions f cmd).any regionBad then .error 1
      else if cmdPriv cmd && !path.all (fun a => nodeFlag s.mem a 1) then .error 2
      else if cmdTransfer cmd && (!xen || n != 1 || (s.launchCore p cmd).isNone) then .error 3
      else if n == 0 || n > 128 || path.any (fun a => n > nodeSlotMax s.mem a) || (xen && n > 120) then .error 4
      else if im.localLen > poolBase || im.scratchLen > scratchSize then .error 5
      else .ok (p, path)

/-! ### The command queues (R404, R406) -/

def State.command (s : State) (f : FuncIx) (q : Fin 16) : Option (List Byte) :=
  let x := (s.page f).pair q
  let n := x.cqsize.toNat
  if n == 0 || x.held.isSome || x.cqhead.toNat % n == x.cqtail.toNat % n then none
  else some (s.busRead f (x.cqbase.toNat + 128 * (x.cqhead.toNat % n)) 128)

/-- Whether a CSEQ is in sequence (R406): the first after a function reset is free. -/
def QueuePair.inSequence (x : QueuePair) (cseq : W32) : Bool := !x.anyCmd || cseq == x.lastcmd + 1

/-- The command at the head has been consumed; one out of sequence leaves the expected CSEQ. -/
def QueuePair.consume (x : QueuePair) (cseq : W32) : QueuePair :=
  let ok := x.inSequence cseq
  { x with
    cqhead := BitVec.ofNat 16 ((x.cqhead.toNat + 1) % x.cqsize.toNat)
    lastcmd := if ok then cseq else x.lastcmd
    anyCmd := x.anyCmd || ok }

/-- KIND 2 (R425): TEAM is a LAUNCH's, and 0 for any other kind. -/
def State.refuse (s : State) (f : FuncIx) (q : Fin 16) (cmd : List Byte) (status : Nat) : State :=
  s.complete f q { kind := 2, status := status, cseq := cmdSeq cmd, team := if cmdKind cmd == 1 then cmdTeam cmd else 0 }

/-- Consume the next command of a queue if its kind suits an event. act works on the state after consumption and
answers a status, or none when the command has still to wait at the head. -/
def State.intake (s : State) (f : FuncIx) (q : Fin 16) (suits : Nat → Bool) (act : State → List Byte → Except (Option Nat) State) :
    State :=
  match s.command f q with
  | none => s
  | some cmd =>
    let eaten := s.modPair f q fun x => x.consume (cmdSeq cmd)
    if !suits (cmdKind cmd) then s
    else if !((s.page f).pair q).inSequence (cmdSeq cmd) then eaten.refuse f q cmd 7
    else
      match act eaten cmd with
      | .ok r => r
      | .error none => s
      | .error (some status) => eaten.refuse f q cmd status

/-! ### Placement (R19 to R21, R394) -/

/-- Every team of the device. -/
def State.allTeams (s : State) : List Team := allClusters.flatMap fun c => (s.cluster c).teams

/-- Commands placed and not ended, and slots occupied, under a node (R393). -/
def State.commandsUnder (s : State) (node : W64) : Nat := (s.allTeams.filter fun tm => tm.path.contains node).length

def State.slotsUnder (s : State) (node : W64) : Nat :=
  (s.threads.toList.filter fun t => t.occ && (s.teamOf t).any fun tm => tm.path.contains node).length

def State.admits (s : State) (n : Nat) (b : Budget) : Bool :=
  (b.slotMax == 0xFFFFFFFF || s.slotsUnder b.node + n ≤ b.slotMax) && (b.cmdMax == 0xFFFFFFFF || s.commandsUnder b.node + 1 ≤ b.cmdMax)

/-- The next core in rotation that still has a candidate (R21). -/
def nextCore (cands : List (List SlotIx)) (pos : Nat) : Option Nat :=
  ((List.range 8).map fun i => (pos + i) % 8).find? fun i => !(cands.getD i []).isEmpty

/-- Slots for n threads, in ascending TID (R21). -/
def assignSlots : Nat → Nat → List (List SlotIx) → List SlotIx
  | 0, _, _ => []
  | n + 1, pos, cands =>
    match nextCore cands pos with
    | none => []
    | some i =>
      match cands.getD i [] with
      | [] => []
      | w :: rest => w :: assignSlots n ((i + 1) % 8) (cands.set i rest)

/-- Whether a cluster's skimmer has room for one more task (R208). -/
def Cluster.taskRoom (c : Cluster) : Bool := c.taskCount < 1024

/-- Where a launch goes now, if anywhere (R21, R301): the lowest vcluster with enough candidates. DESIGN CHOICE (log 81): a
cluster whose skimmer already holds 1,024 tasks (R208) is passed over. -/
def State.launchSlots (s : State) (p : PartIx) (cmd : List Byte) : Option (List SlotIx) :=
  if cmdTransfer cmd then
    match s.launchCore p cmd with
    | none => none
    | some c =>
      let w := slotOf c 15
      let k := s.core c
      let cl := s.cluster (CoreIx.cluster c)
      if (s.thread w).occ || (k.forward.any fun f => f.old.val == 15) || k.stopping || cl.draining || !cl.taskRoom then none
      else some [w]
  else
    let n := cmdTeamn cmd
    (((s.clustersOf p).filter fun cl => (s.cluster cl).taskRoom).map fun cl => (coresOf cl).map s.candidates).findSome? fun cands =>
      if (cands.map List.length).sum < n then none else some (assignSlots n 0 cands)

/-- Place the images of a launch (R61): a covered word of local memory becomes full. -/
def State.putImages (s : State) (f : FuncIx) (im : Images) (cl : ClusterIx) (cores : List CoreIx) : State :=
  let s := if im.localLen == 0 then s
    else s.modCluster cl fun c => (List.range ((im.localLen + 7) / 8)).foldl (fun c i => c.setFull i true)
      { c with mem := c.mem.write 0 (s.busRead f im.local_ im.localLen) }
  if im.scratchLen == 0 then s
  else
    let bs := s.busRead f im.scratch im.scratchLen
    cores.foldl (fun s c => s.modCore c fun k => { k with scratch := k.scratch.write 0 bs }) s

/-- A thread of a launched team (R19). -/
def Team.launched (tm : Team) (home : ClusterIx) (cmd : List Byte) (tid : Nat) : Thread :=
  { tm.thread home 0 with
    ip := BitVec.ofNat 64 (cmdWord cmd 0x10)
    g := Vector.ofFn fun i => if 2 ≤ i.val && i.val ≤ 7 then BitVec.ofNat 64 (cmdWord cmd (0x20 + 8 * (i.val - 2))) else 0
    tid := BitVec.ofNat 7 tid
    idset := oneIndex tid }

/-- The record of a team at its placement; a transfer thread runs in user mode (R301). -/
def launchTeam (p : PartIx) (f : FuncIx) (q : Fin 16) (h : HeldLaunch) (rs : List Region) (epoch : Nat) : Team where
  part := p
  team := cmdTeam h.cmd
  teamn := cmdTeamn h.cmd
  vector := BitVec.ofNat 57 (cmdWord h.cmd 0x50)
  priv := cmdPriv h.cmd && !cmdTransfer h.cmd
  cseq := cmdSeq h.cmd
  fn := f
  q := q
  fdom := h.fdom
  path := h.budgets.map Budget.node
  weight := cmdTeamn h.cmd
  exited := 0
  used := BitVec.ofNat 128 (2 ^ cmdTeamn h.cmd - 1)
  spawns := 0
  nextTask := 1
  tasks := [{ id := 0, regions := rs, begun := false, member := true, threads := cmdTeamn h.cmd, conts := 0 }]
  frames := []
  det := []
  epoch := epoch

/-- The threads of a team take their slots, and their task arrives at each core (R224). -/
def State.placeTeam (s : State) (tm : Team) (cl : ClusterIx) (cmd : List Byte) (ws : List SlotIx) : State :=
  let s := ws.zipIdx.foldl (fun s x => s.place x.1 (tm.launched cl cmd x.2)) s
  (ws.map SlotIx.core).eraseDups.foldl (fun s c => s.skimInvalidate c (liveRegions ((tm.tasks.map Task.regions).headD []))) s

/-- Whether a team of a partition is live (R406 status 10). -/
def State.teamLive (s : State) (p : PartIx) (team : W32) : Bool :=
  (s.allTeams.any fun tm => tm.part == p && tm.team == team) || (s.issuers p).any fun k => k / 128 == team.toNat

/-- Whether the held launch of a queue could be placed now. -/
def State.placeable (s : State) (f : FuncIx) (q : Fin 16) : Bool :=
  match ((s.page f).pair q).held with
  | none => false
  | some h =>
    match s.pathPart f (h.budgets.map fun b => b.node.toNat) with
    | none => false
    | some p => h.budgets.all (s.admits (cmdTeamn h.cmd)) && (s.launchSlots p h.cmd).isSome

/-- Whether another held launch goes first: higher priority, then queue index (R394), and of equal queues the lower
function (log 21). -/
def State.outranked (s : State) (f : FuncIx) (q : Fin 16) (h : HeldLaunch) : Bool :=
  (List.finRange 65).any fun e => (List.finRange 16).any fun r => (e, r) != (f, q) && match ((s.page e).pair r).held with
    | none => false
    | some g => (g.prio > h.prio || (g.prio == h.prio && 65 * r.val + e.val < 65 * q.val + f.val)) && s.placeable e r

/-- Pops take free slots before a placement does (R210). -/
def State.popAll (s : State) (p : PartIx) : State := ((s.clustersOf p).flatMap coresOf).foldl State.pop s

/-- A launch sets the generation counters of its team to 0 (R231), and nothing of an earlier team of that number is on
its way. -/
def State.freshTeam (s : State) (p : PartIx) (cl : ClusterIx) (team : W32) : State :=
  let s := s.modCluster cl fun c => { c with gens := c.gens.filter fun g => g.part != p || g.team != team }
  { s with endings := s.endings.filter fun e => e.part != p || e.team != team }

/-- The partition of a held launch. -/
def State.heldPart (s : State) (f : FuncIx) (q : Fin 16) : Option PartIx :=
  ((s.page f).pair q).held.bind fun h => s.pathPart f (h.budgets.map fun b => b.node.toNat)

/-- The status that refuses a held launch which a change of XEN since its walk keeps from ever being placed (R301, R394). -/
def State.heldStatus (s : State) (p : PartIx) (cmd : List Byte) : Option Nat :=
  if cmdTransfer cmd && !(s.part p).xen then some 3
  else if (s.part p).xen && cmdTeamn cmd > 120 then some 4
  else none

/-- The held launch of a queue is answered with a refusal. -/
def State.refuseHeld (s : State) (f : FuncIx) (q : Fin 16) (cmd : List Byte) (status : Nat) : State :=
  (s.modPair f q fun x => { x with held := none }).refuse f q cmd status

/-- Place the held launch of a queue, if it can be placed and none goes first: KIND 1, or status 10 (R394, R406, R407). -/
def State.placeHeld (s : State) (f : FuncIx) (q : Fin 16) : State :=
  let s := match s.heldPart f q with
    | some p => s.popAll p
    | none => s
  match ((s.page f).pair q).held, (s.heldPart f q).bind fun p => ((s.page f).pair q).held.bind fun h => s.heldStatus p h.cmd with
  | none, _ => s
  | some h, some status => s.refuseHeld f q h.cmd status
  | some h, none =>
    if !s.placeable f q || s.outranked f q h then s
    else
      match s.pathPart f (h.budgets.map fun b => b.node.toNat) with
      | none => s
      | some p =>
        match s.launchSlots p h.cmd with
        | some (w :: ws) =>
          if s.teamLive p (cmdTeam h.cmd) then s.refuseHeld f q h.cmd 10
          else
            let s := s.modPair f q fun x => { x with held := none }
            let cl := SlotIx.cluster w
            let rs := (s.launchRegions f h.cmd).filter fun r => regionMode r != 0
            let tm := launchTeam p f q h rs (s.cluster cl).epoch
            let s := if cmdRefresh h.cmd then (coresOf cl).foldl (fun s c => s.modCore c fun k => { k with icache := [] }) s else s
            let s := s.putImages f (s.launchImages f h.cmd) cl ((w :: ws).map SlotIx.core).eraseDups
            let s := { s.freshTeam p cl tm.team with filled := true }.modCluster cl fun c => { c with teams := c.teams ++ [tm] }
            let s := s.placeTeam tm cl h.cmd (w :: ws)
            s.complete f q { kind := 1, cseq := cmdSeq h.cmd, team := cmdTeam h.cmd, slot := s.globalSlot w }
        | _ => s

/-! ### Events -/

/-- STATUS after a register write (R404): 2 when it was ignored. -/
def State.status (s : State) (f : FuncIx) (ignored : Bool) : State :=
  s.modPage f fun x => { x with status := if ignored then 2 else 0 }

/-- A write of CQTAIL (R404). -/
def execDoorbell (f : FuncIx) (q : Fin 16) (tail : BitVec 16) (s : State) : Out :=
  .next ((s.modPair f q fun x => { x with cqtail := tail }).status f false)

/-- LAUNCH (R405, R406): a launch is checked as its walk reads the nodes (R395), then placed, held or refused; a command
of unknown kind is refused. -/
def execLaunch (f : FuncIx) (q : Fin 16) (s : State) : Out :=
  .next (s.intake f q (fun k => k < 2 || 5 < k) fun s cmd =>
    if cmdKind cmd != 1 then .error (some 9)
    else
      match s.launchStatus f cmd with
      | .error status => .error (some status)
      | .ok (p, path) =>
        let h : HeldLaunch := {
          cmd := cmd
          budgets := pathBudgets s.mem path
          prio := nearest 255 (nodePrio s.mem) path
          fdom := nearest 0xFFFF (nodeFdom s.mem) path }
        .ok (((s.renewXen p).modPair f q fun x => { x with held := some h }).placeHeld f q))

/-- LAUNCH_PLACEMENT (R20, R21). -/
def execLaunchPlacement (f : FuncIx) (q : Fin 16) (s : State) : Out := .next (s.placeHeld f q)

/-- The thread that a RESUME or KILL names; none when its slot is free or outside the partition (R406 status 6). -/
def State.commandSlot (s : State) (f : FuncIx) (cmd : List Byte) : Option SlotIx :=
  match s.funcPart f with
  | none => none
  | some p =>
    match (if cmdWord cmd 8 < 2 ^ 14 then s.slotNamed p (cmdWord cmd 8) else none) with
    | none => none
    | some w => if (s.thread w).occ then some w else none

/-- The thread of a RESUME or KILL, or the lowest status that refuses it (R406). -/
def State.commandTarget (s : State) (f : FuncIx) (cmd : List Byte) : Except Nat SlotIx :=
  if !commandZeros cmd then .error 1
  else
    match s.commandSlot f cmd with
    | none => .error 6
    | some w => .ok w

/-- KIND 5 for a thread's command (R425). -/
def State.answered (s : State) (f : FuncIx) (q : Fin 16) (cmd : List Byte) (w : SlotIx) : State :=
  s.complete f q { kind := 5, cseq := cmdSeq cmd, team := (s.thread w).team, slot := s.globalSlot w }

/-- RESUME (R409). -/
def execResume (f : FuncIx) (q : Fin 16) (s : State) : Out :=
  .next (s.intake f q (· == 2) fun s cmd =>
    match s.commandTarget f cmd with
    | .error status => .error (some status)
    | .ok w => if (s.thread w).isStopped then .ok ((s.returnTrap w).answered f q cmd w) else .error (some 6))

/-- Whether a KILL finds its thread in a wait that ends by itself and cannot be withdrawn. -/
def State.unkillable (s : State) (w : SlotIx) : Bool :=
  match (s.thread w).wait with
  | .sieveOut _ _ _ | .skimmer | .drain _ _ _ | .killed _ _ _ _ => true
  | .det asked _ => asked.isNone
  | .tileStart token _ => !s.tileQueued w token
  | _ => false

/-- The killed thread leaves its wait, and ends as soon as exit would (R409, R243). -/
def State.kill (s : State) (f : FuncIx) (q : Fin 16) (cmd : List Byte) (w : SlotIx) : State :=
  let parked : Bool := match (s.thread w).wait with
    | .sieveIn _ _ _ _ => true
    | _ => false
  let s := s.withdraw w
  let t := s.thread w
  let s := if parked then (s.countExit w).closeByCount t.home t.part t.team else s
  let s := s.modThread w fun t => { t with wait := .killed f q (cmdSeq cmd) parked }
  s.endKilled w f q (cmdSeq cmd) parked

/-- KILL (R409, R425). -/
def execKill (f : FuncIx) (q : Fin 16) (s : State) : Out :=
  .next (s.intake f q (· == 3) fun s cmd =>
    match s.commandTarget f cmd with
    | .error status => .error (some status)
    | .ok w => if s.unkillable w then .error none else .ok (s.kill f q cmd w))

/-- Remove the host-stage translations of an intermediate range (R406, R374). -/
def State.hinval (s : State) (p : PartIx) (a n : Nat) : State :=
  let hit (e : TlbEntry) : Bool := n == 0 || meets e.ipa e.size a n
  let stale (k : Core) (c : Cluster) (g : Segment) : Segment :=
    if inGlobal g.va && (k.tlb ++ c.tlb).any fun e => hit e && e.base ≤ g.va.toNat && g.va.toNat < e.base + e.size
    then { g with stale := true } else g
  let s := (s.clustersOf p).foldl (fun s cl =>
    let c := s.cluster cl
    (coresOf cl).foldl (fun s k => s.modCore k fun x => { x with
      icache := x.icache.filter fun l => l.poison.isNone
      tile := { x.tile with
        epi := x.tile.epi.map (stale x c)
        running := x.tile.running.map fun r => { r with segs := r.segs.map (stale x c) } } }) s) s
  s.dropTlb p hit

/-- HINVAL (R406): it waits for accesses under way. -/
def execHinval (f : FuncIx) (q : Fin 16) (s : State) : Out :=
  .next (s.intake f q (· == 4) fun s cmd =>
    if !commandZeros cmd then .error (some 1)
    else
      match s.funcPart f with
      | none => .ok (s.complete f q { kind := 5, cseq := cmdSeq cmd })
      | some p =>
        if s.inFlight p allScope then .error none
          else .ok ((s.hinval p (cmdWord cmd 8) (cmdWord cmd 0x10)).complete f q { kind := 5, cseq := cmdSeq cmd }))

/-- The host's answer for one thread that stalls at an intermediate address (R382): it goes on, or fails; a thread whose
tile-queue entry waits for its start stalls on. -/
def State.resolveThread (s : State) (ipa : Nat) (decline : Bool) (w : SlotIx) : State :=
  let said : Option Nat := if decline then some ipa else none
  let go (x : Wait) : State := s.modThread w fun t => { t with wait := x }
  match (s.thread w).wait with
  | .hostStage x =>
    if x != ipa then s
    else
      match s.stalledToken w with
      | some token => go (.tileStart token said)
      | none => go (if decline then .declined ipa else .run)
  | .det (some x) _ => if x == ipa then go (.det none said) else s
  | _ => s

/-- The host's answer for the transfers of a core (R382). -/
def Core.resolve (ipa : Nat) (decline : Bool) (k : Core) : Core :=
  { k with score := mapVector k.score (Option.map fun t =>
      if t.hostWait == some ipa then { t with hostWait := none, declined := if decline then some ipa else t.declined } else t) }

/-- The host's answer for the threads and transfers of a partition (R382, R409). -/
def State.resolve (s : State) (p : PartIx) (ipa : Nat) (no : Bool) : State :=
  let s := (s.slotsIn p).foldl (fun s w => s.resolveThread ipa no w) s
  let s := ((s.clustersOf p).flatMap coresOf).foldl (fun s c => s.modCore c (Core.resolve ipa no)) s
  { s with saved := updateAll s.saved (fun k => k.part == p) fun k => { k with core := k.core.resolve ipa no } }

/-- RESOLVE (R409). -/
def execResolve (f : FuncIx) (q : Fin 16) (s : State) : Out :=
  .next (s.intake f q (· == 5) fun s cmd =>
    if !commandZeros cmd then .error (some 1)
    else
      let s := match s.funcPart f with
        | none => s
        | some p => s.resolve p (cmdWord cmd 8) (bitOf (cmdWord cmd 0x10) 0)
      .ok (s.complete f q { kind := 5, cseq := cmdSeq cmd }))

/-- A record kept for want of room, with another DSEQ (R407). -/
def renumber (dseq : W32) (bs : List Byte) : List Byte := bs.take 12 ++ natBytes 4 dseq.toNat ++ bs.drop 16

/-- What a function reset leaves of a queue pair (R407, R408; log 21): the host status block says what the host has
written and read, so that commands up to HCMD are exposed and records follow HCPL; DSEQ starts at 1. Records that had
no room are kept. -/
def QueuePair.afterReset (x : QueuePair) (hcmd hcpl : W32) : QueuePair :=
  let ahead := (hcmd - x.lastcmd).toNat
  let back := (x.lastcpl - hcpl).toNat
  { x with
    cqtail := if x.cqsize == 0 then x.cqtail else BitVec.ofNat 16 ((x.cqhead.toNat + ahead) % x.cqsize.toNat)
    anyCmd := false
    cptail := if x.cpsize == 0 then x.cptail
      else BitVec.ofNat 16 ((x.cptail.toNat + x.cpsize.toNat * back - back) % x.cpsize.toNat)
    lastcpl := 0
    held := none
    backlog := x.backlog.zipIdx.map fun y => renumber (BitVec.ofNat 32 (y.2 + 1)) y.1 }

/-- One queue pair at a function reset: a consumed launch that was never placed is answered with status 8. -/
def State.resetPair (f : FuncIx) (s : State) (q : Fin 16) : State :=
  let x := (s.page f).pair q
  let block := if x.hsb == 0 then x.lastcmd.toNat + x.lastcpl.toNat * 2 ^ 32 else bytesNat (s.busRead f x.hsb.toNat 8)
  let s := s.modPair f q fun y => y.afterReset (BitVec.ofNat 32 block) (BitVec.ofNat 32 (block / 2 ^ 32))
  let s := s.flushBacklog f q x.backlog.length
  match x.held with
  | none => s
  | some h => s.refuse f q h.cmd 8

/-- FREE of one kind of the capability table (R399). -/
def State.setFree (s : State) (kind free : Nat) : State :=
  { s with caps := updateAll s.caps (fun e => e.kind == kind) fun e => { e with free := free } }

/-- Whether a partition holds a Carran port (R401; log 21). -/
def State.holdsPort (s : State) (p : PartIx) (n : Fin 16) : Bool := (s.part p).live && Config.holdsPort s.mgmt.config p.val n.val

/-- Units of each kind of R400 that are assigned to no partition (R399; log 21). -/
def State.freeUnits (s : State) : List (Nat × Nat) :=
  let live := allParts.filter fun p => (s.part p).live
  let page (p : PartIx) : Page := s.page (funcOf p)
  let n := (allClusters.filter fun c => (s.cluster c).part.isNone).length
  let ports := (List.finRange 16).filter fun n => live.any fun p => s.holdsPort p n
  let ways := live.foldl (fun acc p => acc ||| (s.part p).ways) 0
  let links (p : PartIx) : Nat := ((List.finRange 16).map fun n => if s.holdsPort p n then (page p).qoslink[n].floor.toNat else 0).sum
  [(1, n), (2, 768 - (live.map fun p => (page p).hdmSize / 2 ^ 30).sum), (3, 4096 - (live.map fun p => (page p).qosmem.floor.toNat).sum),
   (4, (indices 16 fun i => !ways.getLsbD i).length), (5, 16 - ports.length), (6, 65536 - (live.map links).sum),
   (7, 64 - live.length), (8, 4096 - live.length), (9, 16 * n)]

/-- FREE of every kind, as of this change (R399). -/
def State.recount (s : State) : State := s.freeUnits.foldl (fun s x => s.setFree x.1 x.2) s

/-- FUNCTION_RESET (R408; log 21): the rest of the page takes its reset values, the floors of its bands too (R399). -/
def execFunctionReset (f : FuncIx) (s : State) : Out :=
  let s := (s.modPage f fun x => { Page.reset with pairs := x.pairs, hdmBase := x.hdmBase, hdmSize := x.hdmSize }).recount
  .next ((List.finRange 16).foldl (State.resetPair f) s)

/-- A deque entry that its core loses is reported with cause 0 (R23, R409, R425). -/
def State.reportLost (s : State) (c : CoreIx) : State :=
  (s.core c).deque.foldl (fun s e => match s.teamAt e.home e.part e.team with
    | none => s
    | some tm => s.complete tm.fn (queueIx tm.fdom) {
        kind := 4
        cseq := tm.cseq
        team := e.team
        slot := s.vcluster (CoreIx.cluster c) * 128 + (CoreIx.num c).val * 16 }) s

/-- What survives a device reset: HBM and host memory, and what the management controller keeps (R420; log 21). -/
def Mgmt.restart (m : Mgmt) : Mgmt := { m with stage := 0, recovery := false, digests := [], reports := [] }

/-- DEVICE_RESET (R7, R136, R249, R257, R280, R339): the deque entries that it loses are reported (R23). DESIGN CHOICE (log
78): every place that holds an uncorrectable error still holds it, those of memories that it rewrites too. -/
def execDeviceReset (s : State) : Out :=
  let told := (s.coresWith fun k => !k.deque.isEmpty).foldl State.reportLost s
  .next { State.reset with
    mem := told.mem
    hostMem := told.hostMem
    ue := s.ue
    now := s.now
    mgmt := s.mgmt.restart
    agenda := s.agenda
    frees := s.frees
    uids := s.uids
    wall := s.wall }

end Sys2Proof.Machine
end

