-- ==== Sys2Proof/Machine/Platform.lean ====
section
/-! DEFINITION. The device around the programs (R7, R393, R396 to R398, R401 to R404, R410 to R418, R421, R423): the rows
220 and 233 to 255 of the table: register writes, partitions and drains, bands, the ladle, the dirty-page log,
host writes, Carran, clocks and attestation. -/

namespace Sys2Proof.Machine

/-! ### Partitions (R396 to R398) -/

/-- The partition-only fields of a level-1 node (R393). -/
def Partition.ofNode (p : Partition) (m : Memory) (a : Nat) : Partition :=
  { p with
    node := BitVec.ofNat 64 a
    partid := BitVec.ofNat 16 (nodePartid m a)
    xen := nodeFlag m a 0
    gstage := nodeFlag m a 2
    logarm := nodeFlag m a 3
    groot := BitVec.ofNat 64 (nodeWord m a 0x20)
    hroot := BitVec.ofNat 64 (nodeWord m a 0x28)
    savebase := BitVec.ofNat 64 (nodeWord m a 0x40)
    lztab := BitVec.ofNat 64 (nodeWord m a 0x48)
    tring := BitVec.ofNat 64 (nodeWord m a 0x50)
    ways := BitVec.ofNat 16 (nodeWord m a 0x58) }

/-- The clusters of a set. -/
def clusterSet (x : BitVec 128) : List ClusterIx := allClusters.filter fun c => x.getLsbD c.val

/-- A cluster assigned to a partition: local memory, barriers and tile state at their reset values (R136, R339, R257). -/
def State.assign (p : PartIx) (s : State) (cl : ClusterIx) : State :=
  let s := s.modCluster cl fun c => { c with
    part := some p
    mem := []
    full := []
    fe := []
    pool := 0
    barrier := Vector.replicate 64 Barrier.reset
    draining := false
    epoch := c.epoch + 1 }
  (coresOf cl).foldl (fun s c => s.modCore c fun k => { k with tile := { Tile.reset with tokens := k.tile.tokens } }) s

/-- The node's CLUSTERS field (R393) and the permission tables (R398) follow the clusters that a partition holds. -/
def State.settleClusters (s : State) (p : PartIx) : State :=
  let cls := s.clustersOf p
  let set : Nat := (cls.map fun c => 2 ^ c.val).sum
  let perm : BitVec 128 := BitVec.ofNat 128 (2 ^ cls.length - 1)
  let s := { s with mem := s.mem.write ((s.part p).node.toNat + 0x30) (natBytes 16 set) }
  cls.foldl (fun s cl => s.modCluster cl fun c => { c with perm := perm }) s

/-- The 32 bytes of an entry of the capability table (R399). -/
def CapEntry.bytes (e : CapEntry) : List Byte :=
  natBytes 2 e.kind ++ natBytes 2 e.flags ++ natBytes 4 e.unit ++ natBytes 8 e.total ++ natBytes 8 e.free ++ natBytes 4 e.grain ++
  natBytes 4 0

/-- The bytes of the capability table: its entries and one whose KIND is 0 (R399). -/
def State.capTable (s : State) : List Byte := s.caps.flatMap CapEntry.bytes ++ List.replicate 32 0

/-- The byte that a function reads at an address of its host bus: the physical function reads the capability table from
CAPBASE on (R399, R404; log 21), and every other byte is one of memory (R403). -/
def State.hostRead (s : State) (f : FuncIx) (addr : Nat) : Byte :=
  let base := s.capbase.toNat
  match (if f.val == 64 && base ≤ addr then s.capTable[addr - base]? else none) with
  | some b => b
  | none => (s.busRead f addr 1).headD 0

/-- Whether the clusters of a set are all free. -/
def State.freeSet (s : State) (x : BitVec 128) : Bool := (clusterSet x).all fun c => (s.cluster c).part.isNone

/-- PARTITION_CREATE (R396): the node is the level-1 node that the management controller has written (R395, R418). -/
def execPartitionCreate (p : PartIx) (node : W64) (clusters : BitVec 128) (s : State) : Out :=
  let a := node.toNat
  if (s.part p).live || clusters == 0 || !s.freeSet clusters || !nodeOk s.mem a || nodeLevel s.mem a != 1 ||
      !s.mgmt.allows s.mem a (clusterSet clusters).length then .next s
  else
    let s := s.setPart p { Partition.reset.ofNode s.mem a with live := true }
    .next (((clusterSet clusters).foldl (State.assign p) s).settleClusters p).recount

/-- PARTITION_GROW (R396): only clusters above every cluster of the partition; the node is read again, and the configuration
image must allow what it says (R418). -/
def execPartitionGrow (p : PartIx) (clusters : BitVec 128) (s : State) : Out :=
  let above : Bool := (clusterSet clusters).all fun c => (s.clustersOf p).all fun d => d.val < c.val
  let a := (s.part p).node.toNat
  if !(s.part p).live || !s.freeSet clusters || !above ||
      !s.mgmt.allows s.mem a ((s.clustersOf p).length + (clusterSet clusters).length) then .next s
  else
    let s := s.modPart p fun x => x.ofNode s.mem a
    .next (((clusterSet clusters).foldl (State.assign p) s).settleClusters p).recount

/-! ### Draining a cluster (R397) -/

/-- Whether a core still holds a context: a thread, a deque entry that its save area has room for, or something under
way. -/
def State.holdsContext (s : State) (c : CoreIx) : Bool :=
  let k := s.core c
  (slotsOf c).any (fun w => (s.thread w).occ) || (!k.deque.isEmpty && (s.inArea c).isNone) || !k.journal.isEmpty || !k.retry.isEmpty ||
  !k.tile.queue.isEmpty || k.tile.running.isSome || !k.tile.epi.isEmpty

/-- A transfer of a drained cluster is cancelled (R322): BYTES is the lowest offset that is not written (R312). -/
def State.cancelFlights (s : State) (cl : ClusterIx) (k : Core) : Core :=
  { k with score := mapVector k.score (Option.map fun t =>
      if t.state == .flight && SlotIx.cluster t.w == cl then { t with state := .cancelled, bytes := s.lowest t } else t) }

def State.cancelTransfers (s : State) (cl : ClusterIx) : State :=
  let s := (coresOf cl).foldl (fun s c => s.modCore c (s.cancelFlights cl)) s
  { s with saved := s.saved.map fun k => { k with core := s.cancelFlights cl k.core } }

/-- The memories of a core of a drained cluster: L1 is written back and invalidated, the rest is cleared (R397 step 4). A
deque entry that could not be saved is reported. -/
def State.clearCore (s : State) (c : CoreIx) : State :=
  let s := (s.core c).l1.foldl (fun s l => s.l1Drop c l.pa) s
  (s.reportLost c).modCore c fun k => { k.vacated with
    icache := []
    tlb := []
    scratch := []
    tile := { Tile.reset with tokens := k.tile.tokens } }

/-- Threads of other clusters that wait at a bank or a barrier of a drained cluster execute afresh. -/
def State.releaseWaiters (s : State) (cl : ClusterIx) : State :=
  (s.slotsIn (s.partOf cl)).foldl (fun s w =>
    let t := s.thread w
    let here : Bool := match t.wait with
      | .bank c _ | .bankRefused c _ _ => c == cl
      | .port _ | .group _ _ _ _ _ => t.home == cl
      | _ => false
    if here then s.withdraw w else s) s

/-- Steps 4 to 6 of a drain: memories, permission tables, and the cluster's bit (R397, R398). -/
def State.clearCluster (s : State) (cl : ClusterIx) : State :=
  let p := s.partOf cl
  let s := (s.releaseWaiters cl).cancelTransfers cl
  let s := (coresOf cl).foldl State.clearCore s
  let s := s.modCluster cl fun c => { c with
    part := none
    mem := []
    full := []
    fe := []
    pool := 0
    tlb := []
    perm := 0
    draining := false
    epoch := c.epoch + 1 }
  ((s.settleClusters p).renewXen p).recount

/-- One cluster is drained as far as it goes now (R397): placement stops, every core is pre-empted, and when they hold
nothing more it is cleared. Only the highest vcluster of a partition is given up (R396). -/
def State.drainCluster (s : State) (cl : ClusterIx) : State :=
  match (s.cluster cl).part with
  | none => s
  | some p =>
    if (s.clustersOf p).getLast? != some cl then s
    else
      let s := s.modCluster cl fun c => { c with draining := true }
      let s := (coresOf cl).foldl State.preemptCore s
      if (coresOf cl).any (fun c => s.holdsContext c || (s.inArea c).isNone) || !(s.cluster cl).skims.isEmpty then s
      else s.clearCluster cl

/-- CLUSTER_DRAIN (R397): it stands until the cluster is cleared. -/
def execClusterDrain (cl : ClusterIx) (s : State) : Out := .next (s.drainCluster cl)

/-- Drain the highest cluster of a partition while it holds more than n. -/
def State.shrinkTo (s : State) (p : PartIx) (n : Nat) : State :=
  if (s.clustersOf p).length ≤ n then s
  else
    match (s.clustersOf p).getLast? with
    | some cl => s.drainCluster cl
    | none => s

/-- PARTITION_SHRINK (R396): the highest vclusters go, one after another, until n are left. -/
def execPartitionShrink (p : PartIx) (n : Nat) (s : State) : Out := .next (s.shrinkTo p n)

/-- A partition is gone: its teams, contexts, commands and buffered updates with it. DESIGN CHOICE (log 68): accepted det
updates that no drain has applied are dropped. -/
def State.forget (s : State) (p : PartIx) : State :=
  let s := { s with
    buffers := s.buffers.filter fun b => b.part != p
    saved := s.saved.filter fun k => k.part != p
    away := s.away.filter fun k => k.2.part != p
    endings := s.endings.filter fun e => e.part != p
    clusters := mapVector s.clusters fun c => { c with
      teams := c.teams.filter fun t => t.part != p
      inst := c.inst.filter fun i => i.part != p
      gens := c.gens.filter fun g => g.part != p } }
  (s.setPart p Partition.reset).recount

/-- PARTITION_DESTROY (R396): a shrink to zero clusters. -/
def execPartitionDestroy (p : PartIx) (s : State) : Out :=
  let s := s.shrinkTo p 0
  .next (if (s.clustersOf p).isEmpty then s.forget p else s)

/-! ### Bands (R401, R402) -/

def State.band (s : State) (r : BandReg) : Band :=
  match r with
  | .mem f => (s.page f).qosmem
  | .link f n => (s.page f).qoslink[n]

def State.setBand (s : State) (r : BandReg) (b : Band) : State :=
  match r with
  | .mem f => s.modPage f fun x => { x with qosmem := b }
  | .link f n => s.modPage f fun x => { x with qoslink := x.qoslink.set n b }

def bandFunc : BandReg → FuncIx
  | .mem f => f
  | .link f _ => f

/-- The same resource in another function's page. -/
def bandAt (r : BandReg) (f : FuncIx) : BandReg :=
  match r with
  | .mem _ => .mem f
  | .link _ n => .link f n

/-- The partition of a band register, which holds the resource (R401). -/
def State.bandPart (s : State) (r : BandReg) : Option PartIx :=
  match s.funcPart (bandFunc r), r with
  | some p, .mem _ => some p
  | some p, .link _ n => if s.holdsPort p n then some p else none
  | none, _ => none

/-- The floors that the other partitions hold on a resource. -/
def State.otherFloors (s : State) (r : BandReg) : Nat :=
  (((List.finRange 65).filter fun f => f != bandFunc r && (s.bandPart (bandAt r f)).isSome).map fun f =>
    (s.band (bandAt r f)).floor.toNat).sum

/-- Whether the configuration image in use allows a band (R401, R418); none in use allows every one (log 21). -/
def Mgmt.allowsBand (x : Mgmt) (r : BandReg) (floor ceil : Nat) : Bool :=
  let resource : Nat := match r with
    | .mem _ => 0
    | .link _ n => n.val + 1
  x.config.isEmpty || Config.bandLimit x.config (128 * resource + (bandFunc r).val) floor ceil

/-- A write of a band register by the physical function (R401). A register of a partition or port that is not there
ignores it (log 21). -/
def State.writeBand (s : State) (r : BandReg) (x : W64) : State :=
  let floor := bits x 12 0
  let ceil := bits x 28 16
  let f := bandFunc r
  if (s.bandPart r).isNone || floor > ceil || ceil == 0 || ceil > 4096 || floor + s.otherFloors r > 4096 ||
      !s.mgmt.allowsBand r floor ceil then s.status f true
  else
    let old := s.band r
    let weight := if bits x 39 32 == 0 then old.weight else x.extractLsb' 32 8
    (s.setBand r { old with weight := weight, ceil := BitVec.ofNat 13 ceil, floor := BitVec.ofNat 13 floor }).recount.status f false

/-- QOS_WRITE (R401). -/
def execQosWrite (r : BandReg) (value : W64) (s : State) : Out := .next (s.writeBand r value)

/-- A metering window ends (R402). -/
def execBandWindow (r : BandReg) (s : State) : Out := .next (s.setBand r { s.band r with used := 0 })

/-! ### The ladle (R410 to R412) -/

/-- Bytes of a record of n entries (R411). -/
def recordSize (n : Nat) : Nat := (16 + 8 * n + 63) / 64 * 64

/-- Entries of the records of an iteration: 4,096 in every one but the last (R411). -/
def recordParts (xs : List W64) : Nat → List (List W64)
  | 0 => [xs]
  | n + 1 => if xs.length ≤ 4096 then [xs] else xs.take 4096 :: recordParts (xs.drop 4096) n

/-- The bytes of one record (R411). -/
def tokenRecord (iter : Nat) (more : Bool) (lseq : W64) (xs : List W64) : List Byte :=
  let bs := natBytes 8 (iter % 2 ^ 32 + xs.length * 2 ^ 32 + boolNat more * 2 ^ 48) ++ wordBytes 8 lseq ++
    xs.flatMap (wordBytes 8)
  bs ++ List.replicate (recordSize xs.length - bs.length) 0

/-- The records that list n entries take so many bytes. -/
def recordsSize (n : Nat) : Nat := n / 4096 * recordSize 4096 + (if n % 4096 == 0 && n != 0 then 0 else recordSize (n % 4096))

/-- Free bytes of the host buffer; TAIL never meets HEAD from behind (log 21). -/
def Ladle.room (l : Ladle) : Nat :=
  if l.lsize == 0 then 0 else (l.lhead.toNat + l.lsize.toNat - l.ltail.toNat - 1) % l.lsize.toNat

/-- Write bytes into the ring-shaped host buffer. -/
def State.putRing (s : State) (f : FuncIx) (base size at_ : Nat) (bs : List Byte) : State :=
  let here := bs.take (size - at_)
  (s.busWrite f (base + at_) here).busWrite f base (bs.drop (size - at_))

/-- The interrupt: every record written becomes signalled (R412). -/
def Ladle.signal (l : Ladle) : Ladle := { l with unsignalled := 0, interrupts := l.interrupts + 1 }

/-- The interrupt once LCOUNT records are unsignalled (R412). -/
def Ladle.counted (l : Ladle) : Ladle := if l.lcount != 0 && l.unsignalled ≥ l.lcount.toNat then l.signal else l

/-- Write one record of an iteration (R411), which can make the count of unsignalled ones full (R412). -/
def State.putTokens (f : FuncIx) (iter : Nat) (s : State) (part : List W64 × Bool) : State :=
  let l := (s.page f).ladle
  let bs := tokenRecord iter part.2 (l.lseq + 1) part.1
  (s.putRing f l.lbase.toNat l.lsize.toNat l.ltail.toNat bs).modPage f fun x => { x with ladle := Ladle.counted { x.ladle with
    lseq := l.lseq + 1
    ltail := BitVec.ofNat 64 ((l.ltail.toNat + bs.length) % l.lsize.toNat)
    unsignalled := l.unsignalled + 1
    oldest := if l.unsignalled == 0 then s.wall else l.oldest } }

/-- Take one entry (R410, R411): a token is kept for the record of its iteration; an iteration end writes it. -/
def State.takeToken (s : State) (f : FuncIx) (x : W64) : State :=
  let modL (s : State) (g : Ladle → Ladle) : State := s.modPage f fun p => { p with ladle := g p.ladle }
  if bits x 62 48 != 0 || (x.getLsbD 63 && bits x 47 32 != 0) then modL s fun l => { l with ldrop := l.ldrop + 1 }
  else if !x.getLsbD 63 then modL s fun l => { l with tokens := l.tokens ++ [x] }
  else
    let l := (s.page f).ladle
    let parts := recordParts l.tokens l.tokens.length
    let marked := parts.zipIdx.map fun y => (y.1, y.2 + 1 != parts.length)
    marked.foldl (State.putTokens f (bits x 31 0)) (modL s fun l => { l with tokens := [] })

/-- LADLE_TAKE (R410, R411): the ring's oldest entry, as ringget takes it (R336), while the buffer has room for the
record that will list it. -/
def execLadleTake (p : PartIx) (s : State) : Out :=
  let x := s.part p
  let f := funcOf p
  let l := (s.page f).ladle
  match (if x.live && x.tring.getLsbD 63 then s.physical p (bits x.tring 62 56) else none) with
  | none => .next s
  | some cl =>
    let off := bits x.tring 21 0
    match ringAt (s.cluster cl).mem off with
    | none => .next s
    | some r =>
      if r.count == 0 || l.room < recordsSize (l.tokens.length + 1) then .next s
      else
        let (m, pool, data) := r.get (s.cluster cl).mem off (s.cluster cl).pool
        .next ((s.modCluster cl fun c => { c with mem := m, pool := pool }).takeToken f data)

/-- LTIMER expires (R412). -/
def execLadleTimer (p : PartIx) (s : State) : Out :=
  let l := (s.page (funcOf p)).ladle
  if l.ltimer != 0 && l.unsignalled != 0 && l.oldest + l.ltimer.toNat ≤ s.wall then
    .next (s.modPage (funcOf p) fun x => { x with ladle := x.ladle.signal })
  else .next s

/-! ### Registers of a page (R404, R412, R413) -/

/-- A queue size: a power of two from 64 to 65,536 (R404). -/
def queueSize (x : W64) : Option (BitVec 17) :=
  ((List.range 11).map fun i => 2 ^ (i + 6)).find? (fun n => bits x 16 0 == n) |>.map (BitVec.ofNat 17)

/-- A power of two from 512 in 32 bits (R413). -/
def logSize (x : W64) : Option (BitVec 32) :=
  ((List.range 23).map fun i => 2 ^ (i + 9)).find? (fun n => bits x 31 0 == n) |>.map (BitVec.ofNat 32)

/-- LOGCTL (R413): a write of 1 to ARM is ignored while LOGARM is 0. -/
def LogRegs.control (l : LogRegs) (x : W64) (allowed : Bool) : LogRegs :=
  { l with
    lost := l.lost && !x.getLsbD 2
    final := x.getLsbD 1
    arm := if x.getLsbD 0 && !allowed then l.arm else x.getLsbD 0 }

/-- Whether a function's partition permits logging (R393). -/
def State.mayLog (s : State) (f : FuncIx) : Bool := (s.funcPart f).any fun p => (s.part p).logarm

/-- A write of a register of one queue pair (R404). -/
def State.writePair (s : State) (f : FuncIx) (q : Fin 16) (off : Nat) (x : W64) : State :=
  let set (g : QueuePair → QueuePair) : State := (s.modPair f q g).status f false
  match off with
  | 0x00 => set fun y => { y with cqbase := x }
  | 0x08 => match queueSize x with
    | some n => set fun y => { y with cqsize := n }
    | none => s.status f true
  | 0x10 => set fun y => { y with cqtail := x.setWidth 16 }
  | 0x20 => set fun y => { y with cpbase := x }
  | 0x28 => match queueSize x with
    | some n => set fun y => { y with cpsize := n }
    | none => s.status f true
  | 0x30 => (set fun y => { y with cphead := x.setWidth 16 }).flushBacklog f q 65536
  | _ => s.status f true

/-- A write of a register of a function's page (R404, R412, R413). A band register takes QOS_WRITE only (R401). DESIGN
CHOICE (log 74): a value of LSIZE or LOGSIZE outside its form is ignored, and a base is kept as written, whatever its
alignment. -/
def State.writePage (s : State) (f : FuncIx) (off : Nat) (x : W64) : State :=
  let q (n : Nat) : Fin 16 := ⟨n % 16, Nat.mod_lt _ (by decide)⟩
  let modL (g : Ladle → Ladle) : State := (s.modPage f fun p => { p with ladle := g p.ladle }).status f false
  let modG (g : LogRegs → LogRegs) : State := (s.modPage f fun p => { p with log := g p.log }).status f false
  if off < 0x400 then s.writePair f (q (off / 0x40)) (off % 0x40) x
  else if off < 0x480 && off % 8 == 0 then (s.modPair f (q ((off - 0x400) / 8)) fun y => { y with hsb := x }).status f false
  else
    match off with
    | 0x800 => modL fun l => { l with lbase := x }
    | 0x808 => if x.toNat % 4096 == 0 then modL fun l => { l with lsize := x } else s.status f true
    | 0x810 => modL fun l => { l with lhead := x }
    | 0x820 => modL fun l => Ladle.counted { l with lcount := x.setWidth 16 }
    | 0x828 => modL fun l => { l with ltimer := x.setWidth 32 }
    | 0x830 => modL fun l => { l with ldrop := l.ldrop &&& ~~~x.setWidth 32 }
    | 0x900 => modG fun g => { g with base := x }
    | 0x908 => match logSize x with
      | some n => modG fun g => { g with size := n }
      | none => s.status f true
    | 0x910 => modG fun g => { g with head := x.setWidth 32 }
    | 0x920 => modG fun g => g.control x (s.mayLog f)
    | _ => s.status f true

/-- The registers of a queue pair as they are read (R404). -/
def QueuePair.read (y : QueuePair) : Nat → W64
  | 0x00 => y.cqbase
  | 0x08 => y.cqsize.setWidth 64
  | 0x10 => y.cqtail.setWidth 64
  | 0x18 => y.lastcmd ++ y.cqhead.setWidth 32
  | 0x20 => y.cpbase
  | 0x28 => y.cpsize.setWidth 64
  | 0x30 => y.cphead.setWidth 64
  | 0x38 => y.lastcpl ++ y.cptail.setWidth 32
  | _ => 0

/-- A band register as it is read (R401). -/
def Band.read (b : Band) : W64 := BitVec.ofNat 64 (b.weight.toNat * 2 ^ 32 + b.ceil.toNat * 2 ^ 16 + b.floor.toNat)

/-- A register of a function's page as it is read (R404, R401, R412, R413): every offset without a register reads 0. -/
def State.readPage (s : State) (f : FuncIx) (off : Nat) : W64 :=
  let x := s.page f
  let q (n : Nat) : Fin 16 := ⟨n % 16, Nat.mod_lt _ (by decide)⟩
  let band (r : BandReg) : W64 := if (s.bandPart r).isSome then (s.band r).read else 0
  if off < 0x400 then (x.pair (q (off / 0x40))).read (off % 0x40)
  else if off < 0x480 && off % 8 == 0 then (x.pair (q ((off - 0x400) / 8))).hsb
  else if 0x508 ≤ off && off < 0x588 && off % 8 == 0 then band (.link f (q ((off - 0x508) / 8)))
  else
    match off with
    | 0x480 => x.status.setWidth 64
    | 0x488 => s.capbase
    | 0x500 => band (.mem f)
    | 0x800 => x.ladle.lbase
    | 0x808 => x.ladle.lsize
    | 0x810 => x.ladle.lhead
    | 0x818 => x.ladle.ltail
    | 0x820 => x.ladle.lcount.setWidth 64
    | 0x828 => x.ladle.ltimer.setWidth 64
    | 0x830 => x.ladle.ldrop.setWidth 64
    | 0x900 => x.log.base
    | 0x908 => x.log.size.setWidth 64
    | 0x910 => x.log.head.setWidth 64
    | 0x918 => x.log.tail.setWidth 64
    | 0x920 => BitVec.ofNat 64 (boolNat x.log.arm + boolNat x.log.final * 2 + boolNat x.log.lost * 4)
    | _ => 0

/-- A write in the counter window (R421). -/
def State.writeWindow (s : State) (off : Nat) (x : W64) : State :=
  let cl : ClusterIx := ⟨off / 0x100 % 128, Nat.mod_lt _ (by decide)⟩
  let n : Fin 16 := ⟨off % 0x100 / 0x10, by omega⟩
  if off ≥ 0x8000 then s
  else
    match off % 0x10 with
    | 0 => s.modCluster cl fun c => { c with pmc := c.pmc.set n (c.pmc[n].select x) }
    | 8 => s.modCluster cl fun c => { c with pmc := c.pmc.set n { c.pmc[n] with count := x.setWidth 48 } }
    | _ => s

/-- A register of the counter window as it is read (R421). -/
def State.readWindow (s : State) (off : Nat) : W64 :=
  let pair := (s.cluster ⟨off / 0x100 % 128, Nat.mod_lt _ (by decide)⟩).pmc[(⟨off % 0x100 / 0x10, by omega⟩ : Fin 16)]
  if off ≥ 0x8000 then 0
  else
    match off % 0x10 with
    | 0 => pair.sel.setWidth 64
    | 8 => pair.count.setWidth 64
    | _ => 0

/-- REGISTER_WRITE (R7, R404): a register without a row of its own, under its field rules. -/
def execRegisterWrite (t : RegTarget) (value : W64) (s : State) : Out :=
  match t with
  | .control w index => .next (s.writeControl w index.toNat value)
  | .page f offset => .next (s.writePage f offset value)
  | .window offset => .next (s.writeWindow offset value)

/-- LHEAD_WRITE (R412). -/
def execLheadWrite (p : PartIx) (value : W64) (s : State) : Out :=
  .next ((s.modPage (funcOf p) fun x => { x with ladle := { x.ladle with lhead := value } }).status (funcOf p) false)

/-- LOGHEAD_WRITE (R413, R414): writes stalled on a full ring translate again. -/
def execLogheadWrite (p : PartIx) (value : W32) (s : State) : Out :=
  .next ((s.modPage (funcOf p) fun x => { x with log := { x.log with head := value } }).status (funcOf p) false)

/-- LOG_ARM (R413). -/
def execLogArm (p : PartIx) (on : Bool) (s : State) : Out :=
  if on && !(s.part p).logarm then .next (s.status (funcOf p) true)
  else .next ((s.modPage (funcOf p) fun x => { x with log := { x.log with arm := on } }).status (funcOf p) false)

/-- LOG_FINAL (R413). -/
def execLogFinal (p : PartIx) (on : Bool) (s : State) : Out :=
  .next ((s.modPage (funcOf p) fun x => { x with log := { x.log with final := on } }).status (funcOf p) false)

/-- LOGLOST_CLEAR (R413): writing 1 clears the sticky bit, writing 0 leaves it. -/
def execLoglostClear (p : PartIx) (one : Bool) (s : State) : Out :=
  .next ((s.modPage (funcOf p) fun x => { x with log := { x.log with lost := x.log.lost && !one } }).status (funcOf p) false)

/-- HOST_MEM_WRITE (R403): performed at the slices. -/
def execHostMemWrite (f : FuncIx) (addr : W64) (bytes : List Byte) (s : State) : Out := .next (s.busWrite f addr.toNat bytes)

/-! ### Carran (R415 to R417) -/

def State.modPort (s : State) (n : Fin 16) (f : Port → Port) : State := { s with ports := s.ports.set n (f s.ports[n]) }

/-- One more replay of a link: at the 64th it is taken down and reported (R415). -/
def State.replay (s : State) (n : Fin 16) : State :=
  let k := s.ports[n].replays + 1
  if k < 64 then s.modPort n fun p => { p with replays := k }
  else { s.modPort n fun p => { p with replays := k, up := false } with
    mgmt := { s.mgmt with linksDown := s.mgmt.linksDown ++ [n] } }

/-- The answer to a sent flit (log 19): no byte when the peer has performed the write, one when it refused it (R416). -/
def Port.answered (p : Port) (seq : Nat) (refused : Bool) : Port :=
  { p with
    replays := 0
    unacked := p.unacked.filter fun f => f.seq != seq
    refused := if refused && p.unacked.any (fun f => f.seq == seq) then p.refused ++ [seq] else p.refused }

/-- CARRAN_FLIT (R415): a flit that fails its CRC is replayed; an answer frees what it names; the payload of the next
flit in sequence is taken, and one taken before is only acknowledged again. -/
def execCarranFlit (port : Fin 16) (flit : Flit) (s : State) : Out :=
  if !s.ports[port].up then .next s
  else if !flit.crcOk then .next (s.replay port)
  else if flit.payload.length < 2 then .next (s.modPort port fun p => p.answered flit.seq (flit.payload.length == 1))
  else if flit.seq != s.ports[port].expect then .next s
  else .next (s.modPort port fun p => { p with replays := 0, expect := p.expect + 1, received := p.received ++ flit.payload })

/-- CARRAN_REPLAY (R415). -/
def execCarranReplay (port : Fin 16) (s : State) : Out :=
  if !s.ports[port].up || s.ports[port].unacked.isEmpty then .next s else .next (s.replay port)

/-- What a landing write comes to: the state after it, a refusal, or a full log ring (R414, R416). -/
inductive Landing where
  | done (s : State)
  | refused
  | logFull

/-- Write the bytes of a landing write, its dirty pages logged (R383, R416): one that meets a full log ring stalls (R414), and
one whose address is of the aperture is refused, as only copy-engine writes use that (R416). -/
def State.landBytes (s : State) (p : PartIx) (va : Nat) : List Byte → Landing
  | [] => .done s
  | b :: rest =>
    match walk s.mem (s.part p) va needW with
    | .error _ => .refused
    | .ok r =>
      if inAperture (r.entry.pa + (va - r.entry.base)) then .refused
      else if s.logArmed p && !r.host.lg && (s.page (funcOf p)).log.full then .logFull
      else
        let s := if s.logArmed p && !r.host.lg then s.logAppend p (r.entry.ipa + va % r.entry.size) r.host else s
        State.landBytes { s with mem := s.mem.set (r.entry.pa + (va - r.entry.base)) b } p (va + 1) rest

/-- LANDING_ZONE_WRITE (R416, R417): refused beyond SIZE or from another package; otherwise it lands, and BYTES advances. -/
def execLandingZoneWrite (p : PartIx) (zone : Fin 16) (peer : BitVec 16) (offset : Nat) (bytes : List Byte) (s : State) : Out :=
  let e := (s.part p).lztab.toNat + 32 * zone.val
  let base := s.mem.word e 8
  let size := s.mem.word (e + 8) 8
  if (s.part p).lztab == 0 || s.mem.word (e + 16) 2 != peer.toNat || offset + bytes.length > size then .next s
  else
    match s.landBytes p (base + offset) bytes with
    | .refused => .next s
    | .logFull => .next (s.logStall p)
    | .done t =>
      let old := s.mem.word (e + 24) 8
      let new := old + bytes.length
      let t := { t with mem := t.mem.write (e + 24) (natBytes 8 (new % 2 ^ 64)) }
      let late := size != 0 && s.saved.any fun k => k.part == p
      .next (if late then t.modPart p fun x => { x with straggler := x.straggler + (new / size - old / size) } else t)

/-! ### Clocks, boot and attestation (R29, R418, R423) -/

/-- CLOCK_BOOST (R29): at most 2.8 GHz. -/
def execClockBoost (c : CoreIx) (mhz : Nat) (s : State) : Out :=
  if 1 ≤ mhz && mhz ≤ 2800 then .next (s.modCore c fun k => { k with mhz := mhz }) else .next s

/-- THERMAL_THROTTLE (R423): the clock is lowered. -/
def execThermalThrottle (c : CoreIx) (mhz : Nat) (s : State) : Out :=
  if 1 ≤ mhz && mhz < (s.core c).mhz then .next (s.modCore c fun k => { k with mhz := mhz }) else .next s

/-- THERMAL_SHUTDOWN (R423): the module shuts down and reports to the host. -/
def execThermalShutdown (s : State) : Out :=
  .next { s with off := true, mgmt := { s.mgmt with shutdowns := s.mgmt.shutdowns + 1 } }

/-- The number that stands for the configuration image among the stages (log 21). -/
def configStage : Nat := 0xFFFF

/-- A configuration image is used if its signature verifies and its version is not below the stored one (R418). -/
def Mgmt.configure (x : Mgmt) (image signature : List Byte) : Mgmt :=
  if Config.signatureOk image signature && x.rollback ≤ Config.imageVersion image then
    { x with config := image, rollback := Config.imageVersion image }
  else { x with recovery := true }

/-- The version below which a firmware stage is not used (R418). -/
def Mgmt.stageVersion (x : Mgmt) (stage : Nat) : Nat := ((x.stageRollback.find? fun v => v.1 == stage).map Prod.snd).getD 0

/-- A stage is used: it is the one before the next, its digest is measured and its version stored (R418). -/
def Mgmt.useStage (x : Mgmt) (image : List Byte) : Mgmt :=
  { x with
    stage := x.stage + 1
    digests := x.digests ++ [Config.digest image]
    stageRollback := (x.stageRollback.filter fun v => v.1 != x.stage) ++ [(x.stage, Config.imageVersion image)] }

/-- BOOT_VERIFY (R418): the stage that is next is used if its signature verifies and its version is not below the stored one;
otherwise the device is in recovery mode. -/
def execBootVerify (stage : Nat) (image signature : List Byte) (s : State) : Out :=
  if stage == configStage then .next { s with mgmt := s.mgmt.configure image signature }
  else if stage != s.mgmt.stage then .next s
  else if Config.signatureOk image signature && s.mgmt.stageVersion stage ≤ Config.imageVersion image then
    .next { s with mgmt := s.mgmt.useStage image }
  else .next { s with mgmt := { s.mgmt with recovery := true } }

/-- ATTESTATION_REPORT (R418): measured digests, the configuration image's digest and the nonce, signed. -/
def execAttestationReport (nonce : List Byte) (s : State) : Out :=
  let body := s.mgmt.digests.flatten ++ Config.digest s.mgmt.config ++ nonce
  .next { s with mgmt := { s.mgmt with reports := s.mgmt.reports ++ [body ++ Config.sign body] } }

end Sys2Proof.Machine
end

