-- ==== Sys2Proof/Machine/Scalar.lean ====
section
/-! DEFINITION. Scalar integer, address and control-flow class (R89 to R107): opcodes 0x00, 0x07, 0x10 to 0x3E. -/

namespace Sys2Proof.Machine

/-- op gD, gA, gB (R93). -/
def scalar2 (f : W64 → W64 → W64) (d a b : GReg) : Op Unit := do
  ready [.g a, .g b] [.g d]
  let x ← srcG a
  let y ← srcG b
  dstG d (f x y)
  advance

/-- op gD, gA and the immediate group (R94, R97, R98). -/
def scalar1 (f : W64 → W64) (d a : GReg) : Op Unit := do
  ready [.g a] [.g d]
  let x ← srcG a
  dstG d (f x)
  advance

/-- add (R93). -/
def execAdd (d a b : GReg) (s : State) : Out := s.run (scalar2 (fun x y => x + y) d a b)

/-- sub (R93). -/
def execSub (d a b : GReg) (s : State) : Out := s.run (scalar2 (fun x y => x - y) d a b)

/-- mul (R93). -/
def execMul (d a b : GReg) (s : State) : Out := s.run (scalar2 (fun x y => x * y) d a b)

/-- mulhs (R93). -/
def execMulhs (d a b : GReg) (s : State) : Out := s.run (scalar2 (fun x y => BitVec.ofInt 64 (x.toInt * y.toInt / 2 ^ 64)) d a b)

/-- mulhn (R93). -/
def execMulhn (d a b : GReg) (s : State) : Out := s.run (scalar2 (fun x y => BitVec.ofNat 64 (x.toNat * y.toNat / 2 ^ 64)) d a b)

/-- divs (R67, R93). -/
def execDivs (d a b : GReg) (s : State) : Out := s.run (scalar2 (fun x y => (divS x y).1) d a b)

/-- divn (R67, R93). -/
def execDivn (d a b : GReg) (s : State) : Out := s.run (scalar2 (fun x y => (divN x y).1) d a b)

/-- rems (R67, R93). -/
def execRems (d a b : GReg) (s : State) : Out := s.run (scalar2 (fun x y => (divS x y).2) d a b)

/-- remn (R67, R93). -/
def execRemn (d a b : GReg) (s : State) : Out := s.run (scalar2 (fun x y => (divN x y).2) d a b)

/-- and (R93). -/
def execAnd (d a b : GReg) (s : State) : Out := s.run (scalar2 (fun x y => x &&& y) d a b)

/-- or (R93). -/
def execOr (d a b : GReg) (s : State) : Out := s.run (scalar2 (fun x y => x ||| y) d a b)

/-- xor (R93). -/
def execXor (d a b : GReg) (s : State) : Out := s.run (scalar2 (fun x y => x ^^^ y) d a b)

/-- andn (R93). -/
def execAndn (d a b : GReg) (s : State) : Out := s.run (scalar2 (fun x y => x &&& ~~~y) d a b)

/-- shl (R68, R93). -/
def execShl (d a b : GReg) (s : State) : Out := s.run (scalar2 (fun x y => x <<< (y.toNat % 64)) d a b)

/-- shr (R68, R93). -/
def execShr (d a b : GReg) (s : State) : Out := s.run (scalar2 (fun x y => x >>> (y.toNat % 64)) d a b)

/-- sar (R68, R93). -/
def execSar (d a b : GReg) (s : State) : Out := s.run (scalar2 (fun x y => x.sshiftRight (y.toNat % 64)) d a b)

/-- mins (R93). -/
def execMins (d a b : GReg) (s : State) : Out := s.run (scalar2 (fun x y => if x.sle y then x else y) d a b)

/-- minn (R93). -/
def execMinn (d a b : GReg) (s : State) : Out := s.run (scalar2 (fun x y => if x.ule y then x else y) d a b)

/-- maxs (R93). -/
def execMaxs (d a b : GReg) (s : State) : Out := s.run (scalar2 (fun x y => if x.sle y then y else x) d a b)

/-- maxn (R93). -/
def execMaxn (d a b : GReg) (s : State) : Out := s.run (scalar2 (fun x y => if x.ule y then y else x) d a b)

/-- clz (R94). -/
def execClz (d a : GReg) (s : State) : Out := s.run (scalar1 (fun x => BitVec.ofNat 64 (clz64 x)) d a)

/-- ctz (R94). -/
def execCtz (d a : GReg) (s : State) : Out := s.run (scalar1 (fun x => BitVec.ofNat 64 (ctz64 x)) d a)

/-- popc (R94). -/
def execPopc (d a : GReg) (s : State) : Out := s.run (scalar1 (fun x => BitVec.ofNat 64 (popNat 64 x.toNat)) d a)

/-- cmp.cc (R95). -/
def execCmp (c : Cond) (d a b : GReg) (s : State) : Out :=
  s.run (scalar2 (fun x y => if c.holds x y then 1 else 0) d a b)

/-- cmpi.cc (R95): b = Sext(I16, 16). -/
def execCmpi (c : Cond) (d a : GReg) (imm : BitVec 16) (s : State) : Out :=
  s.run (scalar1 (fun x => if c.holds x (imm.signExtend 64) then 1 else 0) d a)

/-- sel (R96): all three sources are read. -/
def execSel (d a b c : GReg) (s : State) : Out := s.run do
  ready [.g a, .g b, .g c] [.g d]
  let x ← srcG a
  let y ← srcG b
  let z ← srcG c
  dstG d (if z != 0 then x else y)
  advance

/-- Extension of the low bits (R97). -/
def ExtW.apply (w : ExtW) (x : W64) : W64 :=
  match w with
  | .s8 => (x.setWidth 8).signExtend 64
  | .s16 => (x.setWidth 16).signExtend 64
  | .s32 => (x.setWidth 32).signExtend 64
  | .n8 => (x.setWidth 8).setWidth 64
  | .n16 => (x.setWidth 16).setWidth 64
  | .n32 => (x.setWidth 32).setWidth 64

/-- ext.w (R97). -/
def execExt (w : ExtW) (d a : GReg) (s : State) : Out := s.run (scalar1 (ExtW.apply w) d a)

/-- addi (R98). -/
def execAddi (d a : GReg) (imm : BitVec 16) (s : State) : Out := s.run (scalar1 (fun x => x + imm.signExtend 64) d a)

/-- andi (R98). -/
def execAndi (d a : GReg) (imm : BitVec 16) (s : State) : Out := s.run (scalar1 (fun x => x &&& imm.setWidth 64) d a)

/-- ori (R98). -/
def execOri (d a : GReg) (imm : BitVec 16) (s : State) : Out := s.run (scalar1 (fun x => x ||| imm.setWidth 64) d a)

/-- xori (R98). -/
def execXori (d a : GReg) (imm : BitVec 16) (s : State) : Out := s.run (scalar1 (fun x => x ^^^ imm.setWidth 64) d a)

/-- shli (R98). -/
def execShli (d a : GReg) (imm : BitVec 16) (s : State) : Out := s.run (scalar1 (fun x => x <<< imm.toNat) d a)

/-- shri (R98). -/
def execShri (d a : GReg) (imm : BitVec 16) (s : State) : Out := s.run (scalar1 (fun x => x >>> imm.toNat) d a)

/-- sari (R98). -/
def execSari (d a : GReg) (imm : BitVec 16) (s : State) : Out := s.run (scalar1 (fun x => x.sshiftRight imm.toNat) d a)

/-- li (R99). -/
def execLi (d : GReg) (imm : BitVec 32) (s : State) : Out := s.run do
  ready [] [.g d]
  dstG d (imm.signExtend 64)
  advance

/-- lih (R99): reads D as well as writing it. -/
def execLih (d : GReg) (imm : BitVec 32) (s : State) : Out := s.run do
  ready [.g d] [.g d]
  let x ← srcG d
  dstG d (imm ++ x.setWidth 32)
  advance

/-- lea (R100). -/
def execLea (d a b : GReg) (sh : BitVec 2) (imm : BitVec 16) (s : State) : Out :=
  s.run (scalar2 (fun x y => x + y <<< sh.toNat + imm.signExtend 64) d a b)

/-- A direct transfer when a condition on its sources holds (R103). -/
def directIf (taken : Bool) (target : BitVec 32) : Op Unit := do
  if taken then
    let t := directTarget (← get).me.ip target
    checkTarget t
    jumpTo t
  else advance

/-- b (R103). -/
def execB (target : BitVec 32) (s : State) : Out := s.run (directIf true target)

/-- bz (R103). -/
def execBz (a : GReg) (target : BitVec 32) (s : State) : Out := s.run do
  ready [.g a] []
  let x ← srcG a
  directIf (x == 0) target

/-- bnz (R103). -/
def execBnz (a : GReg) (target : BitVec 32) (s : State) : Out := s.run do
  ready [.g a] []
  let x ← srcG a
  directIf (x != 0) target

/-- bcc.cc (R103). -/
def execBcc (c : Cond) (a b : GReg) (target : BitVec 32) (s : State) : Out := s.run do
  ready [.g a, .g b] []
  let x ← srcG a
  let y ← srcG b
  directIf (c.holds x y) target

/-- call (R103): the link is the IP of the following instruction. -/
def execCall (d : GReg) (target : BitVec 32) (s : State) : Out := s.run do
  ready [] [.g d]
  let t := directTarget (← get).me.ip target
  let link ← nextIp
  checkTarget t
  dstG d link
  jumpTo t

/-- callr (R104): g[A] is read before D is written. -/
def execCallr (d a : GReg) (s : State) : Out := s.run do
  ready [.g a] [.g d]
  let t ← srcG a
  let link ← nextIp
  checkTarget t
  dstG d link
  jumpTo t

/-- jr (R104). -/
def execJr (a : GReg) (s : State) : Out := s.run do
  ready [.g a] []
  let t ← srcG a
  checkTarget t
  jumpTo t

/-- nop (R106). -/
def execNop (s : State) : Out := s.run advance

/-- yield (R107): no effect on architectural state. The slot waits until every slot that is ready now has issued, or
for 16 cycles. -/
def execYield (s : State) : Out := s.run do
  advance
  modify fun s => s.modMe fun t => { t with yielded := s.readyOthers, yieldTo := s.myCore.cycle + 16 }

end Sys2Proof.Machine
end

