-- ==== Sys2Proof/Machine/Dispatch.lean ====
section
/-! DEFINITION. One arm per constructor of Instr: the meaning it calls. -/

namespace Sys2Proof.Machine

def exec (i : Instr) (s : State) : Host.Outcome State Fault Refusal :=
  match i with
  | .nop => Sys2Proof.Machine.execNop s
  | .rlx => Sys2Proof.Machine.execRlx s
  | .rdc d index => Sys2Proof.Machine.execRdc d index s
  | .wrc d index => Sys2Proof.Machine.execWrc d index s
  | .trap code => Sys2Proof.Machine.execTrap code s
  | .rett => Sys2Proof.Machine.execRett s
  | .yield => Sys2Proof.Machine.execYield s
  | .exit => Sys2Proof.Machine.execExit s
  | .splock a n => Sys2Proof.Machine.execSplock a n s
  | .spunlock d => Sys2Proof.Machine.execSpunlock d s
  | .tlbinvPage a => Sys2Proof.Machine.execTlbinvPage a s
  | .tlbinvRange a b => Sys2Proof.Machine.execTlbinvRange a b s
  | .tlbinvAll => Sys2Proof.Machine.execTlbinvAll s
  | .cxsave d a b => Sys2Proof.Machine.execCxsave d a b s
  | .cxload d a => Sys2Proof.Machine.execCxload d a s
  | .add d a b => Sys2Proof.Machine.execAdd d a b s
  | .sub d a b => Sys2Proof.Machine.execSub d a b s
  | .mul d a b => Sys2Proof.Machine.execMul d a b s
  | .mulhs d a b => Sys2Proof.Machine.execMulhs d a b s
  | .mulhn d a b => Sys2Proof.Machine.execMulhn d a b s
  | .divs d a b => Sys2Proof.Machine.execDivs d a b s
  | .divn d a b => Sys2Proof.Machine.execDivn d a b s
  | .rems d a b => Sys2Proof.Machine.execRems d a b s
  | .remn d a b => Sys2Proof.Machine.execRemn d a b s
  | .and d a b => Sys2Proof.Machine.execAnd d a b s
  | .or d a b => Sys2Proof.Machine.execOr d a b s
  | .xor d a b => Sys2Proof.Machine.execXor d a b s
  | .andn d a b => Sys2Proof.Machine.execAndn d a b s
  | .shl d a b => Sys2Proof.Machine.execShl d a b s
  | .shr d a b => Sys2Proof.Machine.execShr d a b s
  | .sar d a b => Sys2Proof.Machine.execSar d a b s
  | .mins d a b => Sys2Proof.Machine.execMins d a b s
  | .minn d a b => Sys2Proof.Machine.execMinn d a b s
  | .maxs d a b => Sys2Proof.Machine.execMaxs d a b s
  | .maxn d a b => Sys2Proof.Machine.execMaxn d a b s
  | .cmp c d a b => Sys2Proof.Machine.execCmp c d a b s
  | .cmpi c d a imm => Sys2Proof.Machine.execCmpi c d a imm s
  | .sel d a b c => Sys2Proof.Machine.execSel d a b c s
  | .clz d a => Sys2Proof.Machine.execClz d a s
  | .ctz d a => Sys2Proof.Machine.execCtz d a s
  | .popc d a => Sys2Proof.Machine.execPopc d a s
  | .ext w d a => Sys2Proof.Machine.execExt w d a s
  | .addi d a imm => Sys2Proof.Machine.execAddi d a imm s
  | .andi d a imm => Sys2Proof.Machine.execAndi d a imm s
  | .ori d a imm => Sys2Proof.Machine.execOri d a imm s
  | .xori d a imm => Sys2Proof.Machine.execXori d a imm s
  | .shli d a imm => Sys2Proof.Machine.execShli d a imm s
  | .shri d a imm => Sys2Proof.Machine.execShri d a imm s
  | .sari d a imm => Sys2Proof.Machine.execSari d a imm s
  | .li d imm => Sys2Proof.Machine.execLi d imm s
  | .lih d imm => Sys2Proof.Machine.execLih d imm s
  | .lea d a b sh imm => Sys2Proof.Machine.execLea d a b sh imm s
  | .b target => Sys2Proof.Machine.execB target s
  | .bz a target => Sys2Proof.Machine.execBz a target s
  | .bnz a target => Sys2Proof.Machine.execBnz a target s
  | .bcc c a b target => Sys2Proof.Machine.execBcc c a b target s
  | .call d target => Sys2Proof.Machine.execCall d target s
  | .callr d a => Sys2Proof.Machine.execCallr d a s
  | .jr a => Sys2Proof.Machine.execJr a s
  | .vadd d a b ty rm m => Sys2Proof.Machine.execVadd d a b ty rm m s
  | .vsub d a b ty rm m => Sys2Proof.Machine.execVsub d a b ty rm m s
  | .vmul d a b ty rm m => Sys2Proof.Machine.execVmul d a b ty rm m s
  | .vfma d a b c ty rm m => Sys2Proof.Machine.execVfma d a b c ty rm m s
  | .vmin d a b ty m => Sys2Proof.Machine.execVmin d a b ty m s
  | .vmax d a b ty m => Sys2Proof.Machine.execVmax d a b ty m s
  | .vabs d a ty m => Sys2Proof.Machine.execVabs d a ty m s
  | .vneg d a ty m => Sys2Proof.Machine.execVneg d a ty m s
  | .vand d a b ty m => Sys2Proof.Machine.execVand d a b ty m s
  | .vor d a b ty m => Sys2Proof.Machine.execVor d a b ty m s
  | .vxor d a b ty m => Sys2Proof.Machine.execVxor d a b ty m s
  | .vshl d a b ty m => Sys2Proof.Machine.execVshl d a b ty m s
  | .vshr d a b ty m => Sys2Proof.Machine.execVshr d a b ty m s
  | .vsar d a b ty m => Sys2Proof.Machine.execVsar d a b ty m s
  | .vcvt d a dst src rm part m => Sys2Proof.Machine.execVcvt d a dst src rm part m s
  | .vcmp c ty d a b m => Sys2Proof.Machine.execVcmp c ty d a b m s
  | .vsel d a b ty k => Sys2Proof.Machine.execVsel d a b ty k s
  | .vperm d a b m => Sys2Proof.Machine.execVperm d a b m s
  | .vrot d a c m => Sys2Proof.Machine.execVrot d a c m s
  | .vext d a c ty => Sys2Proof.Machine.execVext d a c ty s
  | .vins d a c => Sys2Proof.Machine.execVins d a c s
  | .vrcp d a m => Sys2Proof.Machine.execVrcp d a m s
  | .vrsqrt d a m => Sys2Proof.Machine.execVrsqrt d a m s
  | .vsqrt d a m => Sys2Proof.Machine.execVsqrt d a m s
  | .vdiv d a b m => Sys2Proof.Machine.execVdiv d a b m s
  | .vlog2 d a m => Sys2Proof.Machine.execVlog2 d a m s
  | .vexp2 d a m => Sys2Proof.Machine.execVexp2 d a m s
  | .vredsum d a ty k => Sys2Proof.Machine.execVredsum d a ty k s
  | .vredmin d a ty k => Sys2Proof.Machine.execVredmin d a ty k s
  | .vredmax d a ty k => Sys2Proof.Machine.execVredmax d a ty k s
  | .vmaxi d a ty k => Sys2Proof.Machine.execVmaxi d a ty k s
  | .vmini d a ty k => Sys2Proof.Machine.execVmini d a ty k s
  | .vrng d uni m => Sys2Proof.Machine.execVrng d uni m s
  | .vresid d a b m => Sys2Proof.Machine.execVresid d a b m s
  | .vscan d a ty m => Sys2Proof.Machine.execVscan d a ty m s
  | .vpopc d a ty m => Sys2Proof.Machine.execVpopc d a ty m s
  | .vclass d a classes m => Sys2Proof.Machine.execVclass d a classes m s
  | .vmov d a m => Sys2Proof.Machine.execVmov d a m s
  | .vidx d a m => Sys2Proof.Machine.execVidx d a m s
  | .kand d a b => Sys2Proof.Machine.execKand d a b s
  | .kor d a b => Sys2Proof.Machine.execKor d a b s
  | .kxor d a b => Sys2Proof.Machine.execKxor d a b s
  | .knot d a => Sys2Proof.Machine.execKnot d a s
  | .kmovKk d a => Sys2Proof.Machine.execKmovKk d a s
  | .kmovKg d a => Sys2Proof.Machine.execKmovKg d a s
  | .kmovGk d a => Sys2Proof.Machine.execKmovGk d a s
  | .kpopc d a => Sys2Proof.Machine.execKpopc d a s
  | .rngadv a => Sys2Proof.Machine.execRngadv a s
  | .ld d a b w imm => Sys2Proof.Machine.execLd d a b w imm s
  | .st d a b w imm => Sys2Proof.Machine.execSt d a b w imm s
  | .vld d a addr imm m => Sys2Proof.Machine.execVld d a addr imm m s
  | .vst d a addr imm k => Sys2Proof.Machine.execVst d a addr imm k s
  | .ldsync take d a b imm => Sys2Proof.Machine.execLdsync take d a b imm s
  | .stfill wait d a b imm => Sys2Proof.Machine.execStfill wait d a b imm s
  | .femark full a b imm => Sys2Proof.Machine.execFemark full a b imm s
  | .pref mc a b imm => Sys2Proof.Machine.execPref mc a b imm s
  | .fence kind => Sys2Proof.Machine.execFence kind s
  | .mbput d n => Sys2Proof.Machine.execMbput d n s
  | .mbget d n => Sys2Proof.Machine.execMbget d n s
  | .amo op ty det d a b c => Sys2Proof.Machine.execAmo op ty det d a b c s
  | .amocas ty d a b c => Sys2Proof.Machine.execAmocas ty d a b c s
  | .vamo op ty det d a b c imm k => Sys2Proof.Machine.execVamo op ty det d a b c imm k s
  | .amodrain d => Sys2Proof.Machine.execAmodrain d s
  | .rgn mode a b => Sys2Proof.Machine.execRgn mode a b s
  | .rgnclr => Sys2Proof.Machine.execRgnclr s
  | .rgnadd mode a b => Sys2Proof.Machine.execRgnadd mode a b s
  | .spawn target => Sys2Proof.Machine.execSpawn target s
  | .fork d a target => Sys2Proof.Machine.execFork d a target s
  | .join a => Sys2Proof.Machine.execJoin a s
  | .frame d a n => Sys2Proof.Machine.execFrame d a n s
  | .edge => Sys2Proof.Machine.execEdge s
  | .meet d a id => Sys2Proof.Machine.execMeet d a id s
  | .idset hi d => Sys2Proof.Machine.execIdset hi d s
  | .unmerge d => Sys2Proof.Machine.execUnmerge d s
  | .tmac fl a b c => Sys2Proof.Machine.execTmac fl a b c s
  | .tmacr fl ch d a b c => Sys2Proof.Machine.execTmacr fl ch d a b c s
  | .tzero kind a => Sys2Proof.Machine.execTzero kind a s
  | .tepi ty act rm d a b imm => Sys2Proof.Machine.execTepi ty act rm d a b imm s
  | .taccGet outer d a grp m => Sys2Proof.Machine.execTaccGet outer d a grp m s
  | .taccPut outer d a grp k => Sys2Proof.Machine.execTaccPut outer d a grp k s
  | .tplane d a seq => Sys2Proof.Machine.execTplane d a seq s
  | .tsync => Sys2Proof.Machine.execTsync s
  | .tscale a tag => Sys2Proof.Machine.execTscale a tag s
  | .tscaleKey a idx => Sys2Proof.Machine.execTscaleKey a idx s
  | .gclaim d => Sys2Proof.Machine.execGclaim d s
  | .gdelay d a => Sys2Proof.Machine.execGdelay d a s
  | .gdelayGet d a => Sys2Proof.Machine.execGdelayGet d a s
  | .glaunch d grp => Sys2Proof.Machine.execGlaunch d grp s
  | .glaunchGo d grp => Sys2Proof.Machine.execGlaunchGo d grp s
  | .gcap d grp idx => Sys2Proof.Machine.execGcap d grp idx s
  | .gcapScalar d a => Sys2Proof.Machine.execGcapScalar d a s
  | .greset => Sys2Proof.Machine.execGreset s
  | .grelease => Sys2Proof.Machine.execGrelease s
  | .gmode a => Sys2Proof.Machine.execGmode a s
  | .xgo d a => Sys2Proof.Machine.execXgo d a s
  | .xwait d a => Sys2Proof.Machine.execXwait d a s
  | .xstat d a => Sys2Proof.Machine.execXstat d a s
  | .xcancel d a => Sys2Proof.Machine.execXcancel d a s
  | .send ch d a b => Sys2Proof.Machine.execSend ch d a b s
  | .recv ch d => Sys2Proof.Machine.execRecv ch d s
  | .qmap d a => Sys2Proof.Machine.execQmap d a s
  | .ringput try_ d a b imm => Sys2Proof.Machine.execRingput try_ d a b imm s
  | .ringget d a status imm => Sys2Proof.Machine.execRingget d a status imm s
  | .migrate d a => Sys2Proof.Machine.execMigrate d a s
  | .barArv edge d id => Sys2Proof.Machine.execBarArv edge d id s
  | .barArvRem edge d a id => Sys2Proof.Machine.execBarArvRem edge d a id s
  | .barWait d id => Sys2Proof.Machine.execBarWait d id s
  | .barExp d a id => Sys2Proof.Machine.execBarExp d a id s
  | .barCfg d a b id => Sys2Proof.Machine.execBarCfg d a b id s
  | .grpred op ty edge d a b => Sys2Proof.Machine.execGrpred op ty edge d a b s
  | .barrierReevaluate cl id => Sys2Proof.Machine.execBarrierReevaluate cl id s
  | .remoteBarrierArrival c entry => Sys2Proof.Machine.execRemoteBarrierArrival c entry s
  | .exitRetire w => Sys2Proof.Machine.execExitRetire w s
  | .loadReturn w ix lanes => Sys2Proof.Machine.execLoadReturn w ix lanes s
  | .atomicPerform w ix lane => Sys2Proof.Machine.execAtomicPerform w ix lane s
  | .postedStorePerform c entry lanes => Sys2Proof.Machine.execPostedStorePerform c entry lanes s
  | .postedStoreAck c entry => Sys2Proof.Machine.execPostedStoreAck c entry s
  | .postedRefused c entry => Sys2Proof.Machine.execPostedRefused c entry s
  | .feWaiterService cl word => Sys2Proof.Machine.execFeWaiterService cl word s
  | .bankQueueResend w => Sys2Proof.Machine.execBankQueueResend w s
  | .l1Eviction c line => Sys2Proof.Machine.execL1Eviction c line s
  | .icacheFill c line => Sys2Proof.Machine.execIcacheFill c line s
  | .fetchAhead c line => Sys2Proof.Machine.execFetchAhead c line s
  | .pageWalkComplete c va write => Sys2Proof.Machine.execPageWalkComplete c va write s
  | .detUpdateAccept w ix lane => Sys2Proof.Machine.execDetUpdateAccept w ix lane s
  | .drainMarker p slice => Sys2Proof.Machine.execDrainMarker p slice s
  | .meetArrival w => Sys2Proof.Machine.execMeetArrival w s
  | .meetWindowExpiry cl inst => Sys2Proof.Machine.execMeetWindowExpiry cl inst s
  | .meetRelease w => Sys2Proof.Machine.execMeetRelease w s
  | .skimmerActionComplete cl token => Sys2Proof.Machine.execSkimmerActionComplete cl token s
  | .rgnaddAppend w => Sys2Proof.Machine.execRgnaddAppend w s
  | .dequePop c => Sys2Proof.Machine.execDequePop c s
  | .stealRequest c => Sys2Proof.Machine.execStealRequest c s
  | .stealAnswer c => Sys2Proof.Machine.execStealAnswer c s
  | .tileStart c => Sys2Proof.Machine.execTileStart c s
  | .tileComplete c => Sys2Proof.Machine.execTileComplete c s
  | .tmacrCommand ix => Sys2Proof.Machine.execTmacrCommand ix s
  | .tmacrAck ix => Sys2Proof.Machine.execTmacrAck ix s
  | .tileCap ix => Sys2Proof.Machine.execTileCap ix s
  | .epiStore c seg => Sys2Proof.Machine.execEpiStore c seg s
  | .waveEnd c => Sys2Proof.Machine.execWaveEnd c s
  | .copySector c entry sector words => Sys2Proof.Machine.execCopySector c entry sector words s
  | .transferComplete c entry => Sys2Proof.Machine.execTransferComplete c entry s
  | .transferError c entry => Sys2Proof.Machine.execTransferError c entry s
  | .notifyDelivery w => Sys2Proof.Machine.execNotifyDelivery w s
  | .messageArrival c entry => Sys2Proof.Machine.execMessageArrival c entry s
  | .nack c entry => Sys2Proof.Machine.execNack c entry s
  | .nackRetry c entry => Sys2Proof.Machine.execNackRetry c entry s
  | .targetGone c kind entry => Sys2Proof.Machine.execTargetGone c kind entry s
  | .forwardingRelease c ix => Sys2Proof.Machine.execForwardingRelease c ix s
  | .splockHold c => Sys2Proof.Machine.execSplockHold c s
  | .barTimeout w => Sys2Proof.Machine.execBarTimeout w s
  | .asyncTrapDelivery w => Sys2Proof.Machine.execAsyncTrapDelivery w s
  | .notifyReturn w => Sys2Proof.Machine.execNotifyReturn w s
  | .notifyEnable w en => Sys2Proof.Machine.execNotifyEnable w en s
  | .tseqFlush c => Sys2Proof.Machine.execTseqFlush c s
  | .epiReplay c => Sys2Proof.Machine.execEpiReplay c s
  | .epiDiscard c => Sys2Proof.Machine.execEpiDiscard c s
  | .detmWrite p value => Sys2Proof.Machine.execDetmWrite p value s
  | .detspillWrite p value => Sys2Proof.Machine.execDetspillWrite p value s
  | .detspillnWrite p value => Sys2Proof.Machine.execDetspillnWrite p value s
  | .registerWrite t value => Sys2Proof.Machine.execRegisterWrite t value s
  | .preempt c => Sys2Proof.Machine.execPreempt c s
  | .coreRestore ix c => Sys2Proof.Machine.execCoreRestore ix c s
  | .liveMigration c target => Sys2Proof.Machine.execLiveMigration c target s
  | .doorbell f q tail => Sys2Proof.Machine.execDoorbell f q tail s
  | .launch f q => Sys2Proof.Machine.execLaunch f q s
  | .launchPlacement f q => Sys2Proof.Machine.execLaunchPlacement f q s
  | .resume f q => Sys2Proof.Machine.execResume f q s
  | .kill f q => Sys2Proof.Machine.execKill f q s
  | .hinval f q => Sys2Proof.Machine.execHinval f q s
  | .resolve f q => Sys2Proof.Machine.execResolve f q s
  | .functionReset f => Sys2Proof.Machine.execFunctionReset f s
  | .deviceReset => Sys2Proof.Machine.execDeviceReset s
  | .partitionCreate p node clusters => Sys2Proof.Machine.execPartitionCreate p node clusters s
  | .partitionGrow p clusters => Sys2Proof.Machine.execPartitionGrow p clusters s
  | .partitionShrink p n => Sys2Proof.Machine.execPartitionShrink p n s
  | .partitionDestroy p => Sys2Proof.Machine.execPartitionDestroy p s
  | .clusterDrain cl => Sys2Proof.Machine.execClusterDrain cl s
  | .qosWrite r value => Sys2Proof.Machine.execQosWrite r value s
  | .bandWindow r => Sys2Proof.Machine.execBandWindow r s
  | .ladleTake p => Sys2Proof.Machine.execLadleTake p s
  | .lheadWrite p value => Sys2Proof.Machine.execLheadWrite p value s
  | .ladleTimer p => Sys2Proof.Machine.execLadleTimer p s
  | .logheadWrite p value => Sys2Proof.Machine.execLogheadWrite p value s
  | .logArm p on => Sys2Proof.Machine.execLogArm p on s
  | .logFinal p on => Sys2Proof.Machine.execLogFinal p on s
  | .loglostClear p one => Sys2Proof.Machine.execLoglostClear p one s
  | .hostMemWrite f addr bytes => Sys2Proof.Machine.execHostMemWrite f addr bytes s
  | .carranFlit port flit => Sys2Proof.Machine.execCarranFlit port flit s
  | .carranReplay port => Sys2Proof.Machine.execCarranReplay port s
  | .landingZoneWrite p zone peer offset bytes => Sys2Proof.Machine.execLandingZoneWrite p zone peer offset bytes s
  | .clockBoost c mhz => Sys2Proof.Machine.execClockBoost c mhz s
  | .thermalThrottle c mhz => Sys2Proof.Machine.execThermalThrottle c mhz s
  | .thermalShutdown => Sys2Proof.Machine.execThermalShutdown s
  | .bootVerify stage image signature => Sys2Proof.Machine.execBootVerify stage image signature s
  | .attestationReport nonce => Sys2Proof.Machine.execAttestationReport nonce s
  | .storeComplete w ix lanes => Sys2Proof.Machine.execStoreComplete w ix lanes s

end Sys2Proof.Machine
end

