-- ==== Sys2Proof/Machine/Issue.lean ====
section
/-! DEFINITION. Issue (R24 to R26, R40): which slot issues, what the boundary delivers, fetch and decode; the passing of
cycles; the events that may be due; and the turns of an agenda (log 1, log 2). -/

namespace Sys2Proof.Machine

/-! ### Issuing from a slot -/

/-- Whether the task of a slot's thread has begun, or may begin now (R204, R207): one that an earlier task holds
meanwhile waits. -/
def State.mayBegin (s : State) (w : SlotIx) : Bool :=
  let t := s.thread w
  match s.taskOf t with
  | none => true
  | some k => k.begun || !s.held t

/-- The task of a thread has begun once its first instruction has issued (R204, R215); t is the thread before it. -/
def State.begun (s : State) (t : Thread) : State := s.modTaskOf t fun k => if k.begun then k else { k with begun := true }

/-- The instruction at an IP of a line (R36, R52): decoded, or TRAPAUX of its ILLEGAL_OP, which for an rlx head holds the
head after it. -/
def decodeAt (ps : List Parcel) (ip : W64) : Except W64 Instr :=
  let i := headIx ip
  let h := lineHead ps i
  let tail := lineTail ps i
  match decode h tail with
  | .ok x => .ok x
  | .error _ => .error (if headOp h == 0x01 then rlxAux ps i else headAux h tail)

/-- Fetch, decode and execute the instruction of a slot (R39, R40, R52). -/
def State.fetchAndRun (s : State) (w : SlotIx) : Out :=
  let s := { s with cur := w }
  let ip := s.me.ip
  match s.enter (SlotIx.core w) ip with
  | (s, .fault code aux) => .next (s.takeTrap w false code ip ip aux)
  | (s, .host ipa) =>
    .next (if s.me.wait == .declined ipa then s.takeTrap w false 0x0A ip ip 0 else s.hostWait w ipa)
  | (s, .ok ps) =>
    match decodeAt ps ip with
    | .error aux => .next (s.takeTrap w false 0x01 ip 0 aux)
    | .ok i => exec i s

/-- Whether what a slot tried has not issued: it stalls, it is held, or a skimmer action comes first. -/
def State.unissued (s : State) (w : SlotIx) : Bool :=
  match (s.thread w).wait with
  | .retry _ | .hostStage _ | .held => true
  | .skimmer => (s.cluster (SlotIx.cluster w)).skims.any fun k => k.w == w && k.after == .again
  | _ => false

/-- A slot has issued: those that yielded to it wait for it no longer (R107). -/
def State.tried (s : State) (w : SlotIx) : State :=
  (slotsOf (SlotIx.core w)).foldl (fun s x =>
    if (s.thread x).yielded.getLsbD (SlotIx.num w).val then
      s.modThread x fun t => { t with yielded := t.yielded &&& ~~~BitVec.ofNat 16 (2 ^ (SlotIx.num w).val) }
    else s) s

/-- An instruction has issued (R25, R422), and the core steals afresh (R22). -/
def State.issued (s : State) (w : SlotIx) : State :=
  let c := SlotIx.core w
  ((s.tried w).count c 2 1).modCore c fun k => { k with lastSlot := SlotIx.num w }.stealAfresh

/-- Whether a thread is parked (R26). An arrival on its way to the sieve is not, since it may pass through (R231; log 88). -/
def Thread.parked (t : Thread) : Bool :=
  match t.wait with
  | .sieveIn _ _ _ _ | .sieveOut _ _ _ | .rgnadd _ | .xwait _ _ | .stopped _ => true
  | .bank _ _ | .bankRefused _ _ _ | .skimmer => t.parks
  | .retry why => match why with
    | .recv | .gcap | .barWait _ _ _ | .mbget _ | .queue _ _ => true
    | _ => false
  | _ => false

/-- What follows an attempt of a thread: it counts as an issue unless it has not issued; one that parks is over for those
that yielded to it (R24, R107). -/
def afterTry (w : SlotIx) (t : Thread) : Out → Out
  | .next s => .next (if !s.unissued w then (s.issued w).begun t else if (s.thread w).parked then s.tried w else s)
  | o => o

/-- Whether an attempt has ended in a trap of a thread that was in no handler. -/
def trapped (w : SlotIx) : Out → Bool
  | .next s => (s.thread w).handler || (s.thread w).isStopped
  | _ => false

/-- A slot tries its instruction. -/
def State.attempt (s : State) (w : SlotIx) : Out :=
  if s.mayBegin w then afterTry w (s.thread w) (s.fetchAndRun w) else .next (s.modThread w fun t => { t with wait := .held })

/-- A slot's turn at an instruction boundary (R313, R358): a pending event first, then a trap of the instruction, then a
notification, then the instruction. -/
def State.turn (s : State) (w : SlotIx) : Out :=
  if !s.mayTry w then .next s
  else if s.asyncReady w then .next (s.deliverAsync w)
  else
    let o := s.attempt w
    if s.noteReady w && !trapped w o then .next ((s.withdraw w).deliverNote w) else o

/-- The slots of a core in rotation from the one after the last to issue (R25). -/
def rotation (c : CoreIx) (last : Fin 16) : List SlotIx :=
  (List.range 16).map fun i => slotOf c ⟨(last.val + 1 + i) % 16, Nat.mod_lt _ (by decide)⟩

/-- A core issues from its first ready slot: one that has not issued passes its turn on (R25). -/
def State.coreTurn (s : State) : List SlotIx → Out
  | [] => .next s
  | w :: ws =>
    if !s.mayTry w then s.coreTurn ws
    else
      match s.turn w with
      | .next t => if t.unissued w then t.coreTurn ws else .next t
      | o => o

/-- The rank of issue among the turns of a cycle (log 51). -/
def issueRank : Nat := 3

/-- The cycle reaches the issue turn of a core. -/
def State.issuing (s : State) (c : CoreIx) : State :=
  { s.modCore c fun k => { k with turned := true } with phase := max s.phase issueRank }

/-- The issue turn of a core in this cycle (R25). -/
def State.issueTurn (s : State) (c : CoreIx) (ws : List SlotIx) : Out := (s.issuing c).coreTurn ws

/-! ### Time (R2, R26, R29) -/

/-- Whether a core's clock is gated (R26). -/
def State.gated (s : State) (c : CoreIx) : Bool :=
  (slotsOf c).all (fun w => !(s.thread w).occ || (s.thread w).parked) && (s.core c).griddle.state != .running &&
  (s.core c).tile.queue.isEmpty && (s.core c).tile.running.isNone

/-- The cycles of a core's own clock in n of the nominal one (R29), one at most where cycles pass one by one. -/
def Core.ownCycles (k : Core) (n : Nat) : Nat :=
  let m := (k.spare + n * k.mhz) / 2400
  if n ≤ 1 then min 1 m else m

/-- Cycles pass on a core, n of the nominal clock (R29, R102, R422). A core that has no cycle of its own meanwhile has no turn
either. -/
def Core.pass (k : Core) (n : Nat) (gated : Bool) : Core :=
  let m := k.ownCycles n
  let passes := min m k.passes
  { k with
    cycle := k.cycle + BitVec.ofNat 64 m
    spare := k.spare + n * k.mhz - 2400 * m
    pmc := if m == 0 then k.pmc else mapVector k.pmc (Pmc.pass m gated passes)
    passes := k.passes - passes
    turned := m == 0
    popped := m == 0 }

/-- Nanoseconds of wall-clock time pass, and with them the power-on hours (R2, R412, R420). -/
def State.passWall (s : State) (ns : Nat) : State :=
  let hour := 3600 * 10 ^ 9
  { s with wall := s.wall + ns, mgmt := { s.mgmt with hours := s.mgmt.hours + ((s.wall + ns) / hour - s.wall / hour) } }

/-- A partition whose log overflowed in the final round has every core pre-empted (R414): a core is named until its context
has been saved. -/
def State.forceStops (s : State) : State :=
  match allParts.find? fun p => !(s.part p).stopCopy.isEmpty with
  | none => s
  | some p =>
    let cs := (s.part p).stopCopy
    let s := cs.foldl State.preemptCore s
    s.modPart p fun x => { x with stopCopy := cs.filter fun c => (s.core c).stopping || s.holdsContext c }

/-- What the end of a cycle brings: closes by count and by window (R233, R244), hold limits (R372), then pre-emptions
(R243, R414). -/
def State.endCycle (s : State) : State := s.closeCounts.closeWindows.expireLocks.forceStops

/-- Cycles pass, n of the nominal clock, with a nanosecond each of wall-clock time (R102; log 2), and a cycle of turns
begins. With n = 0 the cores pass that a boosted clock has brought a cycle of their own (R29). -/
def State.passCycles (s : State) (n : Nat) : State :=
  let s := s.endCycle
  let on (cl : ClusterIx) : Bool := (coresOf cl).any s.gated
  let passes (cl : ClusterIx) : Nat := (coresOf cl).foldl (fun m c => max m (min ((s.core c).ownCycles n) (s.core c).passes)) 0
  { s.passWall n with
    cores := Vector.ofFn fun c => (s.core c).pass n (s.gated c)
    clusters := Vector.ofFn fun cl =>
      let k := s.cluster cl
      { k with freed := 0, pmc := mapVector k.pmc (Pmc.pass n (on cl) (passes cl)) }
    now := s.now + max 1 n
    phase := 0
    filled := false
    flip := false }

/-! ### Event rows -/

/-- Whether an instruction of the syntax is an event row: it has no encoding. -/
def isEvent (i : Instr) : Bool := (fieldsOf i).isNone

/-- An event that may be due: a row of the table, STORE_COMPLETE (the runtime of Lean bounds the number of a constructor
that compiled code builds, and this row lies beyond it), or the report of an ending (R229). -/
inductive Due where
  | row (i : Instr)
  | store (w : SlotIx) (i : Nat)
  | report
deriving DecidableEq, Repr

def Due.run (d : Due) (s : State) : Out :=
  match d with
  | .row i => exec i s
  | .store w i => execStoreComplete w i (BitVec.allOnes 64) s
  | .report => .next s.reportEnding

/-- What may be due about a thread. -/
def State.threadEvents (s : State) (w : SlotIx) : List Due :=
  let t := s.thread w
  if !t.occ then []
  else
    [.row (.asyncTrapDelivery w), .row (.notifyDelivery w), .row (.exitRetire w), .row (.bankQueueResend w),
      .row (.meetArrival w), .row (.meetRelease w), .row (.rgnaddAppend w), .row (.barTimeout w)] ++
    t.outs.zipIdx.flatMap fun x =>
      [.row (.loadReturn w x.2 (BitVec.allOnes 64)), .store w x.2] ++
      x.1.todo.flatMap fun l => [.row (.atomicPerform w x.2 l.lane), .row (.detUpdateAccept w x.2 l.lane)]

/-- What may be due about the journal and the retry buffer of a core, or of the k-th saved context of it. -/
def sendEvents (c : CoreIx) (k : Core) (i : Nat) : List Instr :=
  (k.journal.flatMap fun j =>
    let n := 32 * i + j.entry
    [.postedStorePerform c n 0xFFFFFFFF, .postedStoreAck c n, .postedRefused c n, .remoteBarrierArrival c n, .targetGone c true n]) ++
  k.retry.flatMap fun e =>
    let n := 16 * i + e.entry
    [.messageArrival c n, .nack c n, .nackRetry c n, .targetGone c false n]

/-- What may be due about the transfers in a scoreboard, a saved context's too (R322). -/
def transferEvents (k : Core) (i : Nat) : List Instr :=
  (List.finRange 16).flatMap fun e => match k.score[e] with
    | none => []
    | some t =>
      let c := SlotIx.core t.w
      let n := 16 * i + e.val
      [Instr.transferError c n, .copySector c n (t.bytes / 64) 0xFF, .transferComplete c n]

/-- What may be due about the units of a core. -/
def unitEvents (c : CoreIx) (k : Core) : List Instr :=
  [.tileStart c, .tileComplete c, .waveEnd c, .dequePop c, .stealRequest c, .stealAnswer c, .splockHold c] ++
  (k.tile.epi.map fun g => Instr.epiStore c g.seg) ++ transferEvents k 0 ++
  (List.range k.forward.length).map fun i => Instr.forwardingRelease c i

/-- What may be due about a core. -/
def State.coreEvents (s : State) (c : CoreIx) : List Due :=
  (slotsOf c).flatMap s.threadEvents ++ (sendEvents c (s.core c) 0 ++ unitEvents c (s.core c)).map Due.row

/-- What may be due about a cluster. -/
def State.clusterEvents (s : State) (cl : ClusterIx) : List Instr :=
  let k := s.cluster cl
  (k.fe.map fun r => Instr.feWaiterService cl r.word) ++ ((List.range k.inst.length).map fun i => Instr.meetWindowExpiry cl i) ++
  (k.skims.map fun x => Instr.skimmerActionComplete cl x.token) ++ (List.finRange 64).map fun id => Instr.barrierReevaluate cl id

/-- What may be due about a partition and its queues. -/
def State.partEvents (s : State) (p : PartIx) : List Instr :=
  let f := funcOf p
  ((s.part p).drains.flatMap fun _ => (List.finRange 64).map fun n => Instr.drainMarker p n) ++
  [.ladleTake p, .ladleTimer p] ++
  (List.finRange 16).flatMap fun q =>
    [.launch f q, .launchPlacement f q, .resume f q, .kill f q, .hinval f q, .resolve f q]

/-- Every event that the device's own state may make due; what comes from outside it is in no list. -/
def State.dueEvents (s : State) : List Due :=
  let cls := allClusters.filter fun cl => (s.cluster cl).part.isSome
  (cls.flatMap coresOf).flatMap s.coreEvents ++ (cls.flatMap s.clusterEvents ++
  (s.saved.zipIdx.flatMap fun x => sendEvents (coreOf 0 x.1.num) x.1.core (x.2 + 1) ++ transferEvents x.1.core (x.2 + 1)) ++
  ((List.range s.tmacrs.length).flatMap fun i => [Instr.tmacrCommand i, .tmacrAck i, .tileCap i]) ++
  (allParts.filter fun p => (s.part p).live).flatMap s.partEvents).map Due.row ++ if s.endings.isEmpty then [] else [.report]

/-- Whether an event changes anything now. -/
def State.changes (s : State) (e : Due) : Bool :=
  match e.run s with
  | .next t => t != s
  | _ => true

/-- A list in rotation, so that no due event waits for ever. -/
def rotated (xs : List Due) (n : Nat) : List Due := xs.drop (n % xs.length) ++ xs.take (n % xs.length)

/-! ### Turns (log 1) -/

/-- The rank of an event among the turns of one cycle (log 51): a turn of lower rank than one taken before belongs to a
later cycle. It gives the same-cycle rules of R20, R23, R196, R210, R227, R244, R255, R295, R323, R348, R376 and R388. -/
def eventRank (e : Instr) : Nat :=
  match e with
  | .dequePop _ => 1
  | .launch _ _ | .launchPlacement _ _ | .stealAnswer _ | .stealRequest _ | .copySector _ _ _ _ | .transferComplete _ _ | .transferError _ _
  | .waveEnd _ | .rgnaddAppend _ | .epiStore _ _ => 2
  | .drainMarker _ _ => 6
  | .meetArrival _ => 7
  | .exitRetire _ | .kill _ _ => 8
  | .messageArrival _ _ | .meetWindowExpiry _ _ | .splockHold _ | .barrierReevaluate _ _ => 9
  | .preempt _ | .liveMigration _ _ | .clusterDrain _ | .partitionShrink _ _ | .partitionDestroy _ => 10
  | _ => 5

def Due.rank : Due → Nat
  | .row e => eventRank e
  | .store _ _ => 5
  | .report => 8

/-- The rank of a turn; none for one that takes no part in a cycle's order. -/
def Turn.rank : Turn → Option Nat
  | .core _ => some issueRank
  | .event e => some (eventRank e)
  | .report => some 8
  | .flight _ _ | .gather _ _ | .wall _ | .ue _ _ | .corrected _ | .temperature _ _ => none

/-- The core of an issue turn. -/
def Turn.issuer : Turn → Option CoreIx
  | .core c => some c
  | _ => none

/-- The first core that has not had its issue turn in this cycle and has a slot that may try to issue. -/
def State.nextCore (s : State) : Option CoreIx :=
  if s.phase > issueRank then none
  else (List.finRange 1024).find? fun c => !(s.core c).turned && (slotsOf c).any s.mayTry

/-- The first due event, in rotation, whose rank lies in a range. -/
def State.nextEvent (s : State) (low high : Nat) : Option Due :=
  (rotated (s.dueEvents.filter fun e => low ≤ e.rank && e.rank ≤ high) s.now).find? s.changes

/-- A turn that ranks in a cycle. -/
def State.reach (s : State) (rank : Nat) : State := { s with phase := max s.phase rank }

/-- Whether some instance has a window, or some lock a hold count, so that cycles pass one by one (R233, R372). -/
def State.counting (s : State) : Bool :=
  (allClusters.any fun cl => (s.cluster cl).inst.any fun i => i.win != 0) || s.cores.toList.any fun k => k.lock.isSome

/-- Whether no thread may become ready by cycles alone. -/
def State.still (s : State) : Bool :=
  (allClusters.flatMap coresOf).all fun c => (slotsOf c).all fun w =>
    !s.mayIssue w || match (s.thread w).wait with
      | .run | .retry _ | .declined _ => false
      | _ => true

/-- The cycles of the nominal clock that pass in one step of n asked for: none while a boosted core has a cycle of its own
to come, and all of them while nothing can issue and nothing counts. -/
def State.stride (s : State) (n : Nat) : Nat :=
  if s.cores.toList.any fun k => 2400 ≤ k.spare then 0 else if s.counting || !s.still then 1 else max 1 n

/-- The schedule that an empty agenda leaves (log 1): in each cycle one due event that comes before issue, every core's
issue turn, one due event that comes after it, and the next cycle. -/
def State.freeTurn (s : State) : Out :=
  match (if s.phase == 0 && !s.flip then s.nextEvent 0 2 else none), s.nextCore with
  | some e, _ => e.run { s.reach e.rank with flip := true }
  | none, some c => s.issueTurn c (rotation c (s.core c).lastSlot)
  | none, none =>
    match (if s.phase ≤ issueRank then s.nextEvent 5 10 else none) with
    | some e => e.run (s.reach e.rank)
    | none => .next (s.passCycles (s.stride 1))

/-- Whether a thread has an access under way that was checked at issue and will still read a place, or go a way (R141,
R178). -/
def State.checked (s : State) (u : UePlace) : Bool :=
  let reads (a : Access) : Bool := match a.kind with
    | .store => false
    | .load _ _ | .vload _ _ => !a.rlx
    | _ => true
  (List.finRange 16384).any fun w => (s.thread w).outs.any fun a =>
    reads a && a.todo.any fun l => u.hits l || (l.crosses && u == .fabric (SlotIx.core w))

/-- An uncorrectable error appears at a place, or vanishes. DESIGN CHOICE (log 86): none appears where an access that was
checked at issue has still to read. -/
def State.setError (s : State) (u : UePlace) (there : Bool) : State :=
  if there && s.checked u then s
  else { s with ue := (s.ue.filter fun x => x != u) ++ if there then [u] else [] }

/-- Run a turn in the present cycle. An event turn takes event rows only: an instruction comes to run by being fetched. -/
def State.runTurn (s : State) (t : Turn) : Out :=
  match t with
  | .core c => s.issueTurn c (rotation c (s.core c).lastSlot)
  | .flight w k => .next (s.modThread w fun t => { t with flightTo := (s.core (SlotIx.core w)).cycle + BitVec.ofNat 64 k })
  | .event e => if isEvent e then exec e (s.reach (eventRank e)) else .next s
  | .report => .next (s.reach 8).reportEnding
  | .gather cl id => .next (s.setBarrier cl id { s.barrier cl id with gathering := true })
  | .wall ns => .next (s.passWall ns)
  | .ue u there => .next (s.setError u there)
  | .corrected a =>
    let old := ((s.mgmt.corrected.find? fun x => x.1 == a).map Prod.snd).getD 0
    .next { s with mgmt := { s.mgmt with corrected := (s.mgmt.corrected.filter fun x => x.1 != a) ++ [(a, old + 1)] } }
  | .temperature sensor bin =>
    let row := s.mgmt.temps[sensor]
    .next { s with mgmt := { s.mgmt with temps := s.mgmt.temps.set sensor (row.set bin (row[bin] + 1)) } }

/-- Whether a turn belongs to a later cycle than the present one (log 51): cycles are to pass first, its rank lies before
that of a turn taken, or its core has had its issue turn. -/
def State.later (s : State) (a : Act) : Bool :=
  match a.turn.rank with
  | none => false
  | some r => a.cycles != 0 || r < s.phase || a.turn.issuer.any fun c => (s.core c).turned

/-- A turn of the agenda, with what is left of it. Before a cycle ends, and before a turn that comes after issue, every core
that can issue has its turn (R25); then the cycles that the turn asks for pass. -/
def State.take (s : State) (a : Act) (rest : List Act) : Out :=
  let waits := s.later a
  match (if waits || a.turn.rank.any (fun r => issueRank < r) then s.nextCore else none) with
  | some c => s.issueTurn c (rotation c (s.core c).lastSlot)
  | none =>
    if !waits then { s with agenda := rest }.runTurn a.turn
    else .next { s.passCycles (s.stride a.cycles) with agenda := ⟨a.cycles - s.stride a.cycles, a.turn⟩ :: rest }

end Sys2Proof.Machine
end

