-- ==== Sys2Proof/Machine/Step.lean ====
section
/-! DEFINITION. One step of the device (log 1), and the placing of an instruction where the next step fetches it. -/

namespace Sys2Proof.Machine

/-- One step: the next turn of the agenda, or of the schedule that an empty one leaves. A module that is shut down
executes nothing (R423). -/
def step (s : State) : Host.Outcome State Fault Refusal :=
  if s.off then .fault .moduleShutDown
  else
    match s.agenda with
    | [] => s.freeTurn
    | a :: rest => s.take a rest

/-- The line that holds one instruction, at the address of log 1. -/
def wordLine : W64 := 0x10000

/-- The team that the placed instruction's thread belongs to, when slot 0 holds none. -/
def wordTeam : Team where
  part := 0
  team := 0
  teamn := 1
  vector := 0
  priv := false
  cseq := 0
  fn := 0
  q := 0
  fdom := 0
  path := []
  weight := 1
  exited := 0
  used := 1
  spawns := 0
  nextTask := 1
  tasks := [{ id := 0, regions := [], begun := true, member := true, threads := 1, conts := 0 }]
  frames := []
  det := []
  epoch := 0

/-- A thread is placed in slot 0 as a launch places one (R19), in a partition of cluster 0, when the slot holds none. -/
def State.withThread (s : State) : State :=
  if (s.thread 0).occ then s
  else
    let s := (s.modPart 0 fun p => { p with live := true }).modCluster 0 fun c => { c with
      part := some 0, perm := c.perm ||| 1, teams := c.teams ++ [wordTeam] }
    s.place 0 { wordTeam.thread 0 0 with idset := 1 }

/-- The state with the instruction of an opcode-table word as slot 0's next one, in a line that its core's instruction
cache holds, and slot 0's turn next. -/
def State.withFetchWord (s : State) (nbits w : Nat) : State :=
  let p := tableParcels nbits w
  let line : ILine := ⟨wordLine, parcelBytes (lineOf p.1 p.2), none⟩
  let s := { s.withThread with off := false, agenda := [⟨0, .core 0⟩], ue := [], phase := 0, filled := false }
  let s := s.modCore 0 fun c => { c with stopping := false, turned := false, lastSlot := 15, icache := [line] }
  s.modThread 0 fun t => { t with
    ip := wordLine + 1, wait := .run, pend := [], notes := [], frozenBy := none, outs := [], poison := [], handler := false,
    flightTo := 0, yielded := 0 }

end Sys2Proof.Machine
end

