-- ==== Sys2Proof/Safety.lean ====
section
/-! DEFINITION. What a safe step is, and the terms in which the statements speak of an instruction that runs: its
operands are its thread's own, and the state that an instruction leaves once it is done. -/

namespace Sys2Proof

/-- The step of a state goes on: neither a fault nor a refusal. -/
def Safe (s : Machine.State) : Prop := ∃ t, Machine.step s = .next t

/-- The exact value of a finite number. -/
def Num.value : Num → ℚ
  | .fin neg m e => (if neg then -1 else 1) * m * (2 : ℚ) ^ e
  | _ => 0

/-- The magnitude that an encoding without its sign stands for; at the encoding of infinity, the next power of two. -/
def Fmt.magnitude (f : Fmt) (k : Nat) : ℚ :=
  if k / 2 ^ f.fbits = 0 then k * (2 : ℚ) ^ f.qmin
  else (2 ^ f.fbits + k % 2 ^ f.fbits : Nat) * (2 : ℚ) ^ (f.qmin + (k / 2 ^ f.fbits : Nat) - 1)

/-- One number is below another in value (R74): no NaN is, and an infinity is the largest of its sign. -/
def Num.Less : Num → Num → Prop
  | .inf a, .inf b => a = true ∧ b = false
  | .inf a, .fin .. => a = true
  | .fin .., .inf b => b = false
  | .fin a m e, .fin b n k => Num.value (.fin a m e) < Num.value (.fin b n k)
  | _, _ => False

/-- Two numbers have the same value (R74): no NaN has any, and the two zeros are equal. -/
def Num.Same (x y : Num) : Prop := x.isNan = false ∧ y.isNan = false ∧ ¬x.Less y ∧ ¬y.Less x

/-- The order in which a minimum, a maximum or a winner is selected (R74): −0 ranks below +0. -/
def Num.Below : Num → Num → Prop
  | .fin true 0 _, .fin false 0 _ => True
  | x, y => x.Less y

/-- RoundTo of a nonzero finite value of a sign and a magnitude v, with its flags (R71, R72). Let k be the largest encoding
whose magnitude does not exceed v: the result is k, or k + 1 where the mode says so, ties going to the even one. -/
def RoundsTo (f : Fmt) (rm : RMode) (neg : Bool) (v : ℝ) (out : Nat × Flags) : Prop :=
  let top := f.emax * 2 ^ f.fbits
  let mag (k : Nat) : ℝ := (f.magnitude k : ℝ)
  ∃ k < top, mag k ≤ v ∧ (v < mag (k + 1) ∨ k + 1 = top) ∧
    let up : Prop := match rm with
      | .rne => mag k + mag (k + 1) < 2 * v ∨ (mag k + mag (k + 1) = 2 * v ∧ k % 2 = 1)
      | .rz => False
      | .ru => neg = false ∧ mag k ≠ v
      | .rd => neg = true ∧ mag k ≠ v
    ∃ r, (up → r = k + 1) ∧ (¬up → r = k) ∧ out.1 = f.signBit neg + r ∧
      (out.2.getLsbD 4 = true ↔ mag r ≠ v ∨ r = top) ∧
      (out.2.getLsbD 3 = true ↔ mag r ≠ v ∧ r < 2 ^ f.fbits) ∧
      (out.2.getLsbD 2 = true ↔ r = top ∨ mag top ≤ v) ∧
      out.2.getLsbD 0 = false ∧ out.2.getLsbD 1 = false ∧ out.2.getLsbD 5 = false

/-- The tree of R76 over the first 2 ^ levels of the leaves, in f32: each level adds neighbours and rounds once. v is its
result, and fl has the flags of its additions. -/
def TreeSums (levels : Nat) (leaf : Nat → Nat) (v : Nat) (fl : Flags) : Prop :=
  ∃ s : Nat → Nat → Nat, s 0 = leaf ∧ v = s levels 0 ∧
    let sum (k i : Nat) : Nat × Flags := fAdd fmtF32 .rne (s k (2 * i)) (s k (2 * i + 1))
    (∀ k i, s (k + 1) i = (sum k i).1) ∧
    ∀ b, fl.getLsbD b = true ↔ ∃ k i, k < levels ∧ i < 2 ^ (levels - 1 - k) ∧ (sum k i).2.getLsbD b = true

namespace Machine

/-- The registers of an instruction are the thread's own: none names the core queue (R331), none waits for an earlier
instruction (R92, R137), and no source carries a poison mark (R360). -/
def State.plain (s : State) (srcs dsts : List GV) : Prop :=
  (∀ r ∈ srcs ++ dsts, s.me.maps r = false ∧ s.pending s.cur r = false) ∧
  ∀ r ∈ srcs, ∀ p ∈ s.me.poison, p.reg ≠ unified r

/-- The values that source fields read in their order, those that name the core queue from the values at its head (R332). -/
def State.reads (s : State) : List GReg → List W64 → List W64
  | [], _ => []
  | r :: rs, q => if s.me.maps (.g r) then q.headD 0 :: s.reads rs q.tail else s.me.greg r :: s.reads rs q

/-- The IP of the instruction after the current one (R37). -/
def State.following (s : State) : W64 := s.after (SlotIx.core s.cur) s.me.ip

/-- The current thread is updated and goes on at an IP; whatever it waited in is over. -/
def State.goTo (s : State) (ip : W64) (f : Thread → Thread) : State := s.modMe fun t => ({ f t with ip := ip }).settled

/-- The current thread is updated and goes on after its instruction. -/
def State.retire (s : State) (f : Thread → Thread) : State := s.goTo s.following f

/-- An instruction writes a value to a g register, goes on after itself, and changes nothing else of the device. -/
def State.gives (s : State) (i : Instr) (d : GReg) (x : W64) : Prop := exec i s = .next (s.retire fun t => t.setG d x)

/-- When a condition holds of two words (R95). -/
def Condition {w : Nat} (c : Cond) (x y : BitVec w) : Prop :=
  match c with
  | .eq => x.toNat = y.toNat
  | .ne => x.toNat ≠ y.toNat
  | .lts => x.toInt < y.toInt
  | .ges => x.toInt ≥ y.toInt
  | .ltn => x.toNat < y.toNat
  | .gen => x.toNat ≥ y.toNat
  | .les => x.toInt ≤ y.toInt
  | .gts => x.toInt > y.toInt
  | .len => x.toNat ≤ y.toNat
  | .gtn => x.toNat > y.toNat

/-- Element j of a lane under an element type (R47, R109). -/
def elementOf (ty : ETy) (x : W32) (j : Nat) : Nat := x.toNat / 2 ^ (ty.width * j) % 2 ^ ty.width

/-- Element j of lane n of an operand: a g register gives its low bits to every element (R109, R110). -/
def State.element (s : State) (r : GV) (ty : ETy) (n : Fin 32) (j : Nat) : Nat :=
  match r with
  | .g r => (s.me.greg r).toNat % 2 ^ ty.width
  | .v r => elementOf ty s.me.v[r][n] j

/-- An instruction writes a v register under a mask (R111) and goes on after itself, with flags added to VSTAT (R112), and
changes nothing else of the device: what each unmasked lane receives satisfies P, and flag b is added where F b holds. -/
def State.writesLanes (s : State) (i : Instr) (d : VReg) (m : Mask) (P : Fin 32 → W32 → Prop) (F : Nat → Prop) : Prop :=
  ∃ (r : Vec) (fl : Flags), exec i s = .next (s.retire fun t => (t.setV d r).raiseFlags fl) ∧
    (∀ n : Fin 32, ((s.me.kreg m.k).getLsbD n = true → P n r[n]) ∧
      ((s.me.kreg m.k).getLsbD n = false → r[n] = if m.z then 0 else s.me.v[d][n])) ∧
    ∀ b, fl.getLsbD b = true ↔ F b

/-- An element-wise instruction: element j of lane n is f n j, reduced to the element width, and the flags added are those
of the elements of the unmasked lanes (R111, R117). -/
def State.computes (s : State) (i : Instr) (d : VReg) (ty : ETy) (m : Mask) (f : Fin 32 → Nat → Int × Flags) : Prop :=
  s.writesLanes i d m (fun n x => ∀ j < 32 / ty.width, (elementOf ty x j : Int) = (f n j).1 % 2 ^ ty.width)
    fun b => ∃ (n : Fin 32) (j : Nat), (s.me.kreg m.k).getLsbD n = true ∧ j < 32 / ty.width ∧ (f n j).2.getLsbD b = true

/-- An instruction writes a g register, adds flags to VSTAT, goes on after itself, and changes nothing else. -/
def State.givesFlags (s : State) (i : Instr) (d : GReg) (x : W64) (fl : Flags) : Prop :=
  exec i s = .next (s.retire fun t => (t.setG d x).raiseFlags fl)

/-- An instruction writes a k register (R43: k0 discards), adds flags to VSTAT, goes on after itself, and changes nothing
else. -/
def State.givesMask (s : State) (i : Instr) (d : KReg) (x : W32) (fl : Flags) : Prop :=
  exec i s = .next (s.retire fun t => (t.setK d x).raiseFlags fl)

/-- One byte of the device: of HBM, of a cluster's local memory, or of a core's scratchpad (R135). -/
inductive Spot where
  | hbm (pa : Nat)
  | local_ (cl : ClusterIx) (off : Nat)
  | scratch (c : CoreIx) (off : Nat)
deriving DecidableEq, Repr

/-- What a byte of the device holds. -/
def State.byteOf (s : State) : Spot → Byte
  | .hbm pa => s.mem.get pa
  | .local_ cl off => (s.cluster cl).mem.get off
  | .scratch c off => (s.core c).scratch.get off

/-- Where byte k of a lane lies. -/
def Lane.spot (l : Lane) (k : Nat) : Spot :=
  match l.place with
  | .global pa => .hbm (pa + k)
  | .own cl off | .remote cl off => .local_ cl (off + k)
  | .scratch c off => .scratch c (off + k)

/-- A lane that no cache stands before: local, scratchpad, or global of the Slice class in every byte (R203). -/
def Lane.direct (l : Lane) : Prop :=
  match l.place with
  | .global _ => l.slice = List.replicate l.size true
  | _ => True

/-- The number that the bytes of a lane hold. -/
def State.valueAt (s : State) (l : Lane) : Nat := bytesNat ((List.range l.size).map fun k => s.byteOf (l.spot k))

/-- What a core's own threads read of a byte of HBM under a cached region (R140): its L1 line, or the slice. -/
def State.seen (s : State) (c : CoreIx) (pa : Nat) : Byte :=
  match (s.core c).l1.find? fun l => l.pa == pa / 64 with
  | some l => l.bytes.getD (pa % 64) 0
  | none => s.mem.get pa

/-- The current thread tries its instruction: for the first time, after it waited, or after the host declined (R24, R382). -/
def State.trying (s : State) : Prop := s.me.wait = .run ∨ (∃ why, s.me.wait = .retry why) ∨ ∃ ipa, s.me.wait = .declined ipa

/-- Nothing makes an access of the current thread wait: no scratchpad lock of another slot (R372), no transfer in flight
(R150), no earlier tplane or tepi (R251), no posted store of the thread to the same bytes of its own cluster (R138, R166),
and for a load no posted store of the thread to that cluster, the matrix unit's among them (R152, R269). -/
def State.unblocked (s : State) (l : Lane) (store : Bool) : Prop :=
  (∀ c off, l.place = .scratch c off → (s.core (SlotIx.core s.cur)).locksOut s.cur off l.size = false) ∧
  s.scoreHolds (SlotIx.core s.cur) l.va l.size store = false ∧
  s.tileHolds s.cur l = false ∧
  s.behindPosted l = false ∧
  (store = false → ∀ cl off, l.place = .remote cl off → (∀ j ∈ s.myCore.journal, j.w ≠ s.cur ∨ j.cl ≠ cl) ∧
    ∀ g ∈ s.myCore.tile.segments, g.goesTo s.me.uid cl = false)

/-- Nothing makes an access wait, and no store fails on its way through the fabric (R419). -/
def State.unheld (s : State) (l : Lane) (store : Bool) : Prop :=
  s.unblocked l store ∧ (store = true → s.fabricFails s.cur l = false)

/-- The current thread's instruction raises an exact trap and has no other effect (R357); one that was waiting leaves the
list it waited in (R149, R332, R371). -/
def State.traps (s : State) (i : Instr) (code : BitVec 8) (va aux : W64) : Prop :=
  exec i s = .next (s.unqueued.takeTrap s.cur false code s.me.ip va aux)

/-- The current thread's instruction waits and has no other effect: it is executed again later (R24, R26). -/
def State.waits (s : State) (i : Instr) (why : Why) : Prop := exec i s = .next (s.await why)

/-- A thread's task in its team's list, with the tasks before and after it (R205). -/
def State.runs (s : State) (t : Thread) (tm : Team) (before : List Task) (k : Task) (after : List Task) : Prop :=
  s.teamOf t = some tm ∧ tm.tasks = before ++ k :: after ∧ k.id = t.task ∧ ∀ x ∈ before ++ after, x.id ≠ t.task

/-- Records that cover some byte (R201). -/
def covering (rs : List Region) : List Region :=
  rs.filter fun r => (r.extractLsb' 64 40).toNat != 0 && (r.extractLsb' 104 3).toNat != 0

/-- The W and RW records among those (R223). -/
def writing (rs : List Region) : List Region :=
  (covering rs).filter fun r => (r.extractLsb' 104 3).toNat == 2 || (r.extractLsb' 104 3).toNat == 3

/-- A skimmer action is in progress at a core for a thread (R225). -/
def State.skims (s : State) (c : CoreIx) (kind : SkimKind) (rs : List Region) (uid : Nat) (after : SkimThen) : Prop :=
  ∃ k ∈ (s.cluster (CoreIx.cluster c)).skims, k.core = c ∧ k.kind = kind ∧ k.regions = rs ∧ k.uid = uid ∧ k.after = after

/-- A thread has entered its core (R224): it waits for the invalidation of the core's lines within its records, or is free
to issue when its task declares no byte. -/
def State.enteredAt (s : State) (w : SlotIx) : Prop :=
  let t := s.thread w
  let rs := covering (s.records t)
  (rs = [] → t.wait = .run) ∧ (rs ≠ [] → t.wait = .skimmer ∧ s.skims (SlotIx.core w) .invalidate rs t.uid .go)

/-- The task of a thread has arrived at its core (R207, R224): held by an earlier task that conflicts, or entered. -/
def State.arrivedAt (s : State) (w : SlotIx) : Prop :=
  let t := s.thread w
  let held : Prop := ∃ tm before k after, s.runs t tm before k after ∧
    ∃ e ∈ before, ∃ x ∈ e.regions, ∃ y ∈ k.regions, regionsConflict x y = true
  (held → t.wait = .held) ∧ (¬held → s.enteredAt w)

/-- Every earlier access of the current thread is complete, its matrix-unit stores are performed, its posted stores are
acknowledged (R162, R269), and its messages have arrived (log 65). -/
def State.settledIn (s : State) : Prop :=
  s.me.outs = [] ∧ s.tileStores s.cur = false ∧ (∀ j ∈ s.myCore.journal, j.w ≠ s.cur) ∧ s.sendOut s.cur = false

/-- The pending events of a thread, parted where an event of this cycle with a cause code joins them: in the order they
arose, those of one cycle in ascending code (R358). -/
def State.pends (s : State) (w : SlotIx) (code : Nat) (xs ys : List Async) : Prop :=
  (s.thread w).pend = xs ++ ys ∧ (∀ x ∈ xs, x.arose = s.now → x.code.toNat ≤ code) ∧
  ∀ y ∈ ys.head?, y.arose = s.now ∧ code < y.code.toNat

/-- A slot has become free: its thread is gone, and messages for it are discarded (R20, R326). -/
def State.freed (s : State) (w : SlotIx) : Prop :=
  (s.thread w).occ = false ∧ ∀ m ∈ (s.core (SlotIx.core w)).inbox, m.slot ≠ SlotIx.num w

/-- Two threads have the same program-visible state but for their place (R10): registers, identity, IP and control
registers. -/
def Thread.Same (a b : Thread) : Prop :=
  a.g = b.g ∧ a.v = b.v ∧ a.k = b.k ∧ a.ip = b.ip ∧ a.uid = b.uid ∧ a.home = b.home ∧ a.team = b.team ∧ a.teamn = b.teamn ∧
  a.tid = b.tid ∧ a.mul = b.mul ∧ a.idset = b.idset ∧ a.task = b.task ∧ a.priv = b.priv ∧ a.handler = b.handler ∧
  a.meetwin = b.meetwin ∧ a.meetst = b.meetst ∧ a.rngkey = b.rngkey ∧ a.rngctr = b.rngctr ∧ a.vstat = b.vstat ∧
  a.tfmt = b.tfmt ∧ a.tkw = b.tkw ∧ a.qmap = b.qmap ∧ a.trapvec = b.trapvec ∧ a.trapcause = b.trapcause ∧
  a.trapip = b.trapip ∧ a.trapva = b.trapva ∧ a.trapaux = b.trapaux ∧ a.notifyEn = b.notifyEn ∧ a.savedip = b.savedip ∧
  a.notifyActive = b.notifyActive ∧ a.bartmo = b.bartmo ∧ a.framep = b.framep ∧ a.staged = b.staged ∧ a.pend = b.pend ∧
  a.notes = b.notes

/-- A domain control block node has its stated form: its alignment, a level up to 5, and its zero fields (R393). -/
def NodeForm (m : Memory) (a : Nat) : Prop :=
  a % 128 = 0 ∧ m.word a 1 ≤ 5 ∧ m.word (a + 6) 2 = 0 ∧ m.word (a + 0x18) 8 < 16 ∧ m.word (a + 0x5A) 6 = 0 ∧ m.word (a + 0x60) 32 = 0

/-- The nodes from one up to the root, each of the stated form and one level below the next (R393, R394). -/
def NodePath (m : Memory) : List Nat → Prop
  | [] => False
  | [a] => NodeForm m a ∧ m.word a 1 = 0 ∧ m.word (a + 8) 8 = 0
  | a :: b :: rest => NodeForm m a ∧ m.word (a + 8) 8 = b ∧ m.word a 1 = m.word b 1 + 1 ∧ NodePath m (b :: rest)

/-- The memories of the device have their canonical form. -/
structure State.MemoryOk (s : State) : Prop where
  hbm : s.mem.wf = true
  host : s.hostMem.wf = true
  cluster : ∀ cl, (s.cluster cl).mem.wf = true
  scratch : ∀ c, (s.core c).scratch.wf = true
  saved : ∀ k ∈ s.saved, k.core.scratch.wf = true

end Machine

end Sys2Proof
end

