-- ==== Sys2Proof/Certificates/Slice0/Obligations.lean ====
section
/-! DEFINITION. The statements for the provers. Every value that a statement leaves unnamed is one that the specification
leaves open; where a clause rests on a choice of the model, its docstring names the log entry. -/

open Sys2Proof Sys2Proof.Machine

/-- R42 to R49 and R52: the decoder reads back every well-formed instruction from the parcels that the encoder writes, with
every operand at every value; and parcels that decode are those of exactly one well-formed instruction. -/
def Obligations.DecodeEncode : Prop :=
  (∀ (i : Instr) (h : Parcel) (tail : List Parcel), i.wf = true → encode i = some (h :: tail) →
    tail.length = (headTl h).toNat ∧ decode h tail = .ok i) ∧
  ∀ (i : Instr) (h : Parcel) (tail : List Parcel), decode h tail = .ok i → tail.length = (headTl h).toNat →
    i.wf = true ∧ encode i = some (h :: tail)

/-- R33 to R49 and R52: words written out from the encoding tables decode to the instructions they stand for; and a head of
a reserved opcode, or with another tail length than its form's, is rejected whatever else it holds. -/
def Obligations.DecodeWords : Prop :=
  decode 0x4403 [0x1050] = .ok (.add 3 4 5) ∧ decode 0x8BC3 [0x1002, 0x0007] = .ok (.sari 3 4 7) ∧
  decode 0xCC0A [0x0000, 0xFFFB, 0xFFFF] = .ok (.li 10 0xFFFFFFFB) ∧
  decode 0x90E1 [0x8A35, 0x4024] = .ok (.vfma 1 (.v 2) (.v 3) 4 .f32 .rne ⟨2, true⟩) ∧
  decode 0xA007 [0x1462, 0x0010] = .ok (.ld 7 5 6 .n32 0x0010) ∧
  decode 0xE0E3 [0x1692, 0x0080, 0x0000] = .ok (.vst 3 5 (.gat 9) 0 1) ∧
  decode 0xB000 [0x1050, 0x01C6] = .ok (.tmac ⟨true, true, true⟩ 4 5 6) ∧
  decode 0xE4A7 [0x2A83, 0x4269, 0x0010] = .ok (.vamo .fadd .f32 true 7 10 8 9 0x0010 1) ∧
  decode 0xB804 [0x1851, 0x0000] = .ok (.send 1 4 6 5) ∧ decode 0xAC09 [0x2800, 0x0003] = .ok (.meet 9 10 3) ∧
  decode 0xB4A3 [0x0003, 0x0000] = .ok (.glaunchGo 3 true) ∧ decode 0x76C8 [0x1000] = .ok (.xcancel 8 4) ∧
  decode 0x8240 [0x1000, 0x0008] = .ok (.splock 4 8) ∧ decode 0xE908 [0x2400, 0x0023, 0x0000] = .ok (.fork 8 9 0x23) ∧
  ∀ (h : Parcel) (tail : List Parcel),
    let op := (headOp h).toNat
    let reserved : Prop := op = 0x06 ∨ op = 0x0E ∨ op = 0x0F ∨ (0x33 ≤ op ∧ op ≤ 0x37) ∨ op = 0x3F ∨ op = 0x65 ∨
      (0x6F ≤ op ∧ op ≤ 0x7F) ∨ (0x8B ≤ op ∧ op ≤ 0x8F) ∨ (0x94 ≤ op ∧ op ≤ 0x9F) ∨ (0xA8 ≤ op ∧ op ≤ 0xAF) ∨
      (0xB3 ≤ op ∧ op ≤ 0xBF) ∨ (0xC8 ≤ op ∧ op ≤ 0xCF) ∨ op = 0xD7 ∨ (0xDC ≤ op ∧ op ≤ 0xDF) ∨ 0xEB ≤ op
    (reserved → decode h tail = .error .reservedOp) ∧
    (¬reserved → ∃ f, formOf (headOp h) = some f ∧ (headTl h ≠ f.tl → decode h tail = .error .tailLength))

/-- R7, R19, R53, R102, R136, R187 to R189, R257, R258, R280, R302, R339, R400, R401, R404, R412, R413 and R421: the state
after reset. The values that the rules give stand first; that no thread, partition or message is there, and the values of
what no rule names (log 3, log 7, log 21), are the model's. -/
def Obligations.ResetState : Prop :=
  let s := State.reset
  s.MemoryOk ∧
  (∀ w, let t := s.thread w
    t.meetwin = 0 ∧ t.meetst = 0 ∧ t.rngkey = 0 ∧ t.rngctr = 0 ∧ t.vstat = 0 ∧ t.tfmt = 0x10 ∧ t.tkw = 1024 ∧ t.qmap = 0 ∧
      t.trapvec = 0 ∧ t.trapcause = 0 ∧ t.pjent = 0 ∧ t.bartmo = 0 ∧ t.framep = 0 ∧ t.notifyEn = false ∧ t.notifyActive = false ∧
      t.staged = [] ∧ (∀ r : GReg, t.greg r = 0) ∧ t.kreg 0 = 0xFFFFFFFF ∧ (∀ k : KReg, k ≠ 0 → t.kreg k = 0) ∧
      (∀ (r : VReg) (n : Fin 32), t.v[r][n] = 0)) ∧
  (∀ c, let k := s.core c
    k.cycle = 0 ∧ k.tile.fifo = [] ∧ k.tile.epi = [] ∧ k.tile.accsat = false ∧ k.tile.trapen = false ∧
      k.tile.valid = BitVec.allOnes 128 ∧ (∀ i : Fin 8, k.tile.keys[i].valid = false) ∧
      k.griddle = Griddle.reset ∧ k.griddle.state = .idle ∧ k.griddle.holder = none ∧ k.deque = [] ∧ k.journal = [] ∧
      (∀ n : Fin 4, k.mailbox[n].full = false) ∧ (∀ n : Fin 8, k.pmc[n].sel = 0 ∧ k.pmc[n].count = 0) ∧
      ∀ i, k.scratch.get i = 0) ∧
  (∀ cl, let c := s.cluster cl
    (∀ i, c.mem.get i = 0) ∧ (∀ i, c.isFull i = false) ∧ c.inst = [] ∧ c.pool = 0 ∧
      (∀ id : Fin 64, c.barrier[id].exp = 0 ∧ c.barrier[id].arr = 0 ∧ c.barrier[id].phase = 0) ∧
      ∀ n : Fin 16, c.pmc[n].sel = 0 ∧ c.pmc[n].count = 0) ∧
  (∀ p, (s.part p).detm = 0 ∧ (s.part p).detspill = 0 ∧ (s.part p).cap = 0) ∧
  (∀ f, let x := s.page f
    (∀ q : Fin 16, x.pairs[q] = QueuePair.reset ∧ x.pairs[q].cqsize = 0 ∧ x.pairs[q].lastcpl = 0) ∧ x.status = 0 ∧
      (∀ r : Fin 16, x.qoslink[r].weight = 1 ∧ x.qoslink[r].ceil = 4096 ∧ x.qoslink[r].floor = 0) ∧ x.qosmem = ⟨1, 4096, 0, 0⟩ ∧
      x.ladle.lsize = 0 ∧ x.ladle.lcount = 1 ∧ x.ladle.ltimer = 0 ∧ x.ladle.lseq = 0 ∧ x.log.arm = false ∧ x.log.size = 0) ∧
  (s.caps.map fun e => (e.kind, e.unit, e.total, e.free, e.grain)) =
    [(1, 1, 128, 128, 1), (2, 1, 768, 768, 1), (3, 1, 4096, 4096, 1), (4, 1, 16, 16, 1), (5, 1, 16, 16, 1),
     (6, 1, 65536, 65536, 1), (7, 1, 64, 64, 1), (8, 1, 4096, 4096, 1), (9, 1, 2048, 2048, 16)] ∧
  (∀ w, (s.thread w).occ = false) ∧ (∀ p, (s.part p).live = false) ∧ s.off = false ∧ s.agenda = []

/-- R24, R25, R39, R40, R52, R107, R313, R357 and R358, and log 1: the issue turn of a core runs, for the first slot of the
rotation that may issue and has nothing to deliver, the instruction that the bytes of its line decode to, or takes
ILLEGAL_OP, ILLEGAL_LINE or BAD_TARGET; where that has not issued the later slots have their turn; around it a step counts
an issue and lets those go on that yielded to the slot, and only a shut-down module faults. -/
def Obligations.StepRunsDecoded : Prop :=
  (∀ (s : State) (w : SlotIx) (rest : List Act) (bytes : List Byte),
    let c := SlotIx.core w
    let x : State := { ({ s with agenda := rest } : State).issuing c with cur := w }
    let t := s.thread w
    let ps := lineParcels bytes
    let i := t.ip.toNat % 64
    let ready : Prop := t.occ = true ∧ (s.core c).stopping = false ∧ t.frozenBy = none ∧ t.pend = [] ∧ t.notes = [] ∧
      t.flightTo = 0 ∧ t.yielded = 0 ∧ (t.wait = .run ∨ ∃ why, t.wait = .retry why) ∧
      (s.taskOf t = none ∨ ∃ k, s.taskOf t = some k ∧ k.begun = true)
    let first : Prop := s.phase ≤ issueRank ∧ (s.core c).turned = false ∧
      ∀ y ∈ (rotation c (s.core c).lastSlot).takeWhile (· != w), s.mayTry y = false
    let cached : Prop := (s.core c).icache.find? (fun l => l.va == lineBase t.ip) = some ⟨lineBase t.ip, bytes, none⟩ ∧
      UePlace.icache c (lineBase t.ip) ∉ s.ue
    let later := ((rotation c (s.core c).lastSlot).dropWhile (· != w)).drop 1
    let ends (o : Out) : Prop := step s = match afterTry w t o with
      | .next y => if y.unissued w then y.coreTurn later else .next y
      | o => o
    s.off = false → s.agenda = ⟨0, .core c⟩ :: rest → ready → first → cached →
      (lineOk ps = true → 1 ≤ i → i ≤ lineNh ps →
        let h := lineHead ps i
        let tail := lineTail ps i
        (∀ instr, decode h tail = .ok instr → ends (exec instr x)) ∧
        (∀ e, decode h tail = .error e →
          (headOp h ≠ 0x01 → ends (.next (x.takeTrap w false 0x01 t.ip 0 (headAux h tail)))) ∧
          (headOp h = 0x01 → i < lineNh ps →
            ends (.next (x.takeTrap w false 0x01 t.ip 0 ((lineHead ps (i + 1) ++ h).setWidth 64)))) ∧
          (headOp h = 0x01 → i = lineNh ps → ends (.next (x.takeTrap w false 0x01 t.ip 0 (h.setWidth 64)))))) ∧
      (lineOk ps = false → ends (.next (x.takeTrap w false 0x02 t.ip t.ip ((ps.getD 0 0).setWidth 64)))) ∧
      (lineOk ps = true → i = 0 ∨ lineNh ps < i →
        ends (.next (x.takeTrap w false 0x03 t.ip t.ip (BitVec.ofNat 64 (lineNh ps)))))) ∧
  (∀ (y : State) (w : SlotIx) (t : Thread),
    let same (z : State) (v : SlotIx) : Prop := z.thread v = { y.thread v with yielded := (z.thread v).yielded }
    let freed (z : State) (v : SlotIx) : Prop :=
      SlotIx.core v = SlotIx.core w → (z.thread v).yielded.getLsbD (SlotIx.num w).val = false
    ((y.thread w).wait = .run → ∃ z, afterTry w t (.next y) = .next z ∧ z.unissued w = false ∧ (∀ v, same z v ∧ freed z v) ∧
      z.mem = y.mem ∧ (∀ cl, (z.cluster cl).mem = (y.cluster cl).mem) ∧ (z.core (SlotIx.core w)).lastSlot = SlotIx.num w) ∧
    (∀ why, (y.thread w).wait = .retry why → ∃ z, afterTry w t (.next y) = .next z ∧ z.unissued w = true ∧
      (∀ v, same z v ∧ ((y.thread w).parked = true → freed z v)) ∧ ((y.thread w).parked = false → z = y) ∧
      z.mem = y.mem ∧ z.cores = y.cores ∧ z.clusters = y.clusters)) ∧
  ∀ s : State, s.off = true → step s = .fault .moduleShutDown

/-- R135, R136 and R158: every step keeps the canonical form of every memory of the device, from every state, whichever
instruction or event it runs. The form is the model's. -/
def Obligations.StepKeepsMemory : Prop := ∀ s t : State, s.MemoryOk → step s = .next t → t.MemoryOk

/-- R93 and R68, for the instructions of two sources that neither divide nor compare: D receives the exact result reduced
to 64 bits, the IP moves past the instruction, and nothing else of the device changes. -/
def Obligations.ScalarArithmetic : Prop :=
  ∀ (s : State) (d a b : GReg), s.plain [.g a, .g b] [.g d] →
    let x := s.me.greg a
    let y := s.me.greg b
    s.gives (.add d a b) d (BitVec.ofNat 64 (x.toNat + y.toNat)) ∧
    s.gives (.sub d a b) d (BitVec.ofInt 64 ((x.toNat : Int) - y.toNat)) ∧
    s.gives (.mul d a b) d (BitVec.ofNat 64 (x.toNat * y.toNat)) ∧
    s.gives (.mulhs d a b) d (BitVec.ofInt 64 (x.toInt * y.toInt / 2 ^ 64)) ∧
    s.gives (.mulhn d a b) d (BitVec.ofNat 64 (x.toNat * y.toNat / 2 ^ 64)) ∧
    s.gives (.and d a b) d (BitVec.ofNat 64 (x.toNat &&& y.toNat)) ∧
    s.gives (.or d a b) d (BitVec.ofNat 64 (x.toNat ||| y.toNat)) ∧
    s.gives (.xor d a b) d (BitVec.ofNat 64 (x.toNat ^^^ y.toNat)) ∧
    s.gives (.andn d a b) d (x &&& (y ^^^ BitVec.allOnes 64)) ∧
    s.gives (.shl d a b) d (BitVec.ofNat 64 (x.toNat * 2 ^ (y.toNat % 64))) ∧
    s.gives (.shr d a b) d (BitVec.ofNat 64 (x.toNat / 2 ^ (y.toNat % 64))) ∧
    s.gives (.sar d a b) d (BitVec.ofInt 64 (x.toInt / 2 ^ (y.toNat % 64))) ∧
    s.gives (.mins d a b) d (BitVec.ofInt 64 (min x.toInt y.toInt)) ∧
    s.gives (.minn d a b) d (BitVec.ofNat 64 (min x.toNat y.toNat)) ∧
    s.gives (.maxs d a b) d (BitVec.ofInt 64 (max x.toInt y.toInt)) ∧
    s.gives (.maxn d a b) d (BitVec.ofNat 64 (max x.toNat y.toNat))

/-- R67: the quotient and the remainder of every pair of operands, for divs, divn, rems and remn, and nothing else of the
device changes. -/
def Obligations.Division : Prop :=
  ∀ (s : State) (d a b : GReg), s.plain [.g a, .g b] [.g d] →
    let x := s.me.greg a
    let y := s.me.greg b
    (y = 0 → s.gives (.divs d a b) d (BitVec.allOnes 64) ∧ s.gives (.divn d a b) d (BitVec.allOnes 64) ∧
      s.gives (.rems d a b) d x ∧ s.gives (.remn d a b) d x) ∧
    (x.toInt = -2 ^ 63 ∧ y.toInt = -1 → s.gives (.divs d a b) d x ∧ s.gives (.rems d a b) d 0) ∧
    (y ≠ 0 ∧ ¬(x.toInt = -2 ^ 63 ∧ y.toInt = -1) →
      s.gives (.divs d a b) d (BitVec.ofInt 64 (x.toInt.tdiv y.toInt)) ∧
      s.gives (.rems d a b) d (BitVec.ofInt 64 (x.toInt - y.toInt * x.toInt.tdiv y.toInt))) ∧
    (y ≠ 0 →
      s.gives (.divn d a b) d (BitVec.ofNat 64 (x.toNat / y.toNat)) ∧
      s.gives (.remn d a b) d (BitVec.ofNat 64 (x.toNat - y.toNat * (x.toNat / y.toNat))))

/-- R94 to R100: counts, comparisons, selection, extension, immediates and addresses: D receives the value stated, the IP
moves past the instruction, and nothing else of the device changes.
R331 and R332: each source field that names the core queue takes one value from its head, in the order A, B, C, and a
destination that does appends the result; an instruction whose operands the queue cannot serve waits with no effect; the
register file keeps every mapped register. It holds of the instructions of one, two and three g sources that are listed,
whichever of their fields are mapped, of a vector move from a g register, and of the reading of a mailbox. -/
def Obligations.ScalarOther : Prop :=
  (∀ (s : State) (d a b c : GReg) (cc : Cond) (imm : BitVec 16) (wide : BitVec 32) (sh : BitVec 2),
    let x := s.me.greg a
    let y := s.me.greg b
    let sext (n : Nat) : W64 := BitVec.ofInt 64 (((x.toNat + 2 ^ (n - 1)) % 2 ^ n : Nat) - 2 ^ (n - 1) : Int)
    (s.plain [.g a] [.g d] →
      (x = 0 → s.gives (.clz d a) d 64 ∧ s.gives (.ctz d a) d 64) ∧
      (∀ n < 64, 2 ^ (63 - n) ≤ x.toNat ∧ x.toNat < 2 ^ (64 - n) → s.gives (.clz d a) d (BitVec.ofNat 64 n)) ∧
      (∀ n < 64, x.getLsbD n = true ∧ (∀ m < n, x.getLsbD m = false) → s.gives (.ctz d a) d (BitVec.ofNat 64 n)) ∧
      s.gives (.popc d a) d (BitVec.ofNat 64 ((List.range 64).filter x.getLsbD).length) ∧
      s.gives (.ext .s8 d a) d (sext 8) ∧ s.gives (.ext .s16 d a) d (sext 16) ∧ s.gives (.ext .s32 d a) d (sext 32) ∧
      s.gives (.ext .n8 d a) d (BitVec.ofNat 64 (x.toNat % 2 ^ 8)) ∧
      s.gives (.ext .n16 d a) d (BitVec.ofNat 64 (x.toNat % 2 ^ 16)) ∧
      s.gives (.ext .n32 d a) d (BitVec.ofNat 64 (x.toNat % 2 ^ 32)) ∧
      (Condition cc x (BitVec.ofInt 64 imm.toInt) → s.gives (.cmpi cc d a imm) d 1) ∧
      (¬Condition cc x (BitVec.ofInt 64 imm.toInt) → s.gives (.cmpi cc d a imm) d 0) ∧
      s.gives (.addi d a imm) d (BitVec.ofInt 64 (x.toInt + imm.toInt)) ∧
      s.gives (.andi d a imm) d (BitVec.ofNat 64 (x.toNat &&& imm.toNat)) ∧
      s.gives (.ori d a imm) d (BitVec.ofNat 64 (x.toNat ||| imm.toNat)) ∧
      s.gives (.xori d a imm) d (BitVec.ofNat 64 (x.toNat ^^^ imm.toNat)) ∧
      (imm.toNat < 64 →
        s.gives (.shli d a imm) d (BitVec.ofNat 64 (x.toNat * 2 ^ imm.toNat)) ∧
        s.gives (.shri d a imm) d (BitVec.ofNat 64 (x.toNat / 2 ^ imm.toNat)) ∧
        s.gives (.sari d a imm) d (BitVec.ofInt 64 (x.toInt / 2 ^ imm.toNat)))) ∧
    (s.plain [.g a, .g b] [.g d] →
      (Condition cc x y → s.gives (.cmp cc d a b) d 1) ∧
      (¬Condition cc x y → s.gives (.cmp cc d a b) d 0) ∧
      s.gives (.lea d a b sh imm) d (BitVec.ofInt 64 (x.toInt + y.toInt * 2 ^ sh.toNat + imm.toInt))) ∧
    (s.plain [.g a, .g b, .g c] [.g d] →
      (s.me.greg c ≠ 0 → s.gives (.sel d a b c) d x) ∧ (s.me.greg c = 0 → s.gives (.sel d a b c) d y)) ∧
    (s.plain [] [.g d] → s.gives (.li d wide) d (BitVec.ofInt 64 wide.toInt)) ∧
    (s.plain [.g d] [.g d] →
      s.gives (.lih d wide) d (BitVec.ofNat 64 (wide.toNat * 2 ^ 32 + (s.me.greg d).toNat % 2 ^ 32)))) ∧
  ∀ (s : State) (d a b c : GReg) (v : VReg) (n : Fin 4) (imm : BitVec 16), s.me.outs = [] → s.sendOut s.cur = false →
    s.me.wait = .run →
    let mapped (r : GReg) : Bool := s.me.maps (.g r)
    let pushes (r : GReg) : Nat := if mapped r then 1 else 0
    let sound (srcs : List GReg) : Prop := ∀ r ∈ srcs, mapped r = false → ∀ p ∈ s.me.poison, p.reg ≠ unified (.g r)
    let pops (srcs : List GReg) : Nat := (srcs.filter mapped).length
    let leaves (t : State) (rest : List (Option W64)) (r : GReg) (x : W64) : Prop :=
      t.myCore.queue.map QEntry.val = rest ++ (if mapped r then [some x] else []) ∧ t.mem = s.mem ∧
      t.clusters = s.clusters ∧ t.me.ip = s.following ∧ t.me.v = s.me.v ∧
      ∀ q, t.me.greg q = if mapped r = false ∧ r = q ∧ q.val ≠ 0 then x else s.me.greg q
    let queues (i : Instr) (srcs : List GReg) (f : List W64 → W64) : Prop :=
      0 < pops srcs + pushes d → sound srcs →
      (s.myCore.queueTurn s.cur (pops srcs) (pushes d) = false → s.waits i (.queue (pops srcs) (pushes d))) ∧
      (s.myCore.queueTurn s.cur (pops srcs) (pushes d) = true → ∀ (vals : List W64) (rest : List (Option W64)),
        vals.length = pops srcs → s.myCore.queue.map QEntry.val = vals.map some ++ rest →
        ∃ t, exec i s = .next t ∧ leaves t rest d (f (s.reads srcs vals)))
    let two (f : W64 → W64 → W64) (xs : List W64) : W64 := f (xs.getD 0 0) (xs.getD 1 0)
    queues (.add d a b) [a, b] (two fun x y => x + y) ∧ queues (.sub d a b) [a, b] (two fun x y => x - y) ∧
    queues (.mul d a b) [a, b] (two fun x y => x * y) ∧ queues (.and d a b) [a, b] (two fun x y => x &&& y) ∧
    queues (.or d a b) [a, b] (two fun x y => x ||| y) ∧ queues (.xor d a b) [a, b] (two fun x y => x ^^^ y) ∧
    queues (.shl d a b) [a, b] (two fun x y => x <<< (y.toNat % 64)) ∧
    queues (.shr d a b) [a, b] (two fun x y => x >>> (y.toNat % 64)) ∧
    queues (.sel d a b c) [a, b, c] (fun xs => if xs.getD 2 0 ≠ 0 then xs.getD 0 0 else xs.getD 1 0) ∧
    queues (.addi d a imm) [a] (fun xs => BitVec.ofInt 64 ((xs.getD 0 0).toInt + imm.toInt)) ∧
    queues (.ext .n32 d a) [a] (fun xs => BitVec.ofNat 64 ((xs.getD 0 0).toNat % 2 ^ 32)) ∧
    (mapped a = true → s.pending s.cur (.v v) = false →
      (s.myCore.queueTurn s.cur 1 0 = false → s.waits (.vmov v (.g a) ⟨0, false⟩) (.queue 1 0)) ∧
      (s.myCore.queueTurn s.cur 1 0 = true → ∀ k x rest, s.myCore.queue = ⟨k, some x⟩ :: rest →
        ∃ t, exec (.vmov v (.g a) ⟨0, false⟩) s = .next t ∧ t.myCore.queue = rest ∧ t.mem = s.mem ∧ t.me.ip = s.following ∧
          (∀ j : Fin 32, t.me.v[v][j].toNat = x.toNat % 2 ^ 32) ∧ (∀ u, u ≠ v → t.me.v[u] = s.me.v[u]) ∧
          ∀ q, t.me.greg q = s.me.greg q)) ∧
    (mapped d = true → (s.myCore.mailbox[n]).full = true → (s.myCore.mailbox[n]).gets = [] →
      (s.myCore.queueTurn s.cur 0 1 = false → s.waits (.mbget d n) (.queue 0 1)) ∧
      (s.myCore.queueTurn s.cur 0 1 = true →
        ∃ t, exec (.mbget d n) s = .next t ∧ (t.myCore.mailbox[n]).full = false ∧
          leaves t (s.myCore.queue.map QEntry.val) d (s.myCore.mailbox[n]).val))

/-- R103 and R104, with R38 to R40 as checked at the transfer: a taken transfer whose target can be entered continues
there, a call with the following IP in D; one that cannot be entered traps at the transfer with D unwritten; a branch
that is not taken and nop (R106) go on; and so does yield (R107), after which the slot may not issue until every slot that was
ready has issued, or 16 cycles have passed. -/
def Obligations.TransfersOfControl : Prop :=
  ∀ (s : State) (d a b : GReg) (cc : Cond) (i32 : BitVec 32),
    let here := SlotIx.core s.cur
    let direct : W64 := BitVec.ofInt 64 ((s.me.ip.toNat / 64 * 64 : Nat) + 64 * (i32.toInt / 32) + (i32.toNat % 32 : Nat))
    let x := s.me.greg a
    let y := s.me.greg b
    let takes (i : Instr) (target : W64) (f : Thread → Thread) : Prop :=
      (∀ t ps, s.enter here target = (t, .ok ps) → exec i s = .next (t.goTo target f)) ∧
      (∀ t code aux, s.enter here target = (t, .fault code aux) → s.traps i code target aux)
    let passes (i : Instr) : Prop := exec i s = .next (s.retire id)
    passes .nop ∧
    (∃ set : BitVec 16, exec .yield s = .next (s.retire fun t => { t with yielded := set, yieldTo := s.myCore.cycle + 16 }) ∧
      ∀ n : Fin 16, set.getLsbD n = true ↔
        slotOf here n ≠ s.cur ∧ s.mayTry (slotOf here n) = true ∧ (s.thread (slotOf here n)).wait = .run) ∧
    (∀ w, (s.thread w).yielded ≠ 0 → (s.core (SlotIx.core w)).cycle.toNat < (s.thread w).yieldTo.toNat → s.mayTry w = false) ∧
    takes (.b i32) direct id ∧
    (s.plain [.g a] [] →
      (x = 0 → takes (.bz a i32) direct id ∧ passes (.bnz a i32)) ∧
      (x ≠ 0 → takes (.bnz a i32) direct id ∧ passes (.bz a i32)) ∧
      takes (.jr a) x id) ∧
    (s.plain [.g a, .g b] [] →
      (Condition cc x y → takes (.bcc cc a b i32) direct id) ∧ (¬Condition cc x y → passes (.bcc cc a b i32))) ∧
    (s.plain [] [.g d] → takes (.call d i32) direct fun t => t.setG d s.following) ∧
    (s.plain [.g a] [.g d] → takes (.callr d a) x fun t => t.setG d s.following)

/-- R66, R68, R110, R111 and R117 on integer types: the elements of the unmasked lanes receive the exact result reduced to
the element width, no flag is set, and nothing else of the device changes; the logical operations hold for every type.
R72, R117, R118 and R124 on float types: the elements of the unmasked lanes receive the results of the number functions,
whose flags alone are added to VSTAT; absolute value and negation are bit operations without a flag. -/
def Obligations.VectorElements : Prop :=
  (∀ (s : State) (d c : VReg) (a b : GV) (ty : ETy) (rm : RMode) (m : Mask), s.plain [a, b, .v c] [.v d] →
    let x := s.element a ty
    let y := s.element b ty
    let int (v : Nat) : Int := if ty = .n32 ∨ v < 2 ^ (ty.width - 1) then v else (v : Int) - 2 ^ ty.width
    let signed (v : Nat) : Int := if v < 2 ^ (ty.width - 1) then v else (v : Int) - 2 ^ ty.width
    (ty.isFloat = false →
      s.computes (.vadd d a b ty rm m) d ty m (fun n j => ((x n j + y n j : Nat), 0)) ∧
      s.computes (.vsub d a b ty rm m) d ty m (fun n j => ((x n j : Int) - y n j, 0)) ∧
      s.computes (.vmul d a b ty rm m) d ty m (fun n j => ((x n j * y n j : Nat), 0)) ∧
      s.computes (.vfma d a b c ty rm m) d ty m (fun n j => ((x n j * y n j + s.element (.v c) ty n j : Nat), 0)) ∧
      s.computes (.vmin d a b ty m) d ty m (fun n j => (min (int (x n j)) (int (y n j)), 0)) ∧
      s.computes (.vmax d a b ty m) d ty m (fun n j => (max (int (x n j)) (int (y n j)), 0)) ∧
      s.computes (.vabs d a ty m) d ty m (fun n j => (|int (x n j)|, 0)) ∧
      s.computes (.vneg d a ty m) d ty m (fun n j => (-(x n j : Int), 0)) ∧
      s.computes (.vshl d a b ty m) d ty m (fun n j => ((x n j * 2 ^ (y n j % ty.width) : Nat), 0)) ∧
      s.computes (.vshr d a b ty m) d ty m (fun n j => ((x n j / 2 ^ (y n j % ty.width) : Nat), 0)) ∧
      s.computes (.vsar d a b ty m) d ty m (fun n j => (signed (x n j) / 2 ^ (y n j % ty.width), 0))) ∧
    s.computes (.vand d a b ty m) d ty m (fun n j => ((x n j &&& y n j : Nat), 0)) ∧
    s.computes (.vor d a b ty m) d ty m (fun n j => ((x n j ||| y n j : Nat), 0)) ∧
    s.computes (.vxor d a b ty m) d ty m (fun n j => ((x n j ^^^ y n j : Nat), 0))) ∧
  ∀ (s : State) (d c : VReg) (a b : GV) (ty : ETy) (rm : RMode) (m : Mask), s.plain [a, b, .v c] [.v d] →
    let x := s.element a ty
    let y := s.element b ty
    let num (r : Nat × Flags) : Int × Flags := (r.1, r.2)
    (ty.isFloat = true →
      s.computes (.vadd d a b ty rm m) d ty m (fun n j => num (fAdd ty.fmt rm (x n j) (y n j))) ∧
      s.computes (.vsub d a b ty rm m) d ty m (fun n j => num (fSub ty.fmt rm (x n j) (y n j))) ∧
      s.computes (.vmul d a b ty rm m) d ty m (fun n j => num (fMul ty.fmt rm (x n j) (y n j))) ∧
      s.computes (.vfma d a b c ty rm m) d ty m (fun n j => num (fFma ty.fmt rm (x n j) (y n j) (s.element (.v c) ty n j))) ∧
      s.computes (.vmin d a b ty m) d ty m (fun n j => num (fMinMax ty.fmt false (x n j) (y n j))) ∧
      s.computes (.vmax d a b ty m) d ty m (fun n j => num (fMinMax ty.fmt true (x n j) (y n j))) ∧
      s.computes (.vabs d a ty m) d ty m (fun n j => ((x n j % 2 ^ (ty.width - 1) : Nat), 0)) ∧
      s.computes (.vneg d a ty m) d ty m (fun n j => ((x n j + 2 ^ (ty.width - 1) : Nat), 0))) ∧
    (ty = .f32 →
      s.computes (.vdiv d a b m) d ty m (fun n j => num (fDiv (x n j) (y n j))) ∧
      s.computes (.vrcp d a m) d ty m (fun n j => num (fRcp (x n j))) ∧
      s.computes (.vrsqrt d a m) d ty m (fun n j => num (fRsqrt (x n j))) ∧
      s.computes (.vsqrt d a m) d ty m (fun n j => num (fSqrt (x n j))) ∧
      s.computes (.vlog2 d a m) d ty m (fun n j => num (fLog2 (x n j))) ∧
      s.computes (.vexp2 d a m) d ty m (fun n j => num (fExp2 (x n j))))

/-- R71, R72 and R78 to R80: rounding is correct. RoundTo of a nonzero finite number, the quotient of two nonzero finite f32
numbers and the square root of a positive finite one are the exact value rounded once, with the flags of R72 (log 83: an
exact quotient or root is not inexact). The estimates of vrcp and vrsqrt have the 12 bits of the entry for the middle of
the operand's interval; vlog2 and vexp2 are exact where the result is a number that the rule lists, and otherwise one
inexact rounding of a number that is the exact result but for a part in 2^100 (log 12). -/
def Obligations.CorrectRounding : Prop :=
  (∀ f ∈ [fmtF32, fmtBf16, fmtF16], ∀ (rm : RMode) (neg : Bool) (m : Nat) (e : Int), m ≠ 0 →
    RoundsTo f rm neg ((Sys2Proof.Num.fin false m e).value : ℝ) (roundNum f rm (.fin neg m e))) ∧
  (∀ (x y : Nat) (p q : Bool) (m n : Nat) (e k : Int),
    fmtF32.val x = .fin p m e → fmtF32.val y = .fin q n k → m ≠ 0 → n ≠ 0 →
    RoundsTo fmtF32 .rne (p != q) (((Sys2Proof.Num.fin false m e).value / (Sys2Proof.Num.fin false n k).value : ℚ) : ℝ) (fDiv x y)) ∧
  (∀ (x m : Nat) (e : Int), fmtF32.val x = .fin false m e → m ≠ 0 →
    RoundsTo fmtF32 .rne false (Real.sqrt ((Sys2Proof.Num.fin false m e).value : ℝ)) (fSqrt x)) ∧
  (∀ (x m frac : Nat) (p : Bool) (e top : Int), fmtF32.val x = .fin p m e → frac < 2 ^ 23 →
    (Sys2Proof.Num.fin false m e).value = (2 : ℚ) ^ top * (1 + frac / 2 ^ 23) →
    let middle : ℚ := (257 + 2 * (frac / 2 ^ 16 : Nat)) / 256
    (∃ n : Nat, ((2 * n : ℚ) - 1) * middle < 2 ^ 13 ∧ 2 ^ 13 < (2 * n + 1 : ℚ) * middle ∧
      fRcp x = roundNum fmtF32 .rne (.fin p n (-12 - top))) ∧
    (p = false → ∃ n : Nat, ((2 * n : ℚ) - 1) ^ 2 * ((2 : ℚ) ^ (top % 2) * middle) < 2 ^ 26 ∧
      2 ^ 26 < (2 * n + 1 : ℚ) ^ 2 * ((2 : ℚ) ^ (top % 2) * middle) ∧ (fRsqrt x).2 = 0 ∧
      (fmtF32.val (fRsqrt x).1).value = n * (2 : ℚ) ^ (-12 - (top - top % 2) / 2))) ∧
  (∀ (x m : Nat) (e : Int), fmtF32.val x = .fin false m e → m ≠ 0 →
    let v : ℚ := (Sys2Proof.Num.fin false m e).value
    (∀ k : Int, v = (2 : ℚ) ^ k → fLog2 x = roundNum fmtF32 .rne (.fin (decide (k < 0)) k.natAbs 0)) ∧
    ((∀ k : Int, v ≠ (2 : ℚ) ^ k) → (fLog2 x).2.getLsbD 4 = true ∧ ∃ (t : ℝ) (neg : Bool), (neg = true ↔ t < 0) ∧
      |t - Real.logb 2 (v : ℝ)| < (2 : ℝ) ^ (-100 : Int) ∧ RoundsTo fmtF32 .rne neg |t| (fLog2 x))) ∧
  ∀ (x m : Nat) (p : Bool) (e : Int), fmtF32.val x = .fin p m e →
    let v : ℚ := (Sys2Proof.Num.fin p m e).value
    (∀ k : Int, v = k → -149 ≤ k → k < 128 → fExp2 x = roundNum fmtF32 .rne (.fin false 1 k)) ∧
    (v < 128 → v < -149 ∨ (∀ k : Int, v ≠ k) → (fExp2 x).2.getLsbD 4 = true ∧
      ∃ t : ℝ, |t - (2 : ℝ) ^ (v : ℝ)| < (2 : ℝ) ^ (v : ℝ) * (2 : ℝ) ^ (-100 : Int) ∧ RoundsTo fmtF32 .rne false t (fExp2 x))

/-- R64, R65 and R69 to R73: sums, differences, products and fused products of finite operands are RoundTo of a number whose
value is the exact result, and an exact zero has the sign of R71, of a fused product too; an infinity goes through; a NaN
operand and an undefined result give the canonical NaN, invalid for a signalling operand and for an undefined result. -/
def Obligations.FloatArithmetic : Prop :=
  ∀ f ∈ [fmtF32, fmtBf16, fmtF16], ∀ (rm : RMode) (x y z : Nat),
    let a := f.val x
    let b := f.val y
    let c := f.val z
    let nan (invalid : Bool) : Nat × Flags := (f.nan, flagIf invalid flagInv)
    ((a.isNan || b.isNan) = true →
      fAdd f rm x y = nan (a.isSnan || b.isSnan) ∧ fSub f rm x y = nan (a.isSnan || b.isSnan) ∧
      fMul f rm x y = nan (a.isSnan || b.isSnan) ∧ fFma f rm x y z = nan (a.isSnan || b.isSnan || c.isSnan)) ∧
    (∀ p q, (a = .inf p ∧ (b = .inf q ∨ ∃ m e, b = .fin q m e ∧ m ≠ 0)) ∨ (b = .inf q ∧ ∃ m e, a = .fin p m e ∧ m ≠ 0) →
      (c.isNan = true → fFma f rm x y z = nan c.isSnan) ∧
      (∀ r, c = .inf r → fFma f rm x y z = if r = (p != q) then (f.inf r, 0) else nan true) ∧
      (∀ r l i, c = .fin r l i → fFma f rm x y z = (f.inf (p != q), 0))) ∧
    (∀ p q, a = .inf p → b = .inf q →
      fAdd f rm x y = (if p = q then (f.inf p, 0) else nan true) ∧
      fSub f rm x y = (if p = q then nan true else (f.inf p, 0)) ∧ fMul f rm x y = (f.inf (p != q), 0)) ∧
    (∀ p q m e, a = .inf p → b = .fin q m e →
      fAdd f rm x y = (f.inf p, 0) ∧ fSub f rm x y = (f.inf p, 0) ∧ fAdd f rm y x = (f.inf p, 0) ∧
      fSub f rm y x = (f.inf (!p), 0) ∧ fMul f rm x y = (if m = 0 then nan true else (f.inf (p != q), 0)) ∧
      fMul f rm y x = fMul f rm x y ∧ (m = 0 → fFma f rm x y z = nan true ∧ fFma f rm y x z = nan true)) ∧
    (∀ p q m n e k, a = .fin p m e → b = .fin q n k →
      (∃ u, u.value = a.value + b.value ∧ fAdd f rm x y = roundNum f rm u) ∧
      (∃ u, u.value = a.value - b.value ∧ fSub f rm x y = roundNum f rm u) ∧
      (∃ u, u.value = a.value * b.value ∧ fMul f rm x y = roundNum f rm u) ∧
      (a.value + b.value = 0 → fAdd f rm x y = (f.zero (if m = 0 ∧ p = q then p else rm == .rd), 0)) ∧
      (a.value - b.value = 0 → fSub f rm x y = (f.zero (if m = 0 ∧ p ≠ q then p else rm == .rd), 0)) ∧
      (a.value * b.value = 0 → fMul f rm x y = (f.zero (p != q), 0)) ∧
      (c.isNan = true → fFma f rm x y z = nan c.isSnan) ∧
      (∀ r, c = .inf r → fFma f rm x y z = (f.inf r, 0)) ∧
      ∀ r l i, c = .fin r l i →
        (∃ u, u.value = a.value * b.value + c.value ∧ fFma f rm x y z = roundNum f rm u) ∧
        (a.value * b.value + c.value = 0 → fFma f rm x y z = (f.zero (if l = 0 ∧ r = (p != q) then r else rm == .rd), 0)))

/-- R72, R74, R75, R78 to R80 and R118: the answers of the number functions on special operands, the minimum and maximum,
and the conversions. -/
def Obligations.FloatSpecials : Prop :=
  (∀ f ∈ [fmtF32, fmtBf16, fmtF16], ∀ (max : Bool) (x y : Nat),
    let a := f.val x
    let b := f.val y
    let r := fMinMax f max x y
    r.2 = flagIf (a.isSnan || b.isSnan) flagInv ∧
    (a.isNan = true → b.isNan = true → r.1 = f.nan) ∧
    (a.isNan = true → b.isNan = false → r.1 = y) ∧
    (a.isNan = false → b.isNan = true → r.1 = x) ∧
    (a.isNan = false → b.isNan = false →
      let better : Prop := if max then a.Below b else b.Below a
      (better → r.1 = y) ∧ (¬better → r.1 = x))) ∧
  (∀ (dst src : ETy) (rm : RMode) (x : Nat),
    let v := src.fmt.val x
    let r := convert dst src rm x
    let n := src.int x
    (src.isFloat = true → dst.isFloat = true →
      (v.isNan = true → r = (dst.fmt.nan, flagIf v.isSnan flagInv)) ∧ (v.isNan = false → r = roundNum dst.fmt rm v)) ∧
    (src.isFloat = false → dst.isFloat = true → r = roundNum dst.fmt rm (.fin (n < 0) n.natAbs 0)) ∧
    (src.isFloat = false → dst.isFloat = false →
      r = (wrapNat dst.width (max dst.bounds.1 (min dst.bounds.2 n)), 0)) ∧
    (src.isFloat = true → dst.isFloat = false →
      (v.isNan = true → r = (0, flagInv)) ∧
      (∀ p, v = .inf p → r = (wrapNat dst.width (if p then dst.bounds.1 else dst.bounds.2), flagInv)) ∧
      ∀ p m e, v = .fin p m e →
        let low := ⌊v.value⌋
        let up : Prop := match rm with
          | .rne => 1 < 2 * (v.value - low) ∨ (2 * (v.value - low) = 1 ∧ low % 2 = 1)
          | .rz => p = true ∧ v.value ≠ low
          | .ru => v.value ≠ low
          | .rd => False
        ∃ k : Int, (up → k = low + 1) ∧ (¬up → k = low) ∧
          (k < dst.bounds.1 → r = (wrapNat dst.width dst.bounds.1, flagInv)) ∧
          (k > dst.bounds.2 → r = (wrapNat dst.width dst.bounds.2, flagInv)) ∧
          (dst.bounds.1 ≤ k → k ≤ dst.bounds.2 → (v.value = k → r = (wrapNat dst.width k, 0)) ∧
            (v.value ≠ k → r = (wrapNat dst.width k, flagInx))))) ∧
  ∀ x y : Nat,
    let f := fmtF32
    let a := f.val x
    let b := f.val y
    let invalid : Nat × Flags := (f.nan, flagInv)
    (∀ sn, a = .nan sn → ∀ r ∈ [fRcp x, fRsqrt x, fSqrt x, fLog2 x, fExp2 x], r = (f.nan, flagIf sn flagInv)) ∧
    ((a.isNan || b.isNan) = true → fDiv x y = (f.nan, flagIf (a.isSnan || b.isSnan) flagInv)) ∧
    (a = .inf true → fRcp x = (f.zero true, 0) ∧ fRsqrt x = invalid ∧ fSqrt x = invalid ∧ fLog2 x = invalid ∧
      fExp2 x = (f.zero false, 0)) ∧
    (a = .inf false → fRcp x = (f.zero false, 0) ∧ fRsqrt x = (f.zero false, 0) ∧ fSqrt x = (f.inf false, 0) ∧
      fLog2 x = (f.inf false, 0) ∧ fExp2 x = (f.inf false, 0)) ∧
    (∀ p e, a = .fin p 0 e → fRcp x = (f.inf p, flagDz) ∧ fRsqrt x = (f.inf false, flagDz) ∧ fSqrt x = (f.zero p, 0) ∧
      fLog2 x = (f.inf true, flagDz)) ∧
    (∀ m e, a = .fin true m e → m ≠ 0 → fRsqrt x = invalid ∧ fSqrt x = invalid ∧ fLog2 x = invalid) ∧
    (∀ p q, a = .inf p → b = .inf q → fDiv x y = invalid) ∧
    (∀ p q m e, a = .inf p → b = .fin q m e → fDiv x y = (f.inf (p != q), 0) ∧ fDiv y x = (f.zero (p != q), 0)) ∧
    (∀ p q m n e k, a = .fin p m e → b = .fin q n k →
      (m = 0 → n = 0 → fDiv x y = invalid) ∧ (m ≠ 0 → n = 0 → fDiv x y = (f.inf (p != q), flagDz)) ∧
      (m = 0 → n ≠ 0 → fDiv x y = (f.zero (p != q), 0))) ∧
    ∀ p m e, a = .fin p m e → a.value ≥ 128 → fExp2 x = (f.inf false, flagOvf ||| flagInx)

/-- R119, R121, R122, R123 and R128: lanes move whole, a conversion writes the elements its part names, and a population
count is taken of every element; nothing else of the device changes. -/
def Obligations.VectorMoves : Prop :=
  ∀ (s : State) (d a b : VReg) (c g : GReg) (x y : GV) (ty src : ETy) (rm : RMode) (part : BitVec 6) (k : KReg) (m : Mask),
    let lane (r : VReg) (n : Nat) : W32 := s.me.v[r][Fin.ofNat 32 n]
    let count := (s.me.greg c).toNat
    (s.plain [x] [.v d] → s.computes (.vmov d x m) d .s32 m fun n j => (s.element x .s32 n j, 0)) ∧
    (s.plain [.g c] [.v d] → s.computes (.vidx d c m) d .s32 m fun n _ => ((n.val + count : Nat), 0)) ∧
    (s.plain [x, y] [.v d] → s.computes (.vsel d x y ty k) d ty ⟨0, false⟩ fun n j =>
      (if (s.me.kreg k).getLsbD n = true then s.element x ty n j else s.element y ty n j, 0)) ∧
    (s.plain [.v a, .v b] [.v d] →
      s.writesLanes (.vperm d a b m) d m (fun n r => r = lane a s.me.v[b][n].toNat) fun _ => False) ∧
    (s.plain [.v a, .g c] [.v d] →
      s.writesLanes (.vrot d a c m) d m (fun n r => r = lane a (n.val + count)) fun _ => False) ∧
    (s.plain [.v a, .g c] [.g g] →
      s.gives (.vext g a c .s32) g (BitVec.ofInt 64 (lane a count).toInt) ∧
      s.gives (.vext g a c .n32) g (BitVec.ofNat 64 (lane a count).toNat) ∧
      s.gives (.vext g a c .f32) g (BitVec.ofNat 64 (lane a count).toNat)) ∧
    (s.plain [.g g, .g c] [.v d] → s.computes (.vins d g c) d .s32 ⟨0, false⟩ fun n _ =>
      (if n.val = count % 32 then (s.me.greg g).toNat else (lane d n).toNat, 0)) ∧
    (s.plain [.v a] [.v d] →
      (s.computes (.vpopc d a ty m) d ty m fun n j =>
        (((List.range ty.width).filter (s.element (.v a) ty n j).testBit).length, 0)) ∧
      let ns := 32 * (32 / src.width)
      let nd := 32 * (32 / ty.width)
      let from? (e : Nat) : Option Nat :=
        if nd ≤ ns then some (part.toNat * nd + e)
        else if part.toNat * ns ≤ e ∧ e < part.toNat * ns + ns then some (e - part.toNat * ns) else none
      let cvt (i : Nat) : Nat × Flags :=
        convert ty src rm (elementOf src (lane a (i / (32 / src.width))) (i % (32 / src.width)))
      let index (n : Fin 32) (j : Nat) : Nat := n.val * (32 / ty.width) + j
      part.toNat < max (ns / nd) (nd / ns) →
      ∃ (r : Vec) (fl : Flags),
        exec (.vcvt d a ty src rm part m) s = .next (s.retire fun t => (t.setV d r).raiseFlags fl) ∧
        (∀ (n : Fin 32), ∀ j < 32 / ty.width,
          (from? (index n j) = none → elementOf ty r[n] j = elementOf ty (lane d n) j) ∧
          ∀ i, from? (index n j) = some i →
            ((s.me.kreg m.k).getLsbD n = true → elementOf ty r[n] j = (cvt i).1) ∧
            ((s.me.kreg m.k).getLsbD n = false → elementOf ty r[n] j = if m.z then 0 else elementOf ty (lane d n) j)) ∧
        ∀ b, fl.getLsbD b = true ↔ ∃ (n : Fin 32) (j i : Nat), j < 32 / ty.width ∧ from? (index n j) = some i ∧
          (s.me.kreg m.k).getLsbD n = true ∧ (cvt i).2.getLsbD b = true)

/-- R133: the mask logic instructions write whole masks and are not masked; k0 reads all ones and discards writes; kmov
(R134) moves masks to and from g registers. Nothing else of the device changes. -/
def Obligations.MaskLogic : Prop :=
  (∀ (s : State) (d a b : KReg) (g : GReg),
    let x := s.me.kreg a
    let y := s.me.kreg b
    let writes (i : Instr) (r : W32) : Prop := exec i s = .next (s.retire fun t => t.setK d r)
    writes (.kand d a b) (BitVec.ofNat 32 (x.toNat &&& y.toNat)) ∧
    writes (.kor d a b) (BitVec.ofNat 32 (x.toNat ||| y.toNat)) ∧
    writes (.kxor d a b) (BitVec.ofNat 32 (x.toNat ^^^ y.toNat)) ∧
    writes (.knot d a) (BitVec.ofNat 32 (2 ^ 32 - 1 - x.toNat)) ∧
    writes (.kmovKk d a) x ∧
    (s.plain [.g g] [] → writes (.kmovKg d g) (BitVec.ofNat 32 ((s.me.greg g).toNat % 2 ^ 32))) ∧
    (s.plain [] [.g g] →
      s.gives (.kpopc g a) g (BitVec.ofNat 64 ((List.range 32).filter x.getLsbD).length) ∧
      s.gives (.kmovGk g a) g (BitVec.ofNat 64 x.toNat))) ∧
  ∀ (t : Thread) (d r : KReg) (x : W32),
    t.kreg 0 = 0xFFFFFFFF ∧ t.setK 0 x = t ∧ (d ≠ 0 → (t.setK d x).kreg r = if d = r then x else t.kreg r)

/-- R120 and R128: a comparison and a classification write one bit for each lane under the mask, with the flags of the
unmasked lanes; nothing else of the device changes. -/
def Obligations.VectorComparisons : Prop :=
  ∀ (s : State) (cc : Cond) (fc : FCond) (d : KReg) (a b : GV) (v : VReg) (classes : BitVec 5) (m : Mask),
    let x (n : Fin 32) : W32 := BitVec.ofNat 32 (s.element a .s32 n 0)
    let y (n : Fin 32) : W32 := BitVec.ofNat 32 (s.element b .s32 n 0)
    let p (n : Fin 32) := fmtF32.val (x n).toNat
    let q (n : Fin 32) := fmtF32.val (y n).toNat
    let on (n : Fin 32) : Prop := (s.me.kreg m.k).getLsbD n = true
    let sets (i : Instr) (holds : Fin 32 → Prop) (invalid : Fin 32 → Prop) : Prop :=
      ∃ (r : W32) (fl : Flags), s.givesMask i d r fl ∧
        (∀ n : Fin 32, (on n → (r.getLsbD n = true ↔ holds n)) ∧
          (¬on n → r.getLsbD n = (!m.z && (s.me.kreg d).getLsbD n))) ∧
        ((∃ n, on n ∧ invalid n) → fl = flagInv) ∧ ((¬∃ n, on n ∧ invalid n) → fl = 0)
    (s.plain [a, b] [] →
      (∀ ty, ty = .s32 ∨ ty = .n32 → sets (.vcmp (.int cc) ty d a b m) (fun n => Condition cc (x n) (y n)) fun _ => False) ∧
      sets (.vcmp (.flt fc) .f32 d a b m)
        (fun n => match fc with
          | .feq => (p n).Same (q n)
          | .fne => ¬(p n).Same (q n)
          | .flt => (p n).Less (q n)
          | .fle => (p n).Less (q n) ∨ (p n).Same (q n)
          | .fgt => (q n).Less (p n)
          | .fge => (q n).Less (p n) ∨ (p n).Same (q n)
          | .funo => (p n).isNan = true ∨ (q n).isNan = true
          | .ford => (p n).isNan = false ∧ (q n).isNan = false)
        (fun n => match fc with
          | .flt | .fle | .fgt | .fge => (p n).isNan = true ∨ (q n).isNan = true
          | .feq | .fne | .funo | .ford => (p n).isSnan = true ∨ (q n).isSnan = true)) ∧
    (s.plain [.v v] [] → sets (.vclass d v classes m)
      (fun n => ∃ i, classes.getLsbD i = true ∧ match fmtF32.val s.me.v[v][n].toNat with
        | .nan _ => i = 0
        | .inf _ => i = 1
        | .fin _ 0 _ => i = 4
        | .fin _ k _ => if k < 2 ^ 23 then i = 3 else i = 2)
      fun _ => False)

/-- R76, R125 and R126: sums by the tree of R76, extremes and indexed extremes of the unmasked elements; D alone and the flags named change. -/
def Obligations.Reductions : Prop :=
  ∀ (s : State) (d : GReg) (a : VReg) (ty : ETy) (k : KReg), s.plain [.v a] [.g d] →
    let epl := 32 / ty.width
    let on (n : Fin 32) : Prop := (s.me.kreg k).getLsbD n = true
    let x (n : Fin 32) (j : Nat) : Nat := s.element (.v a) ty n j
    let at0 (e : Nat) : Nat := if (s.me.kreg k).getLsbD (e / epl) = true then x (Fin.ofNat 32 (e / epl)) (e % epl) else 0
    let num (n : Fin 32) (j : Nat) : Sys2Proof.Num := ty.fmt.val (x n j)
    let extend (r : Int) : W64 := BitVec.ofInt 64 r
    let snan : Prop := ∃ n j, on n ∧ j < epl ∧ (num n j).isSnan = true
    let flags (fl : Flags) : Prop := (snan → fl = flagInv) ∧ (¬snan → fl = 0)
    (ty.isFloat = false →
      s.givesFlags (.vredsum d a ty k) d
        (extend (((List.range (32 * epl)).map fun e => if at0 e = 0 then 0 else ty.int (at0 e)).sum)) 0 ∧
      (∃ lo hi, s.givesFlags (.vredmin d a ty k) d (extend lo) 0 ∧ s.givesFlags (.vredmax d a ty k) d (extend hi) 0 ∧
        ((∀ n, ¬on n) → lo = ty.bounds.2 ∧ hi = ty.bounds.1) ∧
        ((∃ n, on n) → (∃ n j, on n ∧ j < epl ∧ lo = ty.int (x n j)) ∧ (∃ n j, on n ∧ j < epl ∧ hi = ty.int (x n j)) ∧
          ∀ n j, on n → j < epl → lo ≤ ty.int (x n j) ∧ ty.int (x n j) ≤ hi)) ∧
      (ty.width = 32 → ∀ max : Bool, ∃ i v : Nat,
        s.givesFlags (if max then .vmaxi d a ty k else .vmini d a ty k) d (BitVec.ofNat 64 (i * 2 ^ 32 + v)) 0 ∧
        ((∀ n, ¬on n) → i = 0xFFFFFFFF ∧ (v : Int) = (if max then ty.bounds.1 else ty.bounds.2) % 2 ^ 32) ∧
        ((∃ n, on n) → ∃ n, on n ∧ i = n.val ∧ v = x n 0 ∧ ∀ o, on o →
          let better (p q : Int) : Prop := if max then p > q else p < q
          ¬better (ty.int (x o 0)) (ty.int v) ∧ (o < n → better (ty.int v) (ty.int (x o 0)))))) ∧
    (ty = .f32 →
      (∃ r fl, s.givesFlags (.vredsum d a ty k) d (BitVec.ofNat 64 r) fl ∧ TreeSums 5 at0 r fl) ∧
      ∀ max : Bool, ∃ (i v : Nat) (fl : Flags),
        s.givesFlags (if max then .vmaxi d a ty k else .vmini d a ty k) d (BitVec.ofNat 64 (i * 2 ^ 32 + v)) fl ∧
        flags fl ∧
        ((∀ n, ¬on n) → i = 0xFFFFFFFF ∧ v = fmtF32.inf max) ∧
        ((∃ n, on n) → (∀ n, on n → (num n 0).isNan = true) → v = fmtF32.nan ∧ ∃ n, on n ∧ i = n.val ∧ ∀ o, on o → n ≤ o) ∧
        ((∃ n, on n ∧ (num n 0).isNan = false) → ∃ n, on n ∧ (num n 0).isNan = false ∧ i = n.val ∧ v = x n 0 ∧
          ∀ o, on o → (num o 0).isNan = false →
            let better (p q : Sys2Proof.Num) : Prop := if max then q.Below p else p.Below q
            ¬better (num o 0) (num n 0) ∧ (o < n → better (num n 0) (num o 0)))) ∧
    (ty.isFloat = true →
      (ty.width = 16 →
        let y (e : Nat) : Nat × Flags := convert .f32 ty .rne (at0 e)
        ∃ r fl sums, s.givesFlags (.vredsum d a ty k) d (BitVec.ofNat 64 r) fl ∧ TreeSums 6 (fun e => (y e).1) r sums ∧
          ∀ b, fl.getLsbD b = true ↔ sums.getLsbD b = true ∨ ∃ e < 64, (y e).2.getLsbD b = true) ∧
      ∀ max : Bool, ∃ (v : Nat) (fl : Flags),
        s.givesFlags (if max then .vredmax d a ty k else .vredmin d a ty k) d (BitVec.ofNat 64 v) fl ∧
        flags fl ∧
        ((∀ n, ¬on n) → v = ty.fmt.inf max) ∧
        ((∃ n, on n) → (∀ n j, on n → j < epl → (num n j).isNan = true) → v = ty.fmt.nan) ∧
        ((∃ n j, on n ∧ j < epl ∧ (num n j).isNan = false) →
          (∃ n j, on n ∧ j < epl ∧ (num n j).isNan = false ∧ v = x n j) ∧
          ∀ n j, on n → j < epl → (num n j).isNan = false →
            if max then ¬(ty.fmt.val v).Below (num n j) else ¬(num n j).Below (ty.fmt.val v)))

/-- R76, R77, R127 and R129: prefix sums and the clipped residual of two distributions, with their flags.
R81 to R83, R131 and R132: the random stream. A draw writes the values of its counter under the mask and advances the
counter by one draw, rngadv moves the position, and an exhausted stream traps with nothing changed. -/
def Obligations.ScansAndStreams : Prop :=
  (∀ (s : State) (d a b : VReg) (ty : ETy) (m : Mask),
    let epl := 32 / ty.width
    let on (n : Fin 32) : Prop := (s.me.kreg m.k).getLsbD n = true
    let x (e : Nat) : Nat :=
      if (s.me.kreg m.k).getLsbD (e / epl) = true then s.element (.v a) ty (Fin.ofNat 32 (e / epl)) (e % epl) else 0
    let num (r : Nat × Flags) : Int × Flags := (r.1, r.2)
    (s.plain [.v a] [.v d] →
      (ty.isFloat = false → s.computes (.vscan d a ty m) d ty m fun n j =>
        (((List.range (n.val * epl + j + 1)).map x).sum, 0)) ∧
      (ty.isFloat = true → ∀ out : Nat → Nat × Flags,
        (out 0 = if (ty.fmt.val (x 0)).isNan = true then (ty.fmt.nan, flagIf (ty.fmt.val (x 0)).isSnan flagInv) else (x 0, 0)) →
        (∀ e, out (e + 1) = fAdd ty.fmt .rne (out e).1 (x (e + 1))) →
        s.computes (.vscan d a ty m) d ty m fun n j => num (out (n.val * epl + j)))) ∧
    (s.plain [.v a, .v b] [.v d] →
      let p (n : Fin 32) : Nat := s.me.v[a][n].toNat
      let q (n : Fin 32) : Nat := s.me.v[b][n].toNat
      let diff (n : Fin 32) := fSub fmtF32 .rne (p n) (q n)
      ∀ r : Fin 32 → Nat,
        (∀ n, ¬on n → r n = 0) →
        (∀ n, on n → ((fmtF32.val (diff n).1).isNan = true → r n = fmtF32.nan) ∧
          ((Sys2Proof.Num.fin false 0 0).Less (fmtF32.val (diff n).1) → r n = (diff n).1) ∧
          ((fmtF32.val (diff n).1).isNan = false → ¬(Sys2Proof.Num.fin false 0 0).Less (fmtF32.val (diff n).1) → r n = 0)) →
        ∃ (sum : Nat) (fl : Flags), TreeSums 5 (fun e => r (Fin.ofNat 32 e)) sum fl ∧
        let zero : Prop := (fmtF32.val sum).Same (.fin false 0 0)
        s.writesLanes (.vresid d a b m) d m
          (fun n out => (zero → out.toNat = p n) ∧ (¬zero → out.toNat = r n))
          fun b => (∃ n, on n ∧ (diff n).2.getLsbD b = true) ∨ fl.getLsbD b = true ∨ (zero ∧ b = 5))) ∧
  ∀ (s : State) (d : VReg) (a : GReg) (m : Mask),
    let key := s.me.rngkey.toNat
    let ctr := s.me.rngctr.toNat
    let pos := ctr / 2 ^ 24 + (s.me.greg a).toNat
    let step (shift k x : Nat) : Nat := (x ^^^ x / 2 ^ shift) * k % 2 ^ 64
    let start (n : Fin 32) : Nat := (key + ctr * 0x9E3779B97F4A7C15 + n.val * 0xB3F126D94A8CE5A7) % 2 ^ 64
    let last (n : Fin 32) : Nat := step 29 0xD1C53A9762B0F14D (step 31 0x8F2D6C1B39E4A753 (start n))
    let raw (n : Fin 32) : Nat := (last n ^^^ last n / 2 ^ 32) % 2 ^ 32
    let draws (uni : Bool) (P : Fin 32 → W32 → Prop) : Prop :=
      ∃ r : Vec, exec (.vrng d uni m) s = .next (s.retire fun t => { t.setV d r with rngctr := BitVec.ofNat 64 (ctr + 1) }) ∧
        ∀ n : Fin 32, ((s.me.kreg m.k).getLsbD n = true → P n r[n]) ∧
          ((s.me.kreg m.k).getLsbD n = false → r[n] = if m.z then 0 else s.me.v[d][n])
    let exhausted (i : Instr) : Prop := s.traps i 0x31 0 0
    (s.plain [] [.v d] →
      (ctr % 2 ^ 24 ≠ 0xFFFFFF →
        draws false (fun n x => x.toNat = raw n) ∧
        draws true fun n x => (fmtF32.val x.toNat).value = (2 * (raw n / 512) + 1 : Nat) * (2 : ℚ) ^ (-24 : Int)) ∧
      (ctr % 2 ^ 24 = 0xFFFFFF → ∀ uni, exhausted (.vrng d uni m))) ∧
    (s.plain [.g a] [] →
      (pos < 2 ^ 40 → exec (.rngadv a) s = .next (s.retire fun t => { t with rngctr := BitVec.ofNat 64 (pos * 2 ^ 24) })) ∧
      (pos ≥ 2 ^ 40 → exhausted (.rngadv a)))

/-- R135, R141, R178 and R335: the checks of one address in their order, with the exact fault of each: the windows, the
partition's clusters and the permission table, the alignment, the window the instruction suits, translation, and the
running task's regions. An atomic that reaches the aperture reports cause code 0, as R178 says of its class. An address that
passes gives its place, and only translation caches change.
R202 and R203: which bytes a task's records permit, for a load, a store and an atomic, and which class each byte has. -/
def Obligations.AddressChecks : Prop :=
  (∀ (s : State) (sp : AccSpec) (lane : Nat) (va : W64),
    let n := va.toNat
    let cl := SlotIx.cluster s.cur
    let faults (code : BitVec 8) (aux : Nat) : Prop := checkAddr sp lane va s = .error (.trap code va (BitVec.ofNat 64 aux))
    let passes (p : Place) (slice : List Bool) (t : State) : Prop := checkAddr sp lane va s = .ok (⟨lane, va, p, sp.size, slice, 0⟩, t)
    let aligned : Prop := n % sp.align = 0
    let afterwards (off : Nat) (p : Place) : Prop :=
      (¬aligned → faults 0x05 lane) ∧
      (aligned → (sp.atomic = true → faults 0x07 (256 * lane)) ∧
        (sp.atomic = false → (0x3FF000 ≤ off → faults 0x07 (5 + 256 * lane)) ∧ (off < 0x3FF000 → passes p [] s)))
    (2 ^ 57 ≤ n → n < 0xFF00000000000000 → faults 0x06 lane) ∧
    (0xFF00000000400000 ≤ n → n < 0xFF10000000000000 → faults 0x06 lane) ∧
    (0xFF20000000040000 ≤ n → faults 0x06 lane) ∧
    (∀ off < 0x400000, n = 0xFF00000000000000 + off → afterwards off (.own cl off)) ∧
    (∀ v, ∀ off < 0x400000, n = 0xFF10000000000000 + v * 0x400000 + off → n < 0xFF20000000000000 →
      (s.physical (s.partOf cl) v = none → faults 0x06 lane) ∧
      ∀ far, s.physical (s.partOf cl) v = some far →
        (s.permitted cl v far = false → faults 0x07 (256 * lane)) ∧
        (s.permitted cl v far = true → afterwards off (.remote far off))) ∧
    (∀ off < 0x40000, n = 0xFF20000000000000 + off →
      (¬aligned → faults 0x05 lane) ∧
      (aligned → ((sp.atomic || sp.fe) = true → faults 0x07 (256 * lane)) ∧
        ((sp.atomic || sp.fe) = false → passes (.scratch (SlotIx.core s.cur) off) [] s))) ∧
    (n < 2 ^ 57 →
      (¬aligned → faults 0x05 lane) ∧
      (aligned → sp.fe = true → faults 0x07 (256 * lane)) ∧
      (aligned → sp.fe = false → sp.det = true → n / 2 ^ 34 ≠ (s.part (s.partOf cl)).detm.toNat → faults 0x07 (1 + 256 * lane)) ∧
      (aligned → sp.fe = false → (sp.det = true → n / 2 ^ 34 = (s.part (s.partOf cl)).detm.toNat) → ∀ t,
        let answers (r : Translation) : Prop := s.translate (SlotIx.core s.cur) (s.partOf cl) n sp.need = (t, r)
        (answers .absent → faults 0x06 lane) ∧
        (∀ code, answers (.perm code) → faults 0x07 (code + 256 * lane)) ∧
        (∀ pa, answers (.ok pa) → pa / 2 ^ 48 % 16 = 15 → faults 0x07 ((if sp.atomic then 0 else 7) + 256 * lane)) ∧
        (∀ pa, answers (.ok pa) → pa / 2 ^ 48 % 16 ≠ 15 →
          let rs := s.records s.me
          (regionsPermit rs sp.need n sp.size = false → faults 0x08 lane) ∧
          (regionsPermit rs sp.need n sp.size = true → passes (.global pa) (sliceBytes rs n sp.size) t))))) ∧
  ∀ (rs : List Region) (need : Need) (a n : Nat),
    let covers (r : Region) (x : Nat) : Prop :=
      (r.extractLsb' 0 64).toNat ≤ x ∧ x < (r.extractLsb' 0 64).toNat + (r.extractLsb' 64 40).toNat
    let mode (r : Region) : Nat := (r.extractLsb' 104 3).toNat
    (regionsPermit rs need a n = true ↔ ∀ x, a ≤ x → x < a + n → ∃ r ∈ rs, covers r x ∧
      (need.w = true → need.r = true → mode r ∈ [2, 3, 4, 5]) ∧ (need.w = true → need.r = false → mode r ∈ [2, 3, 4]) ∧
      (need.w = false → mode r ∈ [1, 2, 3, 4])) ∧
    (∀ k < n, (sliceBytes rs a n)[k]? = some true ↔ ∃ r ∈ rs, covers r (a + k) ∧ mode r ∈ [4, 5]) ∧
    ∀ x y : Region, regionsConflict x y = true ↔
      (∃ b, covers x b ∧ covers y b) ∧
      ((mode x ∈ [2, 3] ∧ mode y ∈ [1, 2, 3]) ∨ (mode y ∈ [2, 3] ∧ mode x ∈ [1, 2, 3]))

/-- R137, R138, R143, R144 and R151: a scalar or vector load whose addresses pass their checks and that nothing holds back
becomes outstanding and its thread goes on; a store does the same, or is posted in the journal when it goes through the
remote window, unmarked only after the messages that its thread sent (log 65); a fault is exact, and so is a check that fails
on the way through the fabric (R419); and an access waits for every earlier one unless rlx marks it. An access with bytes of
both classes is outstanding as two (R139). -/
def Obligations.LoadsAndStores : Prop :=
  ∀ (s t : State) (d a b : GReg) (w : LdW) (imm : BitVec 16) (rlx : Bool),
    let ea : W64 := BitVec.ofInt 64 ((s.me.greg a).toNat + (s.me.greg b).toNat + imm.toInt)
    let load : Instr := if rlx then .rlx else .ld d a b w imm
    let store : Instr := if rlx then .rlx else .st d a b w imm
    let n := match w with
      | .n8 | .s8 => 1
      | .n16 | .s16 => 2
      | .n32 | .s32 => 4
      | .w64 => 8
    let last := if rlx then s.me.ip + 1 else s.me.ip
    let issues (x : State) (f : Thread → Thread) : Out := .next (x.goTo (x.after (SlotIx.core s.cur) last) f)
    let mayIssue : Prop := if rlx then (s.me.outs.filter Access.rlx).length < 8 else s.me.outs = []
    (rlx = true → s.marked = .ok (.ld d a b w imm) → ¬mayIssue → s.waits .rlx .access) ∧
    (s.me.outs ≠ [] → s.waits (.ld d a b w imm) .access ∧ s.waits (.st d a b w imm) .access) ∧
    (mayIssue → (rlx = true → s.marked = .ok (.ld d a b w imm)) → s.plain [.g a, .g b] [.g d] →
      (∀ code va aux, checkAddr (loadSpec n) 0 ea s = .error (.trap code va aux) → s.traps load code va aux) ∧
      ∀ l, checkAddr (loadSpec n) 0 ea s = .ok (l, t) → t.unheld l false →
        (rlx = false → t.fails s.cur l = true → s.traps load 0x0C ea 0) ∧
        (rlx = true ∨ t.fails s.cur l = false →
          exec load s = issues t fun x => { x with outs := x.outs ++ [⟨.load (.reg d) w, rlx, l.split, [], [], []⟩] })) ∧
    (mayIssue → (rlx = true → s.marked = .ok (.st d a b w imm)) → s.plain [.g a, .g b, .g d] [] →
      (∀ code va aux, checkAddr (storeSpec n) 0 ea s = .error (.trap code va aux) → s.traps store code va aux) ∧
      (∀ l, checkAddr (storeSpec n) 0 ea s = .ok (l, t) → t.unblocked l true → t.fabricFails s.cur l = true →
        s.traps store 0x0C ea 0) ∧
      ∀ l, checkAddr (storeSpec n) 0 ea s = .ok (l, t) → t.unheld l true →
        let held : Lane := { l with data := s.me.greg d }
        ((∀ cl off, l.place ≠ .remote cl off) →
          exec store s = issues t fun x => { x with outs := x.outs ++ [⟨.store, rlx, held.split, [], [], []⟩] }) ∧
        ∀ cl off, l.place = .remote cl off →
          let sent : Prop := rlx = true ∨ t.sendOut s.cur = false
          (rlx = false → t.sendOut s.cur = true → s.waits store .retryBuffer) ∧
          (sent → (∀ e < 32, ∃ j ∈ t.myCore.journal, j.entry = e) → s.waits store .journal) ∧
          (sent → (∃ e < 32, ∀ j ∈ t.myCore.journal, j.entry ≠ e) → ∃ e < 32, (∀ j ∈ t.myCore.journal, j.entry ≠ e) ∧
            let entry : JEntry := ⟨e, t.uids, s.cur, s.me.uid, s.me.part, cl, (t.cluster cl).epoch, .store, [held], ea, .sent⟩
            exec store s = issues ({ t with uids := t.uids + 1 }.modMyCore fun c => { c with journal := c.journal ++ [entry] }) id))

/-- R111, R137, R141 and R144: the lanes of vld and vst. Every unmasked lane is checked before any is read or written, the
lowest failing one reports, and the access then holds exactly the unmasked lanes, the remote ones of a store in one journal
entry for each destination cluster, which the outstanding part of the store knows by its key. The store waits for the
messages that its thread sent (log 65). -/
def Obligations.VectorAccesses : Prop :=
  ∀ (s t : State) (d : VReg) (a : GReg) (v : VAddr) (imm : BitVec 16) (m : Mask),
    let g (r : GReg) : Int := (s.me.greg r).toNat
    let address (n : Fin 32) : W64 := BitVec.ofInt 64 (match v with
      | .unit b => g a + g b + imm.toInt + 4 * n.val
      | .str b c => g a + g b + imm.toInt + n.val * (s.me.greg c).toInt
      | .gat b => g a + (s.me.v[b][n]).toNat + imm.toInt)
    let lanes : List (Nat × W64) :=
      ((List.finRange 32).filter fun n : Fin 32 => (s.me.kreg m.k).getLsbD n.val).map fun n => (n.val, address n)
    let load : Instr := .vld d a v imm m
    let store : Instr := .vst d a v imm m.k
    s.me.outs = [] →
      (s.plain (.g a :: VAddr.sources v) [.v d] →
        (∀ ls n va rest code x aux, lanes = ls ++ (n, va) :: rest → checkLanes (loadSpec 4) ls s = .ok x →
          checkAddr (loadSpec 4) n va x.2 = .error (.trap code va aux) → s.traps load code va aux) ∧
        ∀ ls, checkLanes (loadSpec 4) lanes s = .ok (ls, t) → (∀ l ∈ ls, t.unheld l false) →
          ls.map (fun l => (l.lane, l.va)) = lanes ∧
          (∀ ok l rest, ls = ok ++ l :: rest → (∀ x ∈ ok, t.fails s.cur x = false) → t.fails s.cur l = true →
            s.traps load 0x0C l.va (BitVec.ofNat 64 l.lane)) ∧
          ((∀ l ∈ ls, t.fails s.cur l = false) →
            (ls ≠ [] → exec load s = .next (t.retire fun x => { x with outs := [⟨.vload (some d) m.z, false, ls.flatMap Lane.split, [], [], []⟩] })) ∧
            (ls = [] → exec load s = .next (t.retire fun x =>
              x.setV d (Vector.ofFn fun n => if m.z then 0 else s.me.v[d][n]))))) ∧
      (s.plain (.g a :: VAddr.sources v ++ [.v d]) [] →
        (∀ ls n va rest code x aux, lanes = ls ++ (n, va) :: rest → checkLanes (storeSpec 4) ls s = .ok x →
          checkAddr (storeSpec 4) n va x.2 = .error (.trap code va aux) → s.traps store code va aux) ∧
        ∀ ls, checkLanes (storeSpec 4) lanes s = .ok (ls, t) → (∀ l ∈ ls, t.unheld l true) →
          let held : List Lane := ls.map fun l => { l with data := BitVec.ofNat 64 (s.me.v[d][Fin.ofNat 32 l.lane]).toNat }
          let near := held.filter fun l => !l.posted
          let far : List ClusterIx := (held.filterMap fun l => match l.place with
            | .remote cl _ => some cl
            | _ => none).dedup
          let free : List Nat := (List.range 32).filter fun e => ∀ j ∈ t.myCore.journal, j.entry ≠ e
          (far ≠ [] → t.sendOut s.cur = true → s.waits store .retryBuffer) ∧
          (t.sendOut s.cur = false → free.length < far.length → s.waits store .journal) ∧
          (t.sendOut s.cur = false ∨ far = [] → far.length ≤ free.length → ∃ es : List JEntry,
            exec store s = .next (({ t with uids := t.uids + es.length }.modMyCore fun c =>
              { c with journal := c.journal ++ es }).retire fun x =>
                { x with outs := if near = [] then [] else [⟨.store, false, near.flatMap Lane.split, [], es.map fun (j : JEntry) => (0, BitVec.ofNat 64 j.key), []⟩] }) ∧
            (∀ n < es.length, (es.map JEntry.key)[n]? = some (t.uids + n)) ∧ (es.map JEntry.entry).Nodup ∧ (es.map JEntry.cl).Nodup ∧ (∀ cl, cl ∈ es.map JEntry.cl ↔ cl ∈ far) ∧
            ∀ j ∈ es, j.entry ∈ free ∧ j.lanes = held.filter (fun l => l.goesTo j.cl) ∧ j.state = .sent ∧ j.kind = .store ∧
              j.w = s.cur ∧ j.uid = s.me.uid ∧ j.epoch = (t.cluster j.cl).epoch))

/-- R111, R138 to R140, R143 and R203: a load that returns takes what its bytes hold, extended as its width says, or under
its mask, and nothing else changes; a byte of the Cached class is read through the core's L1, unless an atomic has reached it
(R156, log 62); a lane that an earlier access of the thread overlaps is not performed, nor one that a lock stalls (R372). -/
def Obligations.LoadsReturn : Prop :=
  ∀ (s : State) (w : SlotIx) (rlx : Bool) (rest : List Access), (s.sendOut w = false ∨ rlx = true) →
    (∀ (d : GReg) (lw : LdW) (l : Lane), (s.thread w).outs = ⟨.load (.reg d) lw, rlx, [l], [], [], []⟩ :: rest →
      l.lane < 32 → l.size = LdW.size lw → l.direct → s.fails w l = false → s.lockedOut w l = false →
        let m := s.valueAt l
        let signed : Int := ((m + 2 ^ (8 * l.size - 1)) % 2 ^ (8 * l.size) : Nat) - 2 ^ (8 * l.size - 1)
        let x : W64 := match lw with
          | .s8 | .s16 | .s32 => BitVec.ofInt 64 signed
          | .n8 | .n16 | .n32 | .w64 => BitVec.ofNat 64 m
        exec (.loadReturn w 0 (BitVec.allOnes 64)) s = .next (s.modThread w fun t => { t with outs := rest }.setG d x)) ∧
    (∀ (d : VReg) (z : Bool) (ls : List Lane), (s.thread w).outs = ⟨.vload (some d) z, rlx, ls, [], [], []⟩ :: rest →
      (ls.map Lane.lane).Pairwise (· < ·) → (∀ l ∈ ls, l.lane < 32 ∧ l.size = 4 ∧ l.direct ∧ s.fails w l = false ∧ s.lockedOut w l = false) →
        ∃ r : Vec, exec (.loadReturn w 0 (BitVec.allOnes 64)) s =
            .next (s.modThread w fun t => { t with outs := rest }.setV d r) ∧
          ∀ n : Fin 32, (∀ l ∈ ls, l.lane = n.val → r[n] = BitVec.ofNat 32 (s.valueAt l)) ∧
            ((∀ l ∈ ls, l.lane ≠ n.val) → r[n] = if z then 0 else (s.thread w).v[d][n])) ∧
    (∀ (d : GReg) (lw : LdW) (l : Lane) (pa : Nat),
      (s.thread w).outs = ⟨.load (.reg d) lw, rlx, [l], [], [], []⟩ :: rest → l.lane < 32 → l.size = LdW.size lw →
      l.place = .global pa → l.slice = List.replicate l.size false → pa % 64 + l.size ≤ 64 → s.fails w l = false →
      (∀ k < l.size, s.atSlice (pa + k) = false) →
        let c := SlotIx.core w
        let m := bytesNat ((List.range l.size).map fun k => s.seen c (pa + k))
        (∃ line ∈ (s.core c).l1, line.pa = pa / 64) →
          ∃ t, exec (.loadReturn w 0 (BitVec.allOnes 64)) s = .next t ∧
            t.thread w = { s.thread w with outs := rest }.setG d (LdW.extend lw (BitVec.ofNat 64 m)) ∧
            t.mem = s.mem ∧ t.clusters = s.clusters ∧ (∀ q, q ≠ w → t.thread q = s.thread q) ∧
            ∀ q a, t.seen q a = s.seen q a) ∧
    ∀ (i : Nat) (lanes : W64) (a : Access), (s.thread w).outs[i]? = some a → (∃ d lw, a.kind = .load d lw) →
      (∀ l ∈ a.todo, s.lockedOut w l = true ∨ ∃ e ∈ (s.thread w).outs.take i, ∃ x ∈ e.todo, x.overlaps l = true) → a.todo ≠ [] →
        exec (.loadReturn w i lanes) s = .next s

/-- R137 to R140, R143, R144 and R203: a store that completes writes exactly its bytes, of two lanes over one byte the
higher's, and every other byte of the device is unchanged; a lane that a lock stalls or that a lower lane of the same vst, in
the journal, overlaps is not performed; a store of the Cached class writes the core's L1 line and leaves the slice as it was. -/
def Obligations.StoresComplete : Prop :=
  ∀ (s : State) (w : SlotIx) (rlx : Bool) (ls : List Lane) (keys : List (Nat × W64)) (rest : List Access),
    (s.thread w).outs = ⟨.store, rlx, ls, [], keys, []⟩ :: rest → (s.sendOut w = false ∨ rlx = true) →
    (ls ≠ [] → (∀ l ∈ ls, s.lockedOut w l = true ∨ s.laneBehind w 0 l = true) →
      exec (.storeComplete w 0 (BitVec.allOnes 64)) s = .next s) ∧
    ((ls.map Lane.lane).Pairwise (· < ·) →
      (∀ l ∈ ls, l.lane < 32 ∧ 1 ≤ l.size ∧ l.size ≤ 8 ∧ s.lockedOut w l = false ∧ s.laneBehind w 0 l = false) →
      ((∀ l ∈ ls, l.direct) → ∃ t, exec (.storeComplete w 0 (BitVec.allOnes 64)) s = .next t ∧
        t.thread w = { s.thread w with outs := rest } ∧ (∀ q, q ≠ w → t.thread q = s.thread q) ∧
        (∀ p, (∀ l ∈ ls, ∀ k < l.size, l.spot k ≠ p) → t.byteOf p = s.byteOf p) ∧
        ∀ l ∈ ls, ∀ k < l.size, (∀ h ∈ ls, l.lane < h.lane → ∀ j < h.size, h.spot j ≠ l.spot k) →
          t.byteOf (l.spot k) = BitVec.ofNat 8 (l.data.toNat / 256 ^ k)) ∧
      ∀ (l : Lane) (pa : Nat), ls = [l] → l.place = .global pa → l.slice = List.replicate l.size false →
        pa % 64 + l.size ≤ 64 → (∀ k < l.size, s.atSlice (pa + k) = false) →
        let c := SlotIx.core w
        (∃ line ∈ (s.core c).l1, line.pa = pa / 64) → (∀ line ∈ (s.core c).l1, line.bytes.length = 64) →
          ∃ t, exec (.storeComplete w 0 (BitVec.allOnes 64)) s = .next t ∧
            t.thread w = { s.thread w with outs := rest } ∧ t.mem = s.mem ∧ t.clusters = s.clusters ∧
            (∀ k < l.size, t.seen c (pa + k) = BitVec.ofNat 8 (l.data.toNat / 256 ^ k)) ∧
            (∀ a, a < pa ∨ pa + l.size ≤ a → t.seen c a = s.seen c a) ∧ ∀ q a, q ≠ c → t.seen q a = s.seen q a)

/-- R145, R146 and R151: the full/empty word at a checked address. Where the bit and the word's earlier waiters allow it, the
operation has its effect at once; otherwise it joins the bank's queue, or is refused for want of room; through the remote
window stfill and femark are posted; and the bank serves a word's oldest fitting waiter. A load whose word has an
uncorrectable error when it is served raises DATA_UE exactly (R141), and a posted one that is to be refused is not served
(R153). -/
def Obligations.FullEmptyWords : Prop :=
  (∀ (s t : State) (d a b : GReg) (imm : BitVec 16) (l : Lane) (cl : ClusterIx) (word : Nat),
    let ea : W64 := BitVec.ofInt 64 ((s.me.greg a).toNat + (s.me.greg b).toNat + imm.toInt)
    let k := t.cluster cl
    let full : Prop := word ∈ k.full
    let room : Prop := (k.fe.filter fun r => r.word % 64 = word % 64).length < 64
    let value : W64 := BitVec.ofNat 64 (bytesNat (k.mem.read (8 * word) 8))
    let bit (x : Cluster) (on : Prop) : Prop := ∀ n, n ∈ x.full ↔ if n = word then on else n ∈ k.full
    let queued (r : FeWait) : State := t.modCluster cl fun x => { x with fe := x.fe ++ [r] }
    let parked (u : State) (x : Wait) (parks : Bool) : State := (u.modMe fun y =>
      { y with wait := x, resume := u.following, parkedAt := u.myCore.cycle, parks := parks }).modMe Thread.settled
    s.me.outs = [] → s.sendOut s.cur = false → s.trying → (l.place = .own cl (8 * word) ∨ l.place = .remote cl (8 * word)) →
      (s.plain [.g a, .g b] [.g d] → checkAddr (feSpec needR) 0 ea s = .ok (l, t) → t.unheld l false →
        ∀ take : Bool,
          let r : FeWait := ⟨word, .thread s.cur, if take then .take (.reg d) else .keep (.reg d)⟩
          let served : Prop := full ∧ ∀ q ∈ k.fe, q.word = word → q.kind.isLoad = false
          (t.fabricFails s.cur l = true ∨ (served ∧ t.bad l = true) → s.traps (.ldsync take d a b imm) 0x0C ea 0) ∧
          (t.fails s.cur l = false → served →
            ∃ y, exec (.ldsync take d a b imm) s =
                .next ((t.modCluster cl fun _ => y).retire fun x => x.setG d value) ∧
              y = { k with full := y.full } ∧ bit y (take = false)) ∧
          (t.fabricFails s.cur l = false → ¬full → room →
            exec (.ldsync take d a b imm) s = .next (parked (queued r) (.bank cl ea) true)) ∧
          (t.fabricFails s.cur l = false → ¬full → ¬room →
            exec (.ldsync take d a b imm) s = .next (parked t (.bankRefused cl ea r) true))) ∧
      (s.plain [.g a, .g b, .g d] [] → checkAddr (feSpec needW) 0 ea s = .ok (l, t) → t.unheld l true →
        let r : FeWait := ⟨word, .thread s.cur, .fill (s.me.greg d)⟩
        let fills (i : Instr) : Prop := ∃ y, exec i s = .next ((t.modCluster cl fun _ => y).retire id) ∧
          y = { k with full := y.full, mem := k.mem.write (8 * word) (natBytes 8 (s.me.greg d).toNat) } ∧ bit y True
        (l.place = .own cl (8 * word) →
          fills (.stfill false d a b imm) ∧
          (¬full → (∀ q ∈ k.fe, q.word = word → q.kind.isLoad = true) → fills (.stfill true d a b imm)) ∧
          (full → room → exec (.stfill true d a b imm) s = .next (parked (queued r) (.bank cl ea) s.me.parks)) ∧
          (full → ¬room → exec (.stfill true d a b imm) s = .next (parked t (.bankRefused cl ea r) s.me.parks))) ∧
        (l.place = .remote cl (8 * word) → ∀ wait : Bool, (∃ e < 32, ∀ j ∈ t.myCore.journal, j.entry ≠ e) →
          ∃ j : JEntry, exec (.stfill wait d a b imm) s = .next (({ t with uids := t.uids + 1 }.modMyCore fun c =>
              { c with journal := c.journal ++ [j] }).retire id) ∧
            j.entry < 32 ∧ (∀ o ∈ t.myCore.journal, o.entry ≠ j.entry) ∧ j.kind = .fill wait ∧ j.cl = cl ∧ j.w = s.cur ∧
            j.lanes = [{ l with data := s.me.greg d }] ∧ j.state = .sent)) ∧
      (s.plain [.g a, .g b] [] → checkAddr (feSpec needW) 0 ea s = .ok (l, t) → t.unheld l true → ∀ on : Bool,
        (l.place = .own cl (8 * word) → ∃ y, exec (.femark on a b imm) s = .next ((t.modCluster cl fun _ => y).retire id) ∧
          y = { k with full := y.full } ∧ bit y (on = true)) ∧
        (l.place = .remote cl (8 * word) → (∃ e < 32, ∀ j ∈ t.myCore.journal, j.entry ≠ e) →
          ∃ j : JEntry, exec (.femark on a b imm) s = .next (({ t with uids := t.uids + 1 }.modMyCore fun c =>
              { c with journal := c.journal ++ [j] }).retire id) ∧
            j.entry < 32 ∧ (∀ o ∈ t.myCore.journal, o.entry ≠ j.entry) ∧ j.kind = .mark on ∧ j.cl = cl ∧ j.w = s.cur ∧
            j.lanes = [l] ∧ j.state = .sent))) ∧
  ∀ (s : State) (cl : ClusterIx) (word : Nat) (before rest : List FeWait) (w : SlotIx) (kind : FeKind) (va : W64),
    let k := s.cluster cl
    let value : W64 := BitVec.ofNat 64 (bytesNat (k.mem.read (8 * word) 8))
    let takenOut : State := s.modCluster cl fun x => { x with fe := before ++ rest }
    let lane : Lane := ⟨0, va, if va.toNat < 0xFF10000000000000 then .own cl (8 * word) else .remote cl (8 * word), 8, [], 0⟩
    let sound : Prop := s.fails w lane = false
    let serve (i : Instr) (u : State) : Prop :=
      (∀ d, kind = .keep d ∨ kind = .take d → word ∈ k.full → ¬sound → exec i s =
        .next ((u.undo w (some d)).takeTrap w false 0x0C (s.thread w).ip va 0)) ∧
      (∀ d, kind = .keep (.reg d) → word ∈ k.full → sound →
        exec i s = .next (u.modThread w fun t => (t.setG d value).done)) ∧
      (∀ d, kind = .take (.reg d) → word ∈ k.full → sound → exec i s = .next ((u.modCluster cl fun x =>
        { x with full := x.full.filter fun n => n != word }).modThread w fun t => (t.setG d value).done)) ∧
      (∀ data, kind = .fill data → word ∉ k.full → ∃ f, exec i s = .next ((u.modCluster cl fun x =>
        { x with full := f, mem := x.mem.write (8 * word) (natBytes 8 data.toNat) }).modThread w Thread.done) ∧
        ∀ n, n ∈ f ↔ n = word ∨ n ∈ k.full)
    0xFF00000000000000 ≤ va.toNat → va.toNat < 0xFF00000000400000 ∨ 0xFF10000000000000 ≤ va.toNat →
    (∀ r ∈ before, r.word = word → (r.kind.isLoad = true ↔ word ∉ k.full)) →
    (k.fe = before ++ ⟨word, .thread w, kind⟩ :: rest → (s.thread w).wait = .bank cl va →
      serve (.feWaiterService cl word) takenOut) ∧
    (∀ key data j, k.fe = before ++ ⟨word, .journal key, .fill data⟩ :: rest → word ∉ k.full → s.entryOf key = some j →
      ((s.refusal j).isSome = true → exec (.feWaiterService cl word) s = .next s) ∧
      (s.refusal j = none → ∃ t f, exec (.feWaiterService cl word) s = .next t ∧ t.threads = s.threads ∧ t.mem = s.mem ∧
        t.clusters = (takenOut.modCluster cl fun x =>
          { x with full := f, mem := x.mem.write (8 * word) (natBytes 8 data.toNat) }).clusters ∧
        (∀ n, n ∈ f ↔ n = word ∨ n ∈ k.full) ∧
        ∀ c, (t.core c).journal = (s.core c).journal.map fun o => if o.key = key then { o with state := .performed } else o)) ∧
    ((s.thread w).wait = .bankRefused cl va ⟨word, .thread w, kind⟩ →
      ((∀ r ∈ k.fe, r.word = word → (r.kind.isLoad = true ↔ kind.isLoad = false)) →
        serve (.bankQueueResend w) s) ∧
      ((kind.isLoad = true ↔ word ∉ k.full) → (k.fe.filter fun r => r.word % 64 = word % 64).length < 64 →
        exec (.bankQueueResend w) s = .next ((s.modCluster cl fun x =>
          { x with fe := x.fe ++ [⟨word, .thread w, kind⟩] }).modThread w fun t => { t with wait := .bank cl va })))

/-- R147 to R149 and R160: a fence goes on when its condition holds and waits while it does not, fence.all for the messages of
its thread too (log 65); a mailbox is put when it is empty and taken when it is full, by its waiters in order; a prefetch only
advances where its access would fault or be of the Slice class (also because an atomic has reached the word, log 62), meets
an uncorrectable error or finds 32 misses outstanding, and otherwise brings the line in, changing no value that the core
reads; pref.mc only advances, and a poisoned source raises nothing (log 56). -/
def Obligations.FencesMailboxesPrefetches : Prop :=
  ∀ (s : State) (d a b : GReg) (n : Fin 4) (imm : BitVec 16),
    let ea : W64 := BitVec.ofInt 64 ((s.me.greg a).toNat + (s.me.greg b).toNat + imm.toInt)
    let box := s.myCore.mailbox[n]
    let noJournal : Prop := ∀ j ∈ s.myCore.journal, j.w ≠ s.cur
    let noTile : Prop := s.tileStores s.cur = false
    (s.me.outs = [] → noJournal → noTile → s.sendOut s.cur = false → exec (.fence .all) s = .next (s.retire id)) ∧
    (s.me.outs ≠ [] ∨ ¬noJournal ∨ ¬noTile ∨ s.sendOut s.cur = true → s.waits (.fence .all) .fence) ∧
    ((∀ x ∈ s.me.outs, x.kind.reads = false) → exec (.fence .ld) s = .next (s.retire id)) ∧
    ((∃ x ∈ s.me.outs, x.kind.reads = true) → s.waits (.fence .ld) .fence) ∧
    ((∀ x ∈ s.me.outs, x.kind.stores = false) → noTile → exec (.fence .st) s = .next (s.retire id)) ∧
    ((∃ x ∈ s.me.outs, x.kind.stores = true) → s.waits (.fence .st) .fence) ∧
    (noJournal → s.tilePosted s.cur = false → exec (.fence .posted) s = .next (s.retire id)) ∧
    (¬noJournal → s.waits (.fence .posted) .fence) ∧
    (s.me.outs = [] → s.sendOut s.cur = false →
      (s.plain [.g d] [] → box.full = false → (box.puts = [] ∨ ∃ rest, box.puts = s.cur :: rest ∧ s.cur ∉ rest) →
        exec (.mbput d n) s = .next ((s.modMyCore fun c => c.modBox n fun _ =>
          ⟨true, s.me.greg d, box.puts.tail, box.gets⟩).retire id)) ∧
      (box.full = true → s.waits (.mbput d n) (.mbput n)) ∧
      (s.plain [] [.g d] → box.full = true → (box.gets = [] ∨ ∃ rest, box.gets = s.cur :: rest ∧ s.cur ∉ rest) →
        exec (.mbget d n) s = .next ((s.modMyCore fun c => c.modBox n fun _ =>
          ⟨false, box.val, box.puts, box.gets.tail⟩).retire fun t => t.setG d box.val)) ∧
      (box.full = false → s.waits (.mbget d n) (.mbget n)) ∧
      (∀ w rest, w ≠ s.cur → box.gets = w :: rest → s.waits (.mbget d n) (.mbget n)) ∧
      ∀ w rest, w ≠ s.cur → box.puts = w :: rest → s.waits (.mbput d n) (.mbput n)) ∧
    ((∀ r ∈ [GV.g a, GV.g b], s.me.maps r = false ∧ s.pending s.cur r = false) →
      exec (.pref true a b imm) s = .next (s.retire id) ∧
      (∀ e, checkAddr (loadSpec 1) 0 ea s = .error e → exec (.pref false a b imm) s = .next (s.retire id)) ∧
      ∀ l t, checkAddr (loadSpec 1) 0 ea s = .ok (l, t) →
        ((l.slice = [true] ∨ (∀ pa, l.place ≠ .global pa) ∨ (∃ pa, l.place = .global pa ∧ t.atSlice pa = true) ∨ t.fails s.cur l = true ∨
          32 ≤ (t.missLines (SlotIx.core s.cur)).length) → exec (.pref false a b imm) s = .next (s.retire id)) ∧
        ∀ pa, l.place = .global pa → l.slice = [false] → t.atSlice pa = false → t.fails s.cur l = false →
          (t.missLines (SlotIx.core s.cur)).length < 32 →
          let u := t.l1Fill (SlotIx.core s.cur) (pa / 64) ea.toNat
          exec (.pref false a b imm) s = .next (u.retire id) ∧
          ((∀ line ∈ (s.core (SlotIx.core s.cur)).l1, line.pa % 128 ≠ pa / 64 % 128) →
            u.mem = t.mem ∧ ∀ q x, u.seen q x = t.seen q x))

/-- R138, R145, R151 and R153: the oldest unperformed entry of a thread for a cluster is performed there, unless the far
side refuses it, which makes POSTED_REFUSED pending in its thread with the entry and the reason, of several the first in the
order of R153 (log 80); the acknowledgement of a performed entry frees it. -/
def Obligations.PostedStores : Prop :=
  ∀ (s : State) (c : CoreIx) (j : JEntry) (before rest : List JEntry), j.entry < 32 →
    (s.core c).journal = before ++ j :: rest → (∀ o ∈ before ++ rest, o.entry ≠ j.entry) →
    let far := s.cluster j.cl
    let there : Prop := (s.cluster (SlotIx.cluster j.w)).part = some j.part
    let accepted : Prop := far.epoch = j.epoch ∧ far.part = some j.part ∧ there ∧
      s.permitted j.cl (s.vcluster (SlotIx.cluster j.w)) (SlotIx.cluster j.w) = true ∧ (∀ l ∈ j.lanes, s.bad l = false)
    let mine : Prop := (∀ o ∈ before, o.w = j.w → o.cl = j.cl → o.state = .performed) ∧
      ∀ g ∈ (s.core c).tile.segments, j.key < g.key ∨ g.goesTo j.uid j.cl = false
    let ready : Prop := j.state = .sent ∧ mine ∧
      ((s.thread j.w).uid = j.uid → ∀ a ∈ (s.thread j.w).outs, ∀ x ∈ a.todo, ∀ l ∈ j.lanes, x.overlaps l = false)
    let marked (st : SendState) (ls : List Lane) (t : State) : Prop :=
      (t.core c).journal = before ++ { j with state := st, lanes := ls } :: rest ∧ t.threads = s.threads ∧ t.mem = s.mem
    let perform : Instr := .postedStorePerform c j.entry (BitVec.allOnes 32)
    (accepted → ready → j.kind = .store →
      (∀ l ∈ j.lanes, 1 ≤ l.size ∧ l.size ≤ 8 ∧ l.lane < 32 ∧ ∃ off, l.place = .remote j.cl off) →
      (j.lanes.map Lane.lane).Pairwise (· < ·) →
      ∃ t, exec perform s = .next t ∧ marked .performed [] t ∧
        (∀ p, (∀ l ∈ j.lanes, ∀ k < l.size, l.spot k ≠ p) → t.byteOf p = s.byteOf p) ∧
        ∀ xs l ys, j.lanes = xs ++ l :: ys → ∀ k < l.size, (∀ h ∈ ys, ∀ i < h.size, h.spot i ≠ l.spot k) →
          t.byteOf (l.spot k) = BitVec.ofNat 8 (l.data.toNat / 256 ^ k)) ∧
    (∀ l word, accepted → ready → j.lanes = [l] → l.place = .remote j.cl (8 * word) →
      (∀ on, j.kind = .mark on → ∃ t, exec perform s = .next t ∧ marked .performed [l] t ∧
        (t.cluster j.cl).mem = far.mem ∧ ∀ n, n ∈ (t.cluster j.cl).full ↔ if n = word then on = true else n ∈ far.full) ∧
      (∀ wait, j.kind = .fill wait →
        (wait = false ∨ (word ∉ far.full ∧ ∀ r ∈ far.fe, r.word = word → r.kind.isLoad = true) →
          ∃ t, exec perform s = .next t ∧ marked .performed [l] t ∧
            (t.cluster j.cl).mem = far.mem.write (8 * word) (natBytes 8 l.data.toNat) ∧
            ∀ n, n ∈ (t.cluster j.cl).full ↔ n = word ∨ n ∈ far.full) ∧
        (wait = true → word ∈ far.full → (far.fe.filter fun r => r.word % 64 = word % 64).length < 64 →
          ∃ t, exec perform s = .next t ∧ marked .queued [l] t ∧
            (t.cluster j.cl) = { far with fe := far.fe ++ [⟨word, .journal j.key, .fill l.data⟩] }))) ∧
    (j.state = .performed → exec (.postedStoreAck c j.entry) s = .next (s.modCore c fun k =>
      { k with journal := before ++ rest })) ∧
    (j.state ≠ .performed → exec (.postedStoreAck c j.entry) s = .next (s.modCore c fun k =>
      { k with journal := before ++ j :: rest })) ∧
    ((∀ id mul edge, j.kind ≠ .arrive id mul edge) → (j.state = .sent ∧ mine) ∨ j.state = .queued →
      (s.thread j.w).uid = j.uid → ∀ reason,
      (reason = 1 ∧ (far.epoch ≠ j.epoch ∨ far.part ≠ some j.part) ∨
       reason = 2 ∧ far.epoch = j.epoch ∧ far.part = some j.part ∧
         (¬there ∨ s.permitted j.cl (s.vcluster (SlotIx.cluster j.w)) (SlotIx.cluster j.w) = false) ∨
       reason = 3 ∧ far.epoch = j.epoch ∧ far.part = some j.part ∧ there ∧
         s.permitted j.cl (s.vcluster (SlotIx.cluster j.w)) (SlotIx.cluster j.w) = true ∧ ∃ l ∈ j.lanes, s.bad l = true) →
      ∃ t, exec (.postedRefused c j.entry) s = .next t ∧
        (t.core c).journal = before ++ { j with state := .refused reason } :: rest ∧
        (∃ xs ys, s.pends j.w 0x28 xs ys ∧ (t.thread j.w).pend =
          xs ++ ⟨0x28, s.now, j.va, BitVec.ofNat 64 (j.entry + 256 * reason), some j.entry, none⟩ :: ys) ∧
        t.mem = s.mem ∧ (∀ p, t.byteOf p = s.byteOf p) ∧ ∀ w, w ≠ j.w → t.thread w = s.thread w)

/-- R41, R140, R366 and R381: what moves lines and translations by itself. An eviction writes a line's dirty bytes and no
other, so that the core still reads what it read; a line fetched holds what the memory behind its address holds, or the
fault that its fetch met; a walk caches its translation; and no event changes a thread or a byte that is not written back.
R378 to R380: what a table entry of each form says at its level, the ten page sizes and their groups of equal entries, and how
the two stages go together: every read of a guest table and the guest's result pass the host stage. -/
def Obligations.CachesAndWalks : Prop :=
  (∀ (rd : Nat → Nat) (guest : Bool) (va level table : Nat), level ≤ 4 →
    let unit := 12 + 9 * level
    let index := va / 2 ^ unit % 512
    let e := rd (table + 8 * index)
    let field (hi lo : Nat) : Nat := e / 2 ^ lo % 2 ^ (hi + 1 - lo)
    let oa := field 51 12 * 4096
    let valid : Prop := field 0 0 = 1 ∧ field 63 52 = 0 ∧ field 11 10 = 0 ∧ field 5 5 = 0 ∧ (guest = true → field 9 9 = 0)
    let sizes : List (Nat × Nat × Nat) :=
      [(0, 0, 12), (0, 1, 14), (0, 2, 16), (0, 3, 18), (0, 4, 20), (1, 0, 21), (1, 1, 24), (1, 2, 26), (1, 3, 28), (2, 0, 30)]
    let absent : Prop := radix (fun a => .ok (rd a)) guest va level table = .ok none
    e < 2 ^ 64 →
      (¬valid → absent) ∧
      (valid → field 1 1 = 1 → (level = 0 ∨ field 8 6 ≠ 0 → absent) ∧
        (level ≠ 0 → field 8 6 = 0 → radix (fun a => .ok (rd a)) guest va level table =
          radix (fun a => .ok (rd a)) guest va (level - 1) oa)) ∧
      (valid → field 1 1 = 0 →
        ((∀ k, (level, field 8 6, k) ∉ sizes) → absent) ∧
        ∀ k, (level, field 8 6, k) ∈ sizes →
          let n := 2 ^ (k - unit)
          let agrees : Prop := oa % 2 ^ k = 0 ∧ ∀ i < n, rd (table + 8 * (index / n * n + i)) = e
          (¬agrees → absent) ∧
          (agrees → ∃ l, radix (fun a => .ok (rd a)) guest va level table = .ok (some l) ∧ l.oa = oa ∧ l.size = 2 ^ k ∧
            l.need = ⟨field 2 2 = 1, field 3 3 = 1, field 4 4 = 1⟩ ∧ l.lg = decide (field 9 9 = 1) ∧ l.level = level ∧
            l.code = field 8 6))) ∧
  (∀ (m : Memory) (p : Partition) (va : Nat) (want : Need), va < 2 ^ 57 →
    let suits (l : Leaf) : Prop := (want.r = true → l.need.r = true) ∧ (want.w = true → l.need.w = true) ∧ (want.x = true → l.need.x = true)
    let host (ipa : Nat) (r : Except WalkErr (Option Leaf)) : Prop := radix (slicedRead m) false ipa 4 p.hroot.toNat = r
    let guest (r : Except WalkErr (Option Leaf)) : Prop := radix (guestRead m p.hroot.toNat) true va 4 p.groot.toNat = r
    let through (ipa gsize : Nat) (g : Need) : Prop :=
      (host ipa (.ok none) → walk m p va want = .error (.host ipa)) ∧
      ∀ l, host ipa (.ok (some l)) →
        (¬suits l → walk m p va want = .error (.host ipa)) ∧
        (suits l → ∃ r, walk m p va want = .ok r ∧ r.entry.size = min gsize l.size ∧
          r.entry.base = va / r.entry.size * r.entry.size ∧ r.entry.pa + (va - r.entry.base) = l.oa + ipa % l.size ∧
          r.entry.r = (g.r && l.need.r) ∧ r.entry.w = (g.w && l.need.w) ∧ r.entry.x = (g.x && l.need.x) ∧ r.host = l)
    (∀ pa, slicedRead m pa = if pa / 2 ^ 48 % 16 = 15 then .error .aperture else .ok (m.word pa 8)) ∧
    (∀ ipa, (host ipa (.ok none) → guestRead m p.hroot.toNat ipa = .error (.host ipa)) ∧
      ∀ l, host ipa (.ok (some l)) → (l.need.r = false → guestRead m p.hroot.toNat ipa = .error (.host ipa)) ∧
        (l.need.r = true → guestRead m p.hroot.toNat ipa = slicedRead m (l.oa + ipa % l.size))) ∧
    (p.gstage = false → through va (2 ^ 57) ⟨true, true, true⟩) ∧
    (p.gstage = true →
      (guest (.ok none) → walk m p va want = .error .absent) ∧
      ∀ g, guest (.ok (some g)) →
        (¬suits g → walk m p va want = .error .perm) ∧ (suits g → through (g.oa + va % g.size) g.size g.need))) ∧
  ∀ (s : State) (c : CoreIx),
    (∀ (p : PartIx) (va : Nat) (want : Need),
      (∀ e ∈ (s.core c).tlb ++ (s.cluster (CoreIx.cluster c)).tlb, e.serves (s.logArmed p) want va = false) →
        (walk s.mem (s.part p) va want = .error .absent → (s.translate c p va want).2 = .absent) ∧
        (walk s.mem (s.part p) va want = .error .perm → (s.translate c p va want).2 = .perm 0) ∧
        (walk s.mem (s.part p) va want = .error .aperture → (s.translate c p va want).2 = .perm 7) ∧
        (∀ ipa, walk s.mem (s.part p) va want = .error (.host ipa) → (s.translate c p va want).2 = .host ipa) ∧
        ∀ r, walk s.mem (s.part p) va want = .ok r → s.logArmed p = false →
          (s.translate c p va want).2 = .ok (r.entry.pa + (va - r.entry.base))) ∧
    (∀ (n : Nat) (line : L1Line), (s.core c).l1.find? (fun l => l.pa == n) = some line → line.bytes.length = 64 →
      ∃ t, exec (.l1Eviction c n) s = .next t ∧ t.threads = s.threads ∧ t.clusters = s.clusters ∧
        (∀ l ∈ (t.core c).l1, l.pa ≠ n) ∧ (∀ l ∈ (s.core c).l1, l.pa ≠ n → l ∈ (t.core c).l1) ∧
        (∀ k < 64, t.mem.get (64 * n + k) = if line.dirty.getLsbD k then line.bytes.getD k 0 else s.mem.get (64 * n + k)) ∧
        ∀ a, a / 64 ≠ n → t.mem.get a = s.mem.get a) ∧
    (∀ n, (∀ l ∈ (s.core c).l1, l.pa ≠ n) → exec (.l1Eviction c n) s = .next (s.modCore c id)) ∧
    (∀ va : W64, va.toNat % 64 = 0 → (s.cluster (CoreIx.cluster c)).part ≠ none →
      (∀ l ∈ (s.core c).icache, l.va ≠ va) →
        exec (.icacheFill c va) s = .next (s.fetchLine c va).1 ∧
        (∀ bs t, s.readLine c (s.partOf (CoreIx.cluster c)) va = (t, .line bs) →
          ∃ u, exec (.fetchAhead c va) s = .next u ∧ u.threads = s.threads ∧ u.mem = t.mem ∧
            ∃ l ∈ (u.core c).icache, l.va = va ∧ l.bytes = bs ∧
              (l.poison = if s.ue.contains (.icache c va) then some 0x0B else none)) ∧
        ∀ code t, s.readLine c (s.partOf (CoreIx.cluster c)) va = (t, .fault code) →
          ∃ u, exec (.fetchAhead c va) s = .next u ∧ u.threads = s.threads ∧ u.mem = t.mem ∧
            ∃ l ∈ (u.core c).icache, l.va = va ∧ l.poison = some code) ∧
    ∀ (va : W64) (write : Bool), va.toNat < 2 ^ 57 → (s.cluster (CoreIx.cluster c)).part ≠ none →
      let p := s.partOf (CoreIx.cluster c)
      let want := if write then needW else needR
      (∀ e, walk s.mem (s.part p) va.toNat want = .error e → exec (.pageWalkComplete c va write) s = .next s) ∧
      ∀ r, walk s.mem (s.part p) va.toNat want = .ok r → (s.page (funcOf p)).log.arm = false →
        ∃ t, exec (.pageWalkComplete c va write) s = .next t ∧ t.threads = s.threads ∧ t.mem = s.mem ∧
          r.entry ∈ (t.core c).tlb ∧ r.entry ∈ (t.cluster (CoreIx.cluster c)).tlb

/-- R178, R179, R182, R184 and R185: an atomic whose address passes its checks becomes outstanding with its operand, the
thread's multiplicity and its destination, and its thread goes on; a fault is exact, an uncorrectable error of its word or of
its way (R419) among them, and an atomic waits for every earlier access unless rlx marks it. -/
def Obligations.AtomicsIssue : Prop :=
  ∀ (s t : State) (op : AmoOp) (ty : AmoTy) (d a b c : GReg) (rlx : Bool),
    let ea : W64 := BitVec.ofNat 64 ((s.me.greg a).toNat + (s.me.greg b).toNat)
    let n := if ty = .i64 then 8 else 4
    let low (r : GReg) : W64 := BitVec.ofNat 64 ((s.me.greg r).toNat % 2 ^ (8 * n))
    let mul := s.me.mul.toNat
    let amo : Instr := if rlx then .rlx else .amo op ty false d a b c
    let cas : Instr := if rlx then .rlx else .amocas ty d a b c
    let last := if rlx then s.me.ip + 1 else s.me.ip
    let issues (k : AccKind) (ls : List Lane) : Out := .next (t.goTo (t.after (SlotIx.core s.cur) last) fun x =>
      { x with outs := x.outs ++ [⟨k, rlx, ls, [], [], []⟩] })
    let mayIssue : Prop := if rlx then (s.me.outs.filter Access.rlx).length < 8 else s.me.outs = []
    (s.me.outs ≠ [] → ∀ det, s.waits (.amo op ty det d a b c) .access ∧ s.waits (.amocas ty d a b c) .access) ∧
    (mayIssue → (rlx = true → s.marked = .ok (.amo op ty false d a b c)) → s.plain [.g a, .g b, .g c] [.g d] →
      (∀ code va aux, checkAddr (amoSpec n false) 0 ea s = .error (.trap code va aux) → s.traps amo code va aux) ∧
      ∀ l, checkAddr (amoSpec n false) 0 ea s = .ok (l, t) → t.unblocked l true →
        (t.fails s.cur l = true → s.traps amo 0x0C ea 0) ∧
        (t.fails s.cur l = false → exec amo s = issues (.amo op ty (.reg d) mul) [{ l with data := low c }])) ∧
    (mayIssue → (rlx = true → s.marked = .ok (.amocas ty d a b c)) → s.plain [.g a, .g b, .g c, .g d] [.g d] →
      (∀ code va aux, checkAddr (amoSpec n false) 0 ea s = .error (.trap code va aux) → s.traps cas code va aux) ∧
      ∀ l, checkAddr (amoSpec n false) 0 ea s = .ok (l, t) → t.unblocked l true →
        (t.fails s.cur l = true → s.traps cas 0x0C ea 0) ∧
        (t.fails s.cur l = false → exec cas s = issues (.amocas ty (.reg d) (low d)) [{ l with data := low c }])) ∧
    ∀ (vd vb vc : VReg) (imm : BitVec 16) (k : KReg),
      let address (i : Fin 32) : W64 := BitVec.ofInt 64 ((s.me.greg a).toNat + (s.me.v[vb][i]).toNat * 4 + imm.toInt)
      let lanes : List (Nat × W64) :=
        ((List.finRange 32).filter fun i : Fin 32 => (s.me.kreg k).getLsbD i.val).map fun i => (i.val, address i)
      let vamo : Instr := if rlx then .rlx else .vamo op ty false vd a vb vc imm k
      mayIssue → (rlx = true → s.marked = .ok (.vamo op ty false vd a vb vc imm k)) → s.plain [.g a, .v vb, .v vc] [.v vd] →
        (∀ ls i va rest code x aux, lanes = ls ++ (i, va) :: rest → checkLanes (amoSpec 4 false) ls s = .ok x →
          checkAddr (amoSpec 4 false) i va x.2 = .error (.trap code va aux) → s.traps vamo code va aux) ∧
        ∀ ls, checkLanes (amoSpec 4 false) lanes s = .ok (ls, t) → (∀ l ∈ ls, t.unblocked l true ∧ t.fails s.cur l = false) →
          (ls ≠ [] → exec vamo s = issues (.vamo op ty (some vd) mul) (ls.map fun l =>
            { l with data := BitVec.ofNat 64 (s.me.v[vc][Fin.ofNat 32 l.lane]).toNat })) ∧
          (ls = [] → exec vamo s = .next (t.goTo (t.after (SlotIx.core s.cur) last) fun x => x.setV vd s.me.v[vd]))

/-- R156, R157, R180, R182 to R184: the slice performs one atomic as one step, after every core's L1 has written back and
given up the line, from which on the word has its single copy at the slice (log 62): the word takes the new value of the operation's row, with the operand adjusted for the multiplicity, the old
value goes to the destination as the width says, and nothing else changes. -/
def Obligations.AtomicsPerform : Prop :=
  ∀ (s : State) (w : SlotIx) (l : Lane) (pa : Nat) (op : AmoOp) (ty : AmoTy) (d : GReg) (m : Nat) (rlx : Bool)
    (rest : List Access),
    let n := if ty = .i64 then 8 else 4
    let u := s.flushFor pa n
    let o := u.mem.word pa n
    let v := l.data.toNat
    let sgn (x : Nat) : Int := if x < 2 ^ (8 * n - 1) then x else (x : Int) - 2 ^ (8 * n)
    let old : W64 := match ty with
      | .i32 => BitVec.ofInt 64 (sgn o)
      | .i64 | .f32 => BitVec.ofNat 64 o
    let scaled : Nat × Flags := finish fmtF32 .rne false ((fmtF32.val v).mul (.fin false m 0))
    let new : Nat := match op with
      | .add => (o + v * m) % 2 ^ (8 * n)
      | .and => o &&& v
      | .or => o ||| v
      | .xor => if m % 2 = 0 then o else o ^^^ v
      | .mins => if sgn v < sgn o then v else o
      | .maxs => if sgn v > sgn o then v else o
      | .minn => min o v
      | .maxn => max o v
      | .swap => v
      | .fadd => (fAdd fmtF32 .rne o scaled.1).1
      | .fmin => (fMinMax fmtF32 false o v).1
      | .fmax => (fMinMax fmtF32 true o v).1
    let writes (x : Nat) : State := { u with mem := u.mem.write pa (natBytes n x) }
    let ends (x : State) : State := x.modThread w fun t => { t with outs := rest }.setG d old
    (pa % n = 0 →
      u.threads = s.threads ∧ u.clusters = s.clusters ∧ (∀ k < n, u.atSlice (pa + k) = true) ∧
      (∀ c, ∀ x ∈ (u.core c).l1, x.pa ≠ pa / 64) ∧ (∀ a, a / 64 ≠ pa / 64 → u.mem.get a = s.mem.get a) ∧
      ((∀ c, ∀ x ∈ (s.core c).l1, x.pa ≠ pa / 64) → u.mem = s.mem) ∧
      ∀ c line, (s.core c).l1.find? (fun x => x.pa == pa / 64) = some line → line.bytes.length = 64 →
        (∀ q, q ≠ c → ∀ x ∈ (s.core q).l1, x.pa ≠ pa / 64) → ∀ k < 64, u.mem.get (64 * (pa / 64) + k) =
          if line.dirty.getLsbD k then line.bytes.getD k 0 else s.mem.get (64 * (pa / 64) + k)) ∧
    (l.place = .global pa → l.size = n → l.lane < 32 → v < 2 ^ (8 * n) → (s.sendOut w = false ∨ rlx = true) →
      ((s.thread w).outs = ⟨.amo op ty (.reg d) m, rlx, [l], [], [], []⟩ :: rest →
        exec (.atomicPerform w 0 l.lane) s = .next (ends (writes new))) ∧
      (∀ x : W64, (s.thread w).outs = ⟨.amocas ty (.reg d) x, rlx, [l], [], [], []⟩ :: rest → ty ≠ .f32 →
        (o = v → exec (.atomicPerform w 0 l.lane) s = .next (ends (writes x.toNat))) ∧
        (o ≠ v → exec (.atomicPerform w 0 l.lane) s = .next (ends u))) ∧
      ∀ (vd : VReg) (ls : List Lane) (got : List (Nat × W64)), ty ≠ .i64 →
        (s.thread w).outs = ⟨.vamo op ty (some vd) m, rlx, l :: ls, got, [], []⟩ :: rest →
        (∀ x ∈ ls, l.lane < x.lane ∧ x.lane < 32) → (∀ g ∈ got, g.1 < 32 ∧ g.1 ≠ l.lane) →
          (ls ≠ [] → exec (.atomicPerform w 0 l.lane) s = .next ((writes new).modThread w fun t =>
            { t with outs := ⟨.vamo op ty (some vd) m, rlx, ls, got ++ [(l.lane, BitVec.ofNat 64 o)], [], []⟩ :: rest })) ∧
          (ls = [] → exec (.atomicPerform w 0 l.lane) s = .next ((writes new).modThread w fun t =>
            { t with outs := rest }.setV vd (mergeLanes false t.v[vd] (got ++ [(l.lane, BitVec.ofNat 64 o)])))))

/-- R187 to R192: a det update takes a sequence number of its team index and a reservation, and its thread waits; without
room or with the counter exhausted it traps exactly; the slice accepts it into the word's buffer, into a free one, or into
the lowest free record of the spill area, whose host-stage failure first asks the host (R382; log 28), and if that record
cannot be written the instruction traps exactly and takes no number, unless its team index has taken a later one since (log 13);
and the mode's registers ignore a write while updates are outstanding. -/
def Obligations.DeterministicUpdates : Prop :=
  (∀ (s t : State) (op : AmoOp) (ty : AmoTy) (d a b c : GReg) (l : Lane) (tm : Team),
    let ea : W64 := BitVec.ofNat 64 ((s.me.greg a).toNat + (s.me.greg b).toNat)
    let p := s.partOf (SlotIx.cluster s.cur)
    let tid := s.me.tid.toNat
    let seq := ((tm.det.find? fun x => x.1 == tid).map Prod.snd).getD 0
    let part := t.part p
    let cap := (part.capAt t.now).toNat
    let key : W64 := BitVec.ofNat 64 ((s.me.team.toNat * 128 + tid) * 2 ^ 25 + seq * 2 + if op = .fadd then 1 else 0)
    s.me.outs = [] → s.plain [.g a, .g b, .g c] [.g d] → ty ≠ .i64 →
      checkAddr (amoSpec 4 true) 0 ea s = .ok (l, t) → t.unheld l true → t.teamOf s.me = some tm →
      (2 ^ 24 - 1 ≤ seq → s.traps (.amo op ty true d a b c) 0x30 ea 2) ∧
      (seq < 2 ^ 24 - 1 → part.reserved + part.spills.length ≥ cap → s.traps (.amo op ty true d a b c) 0x30 ea 1) ∧
      (seq < 2 ^ 24 - 1 → part.reserved + part.spills.length < cap →
        ∃ y, exec (.amo op ty true d a b c) s = .next y ∧ y.me.wait = .det none none ∧ y.me.g = s.me.g ∧ y.me.v = s.me.v ∧
          y.me.outs = [⟨.det op (.reg d) s.me.mul.toNat, false,
            [{ l with data := BitVec.ofNat 64 ((s.me.greg c).toNat % 2 ^ 32) }], [], [(0, key)], []⟩] ∧
          y.me.ip = s.me.ip ∧ y.me.resume = y.following ∧ (y.part p).reserved = part.reserved + 1 ∧ y.mem = t.mem ∧
          y.buffers = s.buffers ∧
          (∀ x, y.teamOf s.me = some x → ((x.det.find? fun z => z.1 == tid).map Prod.snd).getD 0 = seq + 1) ∧
          ∀ w, w ≠ s.cur → y.thread w = s.thread w)) ∧
  (∀ (s : State) (w : SlotIx) (l : Lane) (pa : Nat) (op : AmoOp) (d : GReg) (m : Nat) (key : W64) (rest : List Access),
    let p := s.partOf (SlotIx.cluster w)
    let u := s.flushFor pa 4
    let slice := (pa / 2 ^ 8 ^^^ pa / 2 ^ 14 ^^^ pa / 2 ^ 20) % 64
    let value : W32 := BitVec.ofNat 32 (if op = .fadd then
        (finish fmtF32 .rne false ((fmtF32.val l.data.toNat).mul (.fin false m 0))).1 else l.data.toNat * m)
    let same (b : Buffer) : Prop := b.part = p ∧ b.pa = pa
    let accepts (bs : List Buffer) (part : Partition) : Prop :=
      ∃ y, exec (.detUpdateAccept w 0 l.lane) s = .next y ∧ y.buffers = bs ∧ y.part p = part ∧
        y.thread w = { s.thread w with outs := rest, wait := .run, popped := [], edgeDone := false, parks := false, ip := (s.thread w).resume }.setG d 0 ∧
        y.mem = u.mem
    (op = .add ∨ op = .fadd) → l.place = .global pa → l.size = 4 → l.lane < 32 → s.sendOut w = false →
      (s.thread w).outs = ⟨.det op (.reg d) m, false, [l], [], [(l.lane, key)], []⟩ :: rest →
      (∀ before b after, s.buffers = before ++ b :: after → same b → (∀ x ∈ before ++ after, ¬same x) →
        b.entries.length < 16 →
        accepts (before ++ { b with entries := b.entries ++ [(key, value)] } :: after)
          { s.part p with reserved := (s.part p).reserved - 1 }) ∧
      ((∀ b ∈ s.buffers, ¬same b) → (s.buffers.filter fun b => b.slice = slice).length < 64 →
        accepts (s.buffers ++ [⟨p, slice, pa, [(key, value)]⟩]) { s.part p with reserved := (s.part p).reserved - 1 }) ∧
      (((∃ b ∈ s.buffers, same b) → ∃ before b after, s.buffers = before ++ b :: after ∧ same b ∧ 16 ≤ b.entries.length ∧
          ∀ x ∈ before, ¬same x) →
        ((∀ b ∈ s.buffers, ¬same b) → 64 ≤ (s.buffers.filter fun b => b.slice = slice).length) →
        ∀ index spa x, (∀ i ≤ index, (∃ r ∈ (s.part p).spills, r.index = i) ↔ i < index) →
          let spill : W64 := BitVec.ofNat 64 ((s.part p).detspill.toNat * 64 + 16 * index)
          ((∀ b ∈ s.buffers, b.entries ≠ [] ∧ ∀ e ∈ b.entries, e.1 ≠ key) → (∀ r ∈ (s.part p).spills, r.key ≠ key) →
            (∃ code y z, u.step5 w needW 0 spill = .error (.trap code y z)) ∨
              (∃ ipa code y z asked, u.step5 w needW 0 spill = .error (.host ipa code y z) ∧
                (s.thread w).wait = .det asked (some ipa)) → spill.toNat < 2 ^ 57 →
            ∃ y : State, exec (.detUpdateAccept w 0 l.lane) s = .next (y.takeTrap w false 0x30 (s.thread w).ip l.va 3) ∧
              y.thread w = { s.thread w with outs := rest, wait := .run, popped := [] } ∧ y.buffers = s.buffers ∧
              (y.part p).spills = (s.part p).spills ∧ (y.part p).reserved = (s.part p).reserved - 1 ∧ y.mem = u.mem ∧
              ∀ tm y', s.teamOf (s.thread w) = some tm → y.teamOf (s.thread w) = some y' →
                let tid := (s.thread w).tid.toNat
                let me := tm.team.toNat * 128 + tid
                let n := detCount tm tid
                (me ∈ y.issuers p → detCount y' tid = if n = key.toNat / 2 % 2 ^ 24 + 1 then n - 1 else n) ∧
                (me ∉ y.issuers p → tm.part = p → detCount y' tid = 0)) ∧
          (∀ ipa code y z asked declined, u.step5 w needW 0 spill = .error (.host ipa code y z) → spill.toNat < 2 ^ 57 →
            (s.thread w).wait = .det asked declined → declined ≠ some ipa →
            (asked = some ipa → exec (.detUpdateAccept w 0 l.lane) s = .next u) ∧
            (asked ≠ some ipa → exec (.detUpdateAccept w 0 l.lane) s = .next
              ((u.hostWait w ipa).modThread w fun t => { t with wait := .det (some ipa) declined }))) ∧
          (spill.toNat < 2 ^ 57 → u.step5 w needW 0 spill = .ok (spa, x) → ∃ y,
            exec (.detUpdateAccept w 0 l.lane) s = .next y ∧ y.buffers = s.buffers ∧
            (y.part p).spills = (s.part p).spills ++ [⟨index, slice, pa, key, value⟩] ∧
            (y.part p).reserved = (s.part p).reserved - 1 ∧
            y.mem = x.mem.write spa (natBytes 8 key.toNat ++ natBytes 4 value.toNat ++
              natBytes 4 (l.va.toNat % 2 ^ 34 / 4))))) ∧
  ∀ (s : State) (p : PartIx) (x : W64),
    let quiet : Prop := (s.part p).reserved = 0 ∧ (s.part p).spills = []
    (quiet → exec (.detspillWrite p x) s = .next (s.modPart p fun y => { y with detspill := x.extractLsb' 6 51 }) ∧
      exec (.detspillnWrite p x) s = .next (s.modPart p fun y =>
        { y with cap := x.setWidth 32, capWas := some (s.now, y.capAt s.now) })) ∧
    (¬quiet → exec (.detspillWrite p x) s = .next s ∧ exec (.detspillnWrite p x) s = .next s) ∧
    (quiet → (∀ b ∈ s.buffers, b.part ≠ p) →
      exec (.detmWrite p x) s = .next (s.modPart p fun y => { y with detm := x.extractLsb' 34 23 })) ∧
    (¬quiet ∨ (∃ b ∈ s.buffers, b.part = p) → exec (.detmWrite p x) s = .next s)

/-- R159 and R193 to R195: a drain waits for what its thread did before, its messages among it (log 65), sends its marker to
every slice, those of one cycle in slot order, and waits; a slice that the marker reaches applies what it holds of each word in
ascending key and frees it, but for the lanes of an access that is not accepted as a whole (log 13), taking spill records as
they were accepted (log 84); a word that cannot be read is withheld, and the last slice completes the drain with the number
applied. -/
def Obligations.Drains : Prop :=
  (∀ (s : State) (d : GReg), s.plain [] [.g d] →
    let p := s.partOf (SlotIx.cluster s.cur)
    (¬s.settledIn → ∃ why, s.waits (.amodrain d) why) ∧
    (s.settledIn → ∃ y, exec (.amodrain d) s = .next y ∧ y.me.wait = .drain (.reg d) 0 false ∧
      y.me.g = s.me.g ∧ y.me.ip = s.me.ip ∧ y.me.resume = s.following ∧
      (∃ xs ys, (s.part p).drains = xs ++ ys ∧ (y.part p).drains = xs ++ ⟨s.cur, s.me.uid, s.now, BitVec.allOnes 64⟩ :: ys ∧
        (∀ x ∈ xs, x.entered = s.now → x.w.val ≤ s.cur.val) ∧ ∀ x ∈ ys.head?, x.entered = s.now ∧ s.cur.val < x.w.val) ∧ y.mem = s.mem ∧
      ∀ w, w ≠ s.cur → y.thread w = s.thread w)) ∧
  ∀ (s : State) (p : PartIx) (slice : Fin 64) (dr : Drain) (later : List Drain) (d : GReg) (k : Nat) (bad : Bool),
    let left : W64 := dr.pending &&& ~~~(BitVec.ofNat 64 (2 ^ slice.val))
    let t := s.thread dr.w
    let ends (n : Nat) (b : Bool) (y : State) : Prop :=
      (left ≠ 0 → (y.part p).drains = { dr with pending := left } :: later ∧
        y.thread dr.w = { t with wait := .drain (.reg d) n b }) ∧
      (left = 0 → (y.part p).drains = later ∧ (y.thread dr.w).wait = .run ∧ (y.thread dr.w).ip = t.resume ∧
        (d.val ≠ 0 → (y.thread dr.w).greg d = BitVec.ofNat 64 (n + if b then 2 ^ 63 else 0)))
    (s.part p).drains = dr :: later → dr.pending.getLsbD slice.val = true → (∀ x ∈ later, x ≠ dr ∧ x.pending ≠ 0) →
      t.uid = dr.uid → t.wait = .drain (.reg d) k bad → k < 2 ^ 40 →
      (s.detWords p slice.val = [] → ∃ y, exec (.drainMarker p slice) s = .next y ∧ y.mem = s.mem ∧ y.buffers = s.buffers ∧
        ends k bad y) ∧
      ∀ pa, s.detWords p slice.val = [pa] →
        let held := ((s.buffers.filter fun b => b.part == p && b.pa == pa).flatMap Buffer.entries ++
          ((s.part p).spills.filter fun x => x.pa == pa).map fun x => (x.key, x.value)).filter fun e => e.1 ∉ s.openKeys p
        held.length < 2 ^ 40 →
        (s.badWord pa = true → ∃ y, exec (.drainMarker p slice) s = .next y ∧ y.mem = s.mem ∧ y.buffers = s.buffers ∧
          y.mgmt.ueReports = s.mgmt.ueReports + 1 ∧ ends k true y) ∧
        (s.badWord pa = false → ∃ (y : State) (order : List (W64 × W32)), exec (.drainMarker p slice) s = .next y ∧
          order.Perm held ∧ order.Pairwise (fun x y => x.1.toNat ≤ y.1.toNat) ∧
          y.mem = s.mem.write pa (natBytes 4 (order.foldl (fun x e =>
            if e.1.toNat % 2 = 1 then (fAdd fmtF32 .rne x e.2.toNat).1 else (x + e.2.toNat) % 2 ^ 32) (s.mem.word pa 4))) ∧
          (∀ b ∈ y.buffers, b.part = p → b.pa = pa → ∀ e ∈ b.entries, e.1 ∈ s.openKeys p) ∧
          (∀ x ∈ (y.part p).spills, x.pa = pa → x.key ∈ s.openKeys p) ∧
          (∀ b ∈ s.buffers, b.part = p → b.pa = pa → ∀ e ∈ b.entries, e.1 ∈ s.openKeys p →
            ∃ z ∈ y.buffers, z.part = p ∧ z.pa = pa ∧ e ∈ z.entries) ∧
          (∀ b ∈ s.buffers, b.part ≠ p ∨ b.pa ≠ pa → b.entries ≠ [] →
            (b.part = p → ∀ e ∈ b.entries, ∀ h ∈ held, e.1 ≠ h.1) → b ∈ y.buffers) ∧ ends (k + held.length) bad y)

/-- R201, R206, R214 and R215: rgn stages a record and rgnclr empties the set; rgnadd adds a record to the running task
once no earlier task conflicts with it, for each of its threads, and this core then invalidates its lines within the record;
the exact REGION_FULL of each cause, the eight records counted over the task and every thread that has records of its own
(log 11). -/
def Obligations.RegionRecords : Prop :=
  ∀ (s : State) (mode : RgnMode) (a b : GReg),
    let base := (s.me.greg a).toNat
    let extent := (s.me.greg b).toNat
    let code := match mode with
      | .r => 1
      | .w => 2
      | .rw => 3
      | .nc => 4
      | .a => 5
    let r : Region := BitVec.ofNat 128 (code * 2 ^ 104 + extent * 2 ^ 64 + base)
    let fits : Prop := extent < 2 ^ 40 ∧ base + extent ≤ 2 ^ 57
    let conflicts (k : Task) : Prop := ∃ x ∈ k.regions, regionsConflict r x = true
    let added (w : SlotIx) (before : List Task) (k : Task) (after : List Task) (y : State) : Prop :=
      (∃ tm, y.runs (y.thread w) tm before { k with regions := k.regions ++ [r] } after) ∧ y.mem = s.mem ∧
      y.records (y.thread w) = s.records (s.thread w) ++ [r] ∧
      (y.thread w).g = (s.thread w).g ∧ (y.thread w).v = (s.thread w).v ∧
      (2 ≤ k.threads → ∀ q, q ≠ w → (s.thread w).sameTask (s.thread q) = true →
        (∀ x, (s.thread x).uid = (s.thread q).uid → x = q) → (y.thread q).view = (s.thread q).view.map fun rs => rs ++ [r]) ∧
      (extent ≠ 0 → (y.thread w).wait = .skimmer ∧ y.skims (SlotIx.core w) .invalidate [r] (s.thread w).uid .finish) ∧
      (extent = 0 → (y.thread w).wait = .run)
    exec .rgnclr s = .next (s.retire fun t => { t with staged := [] }) ∧
    (s.plain [.g a, .g b] [] →
      (8 ≤ s.me.staged.length → s.traps (.rgn mode a b) 0x09 0 1) ∧
      (s.me.staged.length < 8 → ¬fits → s.traps (.rgn mode a b) 0x09 0 2) ∧
      (s.me.staged.length < 8 → fits →
        exec (.rgn mode a b) s = .next (s.retire fun t => { t with staged := t.staged ++ [r] })) ∧
      ∀ tm before k after, s.runs s.me tm before k after →
        let count := s.recordCount s.me
        ((s.records s.me).length ≤ count ∧ k.regions.length ≤ count ∧
          (2 ≤ k.threads → ∀ q rs, s.me.sameTask (s.thread q) = true → (s.thread q).view = some rs → rs.length ≤ count) ∧
          (count = (s.records s.me).length ∨ count = k.regions.length ∨ ∃ x ∈ s.viewers s.me, count = (s.records x).length)) ∧
        (8 ≤ count → s.traps (.rgnadd mode a b) 0x09 0 1) ∧
        (count < 8 → ¬fits → s.traps (.rgnadd mode a b) 0x09 0 2) ∧
        (count < 8 → fits → (∃ x ∈ after, x.begun = true ∧ conflicts x) → s.traps (.rgnadd mode a b) 0x09 0 3) ∧
        (count < 8 → fits → (∀ x ∈ after, x.begun = true → ¬conflicts x) →
          ((∃ x ∈ before, conflicts x) → exec (.rgnadd mode a b) s = .next (s.modMe fun t =>
            { t with wait := .rgnadd r, resume := s.following, parkedAt := s.myCore.cycle })) ∧
          ((∀ x ∈ before, ¬conflicts x) → ∃ y, exec (.rgnadd mode a b) s = .next y ∧ added s.cur before k after y ∧
            (extent = 0 → y.me.ip = s.following) ∧ (extent ≠ 0 → y.me.ip = s.me.ip ∧ y.me.resume = s.following)))) ∧
    ∀ (w : SlotIx) tm before k after, (s.thread w).wait = .rgnadd r → s.runs (s.thread w) tm before k after → fits →
      ((∃ x ∈ before, conflicts x) → exec (.rgnaddAppend w) s = .next s) ∧
      ((∀ x ∈ before, ¬conflicts x) → 8 ≤ s.recordCount (s.thread w) →
        exec (.rgnaddAppend w) s = .next (s.modThread w fun t => { t with wait := .run })) ∧
      ((∀ x ∈ before, ¬conflicts x) → s.recordCount (s.thread w) < 8 → ∃ y, exec (.rgnaddAppend w) s = .next y ∧ added w before k after y ∧
        (extent = 0 → (y.thread w).ip = (s.thread w).resume))

/-- R204, R205, R208, R216 and R217: spawn pushes its continuation and runs its child before it in the list; fork places an
arm after the forking task in the nearest free slot, with the registers its mask selects; both check their target first,
and wait or refuse as the rules say. An arm for another core waits for the write-back of the forker's dirty bytes (R162). -/
def Obligations.SpawnAndFork : Prop :=
  ∀ (s t : State) (d a : GReg) (target : BitVec 32) (tm : Team) (before after : List Task) (k : Task) (ps : List Parcel),
    let dest : W64 :=
      BitVec.ofInt 64 ((s.me.ip.toNat / 64 * 64 : Nat) + 64 * (target.toInt / 32) + (target.toNat % 32 : Nat))
    let here := SlotIx.core s.cur
    let entered : Prop := s.enter here dest = (t, .ok ps)
    let full : Prop := 1024 ≤ ((t.cluster s.me.home).teams.map fun x => x.tasks.length).sum
    let child : Task := ⟨tm.nextTask, s.me.staged, false, true, 1, 0⟩
    let mask := s.me.greg a
    s.settledIn → s.runs s.me tm before k after → t.teamOf s.me = some tm → (∀ x ∈ tm.tasks, x.id < tm.nextTask) →
      (∀ u code aux, s.enter here dest = (u, .fault code aux) →
        s.traps (.spawn target) code dest aux ∧ s.traps (.fork d a target) code dest aux) ∧
      (entered → 64 ≤ t.myCore.deque.length ∨ full → s.waits (.spawn target) .deque) ∧
      (entered → t.myCore.deque.length < 64 → ¬full → ∃ y e, exec (.spawn target) s = .next y ∧
        y.me.ip = dest ∧ y.me.task = tm.nextTask ∧ y.me.staged = [] ∧ y.me.framep = 0 ∧ y.me.g = s.me.g ∧ y.me.v = s.me.v ∧
        y.me.k = s.me.k ∧ y.arrivedAt s.cur ∧ y.mem = t.mem ∧ y.myCore.deque = t.myCore.deque ++ [e] ∧
        (∀ i : Fin 8, e.g[i] = s.me.g[i.val]) ∧ e.ip = t.following ∧ e.regions = s.records s.me ∧ e.framep = s.me.framep ∧
        e.seq = BitVec.ofNat 64 tm.spawns ∧ e.idset = s.me.idset ∧ e.team = s.me.team ∧ e.tid = s.me.tid ∧
        e.mul = s.me.mul ∧ e.vstat = s.me.vstat ∧ e.rngkey = s.me.rngkey ∧ e.rngctr = s.me.rngctr ∧ e.task = s.me.task ∧
        ∃ tm', y.runs y.me tm' before { child with member := false } ({ k with threads := k.threads - 1, conts := k.conts + 1 } :: after) ∧
          tm'.spawns = tm.spawns + 1 ∧ tm'.nextTask = tm.nextTask + 1) ∧
      (entered → t.plain [.g a] [.g d] → (∀ r, mask.getLsbD (unified r).toNat = true → t.pending s.cur r = false) →
        (∀ p ∈ s.me.poison, mask.getLsbD p.reg.toNat = false) →
        (tm.used = BitVec.allOnes 128 → exec (.fork d a target) s = .next (t.retire fun x => x.setG d 0x8000000000000001)) ∧
        (tm.used ≠ BitVec.allOnes 128 → full ∨ t.slotNear here = none → s.waits (.fork d a target) .slot) ∧
        (¬full → ∀ (x : Nat) (w : SlotIx), x < 128 → tm.used.getLsbD x = false → (∀ i < x, tm.used.getLsbD i = true) →
          t.slotNear here = some w → w ≠ s.cur → s.me.edgeDone = false → SlotIx.core w ≠ here → t.edgeRecords s.me ≠ [] →
          ∃ y, exec (.fork d a target) s = .next y ∧ y.me.wait = .skimmer ∧ y.me.ip = s.me.ip ∧ y.mem = s.mem ∧
            y.skims here .writeBack (t.edgeRecords s.me) s.me.uid .again) ∧
        (¬full → ∀ (x : Nat) (w : SlotIx), x < 128 → tm.used.getLsbD x = false → (∀ i < x, tm.used.getLsbD i = true) →
          t.slotNear here = some w → w ≠ s.cur → (SlotIx.core w = here ∨ s.me.edgeDone = true ∨ t.edgeRecords s.me = []) →
          ∃ y, exec (.fork d a target) s = .next y ∧
          (d.val ≠ 0 → y.me.greg d = BitVec.ofNat 64 (t.vcluster (SlotIx.cluster w) * 128 + w.val % 128)) ∧
          y.me.staged = [] ∧ y.me.task = s.me.task ∧ y.mem = t.mem ∧
          (∀ i : GReg, (y.thread w).greg i = if mask.getLsbD i.val then s.me.greg i else 0) ∧
          (∀ i : VReg, (y.thread w).v[i] = if mask.getLsbD (32 + i.val) then s.me.v[i] else Vector.replicate 32 0) ∧
          (y.thread w).ip = dest ∧ (y.thread w).tid = BitVec.ofNat 7 x ∧ (y.thread w).mul = 1 ∧
          (y.thread w).idset = BitVec.ofNat 128 (2 ^ x) ∧ (y.thread w).team = tm.team ∧ (y.thread w).trapvec = tm.vector ∧
          (y.thread w).framep = 0 ∧ (y.thread w).qmap = 0 ∧ (y.thread w).k = Vector.replicate 8 0 ∧ (y.thread w).occ = true ∧
          y.arrivedAt w ∧ ∃ tm', y.runs (y.thread w) tm' (before ++ [k]) child after ∧ tm'.weight = tm.weight + 1 ∧
            tm'.used = tm.used ||| BitVec.ofNat 128 (2 ^ x) ∧ tm'.spawns = tm.spawns + 1))

/-- R22, R209, R210, R223 and R224: a core pops the near end of its deque into its lowest free slot; an idle core asks the
next victim and takes the far end of its deque, or the answer empty, after which its next request goes to the core after, or
to the first one again if it has not stayed eligible; the continuation resumes with what its entry holds and every other
register at zero or its launch value, and runs with the records of its entry, which become the task's when it has no other
thread or continuation (log 11). The owner's pop of a cycle comes before a steal (R23). A thief that has no free candidate
slot when it is answered takes the answer empty (log 82). -/
def Obligations.Deques : Prop :=
  ∀ (s : State) (c v : CoreIx) (w : SlotIx) (e : DequeEntry) (rest : List DequeEntry) (free : List SlotIx) (tm : Team)
    (before after : List Task) (k : Task),
    let resumed (y : State) : Prop :=
      let t := y.thread w
      t.ip = e.ip ∧ (∀ i : GReg, t.greg i = if h : 1 ≤ i.val ∧ i.val ≤ 7 then e.g[i.val]'(by omega) else 0) ∧
      t.framep = e.framep ∧ t.idset = e.idset ∧ t.tid = e.tid ∧ t.teamn = e.teamn ∧ t.mul = e.mul ∧ t.vstat = e.vstat ∧
      t.rngkey = e.rngkey ∧ t.rngctr = e.rngctr ∧ t.meetwin = e.meetwin ∧ t.bartmo = e.bartmo ∧ t.team = e.team ∧
      t.v = Vector.replicate 32 (Vector.replicate 32 0) ∧ t.k = Vector.replicate 8 0 ∧ t.qmap = 0 ∧ t.staged = [] ∧
      t.trapvec = tm.vector ∧ t.tfmt = 0x10 ∧ t.tkw = 1024 ∧ t.occ = true ∧ t.task = e.task ∧ y.mem = s.mem ∧ y.records t = e.regions ∧
      ∃ tm', y.runs t tm' before { k with
        regions := if k.threads = 0 ∧ k.conts ≤ 1 then e.regions else k.regions
        threads := k.threads + 1
        conts := k.conts - 1 } after
    s.candidates c = w :: free → s.teamAt e.home e.part e.team = some tm → tm.tasks = before ++ k :: after → k.id = e.task →
      tm.part = e.part → tm.team = e.team → (∀ x ∈ before ++ after, x.id ≠ e.task) →
      ((s.core c).deque = rest ++ [e] → (s.core c).popped = false → ∃ y, exec (.dequePop c) s = .next y ∧ resumed y ∧ y.arrivedAt w ∧
        (y.core c).deque = rest) ∧
      ((s.core c).victim = some v → v ≠ c → (s.core v).deque = e :: rest → s.candidates v = [] ∨ (s.core v).popped = true →
        ∃ y, exec (.stealAnswer c) s = .next y ∧ resumed y ∧
        (y.core v).deque = rest ∧ (y.core c).victim = none ∧
        (let rs := y.edgeRecords (y.thread w)
         (rs = [] → y.arrivedAt w) ∧ (rs ≠ [] → (y.thread w).wait = .skimmer ∧ y.skims v .writeBack rs s.uids .arrive))) ∧
      (∀ z : State, (z.core c).victim = some v → (z.core v).deque = [] ∨
          (z.candidates c = [] ∧ (v = c ∨ z.candidates v = [] ∨ (z.core v).popped = true)) →
        exec (.stealAnswer c) z = .next (z.modCore c fun x =>
          { x with victim := none, stealFrom := if x.stealLate || !z.maySteal c then 0 else x.stealFrom + 1, stealLate := false })) ∧
      ((s.core c).victim = none → (s.core c).deque = [] → (s.cluster (CoreIx.cluster c)).part ≠ none →
        (∀ q ∈ slotsOf c, (s.thread q).occ = true → (s.thread q).wait ≠ .run) →
        s.victims c ≠ [] → exec (.stealRequest c) s = .next (s.modCore c fun x =>
          { x with victim := (s.victims c)[(s.core c).stealFrom % (s.victims c).length]? }))

/-- R218 to R221: frame opens a frame; the owner's join stores its continuation and a child's only counts; the last child
resumes the owner's continuation in its slot; a closed frame faults with nothing done; and join and edge first write back
the running task's dirty bytes, join with those that the thread wrote as another task of its team (R162). -/
def Obligations.Frames : Prop :=
  ∀ (s t : State) (d a : GReg) (n : BitVec 16) (l : Lane) (cl : ClusterIx) (off : Nat) (tm : Team) (before after : List Task)
    (k : Task),
    let fp := s.me.greg a
    let name : W64 := BitVec.ofNat 64 (0xFF10000000000000 + t.vcluster cl * 0x400000 + off)
    let mem := (t.cluster cl).mem
    let header := mem.word off 8
    let count := header % 2 ^ 32
    let saved : Prop := header / 2 ^ 32 % 2 = 1
    let rs := s.edgeRecords s.me
    let own := writing (s.records s.me)
    let next : Prop := s.me.edgeDone = true ∨ rs = []
    let word (y : State) (i : Nat) : Nat := (y.cluster cl).mem.word (off + i) 8
    let others (y : State) : Prop := (∀ x, (x < off ∨ off + 256 ≤ x) → (y.cluster cl).mem.get x = mem.get x) ∧
      ∀ q, q ≠ cl → (y.cluster q).mem = (t.cluster q).mem
    let kept (y : State) : Prop := ∀ i < 248, (y.cluster cl).mem.get (off + 8 + i) = mem.get (off + 8 + i)
    (l.place = .own cl off ∨ l.place = .remote cl off) → off + 256 ≤ 0x3FF000 → off % 256 = 0 →
    checkAddr { size := 256, align := 256, need := needRW, fe := true } 0 fp s = .ok (l, t) → t.unheld l true → t.unheld l false →
      (s.me.outs = [] → s.sendOut s.cur = false → s.plain [.g a] [.g d] → ∃ y, exec (.frame d a n) s = .next y ∧ others y ∧
        y.me.framep = name ∧ y.me.greg d = (if d.val = 0 then 0 else s.me.framep) ∧ y.me.ip = t.following ∧
        word y 0 = n.toNat ∧ word y 0x50 = s.me.framep.toNat ∧
        ∀ i, 8 ≤ i → i < 256 → (i < 0x50 ∨ 0x58 ≤ i) → (y.cluster cl).mem.get (off + i) = 0) ∧
      (s.settledIn → s.plain [.g a] [] → s.runs s.me tm before k after → t.teamOf s.me = some tm → t.bad l = false →
        (tm.tasks.map Task.id).Nodup → (∀ x ∈ tm.tasks, x.id < tm.nextTask) →
        (¬next → ∃ y, exec (.join a) s = .next y ∧ y.me.wait = .skimmer ∧ y.me.ip = s.me.ip ∧ (y.cluster cl).mem = (s.cluster cl).mem ∧
          y.skims (SlotIx.core s.cur) .writeBack rs s.me.uid .again) ∧
        (next → count = 0 → s.traps (.join a) 0x07 fp 4) ∧
        (next → 1 < count → s.me.framep = name → ∃ y, exec (.join a) s = .next y ∧ others y ∧ y.freed s.cur ∧
          word y 0 % 2 ^ 33 = 2 ^ 32 + count - 1 ∧ word y 8 = t.following.toNat ∧
          (∀ i : Fin 7, word y (0x10 + 8 * i.val) = (s.me.g[i.val + 1]).toNat) ∧
          word y 0x48 = (s.records s.me).length + s.me.tid.toNat * 2 ^ 4 + s.me.mul.toNat * 2 ^ 11 + s.me.vstat.toNat * 2 ^ 19 ∧
          word y 0x50 = word t 0x50 ∧ word y 0x58 = s.me.meetwin.toNat + s.me.bartmo.toNat * 2 ^ 32 ∧
          word y 0x70 = s.me.rngkey.toNat ∧ word y 0x78 = s.me.rngctr.toNat ∧
          ∀ i : Fin 8, (h : i.val < (s.records s.me).length) →
            (y.cluster cl).mem.word (off + 0x80 + 16 * i.val) 16 = ((s.records s.me)[i.val]).toNat) ∧
        (next → count = 1 → s.me.framep = name → ∃ y, exec (.join a) s = .next y ∧ others y ∧ y.me.ip = t.following ∧
          y.me.framep = s.me.framep ∧ y.me.g = s.me.g ∧ y.arrivedAt s.cur ∧ word y 0 % 2 ^ 33 = 2 ^ 32) ∧
        (next → s.me.framep ≠ name → 1 < count ∨ (count = 1 ∧ ¬saved) → ∃ y, exec (.join a) s = .next y ∧ others y ∧ kept y ∧
          y.freed s.cur ∧ word y 0 = header - 1) ∧
        (next → s.me.framep ≠ name → count = 1 → saved → (t.cluster s.me.home).taskCount < 1024 → ∃ y, exec (.join a) s = .next y ∧ others y ∧ kept y ∧
          word y 0 = header - 1 ∧ y.me.ip = BitVec.ofNat 64 (word t 8) ∧ y.me.framep = name ∧ y.me.occ = true ∧
          (∀ i : GReg, y.me.greg i = if 1 ≤ i.val ∧ i.val ≤ 7 then BitVec.ofNat 64 (word t (8 + 8 * i.val)) else 0) ∧
          y.me.tid.toNat = word t 0x48 / 2 ^ 4 % 2 ^ 7 ∧ y.me.mul.toNat = word t 0x48 / 2 ^ 11 % 2 ^ 8 ∧
          y.me.rngkey = BitVec.ofNat 64 (word t 0x70) ∧ y.me.rngctr = BitVec.ofNat 64 (word t 0x78) ∧
          y.me.trapvec = tm.vector ∧ y.arrivedAt s.cur)) ∧
      (s.me.outs = [] → s.runs s.me tm before k after →
        (s.me.edgeDone = true ∨ own = [] → exec .edge s = .next (s.retire id)) ∧
        (s.me.edgeDone = false → own ≠ [] → ∃ y, exec .edge s = .next y ∧ y.me.wait = .skimmer ∧ y.me.ip = s.me.ip ∧ y.mem = s.mem ∧
          y.skims (SlotIx.core s.cur) .writeBack own s.me.uid .again))

/-- R108, R177, R204, R206, R229, R407, R409 and R425: exit waits for what its thread has started and writes back its
bytes; when it retires the slot, the claim and the lock are free, its registers stay, the weight of a member counts as
exited, at once in the cluster of its sieve and elsewhere when the report of the ending arrives there, its task loses a
thread or ends, held tasks may start, and the last task of a team ends it with a KIND 3 record; a killed thread ends the
same way, with a KIND 5 record, while it has refused entries and held segments too (log 30). Reports arrive in the order of the
endings (log 85). A team with an open meet instance, which an ending may close, is left to the statements about meets. -/
def Obligations.Endings : Prop :=
  ∀ (s : State) (w : SlotIx) (tm : Team) (before after : List Task) (k : Task),
    let t := s.thread w
    let c := s.core (SlotIx.core w)
    let finished (ended : Bool) : Prop := t.outs = [] ∧ (∀ x ∈ s.tmacrs, x.uid ≠ t.uid) ∧
      (∀ r, c.tile.running = some r → r.op.stores t.uid = false) ∧
      (∀ g ∈ c.tile.epi, g.uid ≠ t.uid ∨ (ended = true ∧ g.held ≠ none)) ∧
      (∀ j ∈ c.journal, j.w ≠ w ∨ (ended = true ∧ ∃ n, j.state = .refused n)) ∧
      (∀ e ∈ c.retry, e.w ≠ w ∨ (ended = true ∧ ∃ n, e.state = .refused n))
    let rs := s.edgeRecords t
    let counts (counted : Bool) : Prop := k.member = true ∧ counted = false
    let near : Prop := SlotIx.cluster w = t.home
    let next : Prop := t.edgeDone = true ∨ rs = []
    let last : Prop := k.threads = 1 ∧ k.conts = 0
    let ends (counted : Bool) (y : State) : Prop := y.freed w ∧
      (y.thread w).g = t.g ∧ (y.thread w).v = t.v ∧ (y.thread w).k = t.k ∧ (y.thread w).rngkey = t.rngkey ∧
      (y.thread w).rngctr = t.rngctr ∧ (y.thread w).vstat = t.vstat ∧
      (y.core (SlotIx.core w)).griddle = (if c.griddle.holder = some (SlotIx.num w) then Griddle.reset else c.griddle) ∧
      (y.core (SlotIx.core w)).lock = (match c.lock with
        | some l => if l.holder = w then none else some l
        | none => none) ∧
      (¬(last ∧ before ++ after = []) → ∃ tm', y.teamAt t.home t.part t.team = some tm' ∧
        tm'.tasks = (if last then before ++ after else before ++ { k with threads := k.threads - 1 } :: after) ∧
        tm'.weight = tm.weight ∧
        tm'.exited = (if counts counted ∧ near then tm.exited + t.mul.toNat else tm.exited) ∧
        (tm'.used = if counts counted ∧ near then tm.used &&& ~~~t.idset else tm.used) ∧
        y.endings = s.endings ++ if counts counted ∧ ¬near then [⟨t.home, t.part, t.team, t.mul.toNat, t.idset⟩] else []) ∧
      (last → before ++ after ≠ [] → ∀ q, q ≠ w → (s.thread q).wait = .held → (s.thread q).team = t.team →
        (s.thread q).home = t.home → (s.thread q).part = t.part → (s.cluster (SlotIx.cluster q)).part = some t.part →
        y.arrivedAt q) ∧
      (last → before ++ after = [] → y.teamAt t.home t.part t.team = none)
    let ended (_counted : Bool) (u : State) : State :=
      if last ∧ before ++ after = [] then
        u.complete tm.fn tm.q { kind := 3, cseq := tm.cseq, team := t.team, slot := s.globalSlot w }
      else u
    s.runs t tm before k after → 1 ≤ k.threads → (tm.tasks.map Task.id).Nodup → tm.part = t.part → tm.team = t.team →
      (∀ i ∈ (s.cluster t.home).inst, i.team ≠ t.team ∨ i.part ≠ t.part) →
      (w = s.cur → (¬finished false → s.waits .exit .access) ∧
        (finished false → ¬next → ∃ y, exec .exit s = .next y ∧ y.me.wait = .skimmer ∧ y.me.ip = t.ip ∧
          y.skims (SlotIx.core w) .writeBack rs t.uid .again) ∧
        (finished false → next → exec .exit s = .next (s.modMe fun t =>
          { t with wait := .exiting, resume := s.following, parkedAt := c.cycle }))) ∧
      (t.wait = .exiting →
        (¬finished false ∨ (t.pend ≠ [] ∧ t.handler = false) → exec (.exitRetire w) s = .next s) ∧
        (finished false → t.pend = [] ∨ t.handler = true → ∃ y, exec (.exitRetire w) s = .next y ∧ ends false y ∧
          y.pages = (ended false s).pages ∧ y.mem = (ended false s).mem ∧ y.hostMem = (ended false s).hostMem)) ∧
      (∀ e rest, s.endings = e :: rest → e.home = t.home → e.part = t.part → e.team = t.team →
        s.reportEnding.endings = rest ∧ s.reportEnding.threads = s.threads ∧ s.reportEnding.mem = s.mem ∧
        s.reportEnding.teamAt t.home t.part t.team =
          some { tm with exited := tm.exited + e.mul, used := tm.used &&& ~~~e.idset }) ∧
      ∀ f q cseq counted, t.wait = .killed f q cseq counted → finished true →
        let u := s.complete f q { kind := 5, cseq := cseq, team := t.team, slot := s.globalSlot w }
        ∃ y, exec (.exitRetire w) s = .next y ∧ ends counted y ∧ y.pages = (ended counted u).pages ∧
          y.hostMem = (ended counted u).hostMem

/-- R223 to R227: when a skimmer action completes, every dirty byte that its records cover is in HBM; a write-back leaves
the lines valid and clean there, an invalidation leaves no line that the records cover; records of more than 64 lines stand
for every byte (log 10); no byte that was not dirty changes; and the thread that waited goes on as the action says. Actions on
one core complete in turn. -/
def Obligations.SkimmerActions : Prop :=
  ∀ (s : State) (cl : ClusterIx) (pre post : List Skim) (k : Skim),
    let l1 := (s.core k.core).l1
    let covered (l : L1Line) (i : Fin 64) : Prop := 64 < (k.regions.map regionLines).sum ∨ ∃ v ∈ l.vas, ∃ r ∈ k.regions,
      (r.extractLsb' 0 64).toNat ≤ 64 * v + i ∧ 64 * v + i < (r.extractLsb' 0 64).toNat + (r.extractLsb' 64 40).toNat
    let t := s.thread k.w
    (s.cluster cl).skims = pre ++ k :: post → (∀ x ∈ pre ++ post, x.token ≠ k.token) →
      (l1.map L1Line.pa).Nodup → (∀ l ∈ l1, l.bytes.length = 64) →
      ((∃ x ∈ pre, x.core = k.core) → exec (.skimmerActionComplete cl k.token) s = .next s) ∧
      ((∀ x ∈ pre, x.core ≠ k.core) → t.uid = k.uid → (∀ n gone, k.after ≠ .close n gone) → ∃ y,
        exec (.skimmerActionComplete cl k.token) s = .next y ∧
        (∀ l ∈ l1, ∀ i : Fin 64, covered l i → l.dirty.getLsbD i = true →
          y.mem.get (64 * l.pa + i) = l.bytes[i.val]?.getD 0) ∧
        (∀ pa, (∀ l ∈ l1, l.pa = pa / 64 → l.dirty.getLsbD (pa % 64) = false) → y.mem.get pa = s.mem.get pa) ∧
        (k.kind = .writeBack → ∀ l ∈ l1, ∃ d : W64, { l with dirty := d } ∈ (y.core k.core).l1 ∧
          ∀ i : Fin 64, (covered l i → d.getLsbD i = false) ∧ (l.dirty.getLsbD i = false → d.getLsbD i = false)) ∧
        (k.kind = .invalidate → ∀ l ∈ (y.core k.core).l1, l ∈ l1 ∧ ∀ i, ¬covered l i) ∧
        (∀ q, q ≠ k.w → y.thread q = s.thread q) ∧ (y.thread k.w).g = t.g ∧ (y.thread k.w).v = t.v ∧
        (k.after ≠ .arrive → (y.cluster cl).skims = pre ++ post) ∧
        (k.after = .nothing → y.thread k.w = t) ∧
        (k.after = .again → y.thread k.w = { t with wait := .run, edgeDone := true, parks := false }) ∧
        (k.after = .go → y.thread k.w = { t with wait := .run, parks := false }) ∧
        (k.after = .finish → (y.thread k.w).wait = .run ∧ (y.thread k.w).ip = t.resume) ∧
        (k.after = .arrive → (∀ tm, s.teamOf t = some tm → (tm.tasks.map Task.id).Nodup) → y.arrivedAt k.w))

/-- R228, R230, R235, R236, R238 to R240: meet checks what the rule names in its order, waits for the earlier accesses,
hashes its declared registers and goes to the sieve; idset reads the index set; and a member that a close or a full table
releases has its status in D and in MEETST and goes on. -/
def Obligations.Meets : Prop :=
  (∀ (s : State) (d a : GReg) (id : BitVec 8) (hi : Bool) (tm : Team) (before after : List Task) (k : Task),
    let t := s.me
    let mask := t.greg a
    let word (i : Fin 64) : W32 :=
      if h : i.val < 32 then BitVec.ofNat 32 ((t.greg ⟨i.val, h⟩).toNat % 2 ^ 32) ^^^ BitVec.ofNat 32 ((t.greg ⟨i.val, h⟩).toNat / 2 ^ 32)
      else (t.v[i.val - 32]).toList.foldl (fun x y => x ^^^ y) 0
    let hash : W32 := (List.finRange 64).foldl (fun h (i : Fin 64) =>
      if mask.getLsbD i then BitVec.ofNat 32 (h.toNat * 32 + h.toNat / 2 ^ 27) ^^^ word i
      else h) 0
    let mapped : Prop := ∃ i : Fin 8, mask.getLsbD (24 + i) = true ∧ t.qmap.getLsbD i = true
    s.runs t tm before k after →
      (s.plain [] [.g d] → s.gives (.idset hi d) d (BitVec.ofNat 64 (if hi then t.idset.toNat / 2 ^ 64 else t.idset.toNat))) ∧
      (t.handler = true → s.traps (.meet d a id) 0x18 0 3) ∧
      (t.handler = false → k.member = false → s.traps (.meet d a id) 0x18 0 2) ∧
      (t.handler = false → k.member = true → SlotIx.cluster s.cur ≠ t.home → s.traps (.meet d a id) 0x18 0 4) ∧
      (t.handler = false → k.member = true → SlotIx.cluster s.cur = t.home → s.plain [.g a] [.g d] →
        (mapped → s.traps (.meet d a id) 0x18 0 1) ∧
        (¬mapped → t.outs ≠ [] ∨ s.tileStores s.cur = true → s.waits (.meet d a id) .access) ∧
        (¬mapped → t.outs = [] → s.tileStores s.cur = false → (∃ j ∈ s.myCore.journal, j.w = s.cur) →
          s.waits (.meet d a id) .journal) ∧
        (¬mapped → s.settledIn → (∀ r, mask.getLsbD (unified r).toNat = true → s.pending s.cur r = false) →
          (∀ p ∈ t.poison, mask.getLsbD p.reg.toNat = false) →
          exec (.meet d a id) s = .next (s.modMe fun t =>
            { t with wait := .sieveWay (.reg d) id mask hash, resume := s.following, parkedAt := s.myCore.cycle })))) ∧
  ∀ (s : State) (w : SlotIx) (d : GReg) (status : W32) (n : Nat),
    let t := s.thread w
    let busy : Prop := ∃ k ∈ (s.cluster (SlotIx.cluster w)).skims, k.uid = t.uid ∨ ∃ gone, k.after = .close n gone
    t.wait = .sieveOut (.reg d) status n →
      (busy → exec (.meetRelease w) s = .next s) ∧
      (¬busy → exec (.meetRelease w) s = .next (s.modThread w fun t =>
        { t.setG d (status.setWidth 64) with
          meetst := BitVec.ofNat 34 (status.toNat +
            (if t.meetst.getLsbD 32 || status.getLsbD 3 then 2 ^ 32 else 0) +
            (if t.meetst.getLsbD 33 || status.getLsbD 2 then 2 ^ 33 else 0))
          wait := .run
          popped := []
          edgeDone := false
          parks := false
          ip := t.resume }))

/-- R229, R231 to R236, R244: an arrival joins its team's open instance, opens one, or passes through a full table, in which an
entry freed in this cycle still counts; an instance
closes by count or by window; and the close merges the equal arrivals into the one of lowest TID, which takes their
indices and their weight, and gives each released member its status. -/
def Obligations.MeetInstances : Prop :=
  ∀ (s : State) (w : SlotIx) (tm : Team) (id : BitVec 8) (mask : W64) (h : W32) (d : GReg),
    let t := s.thread w
    let insts := (s.cluster t.home).inst
    let here (i : Inst) : Prop := i.part = t.part ∧ i.team = t.team ∧ i.id = id
    let ours (i : Inst) : Prop := i.part = t.part ∧ i.team = t.team
    let gen := (s.cluster t.home).gen t.part t.team id
    let weight (u : State) (i : Inst) : Nat := (i.arrivals.map fun x => (u.thread x).mul.toNat).sum
    let joined : State := s.modThread w fun t => { t with wait := .sieveIn (.reg d) id mask h }
    let hashOf (u : State) (x : SlotIx) (key : W32) : Prop := ∃ e i m, (u.thread x).wait = .sieveIn e i m key
    let equal (u : State) (x y : SlotIx) : Prop := x = y ∨ ∃ e e' i i' m key,
      (u.thread x).wait = .sieveIn e i m key ∧ (u.thread y).wait = .sieveIn e' i' m key ∧
      (u.thread x).ip = (u.thread y).ip ∧ (u.thread x).idset &&& (u.thread y).idset = 0 ∧
      (∀ r : GReg, m.getLsbD r = true → (u.thread x).greg r = (u.thread y).greg r) ∧
      ∀ r : VReg, m.getLsbD (32 + r) = true → (u.thread x).v[r] = (u.thread y).v[r]
    let closes (u : State) (i : Inst) (win : Bool) (y : State) : Prop :=
      ∃ n, (y.cluster t.home).inst = insts.filter (fun j => decide (j.id ≠ i.id ∨ j.team ≠ i.team ∨ j.part ≠ i.part)) ∧
      ∀ x ∈ i.arrivals, ∀ e m key, (u.thread x).wait = .sieveIn e i.id m key →
        ∀ group : List SlotIx, group.Sublist i.arrivals → (∀ z ∈ i.arrivals, z ∈ group ↔ equal u x z) →
          let coll : Prop := ∃ z ∈ i.arrivals, z ≠ x ∧ hashOf u z key ∧ ¬equal u x z
          ((∃ z ∈ group, (u.thread z).tid.toNat < (u.thread x).tid.toNat) → y.freed x) ∧
          ((∀ z ∈ group, (u.thread x).tid.toNat ≤ (u.thread z).tid.toNat) → ∃ c : Nat, (coll → c = 1) ∧ (¬coll → c = 0) ∧
            y.thread x = { u.thread x with
              idset := (group.map fun z => (u.thread z).idset).foldl (fun a b => a ||| b) 0
              mul := BitVec.ofNat 8 (group.map fun z => (u.thread z).mul.toNat).sum
              wait := .sieveOut e (BitVec.ofNat 32 (i.gen.toNat * 2 ^ 16 + (group.length - 1) * 2 ^ 8 + c * 2 ^ 3 +
                (if win then 2 else 0) + if group.length = 1 then 0 else 1)) n })
    s.teamOf t = some tm → tm.part = t.part → tm.team = t.team → (∀ i ∈ insts, i.arrivals.Nodup ∧ w ∉ i.arrivals) →
      insts.Pairwise (fun i j => i.id ≠ j.id ∨ i.team ≠ j.team ∨ i.part ≠ j.part) →
      (∀ i ∈ insts, ∀ x ∈ i.arrivals, ∃ e m key, (s.thread x).wait = .sieveIn e i.id m key) →
      (t.wait = .sieveWay (.reg d) id mask h →
        ((∀ i ∈ insts, ¬here i) → 64 ≤ insts.length + (s.cluster t.home).freed → ∃ y, exec (.meetArrival w) s = .next y ∧
          y.clusters = s.clusters ∧ (y.thread w).wait = .run ∧ (y.thread w).ip = t.resume ∧
          (d.val ≠ 0 → (y.thread w).greg d = BitVec.ofNat 64 (gen.toNat * 2 ^ 16 + 4)) ∧
          (y.thread w).meetst.extractLsb' 0 32 = BitVec.ofNat 32 (gen.toNat * 2 ^ 16 + 4) ∧
          (y.thread w).meetst.getLsbD 33 = true) ∧
        ((∀ i ∈ insts, ours i → ¬here i → weight s i + tm.exited ≠ tm.weight) →
          ((∀ i ∈ insts, ¬here i) → insts.length + (s.cluster t.home).freed < 64 →
            let i : Inst := ⟨t.team, t.part, id, gen, t.meetwin, t.uid, SlotIx.core w, (s.core (SlotIx.core w)).cycle, none, [w]⟩
            ∃ y, exec (.meetArrival w) s = .next y ∧
              (t.mul.toNat + tm.exited ≠ tm.weight → (y.cluster t.home).inst = insts ++ [i] ∧
                y.threads = joined.threads ∧ (y.cluster t.home).gen t.part t.team id = gen + 1) ∧
              (t.mul.toNat + tm.exited = tm.weight → closes joined i false y)) ∧
          (∀ pre i post, insts = pre ++ i :: post → here i →
            let i' : Inst := { i with arrivals := i.arrivals ++ [w] }
            ∃ y, exec (.meetArrival w) s = .next y ∧
              (weight s i + t.mul.toNat + tm.exited ≠ tm.weight → (y.cluster t.home).inst = pre ++ i' :: post ∧
                y.threads = joined.threads) ∧
              (weight s i + t.mul.toNat + tm.exited = tm.weight → closes joined i' false y)))) ∧
      (∀ pre i post, insts = pre ++ i :: post → ours i →
        let passed : Prop := i.win ≠ 0 ∧ i.frozen = none ∧
          i.win.toNat ≤ (BitVec.ofInt 64 ((s.core i.clock).cycle.toNat - i.opened.toNat)).toNat
        (¬passed → exec (.meetWindowExpiry t.home pre.length) s = .next s) ∧
        (passed → ∃ y, exec (.meetWindowExpiry t.home pre.length) s = .next y ∧ closes s i true y))

/-- R234 and R241: unmerge refuses where meet does, and waits for a v register still to come and for a slot that was taken in
this cycle (log 51); it writes 1 in a thread that stands for one index and 0 where the
cluster has no room; otherwise every other index becomes a thread of its own in the nearest free slots, a copy of the
original with the copies and the exceptions that the rule lists, and the original keeps its lowest index. -/
def Obligations.Unmerge : Prop :=
  ∀ (s : State) (d : GReg) (tm : Team) (before after : List Task) (k : Task),
    let t := s.me
    let here := SlotIx.core s.cur
    let free := (List.range 8).flatMap fun i =>
      s.candidates (coreOf (CoreIx.cluster here) ⟨((CoreIx.num here).val + i) % 8, Nat.mod_lt _ (by decide)⟩)
    let others := (List.range 128).filter fun x => t.idset.getLsbD x && x != t.tid.toNat
    let m := t.mul.toNat
    let rs := s.edgeRecords t
    let crosses : Prop := ∃ q ∈ free.take (m - 1), SlotIx.core q ≠ here
    s.runs t tm before k after →
      (t.handler = true → s.traps (.unmerge d) 0x18 0 3) ∧
      (t.handler = false → k.member = false → s.traps (.unmerge d) 0x18 0 2) ∧
      (t.handler = false → k.member = true → SlotIx.cluster s.cur ≠ t.home → s.traps (.unmerge d) 0x18 0 4) ∧
      (t.handler = false → k.member = true → SlotIx.cluster s.cur = t.home → s.plain [] [.g d] → s.settledIn → s.trying →
        t.claimed = [] →
        (s.taccOpen s.cur = true → s.waits (.unmerge d) .access) ∧
        (s.taccOpen s.cur = false → m ≠ 1 → s.filled = true → s.waits (.unmerge d) .slot) ∧
        (s.taccOpen s.cur = false → m = 1 → s.gives (.unmerge d) d 1) ∧
        (s.taccOpen s.cur = false → s.filled = false → m ≠ 1 → free.length < m - 1 → s.gives (.unmerge d) d 0) ∧
        (s.taccOpen s.cur = false → s.filled = false → 2 ≤ m → m - 1 ≤ free.length → crosses → t.edgeDone = false → rs ≠ [] → ∃ y, exec (.unmerge d) s = .next y ∧
          y.me.wait = .skimmer ∧ y.me.ip = t.ip ∧ y.skims here .writeBack rs t.uid .again ∧
          ∀ q ∈ free.take (m - 1), (y.thread q).reservedBy = t.uid) ∧
        (s.taccOpen s.cur = false → s.filled = false → 2 ≤ m → m - 1 ≤ free.length → ¬crosses ∨ t.edgeDone = true ∨ rs = [] → others.length = m - 1 →
          t.occ = true → ∃ y, exec (.unmerge d) s = .next y ∧
          y.me = ({ t.setG d (BitVec.ofNat 64 m) with
            mul := 1
            idset := BitVec.ofNat 128 (2 ^ t.tid.toNat)
            ip := s.following } : Thread).settled ∧
          ∀ j < m - 1, ∀ q x, free[j]? = some q → others[j]? = some x →
            let c := y.thread q
            c.tid.toNat = x ∧ c.mul = 1 ∧ c.idset = BitVec.ofNat 128 (2 ^ x) ∧ c.ip = s.following ∧
            c.g = (t.setG d (BitVec.ofNat 64 m)).g ∧ c.v = t.v ∧ c.k = t.k ∧ c.qmap = t.qmap ∧ c.staged = t.staged ∧
            c.rngkey = t.rngkey ∧ c.rngctr = t.rngctr ∧ c.vstat = t.vstat ∧ c.meetwin = t.meetwin ∧ c.meetst = t.meetst ∧
            c.bartmo = t.bartmo ∧ c.framep = t.framep ∧ c.priv = t.priv ∧ c.tfmt = t.tfmt ∧ c.tkw = t.tkw ∧
            c.trapvec = t.trapvec ∧ c.trapcause = t.trapcause ∧ c.trapip = t.trapip ∧ c.trapva = t.trapva ∧
            c.trapaux = t.trapaux ∧ c.team = t.team ∧ c.teamn = t.teamn ∧ c.notifyEn = t.notifyEn ∧
            c.notifyActive = t.notifyActive ∧ c.savedip = t.savedip ∧ c.task = t.task ∧ c.occ = true ∧
            c.migr = false ∧ c.pjent = 0 ∧ c.notes = [] ∧ c.pend = [] ∧
            (SlotIx.core q = here → c.wait = .run) ∧ (SlotIx.core q ≠ here → y.enteredAt q)))

/-- R250, R251, R258, R262, R265, R268, R269 and R271 to R275: every tile instruction enters the tile queue of its core with
the values that it samples at issue; the ones that read or write memory stall their thread until they start and wait for
its earlier accesses, the others let it go on; tmacr sends its command; tsync waits for everything before it. -/
def Obligations.TileIssue : Prop :=
  ∀ (s : State) (fl : TFlags) (ch : Fin 4) (kind : TzKind) (ty : ETy) (act : TepiAct) (rm : RMode) (d a b c : GReg)
    (imm : BitVec 16) (outer : Bool) (grp : Fin 4) (m : Mask) (k : KReg) (idx : Fin 8) (v : VReg),
    let t := s.me
    let tile := s.myCore.tile
    let x (r : GReg) : W64 := t.greg r
    let joins (q : TileKind) (u : State) : State := u.modCore (SlotIx.core s.cur) fun y =>
      { y with tile := { y.tile with
          queue := tile.queue ++ [⟨tile.tokens, s.cur, t.uid, none, q⟩]
          tokens := tile.tokens + 1 } }
    let stalls (i : Instr) (q : TileKind) (rs : List GV) : Prop :=
      (t.outs ≠ [] → s.waits i .access) ∧
      (t.outs = [] → s.sendOut s.cur = false → s.plain rs [] → exec i s = .next (joins q (s.modMe fun t =>
        { t with wait := .tileStart tile.tokens none, resume := s.following, parkedAt := s.myCore.cycle })))
    let goes (i : Instr) (q : TileKind) (rs ds : List GV) : Prop := s.plain rs ds → exec i s = .next (joins q (s.retire id))
    let store (f : W64) : TileKind := .tepi ty act rm (x d + imm.signExtend 64) (x a) (x b) f
    let mine (o : TileOp) : Prop := o.uid = t.uid ∧ o.remote = none
    let busy : Prop := (∃ o ∈ tile.queue, mine o) ∨ (∃ r, tile.running = some r ∧ mine r.op) ∨
      (∃ g ∈ tile.epi, g.uid = t.uid ∧ g.held = none) ∨ ∃ z ∈ s.tmacrs, z.uid = t.uid
    stalls (.tmac fl a b c) (.tmac fl (x a) (x b) (x c) t.tfmt tile.trapen) [.g a, .g b, .g c] ∧
    goes (.tzero kind a) (.tzero kind (x a)) [.g a] [] ∧
    (match act with
      | .none | .relu => stalls (.tepi ty act rm d a b imm) (store 0) [.g a, .g b, .g d]
      | .clamp r | .leaky r => stalls (.tepi ty act rm d a b imm) (store (x r)) [.g a, .g b, .g r, .g d]) ∧
    goes (.taccGet outer v a grp m) (.taccGet outer v (x a) grp m (t.kreg m.k)) [.g a] [.v v] ∧
    goes (.taccPut outer v a grp k) (.taccPut outer t.v[v] (x a) grp (t.kreg k)) [.g a, .v v] [] ∧
    stalls (.tplane d a imm) (.tplane (x d) (x a) imm t.tfmt) [.g a, .g d] ∧
    stalls (.tscale a imm) (.tscale (x a) imm) [.g a] ∧
    goes (.tscaleKey a idx) (.key (x a) idx) [.g a] [] ∧
    (busy → s.waits .tsync .tile) ∧ (¬busy → exec .tsync s = .next (s.retire id)) ∧
    (s.plain [.g a, .g b, .g c, .g d] [] → exec (.tmacr fl ch d a b c) s = .next ({ s with
      tmacrs := s.tmacrs ++ ([⟨s.uids, s.cur, t.uid, ch, x d, fl, x a, x b, x c, t.tfmt, t.tmacrs, .sent⟩] : List Tmacr)
      uids := s.uids + 1 }.goTo s.following fun t => { t with tmacrs := t.tmacrs + 1 }))

/-- R250 to R255, R259, R263, R266, R269, R272 and R274: the head of a tile queue starts when nothing runs: its ranges of
scratchpad are checked in their order, no earlier store of the matrix unit is still to reach them (R251), then the head of
the scale FIFO; it reads its operands, and the thread that it
stalled goes on; a failed check is an exact trap, or the refusal of a remote command; a tepi releases its rows and holds
their converted bytes as segments. -/
def Obligations.TileStarts : Prop :=
  ∀ (s : State) (c : CoreIx) (o : TileOp) (rest : List TileOp),
    let w := o.w
    let x := s.core c
    let tile := x.tile
    let fault (va : W64) (len : Nat) : Option (BitVec 8 × W64) :=
      let n := va.toNat
      if n < 2 ^ 57 ∨ (0xFF00000000000000 ≤ n ∧ n < 0xFF00000000400000) then some (0x07, va)
      else if 0xFF10000000000000 ≤ n ∧ n < 0xFF20000000000000 then
        some (if (s.physical (s.partOf (SlotIx.cluster w)) ((n - 0xFF10000000000000) / 0x400000)).isSome then 0x07 else 0x06, va)
      else if 0xFF20000000000000 ≤ n ∧ n < 0xFF20000000040000 then
        if n % 64 ≠ 0 then some (0x05, va)
        else if 0xFF20000000040000 < n + len then some (0x06, 0xFF20000000040000)
        else none
      else some (0x06, va)
    let off (va : W64) : Nat := va.toNat - 0xFF20000000000000
    let free (va : W64) (len : Nat) (store : Bool) : Prop :=
      x.locksOut w (off va) len = false ∧ s.scoreHolds c va len store = false ∧
      s.tileHolds w ⟨0, va, .scratch c (off va), len, [], 0⟩ = false
    let clean (va : W64) (len : Nat) : Prop := ∀ u, UePlace.scratch c u ∈ s.ue → u < off va ∨ off va + len ≤ u
    let bytes (va : W64) (len : Nat) : Nat := bytesNat (x.scratch.read (off va) len)
    let queued (f : Tile → Tile) : State := s.modCore c fun y => { y with tile := f { y.tile with queue := rest } }
    let starts (r : TileRun) : Prop := exec (.tileStart c) s = .next (queued fun y => { y with running := some r })
    let goes (stalled : Bool) (r : TileRun) : Prop :=
      if stalled then exec (.tileStart c) s = .next ((queued fun y => { y with running := some r }).modThread w fun t =>
        { t with wait := .run, popped := [], edgeDone := false, parks := false, ip := t.resume })
      else starts r
    let mine : Prop := o.remote = none ∧ SlotIx.core w = c ∧ (s.thread w).wait = .tileStart o.token none ∧ (s.thread w).uid = o.uid
    let fails (code : BitVec 8) (va : W64) (aux : Nat) : Prop :=
      (mine → exec (.tileStart c) s =
        .next (((queued id).undo w none).takeTrap w false code (s.thread w).ip va (BitVec.ofNat 64 aux))) ∧
      (∀ key, o.remote = some key → exec (.tileStart c) s = .next { queued id with
        tmacrs := s.tmacrs.map fun z =>
          if z.key = key then { z with phase := .refused 3 (if code = 0x11 then aux / 2 ^ 32 else 8) } else z })
    let plain : TileRun := ⟨o, 0, 0, ⟨0, []⟩, tile.valid, []⟩
    let planes (f : BitVec 6) : Nat := if f.toNat / 2 = 0 then 2 else f.toNat / 2
    tile.queue = o :: rest → (∀ p ∈ rest, p.token ≠ o.token) →
      (o.kind = .flush →
        let waits : Prop := (s.thread w).uid = o.uid ∧ ∃ ask, (s.thread w).wait = .tileStart o.token ask
        (waits → exec (.tileStart c) s = .next ((queued fun y => { y with fifo := [] }).modThread w fun t =>
          { t with wait := .run, popped := [], edgeDone := false, parks := false, ip := t.resume })) ∧
        (¬waits → exec (.tileStart c) s = .next (queued fun y => { y with fifo := [] }))) ∧
      (o.kind ≠ .flush → tile.running ≠ none → exec (.tileStart c) s = .next s) ∧
      (tile.running = none → o.remote = none → (o.kind.stalls = false → o.kind ≠ .flush → starts plain) ∧
        (mine → ∀ a tag, o.kind = .tscale a tag →
          (∀ code va, fault a 256 = some (code, va) → fails code va 0) ∧
          (fault a 256 = none → free a 256 false → clean a 256 →
            (8 ≤ tile.fifo.length → exec (.tileStart c) s = .next s) ∧
            (tile.fifo.length < 8 → goes true { plain with data := bytes a 256 }))) ∧
        (mine → ∀ dst src seq f, o.kind = .tplane dst src seq f →
          let from_ := if f.toNat / 2 ≤ 8 then 8192 else 16384
          let into := 64 + 1024 * planes f
          (∀ code va, fault src from_ = some (code, va) → fails code va 0) ∧
          (fault src from_ = none → free src from_ false →
            (∀ code va, fault dst into = some (code, va) → fails code va 0) ∧
            (fault dst into = none → free dst into true → clean src from_ → goes true { plain with data := bytes src from_ }))) ∧
        (mine → ∀ ty act rm base stride rows f, o.kind = .tepi ty act rm base stride rows f →
          let m := min (rows.toNat % 2 ^ 8) 128
          let at_ (i : Nat) : W64 := BitVec.ofNat 64 (base.toNat + i * stride.toNat)
          let row (i : Nat) : Nat := (rows.toNat / 2 ^ 8 % 2 ^ 8 + i) % 128
          let size := ty.width / 8
          let y (e : Nat) : Nat := match act with
            | .none => e
            | .relu => if (fmtF32.val e).isNan then fmtF32.nan else (fMinMax fmtF32 true e 0).1
            | .clamp _ =>
              let b := f.toNat % 2 ^ 31
              if (fmtF32.val e).isNan ∨ (fmtF32.val (f.toNat % 2 ^ 32)).isNan then fmtF32.nan
              else (fMinMax fmtF32 false (fMinMax fmtF32 true e (b + 2 ^ 31)).1 b).1
            | .leaky _ =>
              if (fmtF32.val e).isNan then fmtF32.nan
              else if e < 2 ^ 31 ∨ e = 2 ^ 31 then e
              else (fMul fmtF32 .rne e (f.toNat % 2 ^ 32)).1
          (∀ i < m, (at_ i).toNat % 64 ≠ 0 → (∀ j < i, (at_ j).toNat % 64 = 0) → fails 0x05 (at_ i) 0) ∧
          ∀ u r, exec (.tileStart c) s = .next u → (u.core c).tile.running = some r →
            (∀ g ∈ tile.epi, g.held = none) ∧ r.segs.length = m * (2 * size) ∧
            (∀ n, ∀ g : Segment, r.segs[n]? = some g →
              let i := n / (2 * size)
              let k := n % (2 * size)
              g.va.toNat = ((at_ i).toNat + 64 * k) % 2 ^ 64 ∧ g.w = w ∧ g.uid = (s.thread w).uid ∧ g.held = none ∧
              g.lanes.length = 8 ∧ ∀ e l, g.lanes[e]? = some l → l.size = 8 ∧
                ∀ q < 8, l.data.toNat / 2 ^ (8 * q) % 2 ^ 8 =
                  let byte := 64 * k + 8 * e + q
                  (convert ty .f32 rm (y (tile.acc[128 * row i + byte / size]?.getD ⟨0, 0⟩).outer.toNat)).1 /
                    2 ^ (8 * (byte % size)) % 2 ^ 8) ∧
            (∀ n : Fin 16384, (∃ i < m, n.val / 128 = row i) → (u.core c).tile.acc[n] = ⟨0, 0⟩) ∧
            (∀ n : Fin 16384, (∀ i < m, n.val / 128 ≠ row i) → (u.core c).tile.acc[n] = tile.acc[n]) ∧
            (u.thread w).ip = (s.thread w).resume ∧ (u.thread w).wait = .run)) ∧
      (tile.running = none → ∀ fl a b rows f trapen, o.kind = .tmac fl a b rows f trapen →
        let m := min (rows.toNat % 2 ^ 8) 128
        let group := 64 + 1024 * planes f
        let block := m * (if f.getLsbD 0 then 128 else 64) + 2 * m
        let header := bytes a group
        let seq := header % 2 ^ 16
        let formed : Prop := header / 2 ^ 16 % 2 ^ 496 = f.toNat / 2 + 64 * 2 ^ 16 + 128 * 2 ^ 24
        let may : Prop := mine ∨ ∃ key, o.remote = some key ∧ ∀ z ∈ s.tmacrs, z.key = key → z.granted tile.keys = true
        may →
          (∀ code va, fault a group = some (code, va) → fails code va 0) ∧
          (fault a group = none → free a group false →
            (∀ code va, fault b block = some (code, va) → fails code va 0) ∧
            (fault b block = none → free b block false → clean a group → clean b block →
              (tile.fifo = [] → fails 0x11 a (seq + 3 * 2 ^ 32)) ∧
              ∀ head more, tile.fifo = head :: more →
                (¬formed → fails 0x11 a (seq + head.tag.toNat * 2 ^ 16 + 2 * 2 ^ 32)) ∧
                (formed → seq ≠ head.tag.toNat → fails 0x11 a (seq + head.tag.toNat * 2 ^ 16 + 2 ^ 32)) ∧
                (formed → seq = head.tag.toNat →
                  goes (o.remote.isNone && !trapen) ⟨o, header, bytes b block, head, tile.valid, []⟩))) ∧
          (fault a group = none → ¬free a group false → exec (.tileStart c) s = .next s))

/-- R84, R85, R87, R88, R252 to R256, R263, R264, R268, R270 to R272, R274 and R275: what each entry has done when it
completes: the exact arithmetic of a tmac over its passes, with saturation and promotion; rows zeroed or their validity
set; rows read and written; a plane group built, in no range that another thread has locked (R372); scales pushed; a key
stored; a tepi's segments in the buffer. -/
def Obligations.TileCompletes : Prop :=
  ∀ (s : State) (c : CoreIx) (r : TileRun),
    let o := r.op
    let tile := (s.core c).tile
    let runs (u : State) (x : Tile) : Prop := (u.core c).tile = { x with running := none } ∧
      (∀ key, o.remote = some key → u.tmacrs = s.tmacrs.map fun z => if z.key = key then { z with phase := .done } else z) ∧
      (o.remote = none → u.tmacrs = s.tmacrs) ∧ u.mem = s.mem
    let quiet (u : State) : Prop := u.threads = s.threads ∧ (u.core c).scratch = (s.core c).scratch
    let ends (x : Tile) : Prop := ∃ u, exec (.tileComplete c) s = .next u ∧ runs u x ∧ quiet u
    let cell (n : Nat) : AccEntry := tile.acc[n]?.getD ⟨0, 0⟩
    let rowOf (rows : W64) (i : Nat) : Nat := (rows.toNat / 2 ^ 8 % 2 ^ 8 + i) % 128
    let count (rows : W64) : Nat := min (rows.toNat % 2 ^ 8) 128
    tile.running = some r →
      (∀ kind rows, o.kind = .tzero kind rows → ∃ x, ends x ∧
        { x with acc := tile.acc, valid := tile.valid } = tile ∧
        (∀ n : Fin 16384, x.acc[n] =
          if ∃ i < count rows, n.val / 128 = rowOf rows i then
            match kind with
            | .inner => ⟨0, tile.acc[n].outer⟩
            | .outer => ⟨tile.acc[n].inner, 0⟩
            | .both => ⟨0, 0⟩
            | .valid | .invalid => tile.acc[n]
          else tile.acc[n]) ∧
        ∀ n : Fin 128, x.valid.getLsbD n =
          if ∃ i < count rows, n.val = rowOf rows i then
            match kind with
            | .valid => true
            | .invalid => false
            | .inner | .outer | .both => tile.valid.getLsbD n
          else tile.valid.getLsbD n) ∧
      (∀ outer row grp m mask, o.kind = .taccGet outer none row grp m mask → ends tile) ∧
      (∀ outer (d : VReg) row grp m mask, o.kind = .taccGet outer (some d) row grp m mask → (s.thread o.w).uid = o.uid → o.remote = none →
        ∃ u v, exec (.tileComplete c) s = .next u ∧ runs u tile ∧ u.threads = (s.modThread o.w fun t => t.setV d v).threads ∧
          ∀ n : Fin 32, v[n] = if mask.getLsbD n then
              (if outer then (cell (128 * (row.toNat % 128) + 32 * grp + n)).outer
                else (cell (128 * (row.toNat % 128) + 32 * grp + n)).inner)
            else if m.z then 0 else (s.thread o.w).v[d][n]) ∧
      (∀ outer data row grp mask, o.kind = .taccPut outer data row grp mask → ∃ x, ends x ∧ { x with acc := tile.acc } = tile ∧
        ∀ n : Fin 16384, x.acc[n] =
          if n.val / 128 = row.toNat % 128 ∧ n.val % 128 / 32 = grp.val ∧ mask.getLsbD (n.val % 32) = true then
            (if outer then ⟨tile.acc[n].inner, data[n.val % 32]⟩ else ⟨data[n.val % 32], tile.acc[n].outer⟩)
          else tile.acc[n]) ∧
      (∀ value idx, o.kind = .key value idx → 
        let key : KeyEntry := ⟨value.getLsbD 63, BitVec.ofNat 6 (value.toNat / 2 ^ 32), BitVec.ofNat 32 value.toNat⟩
        ends { tile with keys := tile.keys.set idx key }) ∧
      (∀ a tag, o.kind = .tscale a tag → tile.fifo.length < 8 → ∃ e : ScaleEntry, ends { tile with fifo := tile.fifo ++ [e] } ∧
        e.tag = tag ∧ e.scales.length = 128 ∧ ∀ j, ∀ q, e.scales[j]? = some q → q.toNat = r.data / 2 ^ (16 * j) % 2 ^ 16) ∧
      (∀ ty act rm base stride rows f, o.kind = .tepi ty act rm base stride rows f → (tile.epi.map Segment.seg).Nodup →
        (∀ g ∈ tile.epi, g.seg < 64) → ∃ u, exec (.tileComplete c) s = .next u ∧ quiet u ∧ u.mem = s.mem ∧
        ∃ added left : List Segment, r.segs = added ++ left ∧ added.length = min r.segs.length (64 - tile.epi.length) ∧
          (left = [] → (u.core c).tile.running = none) ∧
          (left ≠ [] → (u.core c).tile.running = some { r with segs := left }) ∧
          ∃ segs : List Segment, (u.core c).tile.epi = tile.epi ++ segs ∧ segs.length = added.length ∧
            (∀ (i : Nat) (x y : Segment), segs[i]? = some x → added[i]? = some y → x = { y with seg := x.seg } ∧ x.seg < 64) ∧
            ((tile.epi ++ segs).map Segment.seg).Nodup) ∧
      (∀ dst src seq f, o.kind = .tplane dst src seq f → 0xFF20000000000000 ≤ dst.toNat →
        let p := f.toNat / 2
        let n := if p = 0 then 2 else p
        let size := if p ≤ 8 then 8 else 16
        let weight (k j : Nat) : Nat := r.data / 2 ^ (size * (128 * k + j)) % 2 ^ size
        let at_ := dst.toNat - 0xFF20000000000000
        let locked := (s.core c).locksOut o.w at_ (64 + 1024 * n)
        (locked = true → exec (.tileComplete c) s = .next s) ∧
        (locked = false → ∃ u, exec (.tileComplete c) s = .next u ∧ runs u tile ∧ u.threads = s.threads ∧
          (∀ x, (x < at_ ∨ at_ + 64 + 1024 * n ≤ x) → (u.core c).scratch.get x = (s.core c).scratch.get x) ∧
          (∀ i < 64, ((u.core c).scratch.get (at_ + i)).toNat =
            (seq.toNat + p * 2 ^ 16 + 64 * 2 ^ 32 + 128 * 2 ^ 40) / 2 ^ (8 * i) % 2 ^ 8) ∧
          ∀ j < n, ∀ k < 64, ∀ x : Fin 128,
            ((u.core c).scratch.get (at_ + 64 + 1024 * j + 16 * k + x / 8)).getLsbD (x % 8) =
              if p = 0 then
                (if j = 0 then decide (2 ^ (size - 1) ≤ weight k x) else decide (weight k x ≠ 0))
              else (weight k x).testBit j)) ∧
      (∀ fl a b rows f trapen, o.kind = .tmac fl a b rows f trapen →
        let p := f.toNat / 2
        let wide := f.getLsbD 0
        let bit (j k n : Nat) : Int := if r.data.testBit (8 * (64 + 1024 * j + 16 * k) + n) then 1 else 0
        let byte (i : Nat) : Nat := r.rows / 2 ^ (8 * i) % 2 ^ 8
        let signed (x : Nat) : Int := if x < 128 then x else (x : Int) - 256
        let activation (i part k : Nat) : Int :=
          if wide then (if part = 0 then (byte (128 * i + 2 * k) : Int) else signed (byte (128 * i + 2 * k + 1)))
          else signed (byte (64 * i + k))
        let perByte := if p = 0 then 1 else p
        let passes := perByte * if wide then 2 else 1
        let adds (i n pass : Nat) : Int :=
          let part := pass / perByte
          let j := pass % perByte
          let place : Int := 256 ^ part * if p = 0 then 1 else if j + 1 = p then -(2 ^ j) else 2 ^ j
          place * ∑ k ∈ Finset.range 64, activation i part k *
            if p = 0 then bit 1 k n * (1 - 2 * bit 0 k n) else bit j k n
        let clamp (x : Int) : Int := max (-(2 ^ 31)) (min (2 ^ 31 - 1) x)
        let start (i n : Nat) : Int := if fl.first then 0 else (cell (128 * rowOf rows i + n)).inner.toInt
        let inner (i n : Nat) (k : Nat) : Int :=
          (List.range k).foldl (fun x pass => clamp (x + adds i n pass)) (start i n)
        let saturates (i n pass : Nat) : Prop := i < count rows ∧ r.valid.getLsbD (rowOf rows i) = true ∧ n < 128 ∧
          pass < passes ∧ inner i n pass + adds i n pass ≠ inner i n (pass + 1)
        let scale (x : Nat) : Nat :=
          if 4096 ≤ x ∨ x / 16 = 255 then fmtF32.nan else if x / 16 = 0 then 0 else x * 2 ^ 19
        let rowScale (i : Nat) : Nat := scale (r.rows / 2 ^ (8 * (count rows * (if wide then 128 else 64) + 2 * i)) % 2 ^ 16)
        let column (n : Nat) : Nat := scale (r.head.scales[n]?.getD 0).toNat
        let promoted (i n : Nat) (x : Int) : Nat :=
          (fAdd fmtF32 .rne (cell (128 * rowOf rows i + n)).outer.toNat (finish fmtF32 .rne false
            ((Num.fin (decide (x < 0)) x.natAbs 0).mul (fmtF32.val (fMul fmtF32 .rne (rowScale i) (column n)).1))).1).1
        (trapen = true → o.remote = none → (s.thread o.w).uid = o.uid → ∀ i n pass, saturates i n pass →
          (∀ i' n' pass', saturates i' n' pass' → i < i' ∨ (i = i' ∧ (n < n' ∨ (n = n' ∧ pass ≤ pass')))) →
          exec (.tileComplete c) s = .next (((s.modCore c fun x =>
            { x with tile := { x.tile with running := none } }).undo o.w none).takeTrap o.w false 0x10 (s.thread o.w).ip 0
              (BitVec.ofNat 64 (rowOf rows i + n * 2 ^ 7 + pass * 2 ^ 14)))) ∧
        (trapen = false ∨ (∀ i n pass, ¬saturates i n pass) → ∃ u x, exec (.tileComplete c) s = .next u ∧ runs u x ∧
          { x with acc := tile.acc, fifo := tile.fifo, accsat := tile.accsat } = tile ∧
          x.fifo = (if fl.pop then tile.fifo.drop 1 else tile.fifo) ∧
          (x.accsat = true ↔ tile.accsat = true ∨ ∃ i n pass, saturates i n pass) ∧
          (trapen = true → o.remote = none → (s.thread o.w).uid = o.uid →
            (u.thread o.w).ip = (s.thread o.w).resume ∧ (u.thread o.w).wait = .run) ∧
          (trapen = false → u.threads = s.threads) ∧
          (∀ q : Fin 16384, (∀ i < count rows, r.valid.getLsbD (rowOf rows i) = true → q.val / 128 ≠ rowOf rows i) →
            x.acc[q] = tile.acc[q]) ∧
          ∀ i < count rows, r.valid.getLsbD (rowOf rows i) = true → ∀ n < 128, x.acc[128 * rowOf rows i + n]? =
            some (if fl.promote then ⟨0, BitVec.ofNat 32 (promoted i n (inner i n passes))⟩
              else ⟨BitVec.ofInt 32 (inner i n passes), (cell (128 * rowOf rows i + n)).outer⟩)))

/-- R259, R265 to R267 and R270: a remote command reaches the queue of the core that its capability names, or is refused
for the reasons of the rule, and its answer reaches its source, a refusal as the pending event TILE_CAP; a segment of the
epilogue buffer is stored, through the remote window in the order of its thread's posted stores, or held with EPI_STORE
pending in its thread; another thread's lock stalls it (R372); and the writes that empty the scale FIFO behind the core's own tile instructions, discard
the held segments, and translate a held segment again and store it. -/
def Obligations.TileCommands : Prop :=
  (∀ (s : State) (i : Nat) (z : Tmacr) (before after : List Tmacr),
    let near := SlotIx.cluster z.src
    let n := z.cap.toNat % 2 ^ 10
    let becomes (p : RPhase) : List Tmacr := before ++ { z with phase := p } :: after
    let want := 1 + (if z.fl.first then 2 else 0) + (if z.fl.promote then 4 else 0) + if z.fl.pop then 8 else 0
    let earlier : Prop := ∃ y ∈ before, SlotIx.core y.src = SlotIx.core z.src ∧ y.cap.toNat % 2 ^ 10 = n ∧ y.ch = z.ch ∧
      y.phase = .sent
    s.tmacrs = before ++ z :: after → before.length = i → (∀ y ∈ before ++ after, y.key ≠ z.key) →
      (z.phase ≠ .sent ∨ earlier → exec (.tmacrCommand i) s = .next s) ∧
      (z.phase = .sent → ¬earlier →
        (s.physical (s.partOf near) (n / 8) = none → exec (.tmacrCommand i) s = .next { s with tmacrs := becomes (.refused 2 0) }) ∧
        ∀ cl, s.physical (s.partOf near) (n / 8) = some cl →
          let c := coreOf cl ⟨n % 8, Nat.mod_lt _ (by decide)⟩
          let away : Prop := (s.core c).stopping = true ∨
            ∃ k ∈ s.saved, k.part = s.partOf near ∧ k.vcluster = n / 8 ∧ k.num.val = n % 8 ∧ k.epoch = (s.cluster cl).epoch
          (s.permitted near (n / 8) cl = false →
            exec (.tmacrCommand i) s = .next { s with tmacrs := becomes (.refused 2 0) }) ∧
          (s.permitted near (n / 8) cl = true → away →
            exec (.tmacrCommand i) s = .next { s with tmacrs := becomes (.refused 4 0) }) ∧
          (s.permitted near (n / 8) cl = true → ¬away → ∃ y, exec (.tmacrCommand i) s = .next y ∧ y.tmacrs = becomes .queued ∧
            y.threads = s.threads ∧ y.mem = s.mem ∧ ∃ token, (y.core c).tile = { (s.core c).tile with
              queue := (s.core c).tile.queue ++ [⟨token, z.src, z.uid, some z.key, .tmac z.fl z.a z.b z.c z.tfmt false⟩]
              tokens := token + 1 })) ∧
      (exec (.tmacrAck i) s = .next (if z.phase = .done then { s with tmacrs := before ++ after } else s)) ∧
      (∀ reason code, z.phase = .refused reason code → (s.thread z.src).uid = z.uid →
        ∃ xs ys, s.pends z.src 0x12 xs ys ∧ exec (.tileCap i) s =
          .next ({ s with tmacrs := before ++ after }.modThread z.src fun t => { t with pend := xs ++ ([⟨0x12, s.now, z.a,
            BitVec.ofNat 64 (n + want * 2 ^ 10 + z.count.toNat * 2 ^ 16 + reason * 2 ^ 32 + code * 2 ^ 36),
            none, none⟩] : List Async) ++ ys })) ∧
      ((∀ reason code, z.phase ≠ .refused reason code) → exec (.tileCap i) s = .next s) ∧
      ∀ c o rest, z.phase = .queued → (s.core c).tile.queue = o :: rest → o.remote = some z.key → o.kind ≠ .flush →
        (∀ p ∈ rest, p.token ≠ o.token) → (s.core c).tile.running = none →
        let granted : Prop := z.cap.toNat / 2 ^ 48 = 0 ∧ z.cap.toNat / 2 ^ 14 % 4 = 0 ∧ (z.cap.toNat / 2 ^ 10 % 2 ^ 6) &&& want = want ∧
          ∃ k : Fin 8, let e := (s.core c).tile.keys[k]
            e.valid = true ∧ e.key.toNat = z.cap.toNat / 2 ^ 16 % 2 ^ 32 ∧ e.ops.toNat &&& want = want
        ¬granted → exec (.tileStart c) s = .next { s.modCore c fun x => { x with tile := { x.tile with queue := rest } } with
          tmacrs := becomes (.refused 1 0) }) ∧
  (∀ (s : State) (c : CoreIx) (g : Segment) (before after : List Segment),
    let tile := (s.core c).tile
    let near := SlotIx.cluster g.w
    let apart (x : List Segment) (y : State) : Prop := y.threads = s.threads ∧ (y.core c).tile = { tile with epi := x }
    let waits : Prop := (∃ y ∈ before, y.held = none ∧ ∃ a ∈ y.lanes, ∃ b ∈ g.lanes, a.overlaps b = true) ∨
      (∃ j ∈ (s.core c).journal, j.uid = g.uid ∧ j.key < g.key ∧ j.state ≠ .performed ∧ g.goesTo j.uid j.cl = true) ∨
      ∃ l ∈ g.lanes, s.lockedOut g.w l = true
    let far : Prop := ∃ l ∈ g.lanes, ∃ cl off, l.place = .remote cl off ∧ ((s.cluster cl).epoch ≠ g.epoch ∨
      (s.cluster cl).part ≠ (s.cluster near).part ∨ s.permitted cl (s.vcluster near) near = false ∨ s.bad l = true)
    let broken : Prop := ∃ l ∈ g.lanes, s.bad l = true
    let held (reason : Nat) : Prop := ∃ xs ys, s.pends g.w 0x13 xs ys ∧
      exec (.epiStore c g.seg) s = .next ((s.modCore c fun x => { x with tile := { x.tile with
          epi := before ++ { g with held := some reason, again := false } :: after } }).modThread g.w fun t =>
        { t with pend := xs ++ ([⟨0x13, s.now, g.va, BitVec.ofNat 64 (g.seg + ((before ++ after).filter fun y =>
          y.held.isSome).length.succ * 2 ^ 8 + reason * 2 ^ 16), none, none⟩] : List Async) ++ ys })
    let parts (ls : List Lane) : Prop := (∀ l ∈ ls, l.direct ∧ l.size = 8) ∧ ls.Pairwise fun a b => ∀ i < 8, ∀ j < 8, a.spot i ≠ b.spot j
    let stored (ls : List Lane) (y : State) : Prop :=
      ∀ l ∈ ls, ∀ i < 8, y.byteOf (l.spot i) = BitVec.ofNat 8 (l.data.toNat / 2 ^ (8 * i))
    tile.epi = before ++ g :: after → (∀ y ∈ before ++ after, y.seg ≠ g.seg) → (s.thread g.w).uid = g.uid →
      (g.held ≠ none ∨ waits → exec (.epiStore c g.seg) s = .next s) ∧
      (g.held = none → ¬waits →
        (far → held 1) ∧ (¬far → broken → held 2) ∧ (¬far → ¬broken → g.stale = true → held 3) ∧
        (¬far → ¬broken → g.stale = false → parts g.lanes →
          ∃ y, exec (.epiStore c g.seg) s = .next y ∧ apart (before ++ after) y ∧ stored g.lanes y)) ∧
      (g.held ≠ none → (∀ y ∈ before ++ after, y.held = none) →
        let off (y : Segment) : Segment := { y with again := false }
        let locked : Prop := ∃ l ∈ g.lanes, s.lockedOut g.w l = true
        let ready := s.modCore c fun x => { x with tile := { x.tile with
          epi := before.map off ++ { g with again := true } :: after.map off } }
        let moved (pa : Nat) : List Lane := g.lanes.map fun l =>
          { l with place := .global (pa + (BitVec.ofInt 64 ((l.va.toNat : Int) - g.va.toNat)).toNat) }
        (locked → exec (.epiReplay c) s = .next ready) ∧
        (¬locked → 2 ^ 57 ≤ g.va.toNat → ¬far → ¬broken → parts g.lanes → ∃ y, exec (.epiReplay c) s = .next y ∧
          apart (before.map off ++ after.map off) y ∧ stored g.lanes y) ∧
        (∀ reason, ¬locked → 2 ^ 57 ≤ g.va.toNat → (reason = 1 ∧ far ∨ reason = 2 ∧ ¬far ∧ broken) → ∃ y xs ys,
          exec (.epiReplay c) s = .next y ∧ s.pends g.w 0x13 xs ys ∧
          (y.core c).tile = { tile with epi := before.map off ++ { g with held := some reason, again := false } :: after.map off } ∧
          (y.thread g.w).pend = xs ++ ([⟨0x13, s.now, g.va, BitVec.ofNat 64 (g.seg + 2 ^ 8 + reason * 2 ^ 16),
            none, none⟩] : List Async) ++ ys ∧ y.mem = s.mem) ∧
        ∀ pa t, ¬locked → g.va.toNat < 2 ^ 57 → ready.step5 g.w needW 0 g.va = .ok (pa, t) → (∀ l ∈ moved pa, t.bad l = false) →
          parts (moved pa) → ∃ y, exec (.epiReplay c) s = .next y ∧ apart (before.map off ++ after.map off) y ∧
            stored (moved pa) y)) ∧
  ∀ (s : State) (c : CoreIx),
    let tile := (s.core c).tile
    let becomes (i : Instr) (x : Tile) : Prop := exec i s = .next (s.modCore c fun y => { y with tile := x })
    ((∀ o ∈ tile.queue, o.remote ≠ none) → becomes (.tseqFlush c) { tile with fifo := [] }) ∧
    (∀ xs o ys, tile.queue = xs ++ o :: ys → o.remote = none → (∀ y ∈ ys, y.remote ≠ none) → becomes (.tseqFlush c)
      { tile with queue := xs ++ o :: ⟨tile.tokens, 0, 0, none, .flush⟩ :: ys, tokens := tile.tokens + 1 }) ∧
    becomes (.epiDiscard c) { tile with epi := tile.epi.filter fun g => g.held.isNone } ∧
    ((∀ g ∈ tile.epi, g.held = none) → becomes (.epiReplay c)
      { tile with epi := tile.epi.map fun g => { g with again := false } })

/-- R279 to R292: only the holder of the claim may use the griddle, each misuse is an exact GRID_SEQ, what must not meet a
running wave waits, and each instruction does what its rule says; a wave that has run TKW + 6 cycles latches, for each
column, the first riser of an OR and the last riser of an AND, ties going to the lowest input. -/
def Obligations.GriddleWaves : Prop :=
  (∀ (s : State) (d a : GReg) (v : VReg) (grp idx : Bool),
    let t := s.me
    let g := s.myCore.griddle
    let mine : Prop := g.holder = some (SlotIx.num s.cur)
    let running : Prop := g.state = .running
    let sets (u : State) (h : Griddle) : State := u.modCore (SlotIx.core s.cur) fun c => { c with griddle := h }
    let does (i : Instr) (h : Griddle) : Prop := exec i s = .next (sets (s.retire id) h)
    let x := (t.greg a).toNat
    let staged : Griddle := { g with staged := Vector.ofFn fun k =>
      if k.val / 32 = (if grp then 1 else 0) then t.v[v][k.val % 32] else g.staged[k] }
    let fresh : Griddle :=
      ⟨Vector.replicate 4096 0, 0, Vector.replicate 64 0xFFFFFFFF, .idle, 0, Vector.replicate 64 0xFFFFFFFF,
        Vector.replicate 64 0xFFFFFFFF, none, 0⟩
    let first := 64 * (32 * (x / 2 ^ 6 % 2)) + x % 2 ^ 6
    (∀ i ∈ [Instr.gdelay v a, .gdelayGet v a, .glaunch v grp, .glaunchGo v grp, .gcap v grp idx, .gcapScalar d a, .greset,
      .grelease, .gmode a], ¬mine → s.traps i 0x1A 0 1) ∧
    (s.plain [] [.g d] →
      (g.holder = none → exec (.gclaim d) s = .next (sets (s.retire fun t => t.setG d 1)
        { g with holder := some (SlotIx.num s.cur) })) ∧
      (mine → s.gives (.gclaim d) d 1) ∧
      (g.holder ≠ none → ¬mine → s.gives (.gclaim d) d 0)) ∧
    (mine → running → s.waits (.gdelay v a) .wave ∧ s.waits (.gdelayGet v a) .wave ∧ s.waits (.glaunch v grp) .wave ∧
      s.waits (.gmode a) .wave ∧ s.waits .grelease .wave ∧ s.waits (.gcap v grp idx) .gcap ∧ s.waits (.gcapScalar d a) .gcap) ∧
    (mine → ¬running → does .grelease fresh) ∧
    (mine → does .greset { fresh with cells := g.cells, modes := g.modes, holder := g.holder }) ∧
    (mine → ¬running → s.plain [.g a] [] → does (.gmode a) { g with modes := t.greg a }) ∧
    (mine → ¬running → s.plain [.g a, .v v] [] → ∃ h, does (.gdelay v a) h ∧ { h with cells := g.cells } = g ∧
      (∀ i : Fin 32, h.cells[first + 64 * i.val]? = some (BitVec.ofNat 9 (t.v[v][i]).toNat)) ∧
      ∀ n : Fin 4096, (∀ i : Fin 32, n.val ≠ first + 64 * i.val) → h.cells[n] = g.cells[n]) ∧
    (mine → ¬running → s.plain [.g a] [.v v] → ∃ r : Vec, exec (.gdelayGet v a) s = .next (s.retire fun t => t.setV v r) ∧
      ∀ i : Fin 32, g.cells[first + 64 * i.val]? = some (BitVec.ofNat 9 (r[i]).toNat) ∧ (r[i]).toNat < 2 ^ 9) ∧
    (mine → ¬running → s.plain [.v v] [] → does (.glaunch v grp) staged) ∧
    (mine → g.state ≠ .idle → s.traps (.glaunchGo v grp) 0x1A 0 2) ∧
    (mine → g.state = .idle → s.plain [.v v] [] →
      (∀ before k j after, s.ue = before ++ .cell (SlotIx.core s.cur) k j :: after →
        (∀ k' j', .cell (SlotIx.core s.cur) k' j' ∉ before) →
        s.traps (.glaunchGo v grp) 0x0C 0 (BitVec.ofNat 64 (j.val + 64 * k.val))) ∧
      ((∀ k j, .cell (SlotIx.core s.cur) k j ∉ s.ue) → ∃ y, exec (.glaunchGo v grp) s = .next y ∧ y.mem = s.mem ∧
        y.threads = (s.retire id).threads ∧
        y.myCore.griddle = { staged with win := t.tkw, state := .running, started := s.myCore.cycle })) ∧
    (mine → g.state = .idle → s.traps (.gcap v grp idx) 0x1A 0 3 ∧ s.traps (.gcapScalar d a) 0x1A 0 3) ∧
    (mine → g.state = .done →
      (s.plain [] [.v v] → exec (.gcap v grp idx) s = .next (s.retire fun t => t.setV v (Vector.ofFn fun i =>
        let j : Fin 64 := ⟨(if grp then 32 else 0) + i.val, by split <;> omega⟩
        if idx then g.winner[j] else g.tick[j]))) ∧
      (s.plain [.g a] [.g d] → s.gives (.gcapScalar d a) d
        (BitVec.ofNat 64 ((g.winner[x % 64]).toNat * 2 ^ 32 + (g.tick[x % 64]).toNat))))) ∧
  ∀ (s : State) (c : CoreIx),
    let g := (s.core c).griddle
    let w := g.win.toNat
    let over_ : Prop := g.state = .running ∧ w + 6 ≤ (BitVec.ofInt 64 ((s.core c).cycle.toNat - g.started.toNat)).toNat
    let joins (k j : Fin 64) : Prop := (g.cells[64 * k.val + j.val]).getLsbD 8 = true
    let at_ (k j : Fin 64) : Nat := (g.staged[k]).toNat + (g.cells[64 * k.val + j.val]).toNat % 2 ^ 8
    let rises (k j : Fin 64) : Prop := joins k j ∧ (g.staged[k]).toNat < w ∧ at_ k j < w
    let all (j : Fin 64) : Prop := g.modes.getLsbD j = true → ∀ k, joins k j → rises k j
    let better (j : Fin 64) (a b : Nat) : Prop := if g.modes.getLsbD j then b < a else a < b
    (¬over_ → exec (.waveEnd c) s = .next s) ∧
    (over_ → ∃ tick winner : Vector W32 64, exec (.waveEnd c) s = .next (s.modCore c fun x =>
        { x with griddle := { g with state := .done, tick := tick, winner := winner } }) ∧
      ∀ j : Fin 64, (all j → ∀ k, rises k j →
          (∀ k', rises k' j → ¬better j (at_ k' j) (at_ k j) ∧ (at_ k' j = at_ k j → k ≤ k')) →
          (tick[j]).toNat = at_ k j ∧ (winner[j]).toNat = k.val) ∧
        (¬all j ∨ (∀ k, ¬rises k j) → tick[j] = 0xFFFFFFFF ∧ winner[j] = 0xFFFFFFFF))

/-- R50, R301, R303, R304, R311, R312 and R315 to R318: xgo runs only in the transfer slot, reads its block where the rule
allows it, refuses a block with the lowest code that applies, and otherwise takes the lowest free entry of the
scoreboard under the core's next number, after the messages of its thread (log 65); xwait, xstat and xcancel answer a status,
or the stale one, and find complete a transfer that has nothing left to write (R323); xwait parks until the transfer ends, and
xcancel stalls until what was sent is performed or refused, after which the transfer is cancelled. Log 75 says which sectors
the engine has requested. -/
def Obligations.TransferInstructions : Prop :=
  ∀ (s : State) (d a : GReg) (off : Nat) (mine : Bool),
    let t := s.me
    let here := SlotIx.core s.cur
    let x := t.greg a
    let ea := x.toNat
    let base := if mine then 0xFF00000000000000 else 0xFF20000000000000
    let mem : Memory := if mine then (s.cluster (SlotIx.cluster s.cur)).mem else s.myCore.scratch
    let place : Place := if mine then .own (SlotIx.cluster s.cur) off else .scratch here off
    let lane : Lane := ⟨0, x, place, 64, [], 0⟩
    let w (i : Nat) : W64 := BitVec.ofNat 64 (mem.word (off + 8 * i) 8)
    let field (i hi lo : Nat) : Nat := (w i).toNat / 2 ^ lo % 2 ^ (hi + 1 - lo)
    let mode := field 5 2 0
    let fill := (w 5).getLsbD 3
    let notify := (w 5).getLsbD 4
    let rows := field 2 31 0
    let size := field 2 63 32
    let local_ (y : W64) : Prop := (0xFF00000000000000 ≤ y.toNat ∧ y.toNat < 0xFF00000000400000) ∨
      (0xFF10000000000000 ≤ y.toNat ∧ y.toNat < 0xFF20000000000000)
    let scratch (y : W64) : Prop := 0xFF20000000000000 ≤ y.toNat ∧ y.toNat < 0xFF20000000040000
    let stride := field 5 21 19
    let ncore := field 5 25 22
    let block := (w 6).toNat % 2 ^ 32
    let breaks : Nat → Prop
      | 1 => 2 < mode
      | 2 => rows = 0 ∨ 65536 < rows ∨ size = 0 ∨ 2 ^ 24 < size ∨ ((w 5).getLsbD 5 = true ∧ rows * size = 2 ^ 40)
      | 3 => fill = true ∧ (mode ≠ 0 ∨ (w 1).toNat % 8 ≠ 0 ∨ size % 8 ≠ 0 ∨ (w 4).toNat % 8 ≠ 0 ∨
          ∃ r < rows, ¬local_ (BitVec.ofNat 64 ((w 1).toNat + r * (w 4).toNat)) ∨
            ¬local_ (BitVec.ofNat 64 ((w 1).toNat + r * (w 4).toNat + (size - 1))))
      | 4 => mode = 1 ∧ (block = 0 ∨ block % 64 ≠ 0 ∨ stride = 0 ∨ ncore = 0 ∨ 8 < ncore ∨ 8 / Nat.gcd stride 8 < ncore ∨
          w 4 ≠ 0 ∨ ¬scratch (w 1))
      | 5 => mode = 2 ∧ (128 < field 5 63 56 ∨ ((w 5).getLsbD 55 = true ∧ (w 6).toNat % 64 ≠ 0) ∨ ¬scratch (w 1))
      | 6 => notify = true ∧ (2 ^ 57 ≤ (w 7).toNat ∨ (w 7).toNat % 64 = 0)
      | 7 => field 5 31 26 ≠ 0 ∨ field 5 15 12 ≠ 0 ∨ (mode ≠ 2 ∧ field 5 63 32 ≠ 0) ∨ (mode ≠ 1 ∧ field 5 25 19 ≠ 0) ∨
          (mode = 0 ∧ (field 5 18 16 ≠ 0 ∨ w 6 ≠ 0)) ∨ (mode = 1 ∧ field 6 63 32 ≠ 0) ∨ (notify = false ∧ w 7 ≠ 0)
      | _ => False
    let busy (e : Fin 16) : Prop := ∃ y, s.myCore.score[e] = some y ∧ y.state = .flight
    let out (f : Fin 16 × Nat × Nat) : Prop := (s.ports[f.1]).up = true ∧ f.2.1 ∉ (s.ports[f.1]).refused ∧
      ∃ x ∈ (s.ports[f.1]).unacked, x.seq = f.2.1
    let lost (f : Fin 16 × Nat × Nat) : Prop := f.2.1 ∈ (s.ports[f.1]).refused ∨
      ((s.ports[f.1]).up = false ∧ ∃ x ∈ (s.ports[f.1]).unacked, x.seq = f.2.1)
    let lowest (y : Transfer) (n : Nat) : Prop := n ≤ y.bytes ∧ (∀ f ∈ y.flits, out f ∨ lost f → n ≤ f.2.2) ∧
      (n = y.bytes ∨ ∃ f ∈ y.flits, (out f ∨ lost f) ∧ n = f.2.2)
    let due (y : Transfer) : Prop := y.state = .flight ∧ y.halted = false ∧ y.bytes = y.rows * y.rowBytes ∧
      ∀ f ∈ y.flits, ¬out f ∧ ¬lost f
    let status (y : Transfer) : W64 := match y.state with
      | .flight => BitVec.ofNat 64 y.bytes
      | .complete => BitVec.ofNat 64 (2 ^ 62 + y.rows * y.rowBytes)
      | .error n => BitVec.ofNat 64 (2 * 2 ^ 62 + n * 2 ^ 56 + y.bytes)
      | .cancelled => BitVec.ofNat 64 (3 * 2 ^ 62 + y.bytes)
    let answers (i : Instr) (e : Fin 16) (y : Transfer) (st : W64) : Prop := ∃ z, exec i s = .next z ∧ z.me.ip = s.following ∧
      z.me.greg d = (if d.val = 0 then 0 else st) ∧ (∀ r, r ≠ d → z.me.greg r = t.greg r) ∧ z.me.v = t.v ∧ z.me.wait = .run ∧
      z.myCore.score = s.myCore.score.set e (some y) ∧ z.mem = s.mem
    let completes (i : Instr) (e : Fin 16) (y : Transfer) : Prop :=
      answers i e { y with state := .complete } (BitVec.ofNat 64 (2 ^ 62 + y.rows * y.rowBytes))
    let cancels (i : Instr) (e : Fin 16) (y : Transfer) (n : Nat) : Prop :=
      answers i e { y with state := .cancelled, bytes := n } (BitVec.ofNat 64 (3 * 2 ^ 62 + n))
    let entry : Fin 16 := ⟨ea % 16, Nat.mod_lt _ (by decide)⟩
    let names (y : Transfer) : Prop := ea < 2 ^ 32 ∧ s.myCore.score[entry] = some y ∧ y.num.toNat = ea / 16
    let stale : Prop := ∀ y, ¬names y
    let slot : Prop := s.xslot s.cur = true
    (¬slot → s.traps (.xgo d a) 0x04 0 s.headParcels) ∧
    (slot → s.plain [.g a] [.g d] →
      (ea < 2 ^ 57 ∨ (0xFF10000000000000 ≤ ea ∧ ea < 0xFF20000000000000 ∧
          ∃ far, s.physical (s.partOf (SlotIx.cluster s.cur)) ((ea - 0xFF10000000000000) / 0x400000) = some far) →
        s.traps (.xgo d a) 0x07 x 0) ∧
      ((2 ^ 57 ≤ ea ∧ ea < 0xFF00000000000000) ∨ 0xFF20000000040000 ≤ ea → s.traps (.xgo d a) 0x06 x 0) ∧
      (ea = base + off → off < (if mine then 0x400000 else 0x40000) →
        (off % 64 ≠ 0 → s.traps (.xgo d a) 0x05 x 0) ∧
        (off % 64 = 0 → mine = true → 0x3FF000 ≤ off → s.traps (.xgo d a) 0x07 x 5) ∧
        (off % 64 = 0 → (mine = true → off < 0x3FF000) → s.unheld lane false →
          (s.sendOut s.cur = true → s.waits (.xgo d a) .retryBuffer) ∧
          (s.sendOut s.cur = false → s.bad lane = true → s.traps (.xgo d a) 0x0C x 0) ∧
          (s.sendOut s.cur = false → s.bad lane = false → t.outs ≠ [] → s.waits (.xgo d a) .access) ∧
          (s.sendOut s.cur = false → s.bad lane = false → t.outs = [] →
            ((∀ e, busy e) → s.waits (.xgo d a) .transfer) ∧
            (∀ e, ¬busy e → (∀ i < e, busy i) →
              (∀ n, breaks n → (∀ i < n, ¬breaks i) → s.gives (.xgo d a) d (BitVec.ofNat 64 (2 ^ 63 + n))) ∧
              ((∀ n, ¬breaks n) → exec (.xgo d a) s = .next (({ s with uids := s.uids + 1 }.retire fun t => t.setG d
                  (BitVec.ofNat 64 (s.myCore.xcount.toNat * 16 + e.val))).modCore here fun c => { c with
                score := c.score.set e (some ⟨s.myCore.xcount, s.cur, t.uid, t.part, t.home, t.team, w 0, w 1, size, rows, w 3, w 4,
                  w 5, w 6, w 7, .flight, [], 0, (s.clustersOf t.part).map fun cl => (cl, (s.cluster cl).epoch), none, none, none,
                  false, [], s.uids⟩)
                xcount := s.myCore.xcount + 1 }))))))) ∧
    (s.plain [.g a] [.g d] →
      (stale → s.gives (.xwait d a) d (BitVec.ofNat 64 (2 ^ 62 + 2 ^ 55)) ∧
        s.gives (.xstat d a) d (BitVec.ofNat 64 (2 ^ 62 + 2 ^ 55)) ∧ s.gives (.xcancel d a) d (BitVec.ofNat 64 (2 ^ 62 + 2 ^ 55))) ∧
      ∀ y, names y →
        (y.state ≠ .flight → s.gives (.xwait d a) d (status y) ∧ s.gives (.xcancel d a) d (status y) ∧ s.gives (.xstat d a) d (status y)) ∧
        (s.trying → due y → y.ctl.toNat % 8 ≠ 2 → y.ctl.getLsbD 5 = false →
          completes (.xwait d a) entry y ∧ completes (.xstat d a) entry y ∧ completes (.xcancel d a) entry y) ∧
        (y.state = .flight → ¬due y → s.trying → (y.halted = false ∨ ∃ f ∈ y.flits, out f) →
          (exec (.xwait d a) s = .next ((s.modMe fun t =>
            { t with wait := .xwait (.reg d) x, resume := s.following, parkedAt := s.myCore.cycle }).modMe Thread.settled)) ∧
          (∀ n, lowest y n → s.gives (.xstat d a) d (BitVec.ofNat 64 n)) ∧
          (∀ n, lowest y n → (∀ f ∈ y.flits, ¬out f) → cancels (.xcancel d a) entry { y with halted := true } n) ∧
          ((∃ f ∈ y.flits, out f) → exec (.xcancel d a) s = .next (((s.modMe fun t =>
            { t with wait := .xcancel (.reg d) x, resume := s.following, parkedAt := s.myCore.cycle }).modCore here fun c =>
              { c with score := c.score.set entry (some { y with halted := true }) }).modMe Thread.settled))) ∧
        (y.state = .flight → y.halted = true → s.trying → (∀ f ∈ y.flits, ¬out f) → ∀ n, lowest y n →
          cancels (.xwait d a) entry y n ∧ cancels (.xstat d a) entry y n ∧ cancels (.xcancel d a) entry y n))

/-- R304 to R310, R313, R318, R319 and R322: the engine copies words of a sector from where the rows of its source lie to where
its mode puts them, for a saved context as for the core's own; a transfer whose bytes are all written completes, sets its rows
valid and pushes its scales in stream-tile mode when there is room, releases the threads that wait for it with its status, and
queues its notification; one that an xcancel has halted is cancelled when nothing that it sent is on its way; and a byte that
cannot be read or written ends it with the code of its cause, the one at the lowest unwritten offset, of a source before its
destination (log 17). Log 75 says which sectors are requested. -/
def Obligations.TransferEngine : Prop :=
  ∀ (s : State) (c : CoreIx) (e : Nat) (t : Transfer) (k : Nat) (words : BitVec 8),
    let cl := SlotIx.cluster t.w
    let total := t.rows * t.rowBytes
    let field (hi lo : Nat) : Nat := t.ctl.toNat / 2 ^ lo % 2 ^ (hi + 1 - lo)
    let mode := field 2 0
    let core (n : Nat) : CoreIx := coreOf cl ⟨n % 8, Nat.mod_lt _ (by decide)⟩
    let src (o : Nat) : W64 := BitVec.ofNat 64 (t.src.toNat + o / t.rowBytes * t.sstride.toNat + o % t.rowBytes)
    let block := t.marg.toNat % 2 ^ 32
    let dstCore (o : Nat) : CoreIx :=
      if mode = 1 then core (field 18 16 + o / block % field 25 22 * field 21 19)
      else if mode = 2 then core (field 18 16)
      else SlotIx.core t.w
    let dst (o : Nat) : W64 := BitVec.ofNat 64 (
      if mode = 1 then t.dst.toNat + o / block / field 25 22 * block + o % block
      else t.dst.toNat + o / t.rowBytes * t.dstride.toNat + o % t.rowBytes)
    let own (y : W64) (off : Nat) : Prop := off < 0x400000 ∧ y.toNat = 0xFF00000000000000 + off
    let remote (y : W64) (v off : Nat) : Prop := off < 0x400000 ∧ v < 2 ^ 30 ∧ y.toNat = 0xFF10000000000000 + v * 0x400000 + off
    let scratch (y : W64) (off : Nat) : Prop := off < 0x40000 ∧ y.toNat = 0xFF20000000000000 + off
    let sound (y : W64) (p : Place) : Prop := s.bad ⟨0, y, p, 1, [], 0⟩ = false
    let reads (y : W64) (r : Translation) : Prop := s.translate (SlotIx.core t.w) t.part y.toNat needR = (s, r)
    let writes (y : W64) (r : Translation) : Prop := s.translate (SlotIx.core t.w) t.part y.toNat needW = (s, r)
    let from_ (y : W64) (p : Spot) : Prop :=
      (∃ off, own y off ∧ off < 0x3FF000 ∧ sound y (.own cl off) ∧ p = .local_ cl off) ∨
      (∃ v off far, remote y v off ∧ off < 0x3FF000 ∧ s.physical t.part v = some far ∧ s.permitted cl v far = true ∧
        sound y (.remote far off) ∧ p = .local_ far off) ∨
      (∃ off, scratch y off ∧ sound y (.scratch (SlotIx.core t.w) off) ∧ p = .scratch (SlotIx.core t.w) off) ∨
      (∃ pa, y.toNat < 2 ^ 57 ∧ reads y (.ok pa) ∧ inAperture pa = false ∧ sound y (.global pa) ∧ p = .hbm pa)
    let lets (v off : Nat) (far : ClusterIx) : Prop := s.permitted cl v far = true ∧ off < 0x3FF000
    let takesIn (y : W64) (off : Nat) (far : ClusterIx) : Prop :=
      s.permitted far (s.vcluster cl) cl = true ∧ sound y (.remote far off)
    let into (o : Nat) (p : Spot) : Prop :=
      (∃ off, mode = 0 ∧ own (dst o) off ∧ off < 0x3FF000 ∧ p = .local_ cl off) ∨
      (∃ v off far, mode = 0 ∧ remote (dst o) v off ∧ t.dests[v]? = some (far, (s.cluster far).epoch) ∧ lets v off far ∧
        takesIn (dst o) off far ∧ p = .local_ far off) ∨
      (∃ off, scratch (dst o) off ∧ (∀ l, (s.core (dstCore o)).lock = some l → off < l.base ∨ l.base + 64 * l.units ≤ off) ∧
        p = .scratch (dstCore o) off) ∨
      (∃ pa, mode = 0 ∧ (dst o).toNat < 2 ^ 57 ∧ writes (dst o) (.ok pa) ∧ inAperture pa = false ∧ p = .hbm pa)
    let written (t : Transfer) (j : Nat) : Prop := 8 * j < t.bytes ∨ j ∈ t.words
    let takes (o : Nat) : Prop := o < total ∧ o / 64 = k ∧ words.getLsbD (o / 8 % 8) = true ∧ ¬written t (o / 8)
    let out (f : Fin 16 × Nat × Nat) : Prop := (s.ports[f.1]).up = true ∧ f.2.1 ∉ (s.ports[f.1]).refused ∧
      ∃ x ∈ (s.ports[f.1]).unacked, x.seq = f.2.1
    let lost (f : Fin 16 × Nat × Nat) : Prop := f.2.1 ∈ (s.ports[f.1]).refused ∨
      ((s.ports[f.1]).up = false ∧ ∃ x ∈ (s.ports[f.1]).unacked, x.seq = f.2.1)
    let landed : Prop := ∀ f ∈ t.flits, ¬out f ∧ ¬lost f
    let here (y : State) (t' : Transfer) : Prop :=
      ∃ x, y.view c (e / 16) = some x ∧ x.score[e % 16]? = some (some t')
    let id : W64 := BitVec.ofNat 64 (t.num.toNat * 16 + e % 16)
    let awaits (x : Thread) (d : Dst) : Prop := x.wait = .xwait d id ∨ x.wait = .xcancel d id
    let noted (x : Thread) : Thread :=
      if t.ctl.getLsbD 4 = true ∧ x.notifyEn = true ∧ ∀ n ∈ x.notes, n.id.toNat % 16 ≠ e % 16 then
        { x with notes := x.notes ++ [⟨BitVec.ofNat 32 (t.num.toNat * 16 + e % 16), t.handler⟩] }
      else x
    let status (t' : Transfer) : W64 := match t'.state with
      | .flight => 0
      | .complete => BitVec.ofNat 64 (2 ^ 62 + total)
      | .error n => BitVec.ofNat 64 (2 * 2 ^ 62 + n * 2 ^ 56 + t'.bytes)
      | .cancelled => BitVec.ofNat 64 (3 * 2 ^ 62 + t'.bytes)
    let ends (t' : Transfer) (y : State) : Prop := here y t' ∧ y.mem = s.mem ∧ y.hostMem = s.hostMem ∧
      ((∀ w k, ¬awaits (s.thread w) (.queue k)) → ∀ w,
        let note (x : Thread) : Thread := if w = t.w ∧ t'.state ≠ .cancelled then noted x else x
        (∀ r, e < 16 → SlotIx.core w = c → awaits (s.thread w) (.reg r) →
          y.thread w = note (((s.thread w).setG r (status t')).done)) ∧
        ((16 ≤ e ∨ SlotIx.core w ≠ c ∨ ∀ r, ¬awaits (s.thread w) (.reg r)) → y.thread w = note (s.thread w)))
    let done : Transfer := { t with state := .complete }
    let lowest (n : Nat) : Prop := n ≤ t.bytes ∧ (∀ f ∈ t.flits, out f ∨ lost f → n ≤ f.2.2) ∧
      (n = t.bytes ∨ ∃ f ∈ t.flits, (out f ∨ lost f) ∧ n = f.2.2)
    here s t → SlotIx.core t.w = c → t.state = .flight → t.bytes ≤ total → 1 ≤ t.rowBytes → (mode = 1 → 1 ≤ block ∧ 1 ≤ field 25 22) →
      (t.halted = true ∨ (∀ o, ¬takes o) ∨ s.tracked c t k = false → exec (.copySector c e k words) s = .next s) ∧
      (t.halted = false → (∃ o, takes o) → s.tracked c t k = true → ∀ (S D : Nat → Spot),
        (∀ o, takes o → from_ (src o) (S o) ∧ into o (D o)) → (∀ i j, takes i → takes j → D i = D j → i = j) →
        ∃ y t', exec (.copySector c e k words) s = .next y ∧ here y t' ∧ t'.state = .flight ∧ y.threads = s.threads ∧
          (∀ j, 8 * j < total → (written t' j ↔ written t j ∨ takes (8 * j))) ∧
          (∀ o, takes o → y.byteOf (D o) = s.byteOf (S o)) ∧ (∀ p, (∀ o, takes o → p ≠ D o) → y.byteOf p = s.byteOf p) ∧
          ∀ m q, (y.cluster m).full.contains q = true ↔ (s.cluster m).full.contains q = true ∨
            (t.ctl.getLsbD 3 = true ∧ ∃ o, takes o ∧ D o = .local_ m (8 * q + 7))) ∧
      ((∃ f ∈ t.flits, out f) ∨ (t.halted = false ∧ (t.bytes ≠ total ∨ ¬landed)) → exec (.transferComplete c e) s = .next s) ∧
      (t.halted = true → (∀ f ∈ t.flits, ¬out f) → ∀ n, lowest n → ∃ y, exec (.transferComplete c e) s = .next y ∧
        ends { t with state := .cancelled, bytes := n } y) ∧
      (t.halted = false → t.bytes = total → landed → mode ≠ 2 → ∃ y, exec (.transferComplete c e) s = .next y ∧ here y done ∧
        y.mem = s.mem) ∧
      (t.halted = false → t.bytes = total → landed → (s.thread t.w).uid = t.uid →
        (mode ≠ 2 → t.ctl.getLsbD 5 = true → ∃ y, exec (.transferComplete c e) s = .next y ∧ here y done ∧ y.mem = s.mem ∧
          y.clusters = (s.barrierEvent cl ⟨field 11 6, Nat.mod_lt _ (by decide)⟩ (.bytes total)).clusters) ∧
        (mode ≠ 2 → t.ctl.getLsbD 5 = false → ∃ y, exec (.transferComplete c e) s = .next y ∧ ends done y) ∧
        (mode = 2 → t.ctl.getLsbD 5 = false →
          let at_ := core (field 18 16)
          let tile := (s.core at_).tile
          let rows (m : BitVec 128) : Prop := ∀ r : Fin 128,
            m.getLsbD r = decide ((r.val + 128 - field 54 48) % 128 < field 63 56)
          (t.ctl.getLsbD 55 = false → t.scales = none → ∃ y m, exec (.transferComplete c e) s = .next y ∧ ends done y ∧ rows m ∧
            (y.core at_).tile = { tile with valid := m }) ∧
          (∀ z, t.scales = some z → (8 ≤ tile.fifo.length → exec (.transferComplete c e) s = .next s) ∧
            (tile.fifo.length < 8 → ∃ y, exec (.transferComplete c e) s = .next y ∧ ends done y ∧
              (y.core at_).tile = { tile with fifo := tile.fifo ++ [z] })) ∧
          (t.ctl.getLsbD 55 = true → t.scales = none → ∀ S : Nat → Spot,
            (∀ i < 256, from_ (BitVec.ofNat 64 (t.marg.toNat + i)) (S i)) →
            let z : ScaleEntry := ⟨BitVec.ofNat 16 (field 47 32), (List.range 128).map fun j => BitVec.ofNat 16
              ((s.byteOf (S (2 * j))).toNat + 256 * (s.byteOf (S (2 * j + 1))).toNat)⟩
            ∃ y m, exec (.transferComplete c e) s = .next y ∧ rows m ∧
              if tile.fifo.length < 8 then
                ends { done with scales := some z } y ∧ (y.core at_).tile = { tile with valid := m, fifo := tile.fifo ++ [z] }
              else here y { t with scales := some z } ∧ y.threads = s.threads ∧ (y.core at_).tile = { tile with valid := m }))) ∧
      (t.halted = false → (∃ f ∈ t.flits, lost f) → ∀ n, lowest n → (s.thread t.w).uid = t.uid →
        ∃ y, exec (.transferError c e) s = .next y ∧ ends { t with state := .error 6, bytes := n } y) ∧
      (t.halted = false → landed → (s.thread t.w).uid = t.uid →
        let n := t.bytes
        let fails (code : Nat) : Prop := ∃ y, exec (.transferError c e) s = .next y ∧ ends { t with state := .error code } y
        let gap (y : W64) : Prop := (2 ^ 57 ≤ y.toNat ∧ y.toNat < 0xFF00000000000000) ∨
          (0xFF00000000400000 ≤ y.toNat ∧ y.toNat < 0xFF10000000000000) ∨ 0xFF20000000040000 ≤ y.toNat
        let global (y : W64) : Prop := y.toNat < 2 ^ 57
        (n = total → mode = 2 → t.ctl.getLsbD 55 = true → t.scales = none → gap t.marg → fails 7) ∧
        (n < total →
          (gap (src n) ∨ (global (src n) ∧ reads (src n) .absent) → fails 1) ∧
          (global (src n) → (∃ aux, reads (src n) (.perm aux)) ∨ (∃ pa, reads (src n) (.ok pa) ∧ inAperture pa = true) → fails 2) ∧
          (∀ pa, global (src n) → reads (src n) (.ok pa) → inAperture pa = false → ¬sound (src n) (.global pa) → fails 5) ∧
          (∀ off, own (src n) off → (0x3FF000 ≤ off → fails 2) ∧ (off < 0x3FF000 → ¬sound (src n) (.own cl off) → fails 5)) ∧
          (∀ v off, remote (src n) v off → (s.physical t.part v = none → fails 1) ∧
            ∀ far, s.physical t.part v = some far → (s.permitted cl v far = false ∨ 0x3FF000 ≤ off → fails 2) ∧
              (lets v off far → ¬sound (src n) (.remote far off) → fails 5)) ∧
          (∀ off, scratch (src n) off → ¬sound (src n) (.scratch (SlotIx.core t.w) off) → fails 5) ∧
          ∀ p, from_ (src n) p →
            (gap (dst n) → fails 3) ∧ (mode ≠ 0 → (∀ off, ¬scratch (dst n) off) → fails 3) ∧
            (mode = 0 →
              (global (dst n) → writes (dst n) .absent → fails 3) ∧
              (∀ aux, global (dst n) → writes (dst n) (.perm aux) → fails 4) ∧
              (∀ off, own (dst n) off → 0x3FF000 ≤ off → fails 4) ∧
              ∀ v off, remote (dst n) v off → (t.dests[v]? = none → s.physical t.part v = none → fails 3) ∧
                ∀ far epoch, t.dests[v]? = some (far, epoch) → ((s.cluster far).epoch ≠ epoch → fails 6) ∧
                  ((s.cluster far).epoch = epoch → (¬lets v off far → fails 4) ∧
                    (lets v off far → ¬takesIn (dst n) off far → fails 6)))))

/-- R325 to R330, R332, R333 and R338: send checks the slot it names and puts its message in the retry buffer; recv takes the
first message that suits; qmap exchanges the map; a message reaches the inbox of its core in its order, is forwarded,
refused for want of room, or finds its target gone; a refused one is sent again after its delay, sixteen times at most;
and what cannot be delivered becomes a pending event of its sender. A message is forwarded first, and refused for a full inbox
before its target is asked for (log 35); recv waits for what its thread sent (log 65); the forwarding entries of a core's slots
stay with the core (log 87). -/
def Obligations.Messages : Prop :=
  (∀ (s : State) (ch : Fin 4) (d a b : GReg),
    let t := s.me
    let here := SlotIx.core s.cur
    let x := t.greg a
    let n := x.toNat
    let free (e : Nat) : Prop := e < 16 ∧ ∀ r ∈ s.myCore.retry, r.entry ≠ e
    (t.outs ≠ [] → s.waits (.send ch d a b) .access) ∧
    (t.outs = [] → s.plain [.g a, .g b, .g d] [] →
      (2 ^ 14 ≤ n → s.traps (.send ch d a b) 0x06 x 0) ∧
      (n < 2 ^ 14 → s.physical (s.partOf (SlotIx.cluster s.cur)) (n / 128) = none → s.traps (.send ch d a b) 0x06 x 0) ∧
      ∀ cl, n < 2 ^ 14 → s.physical (s.partOf (SlotIx.cluster s.cur)) (n / 128) = some cl →
        let dst := slotOf (coreOf cl ⟨n / 16 % 8, Nat.mod_lt _ (by decide)⟩) ⟨n % 16, Nat.mod_lt _ (by decide)⟩
        let posted : Prop := (∃ j ∈ s.myCore.journal, j.w = s.cur ∧ j.cl = cl) ∨
          ∃ g ∈ s.myCore.tile.segments, g.goesTo t.uid cl = true
        (s.permitted (SlotIx.cluster s.cur) (n / 128) cl = false → s.traps (.send ch d a b) 0x07 x 0) ∧
        (s.permitted (SlotIx.cluster s.cur) (n / 128) cl = true →
          (posted → s.waits (.send ch d a b) .journal) ∧
          (¬posted → (∀ e, ¬free e) → s.waits (.send ch d a b) .retryBuffer) ∧
          (¬posted → ∀ e, free e → (∀ i < e, ¬free i) → exec (.send ch d a b) s = .next ((s.retire id).modCore here fun c =>
            { c with retry := c.retry ++ [⟨e, s.cur, t.uid, t.part, dst, BitVec.ofNat 14 n, (s.cluster cl).epoch, ch, t.greg d,
              t.greg b, 0, .sent⟩] })))) ∧
    (∀ any : Fin 5,
      let suits (m : Msg) : Prop := m.slot = SlotIx.num s.cur ∧ (any.val = 4 ∨ m.ch.val = any.val)
      let d2 : GReg := ⟨(d.val + 1) % 32, Nat.mod_lt _ (by decide)⟩
      (t.outs ≠ [] → s.waits (.recv any d) .access) ∧
      (t.outs = [] → s.sendOut s.cur = true → s.waits (.recv any d) .retryBuffer) ∧
      (t.outs = [] → s.sendOut s.cur = false → (∀ m ∈ s.myCore.inbox, ¬suits m) → s.waits (.recv any d) .recv) ∧
      (t.outs = [] → s.sendOut s.cur = false → s.plain [] [.g d, .g d2] → ∀ before m after, s.myCore.inbox = before ++ m :: after → suits m →
        (∀ z ∈ before, ¬suits z) → exec (.recv any d) s = .next ((s.retire fun t => (t.setG d m.lo).setG d2 m.hi).modCore here
          fun c => { c with inbox := before ++ after }))) ∧
    (s.plain [.g a] [] → s.pending s.cur (.g d) = false → exec (.qmap d a) s = .next (s.retire fun t =>
      { t with qmap := BitVec.ofNat 8 n }.setG d
        (BitVec.ofNat 64 ((s.myCore.queue.filter fun (e : QEntry) => e.val.isSome).length * 2 ^ 8 + t.qmap.toNat))))) ∧
  (∀ (s : State) (c : CoreIx) (e : RetryEntry) (before after : List RetryEntry),
    let core := s.core c
    let w := e.dst
    let dest := SlotIx.core w
    let cl := CoreIx.cluster dest
    let holds (r : RetryEntry) : Prop := (∀ n, r.state ≠ .gone n) ∧ ∀ n, r.state = .refused n → n = 0
    let open_ (r : RetryEntry) : Prop := (∀ n, r.state ≠ .gone n) ∧ ∀ n, r.state ≠ .refused n
    let waits : Prop := e.state ≠ .sent ∨ ∃ r ∈ before,
      (holds r ∧ r.dstName.toNat / 16 = e.dstName.toNat / 16 ∧ r.ch = e.ch) ∨ (open_ r ∧ r.uid = e.uid)
    let away : Prop := ∃ k ∈ s.saved, (s.cluster cl).part = some k.part ∧ k.vcluster = s.vcluster cl ∧ k.num = CoreIx.num dest ∧ k.epoch = (s.cluster cl).epoch
    let entry (f : RetryEntry) (y : State) : Prop := (y.core c).retry = before ++ f :: after
    let becomes (i : Instr) (st : SendState) (y : State) : Prop :=
      exec i s = .next y ∧ entry { e with state := st } y ∧ y.threads = s.threads ∧ y.mem = s.mem
    let tells (i : Instr) (f : RetryEntry) (code : BitVec 8) (va aux : W64) : Prop := ∃ y xs ys, exec i s = .next y ∧ entry f y ∧
      s.pends e.w code.toNat xs ys ∧ y.threads = (s.modThread e.w fun t =>
        { t with pend := xs ++ ([⟨code, s.now, va, aux, none, some e.entry⟩] : List Async) ++ ys }).threads
    core.retry = before ++ e :: after → e.entry < 16 → (∀ r ∈ before ++ after, r.entry ≠ e.entry) →
      (waits → exec (.messageArrival c e.entry) s = .next s) ∧
      (¬waits →
        ((s.cluster cl).epoch ≠ e.epoch ∨ (s.cluster cl).part ≠ some e.part → ∃ y, becomes (.messageArrival c e.entry) (.gone 1) y) ∧
        ((s.cluster cl).epoch = e.epoch → (s.cluster cl).part = some e.part → ¬away →
          (∀ pre f post, (s.core dest).forward = pre ++ f :: post → f.old = SlotIx.num w → (∀ g ∈ pre ++ post, g.old ≠ SlotIx.num w) →
            ∃ y, exec (.messageArrival c e.entry) s = .next y ∧ y.threads = s.threads ∧
              entry { e with dst := f.new, epoch := (s.cluster (SlotIx.cluster f.new)).epoch } y ∧
              (y.core dest).forward = pre ++ { f with last := (s.core dest).cycle } :: post) ∧
          ((∀ f ∈ (s.core dest).forward, f.old ≠ SlotIx.num w) →
            (32 ≤ (s.core dest).inbox.length → ∃ y, becomes (.messageArrival c e.entry) .nack y) ∧
            ((s.core dest).inbox.length < 32 → (s.thread w).occ = false → ∃ y, becomes (.messageArrival c e.entry) (.gone 2) y) ∧
            ((s.core dest).inbox.length < 32 → (s.thread w).occ = true → ∃ y, exec (.messageArrival c e.entry) s = .next y ∧
              (y.core c).retry = before ++ after ∧ y.threads = s.threads ∧
              (y.core dest).inbox = (s.core dest).inbox ++ [⟨SlotIx.num w, e.ch, e.lo, e.hi⟩])))) ∧
      (e.state ≠ .nack → exec (.nack c e.entry) s = .next s) ∧
      (e.state = .nack → e.tries < 15 → ∃ y, exec (.nack c e.entry) s = .next y ∧ y.threads = s.threads ∧
        entry { e with
          tries := e.tries + 1
          state := .backoff (core.cycle + BitVec.ofNat 64 (min (64 * 2 ^ e.tries) 65536)) } y) ∧
      (e.state = .nack → 15 ≤ e.tries → (s.thread e.w).uid = e.uid → tells (.nack c e.entry)
        { e with tries := e.tries + 1, state := .refused 0 }
        0x29 0 (BitVec.ofNat 64 (e.entry + e.dstName.toNat * 2 ^ 4 + e.ch.val * 2 ^ 18))) ∧
      (∀ u, e.state = .backoff u →
        (core.cycle.toNat < u.toNat → exec (.nackRetry c e.entry) s = .next s) ∧
        (u.toNat ≤ core.cycle.toNat → ∃ y, becomes (.nackRetry c e.entry) .sent y)) ∧
      (∀ n, e.state = .gone n → (s.thread e.w).uid = e.uid → tells (.targetGone c false e.entry) { e with state := .refused n }
        0x22 (e.dstName.setWidth 64) (BitVec.ofNat 64 (e.entry * 2 ^ 8 + n)))) ∧
  (∀ (s : State) (c : CoreIx) (j : JEntry) (before after : List JEntry) (n : Nat),
    (s.core c).journal = before ++ j :: after → j.entry < 32 → (∀ r ∈ before ++ after, r.entry ≠ j.entry) → j.state = .gone n →
      (s.thread j.w).uid = j.uid → ∃ y xs ys, exec (.targetGone c true j.entry) s = .next y ∧
        (y.core c).journal = before ++ { j with state := .refused n } :: after ∧ s.pends j.w 0x22 xs ys ∧
        y.threads = (s.modThread j.w fun t => { t with pend := xs ++
          ([⟨0x22, s.now, j.va, BitVec.ofNat 64 (2 ^ 16 + j.entry * 2 ^ 8 + n), some j.entry, none⟩] : List Async) ++ ys }).threads) ∧
  ∀ (s : State) (c : CoreIx) (f : Forward) (before after : List Forward),
    let age := (BitVec.ofInt 64 ((s.core c).cycle.toNat - f.last.toNat)).toNat
    (s.core c).forward = before ++ f :: after →
      (age < 16384 → exec (.forwardingRelease c before.length) s = .next s) ∧
      (16384 ≤ age → exec (.forwardingRelease c before.length) s =
        .next (s.modCore c fun k => { k with forward := before ++ after }))

/-- R334 to R336: ringput stores into the next home slot while nothing is lent, else into a free pool slot linked behind the
newest, beyond those that the waiters before it take, those whose rings are full still and that wait longer (log 23), else waits
or answers 2, after the messages of its thread (log 65); ringget takes the oldest entry, and the oldest lent one moves into the home slot that
this frees; a descriptor that breaks its rule faults; nothing else of the local memory changes. -/
def Obligations.ElasticRings : Prop :=
  ∀ (s t : State) (d a b : GReg) (try_ : Bool) (status : Option GReg) (imm : BitVec 16) (l : Lane) (cl : ClusterIx) (off : Nat),
    let ea : W64 := BitVec.ofInt 64 ((s.me.greg a).toNat + imm.toInt)
    let data := s.me.greg b
    let mem := (t.cluster cl).mem
    let pool := (t.cluster cl).pool
    let word (m : Memory) (i : Nat) : Nat := m.word i 8
    let base := word mem off
    let cap := word mem (off + 8)
    let count := word mem (off + 16) / 2 ^ 32
    let head := word mem (off + 16) % 2 ^ 32
    let tail := word mem (off + 24)
    let newest := tail / 2 ^ 24 % 2 ^ 8
    let oldest := tail / 2 ^ 16 % 2 ^ 8
    let lent := tail % 2 ^ 16
    let sound : Prop := base < 2 ^ 22 ∧ base % 8 = 0 ∧ 1 ≤ cap ∧ cap ≤ 65536 ∧ base + 8 * cap ≤ 0x3FF000 ∧ count ≤ cap ∧
      head < cap ∧ tail < 2 ^ 32 ∧ lent ≤ 256 ∧ (lent = 0 ∨ count = cap)
    let home (i : Nat) : Nat := base + 8 * (i % cap)
    let slot (p : Nat) : Nat := 0x3FF000 + 16 * p
    let apart (n m : Nat) : Prop := off + 32 ≤ n ∨ n + m ≤ off
    let describes (y : State) (count head newest oldest lent : Nat) : Prop :=
      word (y.cluster cl).mem (off + 16) = count * 2 ^ 32 + head ∧
      word (y.cluster cl).mem (off + 24) = newest * 2 ^ 24 + oldest * 2 ^ 16 + lent
    let frame (y : State) (changed : Nat → Prop) : Prop :=
      (∀ x, (x < off + 16 ∨ off + 32 ≤ x) → ¬changed x → (y.cluster cl).mem.get x = mem.get x) ∧
      (∀ q, q ≠ cl → (y.cluster q).mem = (t.cluster q).mem) ∧ y.mem = t.mem
    let taken (y : State) (f : Thread → Thread) : Prop := y.threads = (t.retire f).threads
    let put : Instr := .ringput try_ d a b imm
    let get_ : Instr := .ringget d a status imm
    let dests : List GV := .g d :: (status.map GV.g).toList
    let free := ((List.range 256).filter fun p => pool.getLsbD p = false).length
    let full (o : Nat) : Bool :=
      let a := word mem o
      let n := word mem (o + 8)
      let c := word mem (o + 16) / 2 ^ 32
      let r := word mem (o + 24)
      decide (a < 2 ^ 22 ∧ a % 8 = 0 ∧ 1 ≤ n ∧ n ≤ 65536 ∧ a + 8 * n ≤ 0x3FF000 ∧ c ≤ n ∧ word mem (o + 16) % 2 ^ 32 < n ∧
        r < 2 ^ 32 ∧ r % 2 ^ 16 ≤ 256 ∧ (r % 2 ^ 16 = 0 ∨ c = n) ∧ (r % 2 ^ 16 ≠ 0 ∨ n ≤ c))
    let since (w : SlotIx) : Option Nat := match (t.thread w).wait with
      | .retry (.ringPut c o n) => if c = cl ∧ full o then some n else none
      | _ => none
    let ahead := ((List.finRange 16384).filter fun w : SlotIx => decide (w ≠ s.cur) &&
      decide ((t.cluster (SlotIx.cluster w)).part = some (t.partOf (SlotIx.cluster t.cur))) && match since w, since s.cur with
        | none, _ => false
        | some _, none => true
        | some a, some b => decide (a < b ∨ (a = b ∧ w.val < s.cur.val))).length
    let from_ : Nat := match s.me.wait with
      | .retry (.ringPut c o n) => if c = cl ∧ o = off then n else s.now
      | _ => s.now
    (s.me.outs ≠ [] → s.waits put .access ∧ s.waits get_ .access) ∧
    (s.me.outs = [] → s.sendOut s.cur = true → s.waits put .retryBuffer ∧ s.waits get_ .retryBuffer) ∧
    (s.me.outs = [] → s.sendOut s.cur = false → checkAddr { size := 32, align := 32, need := needRW, fe := true } 0 ea s = .ok (l, t) →
      (l.place = .own cl off ∨ l.place = .remote cl off) → off % 8 = 0 → t.unheld l true → t.unheld l false →
      (s.plain [.g a, .g b] [.g d] →
        (¬sound → s.traps put 0x07 ea 6) ∧
        (sound → lent = 0 → count < cap → apart (home (head + count)) 8 → ∃ y, exec put s = .next y ∧
          taken y (fun x => x.setG d 0) ∧ describes y (count + 1) head newest oldest 0 ∧
          word (y.cluster cl).mem (home (head + count)) = data.toNat ∧ (y.cluster cl).pool = pool ∧
          frame y fun x => home (head + count) ≤ x ∧ x < home (head + count) + 8) ∧
        (sound → lent ≠ 0 ∨ count = cap →
          (free ≤ ahead →
            (try_ = true → exec put s = .next (t.retire fun x => x.setG d 2)) ∧
            (try_ = false → s.waits put (.ringPut cl off from_))) ∧
          (ahead < free → off + 32 ≤ 0x3FF000 → ∃ p < 256, pool.getLsbD p = false ∧ ∃ y,
            exec put s = .next y ∧ taken y (fun x => x.setG d 1) ∧
            describes y count head p (if lent = 0 then p else oldest) (lent + 1) ∧
            word (y.cluster cl).mem (slot p) = data.toNat ∧
            (lent ≠ 0 → newest ≠ p → ((y.cluster cl).mem.get (slot newest + 8)).toNat = p) ∧
            (y.cluster cl).pool = pool ||| BitVec.ofNat 256 (2 ^ p) ∧
            frame y fun x => (slot p ≤ x ∧ x < slot p + 16) ∨ (lent ≠ 0 ∧ x = slot newest + 8)))) ∧
      (s.plain [.g a] dests →
        (¬sound → s.traps get_ 0x07 ea 6) ∧
        (sound → count = 0 → match status with
          | none => s.waits get_ .ringGet
          | some r => exec get_ s = .next (t.retire fun x => x.setG r 0)) ∧
        (sound → count ≠ 0 →
          let taken' (y : State) : Prop := taken y fun x =>
            let x := x.setG d (BitVec.ofNat 64 (word mem (home head)))
            match status with
            | none => x
            | some r => x.setG r 1
          (lent = 0 → ∃ y, exec get_ s = .next y ∧ taken' y ∧ describes y (count - 1) ((head + 1) % cap) newest oldest 0 ∧
            (y.cluster cl).pool = pool ∧ frame y fun _ => False) ∧
          (lent ≠ 0 → apart (home head) 8 → off + 32 ≤ 0x3FF000 → ∃ y, exec get_ s = .next y ∧ taken' y ∧
            describes y count ((head + 1) % cap) newest
              (if lent = 1 then oldest else (mem.get (slot oldest + 8)).toNat) (lent - 1) ∧
            word (y.cluster cl).mem (home head) = word mem (slot oldest) ∧
            (y.cluster cl).pool = pool &&& ~~~BitVec.ofNat 256 (2 ^ oldest) ∧
            frame y fun x => home head ≤ x ∧ x < home head + 8))))

/-- R337 and R338: migrate waits for what exit waits for, answers the status of what prevents the move, and otherwise moves
the whole context with its messages to the lowest free slot of the target core, leaving a forwarding entry behind. -/
def Obligations.Migration : Prop :=
  ∀ (s : State) (d a : GReg),
    let t := s.me
    let here := SlotIx.core s.cur
    let near := SlotIx.cluster s.cur
    let n := (t.greg a).toNat % 2 ^ 10
    let mine := s.myCore.inbox.filter fun m => m.slot = SlotIx.num s.cur
    let rs := s.edgeRecords t
    let tile := s.myCore.tile
    let mine' (o : TileOp) : Prop := o.uid = t.uid ∧ o.remote = none
    let open_ : Prop := (∃ o ∈ tile.queue, mine' o) ∨ ∃ r, tile.running = some r ∧ mine' r.op
    (s.finished s.cur = false → s.waits (.migrate d a) .access) ∧
    (s.finished s.cur = true → open_ → s.waits (.migrate d a) .tile) ∧
    (s.finished s.cur = true → ¬open_ → s.plain [.g a] [.g d] →
      (s.physical (s.partOf near) (n / 8) = none → s.gives (.migrate d a) d 2) ∧
      ∀ cl, s.physical (s.partOf near) (n / 8) = some cl →
        let dest := coreOf cl ⟨n % 8, Nat.mod_lt _ (by decide)⟩
        (s.permitted near (n / 8) cl = false → s.gives (.migrate d a) d 2) ∧
        (s.permitted near (n / 8) cl = true →
          (t.qmap ≠ 0 → s.gives (.migrate d a) d 3) ∧
          (t.qmap = 0 → t.handler = true ∨ t.notifyActive = true → s.gives (.migrate d a) d 4) ∧
          (t.qmap = 0 → t.handler = false → t.notifyActive = false →
            (dest = here → s.gives (.migrate d a) d 1) ∧
            (dest ≠ here →
              (s.candidates dest = [] ∨ 32 < (s.core dest).inbox.length + mine.length ∨ 16 ≤ s.myCore.forward.length →
                s.gives (.migrate d a) d 0) ∧
              ∀ w' rest, s.candidates dest = w' :: rest → (s.core dest).inbox.length + mine.length ≤ 32 →
                s.myCore.forward.length < 16 → t.wait = .run →
                (∀ tm, s.teamOf t = some tm → (tm.tasks.map Task.id).Nodup) →
                (t.edgeDone = false → rs ≠ [] → ∃ y, exec (.migrate d a) s = .next y ∧ y.me.wait = .skimmer ∧ y.me.ip = t.ip ∧
                  y.skims here .writeBack rs t.uid .again) ∧
                (t.edgeDone = true ∨ rs = [] → ∃ y, exec (.migrate d a) s = .next y ∧ y.freed s.cur ∧ y.arrivedAt w' ∧
                  y.thread w' = { t.setG d 1 with
                    ip := s.following
                    migr := true
                    wait := (y.thread w').wait
                    popped := []
                    edgeDone := false
                    parks := false
                    flightTo := 0
                    yielded := 0 } ∧
                  (y.core dest).inbox = (s.core dest).inbox ++ mine.map (fun m => { m with slot := SlotIx.num w' }) ∧
                  (y.core here).forward = (s.myCore.forward.filter fun f => t.migr = false ∨ f.uid ≠ t.uid) ++
                    [⟨SlotIx.num s.cur, w', t.uid, s.myCore.cycle⟩] ∧
                  (s.myCore.griddle.holder = some (SlotIx.num s.cur) → (y.core here).griddle = Griddle.reset) ∧
                  (∀ k, s.myCore.lock = some k → k.holder = s.cur → (y.core here).lock = none))))))

/-- R24, R162, R339, R341 to R344, R346 and R365: what each barrier instruction asks for before it reaches the update port of
its home cluster's barrier; TARGET_GONE becomes pending when that cluster is no longer the team's (log 76); an event that is
alone in its cycle is evaluated by itself, and D receives the phase in which it counted; a remote arrival is posted; bar.wait
returns the phase once it has moved; and a wait that outlasts its limit raises BAR_TIMEOUT, a grpred leaving its mark. That
bar.wait waits for unacknowledged posted stores is log 89's (DEDUCED); that a remote arrival without permission is gone with
cause 1 is log 90's (DEDUCED). -/
def Obligations.BarrierInstructions : Prop :=
  (∀ (s : State) (edge : Bool) (d a b : GReg) (id : Fin 64) (op : GrpOp) (ty : GrpTy) (tm : Team),
    let t := s.me
    let here := SlotIx.core s.cur
    let near := SlotIx.cluster s.cur
    let home := s.cluster t.home
    let alive : Prop := home.part = some t.part ∧ tm.epoch = home.epoch
    let bar := home.barrier[id]
    let gid : Fin 64 := ⟨(t.greg b).toNat % 64, Nat.mod_lt _ (by decide)⟩
    let rs := s.edgeRecords t
    let next : Prop := edge = false ∨ t.edgeDone = true ∨ rs = []
    let edges (i : Instr) : Prop := ∃ y, exec i s = .next y ∧ y.me.wait = .skimmer ∧ y.me.ip = t.ip ∧
      y.skims here .writeBack rs t.uid .again
    let asks (u : State) (id : Fin 64) (ev : BarEvent) (waits : Bool) : State :=
      (u.modMe fun t => { t with
        mark := none
        resume := s.following
        wait := if waits then .port (.reg d) else t.wait
        parkedAt := if waits then s.myCore.cycle else t.parkedAt }).modCluster t.home fun c =>
        { c with barrier := c.barrier.set id { c.barrier[id] with port := c.barrier[id].port ++ [ev] } }
    let reaches (i : Instr) (id : Fin 64) (ev : BarEvent) : Prop :=
      (home.barrier[id].gathering = true → exec i s = .next (asks s id ev true)) ∧
      (home.barrier[id].gathering = false → exec i s = exec (.barrierReevaluate t.home id) (asks s id ev false))
    let answered (i : Instr) (id : Fin 64) : Prop := ∃ y, exec i s = .next y ∧
      y.me = { t.setG d (home.barrier[id].phase.setWidth 64) with
        mark := none
        wait := .run
        popped := []
        edgeDone := false
        parks := false
        resume := s.following
        ip := s.following }
    let value : W64 := match op, ty with
      | .fsum, _ => BitVec.ofNat 64 (finish fmtF32 .rne false ((fmtF32.val ((t.greg a).toNat % 2 ^ 32)).mul (.fin false t.mul.toNat 0))).1
      | .sum, _ => BitVec.ofNat 64 ((t.greg a).toNat * t.mul.toNat)
      | _, .f32 => BitVec.ofNat 64 ((t.greg a).toNat % 2 ^ 32)
      | _, _ => t.greg a
    let arv : Instr := .barArv edge d id
    let rem_ : Instr := .barArvRem edge d a id
    let red : Instr := .grpred op ty edge d a b
    s.teamOf t = some tm →
      (t.outs ≠ [] → s.waits arv .access ∧ s.waits rem_ .access ∧ s.waits red .access ∧ s.waits (.barWait d id) .access ∧
        s.waits (.barExp d a id) .access ∧ s.waits (.barCfg d a b id) .access) ∧
      (s.settledIn → ¬alive → ∀ i ∈ ([arv, rem_, red, .barWait d id, .barExp d a id, .barCfg d a b id] : List Instr),
        let told (z : Async) : Prop := z.code = 0x22 ∧ z.journal = none ∧ z.retry = none
        ((∃ z ∈ t.pend, told z) → exec i s = .next (s.retire fun u => u)) ∧
        ((∀ z ∈ t.pend, ¬told z) → ∃ xs ys, s.pends s.cur 0x22 xs ys ∧ exec i s = .next (s.retire fun t =>
          { t with pend := xs ++ ([⟨0x22, s.now, 0, 1, none, none⟩] : List Async) ++ ys }))) ∧
      (t.outs = [] → s.tileStores s.cur = false → (∃ j ∈ s.myCore.journal, j.w = s.cur) →
        s.waits arv .journal ∧ s.waits rem_ .journal ∧ s.waits red .journal ∧ s.waits (.barWait d id) .journal) ∧
      (s.settledIn → alive → s.plain [] [.g d] → (¬next → edges arv) ∧
        (next → reaches arv id (.arrive s.cur (.reg d) t.mul.toNat edge none) ∧
          (bar.gathering = false → bar.port = [] → bar.arr.toNat + t.mul.toNat ≤ bar.exp.toNat → answered arv id))) ∧
      (t.outs = [] → alive → s.plain [.g a] [.g d] →
        reaches (.barExp d a id) id (.expect s.cur (.reg d) (BitVec.ofNat 40 (t.greg a).toNat)) ∧
        (bar.gathering = false → bar.port = [] → answered (.barExp d a id) id)) ∧
      (t.outs = [] → alive → s.plain [.g a, .g b] [.g d] →
        reaches (.barCfg d a b id) id
          (.config s.cur (.reg d) (BitVec.ofNat 16 (t.greg a).toNat) (BitVec.ofNat 40 (t.greg b).toNat)) ∧
        (bar.gathering = false → bar.port = [] → answered (.barCfg d a b id) id)) ∧
      (s.settledIn → alive → s.plain [.g d] [.g d] →
        let p : BitVec 16 := BitVec.ofNat 16 (t.greg d).toNat
        let live := covering (s.records t)
        (bar.phase = p → s.waits (.barWait d id) (.barWait id p d)) ∧
        (bar.phase ≠ p → bar.edged = false ∨ t.edgeDone = true ∨ live = [] →
          exec (.barWait d id) s = .next (s.retire fun t => { t with mark := none }.setG d (bar.phase.setWidth 64))) ∧
        (bar.phase ≠ p → bar.edged = true → t.edgeDone = false → live ≠ [] → ∃ y, exec (.barWait d id) s = .next y ∧
          y.me.wait = .skimmer ∧ y.me.ip = t.ip ∧ y.skims here .invalidate live t.uid .again)) ∧
      (s.settledIn → alive → s.plain [.g a, .g b] [.g d] →
        (t.mark = none ∨ (∃ m, t.mark = some m ∧ m.id ≠ gid) → (¬next → edges red) ∧
          (next → reaches red gid (.arrive s.cur (.reg d) t.mul.toNat edge
            (some ⟨t.team.toNat * 128 + t.tid.toNat, op, ty, value⟩)))) ∧
        ∀ m, t.mark = some m → m.id = gid →
          (∀ r, m.result = some r → home.barrier[gid].edged = false → exec red s = .next (s.retire fun t =>
            { t with mark := none }.setG d r)) ∧
          (m.result = none → exec red s = .next (s.modMe fun t => { t with
            mark := none
            wait := .group (.reg d) m.id m.phase m.op m.ty
            resume := s.following
            parkedAt := s.myCore.cycle - m.waited }))) ∧
      (s.settledIn → alive → s.plain [.g a] [.g d] →
        let v := (t.greg a).toNat % 128
        let free (e : Nat) : Prop := e < 32 ∧ ∀ j ∈ s.myCore.journal, j.entry ≠ e
        (s.physical (s.partOf near) v = none → s.traps rem_ 0x06 (t.greg a) 0) ∧
        ∀ far, s.physical (s.partOf near) v = some far →
          (s.permitted near v far = false → s.traps rem_ 0x07 (t.greg a) 0) ∧
          (s.permitted near v far = true → (¬next → edges rem_) ∧
            (next → (∀ e, ¬free e) → s.waits rem_ .journal) ∧
            (next → ∀ e, free e → (∀ i < e, ¬free i) → ∃ y key, exec rem_ s = .next y ∧
              y.threads = (s.retire fun t => { t with mark := none }.setG d 0xFFFFFFFFFFFFFFFF).threads ∧
              (y.core here).journal = s.myCore.journal ++
                [⟨e, key, s.cur, t.uid, t.part, far, (s.cluster far).epoch, .arrive id t.mul.toNat edge, [], t.greg a, .sent⟩])))) ∧
  (∀ (s : State) (c : CoreIx) (j : JEntry) (before after : List JEntry) (id : Fin 64) (mul : Nat) (edge : Bool),
    let near := SlotIx.cluster j.w
    let gone : Prop := (s.cluster j.cl).epoch ≠ j.epoch ∨ (s.cluster j.cl).part ≠ some j.part ∨ (s.cluster near).part ≠ some j.part ∨
      s.permitted j.cl (s.vcluster near) near = false
    let bar := (s.cluster j.cl).barrier[id]
    let set (st : SendState) : List JEntry := before ++ { j with state := st } :: after
    let waits : Prop := (∃ r ∈ before, r.w = j.w ∧ r.cl = j.cl ∧ r.state ≠ .performed) ∨
      ∃ g ∈ (s.core c).tile.segments, g.key ≤ j.key ∧ g.goesTo j.uid j.cl = true
    (s.core c).journal = before ++ j :: after → j.entry < 32 → (∀ r ∈ before ++ after, r.entry ≠ j.entry) →
      j.kind = .arrive id mul edge → j.state = .sent → (waits → exec (.remoteBarrierArrival c j.entry) s = .next s) ∧
      (¬waits → (gone → exec (.remoteBarrierArrival c j.entry) s = .next (s.modCore c fun k => { k with journal := set (.gone 1) })) ∧
        (¬gone → j.lanes = [] → bar.gathering = true →
          exec (.remoteBarrierArrival c j.entry) s = .next ((s.modCore c fun k => { k with journal := set .queued }).modCluster j.cl
            fun k => { k with barrier := k.barrier.set id { bar with port := bar.port ++ [.remote j.key mul edge] } })))) ∧
  ∀ (s : State) (w : SlotIx) (id : Fin 64) (p : BitVec 16) (d : GReg) (op : GrpOp) (ty : GrpTy),
    let t := s.thread w
    let waited : Prop := t.bartmo ≠ 0 ∧
      t.bartmo.toNat ≤ (BitVec.ofInt 64 ((s.core (SlotIx.core w)).cycle.toNat - t.parkedAt.toNat)).toNat
    let phase := ((s.cluster t.home).barrier[id]).phase
    (¬waited → exec (.barTimeout w) s = .next s) ∧
    (waited → t.wait = .retry (.barWait id p d) →
      (phase = p → exec (.barTimeout w) s = .next (s.takeTrap w false 0x21 t.ip 0 (BitVec.ofNat 64 id.val))) ∧
      (phase ≠ p → exec (.barTimeout w) s = .next s)) ∧
    (waited → t.wait = .group (.reg d) id p op ty → ∃ u : State, exec (.barTimeout w) s =
      .next (u.takeTrap w false 0x21 t.ip 0 (BitVec.ofNat 64 id.val)) ∧ u.clusters = s.clusters ∧ u.mem = s.mem ∧
      u.thread w = { t with mark := some ⟨id, p, op, ty, none, 0⟩, popped := [] })

/-- R340, R343 and R346: the events of one cycle at a barrier are evaluated together: a bar.cfg first, then the byte changes
and the arrivals, local ones by slot and remote ones in order; a complete phase advances once, late arrivals count into the
next one, and the rest raise BAR_OVER; a phase that advances gives every grpred of one kind the reduction of its
contributions, a minimum or maximum of f32 under R125; where an arrival of the phase has its edge bit, the grpred also waits for
the invalidation of its core's lines within its records (R162). BAR_OVER enters its thread's handler, or stops a thread that has
none (R356, R359). -/
def Obligations.BarrierEvaluation : Prop :=
  ∀ (s : State) (cl : ClusterIx) (id : Fin 64) (start : Barrier) (order : List BarEvent),
    let b := (s.cluster cl).barrier[id]
    let evs := b.port
    let weight (e : BarEvent) : Nat := match e with
      | .arrive _ _ m _ _ | .remote _ m _ => m
      | _ => 0
    let change (e : BarEvent) : Int := match e with
      | .bytes n => -n
      | .expect _ _ x => x.toInt
      | _ => 0
    let slotOf_ (e : BarEvent) : Nat := match e with
      | .arrive w _ _ _ _ | .expect w _ _ | .config w _ _ _ => s.globalSlot w
      | _ => 0
    let config (e : BarEvent) : Prop := ∃ w d n r, e = .config w d n r
    let isLocal (e : BarEvent) : Bool := match e with
      | .arrive _ _ _ _ _ => true
      | _ => false
    let isRemote (e : BarEvent) : Bool := match e with
      | .remote _ _ _ => true
      | _ => false
    let count (from_ : Nat) (xs : List BarEvent) : Nat × List BarEvent := xs.foldl (fun x e =>
      if x.1 + weight e ≤ start.exp.toNat then (x.1 + weight e, x.2) else (x.1, x.2 ++ [e])) (from_, [])
    let first := count start.arr.toNat order
    let bytes : BitVec 40 := BitVec.ofInt 40 (start.bytes.toInt + (evs.map change).sum)
    let advances : Prop := first.1 = start.exp.toNat ∧ bytes = 0 ∧ ∀ e ∈ evs, ¬config e
    let second := count 0 first.2
    let got (w : SlotIx) (d : GReg) (phase : BitVec 16) : Thread := ((s.thread w).setG d (phase.setWidth 64)).done
    let counted (e : BarEvent) (phase : BitVec 16) (y : State) : Prop :=
      (∀ w d m g, e = .arrive w (.reg d) m g none → y.thread w = got w d phase) ∧
      (∀ w d m g k, e = .arrive w (.reg d) m g (some k) → (advances → phase = start.phase + 1) →
        (y.thread w).wait = .group (.reg d) id phase k.op k.ty ∧ (y.thread w).g = (s.thread w).g ∧ (y.thread w).mark = none) ∧
      ∀ key m g, e = .remote key m g → ∀ c, ∀ j ∈ (s.core c).journal, j.key = key → { j with state := .performed } ∈ (y.core c).journal
    let handlers : Prop := ∀ w d m g k, .arrive w d m g k ∈ evs → (s.thread w).trapvec ≠ 0 →
      ∃ ps, s.enter (SlotIx.core w) ((s.thread w).trapvec.setWidth 64) = (s, .ok ps)
    let over_ (e : BarEvent) (y : State) : Prop :=
      (∀ w d m g k, e = .arrive w (.reg d) m g k → (s.thread w).handler = false → (s.thread w).trapvec = 0 →
        (y.thread w).trapcause = causeWord false (s.thread w).priv 0x20 ∧ (y.thread w).g = (s.thread w).g ∧
        (y.thread w).trapip = (s.thread w).ip.setWidth 57 ∧ (y.thread w).trapaux = BitVec.ofNat 64 id.val) ∧
      (∀ w d m g k, e = .arrive w (.reg d) m g k → (s.thread w).handler = false → (s.thread w).trapvec ≠ 0 → handlers →
        y.thread w = { s.thread w with
          trapcause := causeWord false (s.thread w).priv 0x20
          trapip := (s.thread w).ip.setWidth 57
          trapva := 0
          trapaux := BitVec.ofNat 64 id.val
          priv := true
          handler := true
          ip := (s.thread w).trapvec.setWidth 64
          wait := .run
          popped := []
          pjent := 0
          edgeDone := false
          parks := false }) ∧
      ∀ key m g, e = .remote key m g → ∀ c, ∀ j ∈ (s.core c).journal, j.key = key → { j with state := .gone 3 } ∈ (y.core c).journal
    let new (y : State) : Barrier := (y.cluster cl).barrier[id]
    let reduced (op : GrpOp) (ty : GrpTy) (xs : List Contrib) (x : W64) : Prop :=
      let v (k : Contrib) : Sys2Proof.Num := fmtF32.val k.val.toNat
      (op = .sum → x = BitVec.ofNat 64 (xs.map fun k => k.val.toNat).sum) ∧
      (op = .fsum → ∀ k ks, xs = k :: ks → x = ks.foldl (fun a k =>
        BitVec.ofNat 64 (fAdd fmtF32 .rne a.toNat k.val.toNat).1) k.val) ∧
      (op = .min → ty = .n64 → (∃ k ∈ xs, x = k.val) ∧ ∀ k ∈ xs, x.toNat ≤ k.val.toNat) ∧
      (op = .max → ty = .n64 → (∃ k ∈ xs, x = k.val) ∧ ∀ k ∈ xs, k.val.toNat ≤ x.toNat) ∧
      (op = .min → ty = .s64 → (∃ k ∈ xs, x = k.val) ∧ ∀ k ∈ xs, x.toInt ≤ k.val.toInt) ∧
      (op = .max → ty = .s64 → (∃ k ∈ xs, x = k.val) ∧ ∀ k ∈ xs, k.val.toInt ≤ x.toInt) ∧
      (op = .min ∨ op = .max → ty = .f32 → ((∀ k ∈ xs, (v k).isNan = true) → x = BitVec.ofNat 64 fmtF32.nan) ∧
        ((∃ k ∈ xs, (v k).isNan = false) → (∃ k ∈ xs, (v k).isNan = false ∧ x = k.val) ∧
          ∀ k ∈ xs, (v k).isNan = false →
            if op = .max then ¬(fmtF32.val x.toNat).Below (v k) else ¬(v k).Below (fmtF32.val x.toNat)))
    evs ≠ [] → ((∀ e ∈ evs, ¬config e) → start = b) →
      (∀ w d n r, .config w d n r ∈ evs → (∀ e ∈ evs, config e → slotOf_ e ≤ s.globalSlot w) →
        start = { b with exp := n, breload := r, arr := 0, bytes := r, contribs := [] }) →
      (∀ e ∈ evs, ∀ e' ∈ evs, slotOf_ e = slotOf_ e' → (isLocal e = true ∧ isLocal e' = true) ∨ (config e ∧ config e') → e = e') →
      order = order.filter isLocal ++ order.filter isRemote → (order.filter isLocal).Perm (evs.filter isLocal) →
      order.filter isRemote = evs.filter isRemote → (order.filter isLocal).Pairwise (fun x y => slotOf_ x < slotOf_ y) →
      (evs.map fun e => match e with
        | .arrive w _ _ _ _ | .expect w _ _ | .config w _ _ _ => some w
        | _ => none).Pairwise (fun x y => x = none ∨ x ≠ y) →
      (evs.map fun e => match e with
        | .remote key _ _ => some key
        | _ => none).Pairwise (fun x y => x = none ∨ x ≠ y) →
      start.contribs.length + evs.length ≤ 128 → (∀ e ∈ evs, ∀ w, ((∃ d m g k, e = .arrive w d m g k) ∨ (∃ d x, e = .expect w d x) ∨ ∃ d n r, e = .config w d n r) →
        (s.thread w).mark = none ∧ ∀ d i p o t, (s.thread w).wait ≠ .group d i p o t) →
      ∃ y, exec (.barrierReevaluate cl id) s = .next y ∧ (new y).gathering = false ∧ (new y).exp = start.exp ∧
        (new y).breload = start.breload ∧
        (advances → (new y).phase = start.phase + 1 ∧ (new y).arr.toNat = second.1 ∧ (new y).bytes = start.breload ∧
          (new y).port = [.again]) ∧
        (¬advances → (new y).phase = start.phase ∧ (new y).arr.toNat = first.1 ∧ (new y).bytes = bytes ∧
          ((∀ e ∈ evs, ¬config e) → (new y).port = []) ∧ ((∃ e ∈ evs, config e) → (new y).port = [.again])) ∧
        (∀ e ∈ order, e ∉ first.2 → counted e start.phase y) ∧
        (advances → ∀ e ∈ first.2, (e ∉ second.2 → counted e (start.phase + 1) y) ∧ (e ∈ second.2 → over_ e y)) ∧
        (¬advances → ∀ e ∈ first.2, over_ e y) ∧
        (∀ w d x, .expect w (.reg d) x ∈ evs → y.thread w = got w d start.phase) ∧
        (∀ w d n r, .config w (.reg d) n r ∈ evs → y.thread w = got w d start.phase) ∧
        (advances → ∀ (q : SlotIx) (d : GReg) (op : GrpOp) (ty : GrpTy) (xs : List Contrib),
            (s.thread q).wait = .group (.reg d) id start.phase op ty → (s.thread q).home = cl → (s.thread q).mark = none →
            (s.cluster (SlotIx.cluster q)).part = some (s.partOf cl) → xs ≠ [] → xs.Pairwise (fun x y => x.order < y.order) →
            xs.Perm ((start.contribs ++ (order.filter fun e => decide (e ∉ first.2)).filterMap fun e => match e with
              | .arrive _ _ _ _ k => k
              | _ => none).filter fun k => decide (k.op = op ∧ k.ty = ty)) →
            let edge (e : BarEvent) : Prop := (∃ w d m k, e = .arrive w d m true k) ∨ ∃ n m, e = .remote n m true
            let live := covering (s.records (s.thread q))
            ∃ x : W64, reduced op ty xs x ∧
              (start.edged = false → (∀ e ∈ order, ¬edge e) → y.thread q = ((s.thread q).setG d x).done) ∧
              (live = [] → y.thread q = ((s.thread q).setG d x).done) ∧
              (live ≠ [] → start.edged = true ∨ (∃ e ∈ order, e ∉ first.2 ∧ edge e) →
                y.thread q = { (s.thread q).setG d x with wait := .skimmer } ∧
                y.skims (SlotIx.core q) .invalidate live (s.thread q).uid .finish))

/-- R53, R101, R102, R237, R238, R258 to R261, R283, R284, R302, R313, R342, R364 and R421: rdc reads and wrc writes each
control register by its field map; reserved and read-only fields are ignored and reserved values leave a field as it is;
the privileged ones raise PRIV in user mode; a write that sets ACCSAT sets it (log 45); a flush of the scale FIFO by wrc stands
behind the tile instructions that were issued before it; and NOTIFY delivers, enables and returns from completion handlers. -/
def Obligations.ControlRegisters : Prop :=
  (∀ (s : State) (d : GReg) (index : BitVec 16),
    let t := s.me
    let c := s.myCore
    let here := SlotIx.core s.cur
    let p := s.partOf (SlotIx.cluster s.cur)
    let x := t.greg d
    let b (x : Bool) (n : Nat) : Nat := if x then 2 ^ n else 0
    let field (hi lo : Nat) : Nat := x.toNat / 2 ^ lo % 2 ^ (hi + 1 - lo)
    let held := (c.tile.epi.filter fun g => g.held.isSome).length
    let num (n : Nat) : W64 := BitVec.ofNat 64 n
    let reads (i : BitVec 16) (v : W64) : Prop := index = i → s.gives (.rdc d index) d v
    let writes (i : BitVec 16) (f : Thread → Thread) : Prop := index = i →
      exec (.wrc d index) s = .next (s.retire f) ∧ exec (.registerWrite (.control s.cur index) x) s = .next (s.modMe f)
    let tile (i : BitVec 16) (f : Tile → Tile) : Prop := index = i →
      exec (.wrc d index) s = .next ((s.retire id).modCore here fun c => { c with tile := f c.tile })
    let acts (i : BitVec 16) (e : Instr) : Prop := index = i → ∃ u : State, exec e s = .next u ∧
      exec (.wrc d index) s = .next (u.retire id)
    let user : Prop := t.priv = false
    (user → index = 0x040 → s.traps (.rdc d index) 0x04 0 s.headParcels) ∧
    (user → 0x040 ≤ index.toNat → index.toNat ≤ 0x045 → s.traps (.wrc d index) 0x04 0 s.headParcels) ∧
    (s.plain [] [.g d] → (index = 0x040 → ¬user) →
      reads 0x000 (num t.tid.toNat) ∧ reads 0x001 (num t.mul.toNat) ∧ reads 0x002 (num t.team.toNat) ∧
      reads 0x003 (num t.teamn.toNat) ∧ reads 0x004 (num (s.vcluster (SlotIx.cluster s.cur) * 128 + s.cur.val % 128)) ∧
      reads 0x005 c.cycle ∧
      reads 0x006 (num (b t.priv 0 + b t.handler 1 + b (s.xslot s.cur) 2 +
        b (c.griddle.holder == some (SlotIx.num s.cur)) 3 + b t.migr 4)) ∧
      reads 0x010 (num t.meetwin.toNat) ∧ reads 0x011 (num t.meetst.toNat) ∧ reads 0x018 t.rngkey ∧ reads 0x019 t.rngctr ∧
      reads 0x01A (num t.vstat.toNat) ∧ reads 0x020 (num t.tfmt.toNat) ∧
      reads 0x021 (num (c.tile.fifo.length * 2 ^ 16 + match c.tile.fifo with
        | [] => 0
        | e :: _ => e.tag.toNat)) ∧
      reads 0x022 (num (b c.tile.accsat 0 + b c.tile.trapen 1 + b (held != 0) 2)) ∧ reads 0x023 (num (held * 2 ^ 8)) ∧
      reads 0x028 (num t.tkw.toNat) ∧
      reads 0x029 (num (c.griddle.win.toNat + (match c.griddle.state with
        | .idle => 0
        | .running => 2 ^ 16
        | .done => 2 ^ 17) + match c.griddle.holder with
        | none => 0
        | some n => 2 ^ 36 + n.val * 2 ^ 32)) ∧
      reads 0x030 (num ((s.part p).detm.toNat * 2 ^ 34)) ∧ reads 0x031 (num ((s.part p).detspill.toNat * 2 ^ 6)) ∧
      reads 0x032 (num ((s.part p).cap.toNat + ((s.part p).reserved + (s.part p).spills.length) * 2 ^ 32)) ∧
      reads 0x038 (num t.qmap.toNat) ∧
      reads 0x039 (num (b c.mailbox[0].full 0 + b c.mailbox[1].full 1 + b c.mailbox[2].full 2 + b c.mailbox[3].full 3)) ∧
      reads 0x040 (num t.trapvec.toNat) ∧ reads 0x041 (num t.trapcause.toNat) ∧ reads 0x042 (num t.trapip.toNat) ∧
      reads 0x043 t.trapva ∧ reads 0x044 t.trapaux ∧ reads 0x045 (num t.pjent.toNat) ∧
      reads 0x046 (num (b t.notifyEn 0 + t.savedip.toNat * 2 + b t.notifyActive 63)) ∧ reads 0x050 (num t.bartmo.toNat) ∧
      reads 0x058 t.framep ∧ reads 0x059 (num ((s.records t).length + t.staged.length * 2 ^ 4)) ∧
      ∀ n : Fin 8, reads (BitVec.ofNat 16 (0x060 + n)) (num c.pmc[n].sel.toNat) ∧
        reads (BitVec.ofNat 16 (0x068 + n)) (num c.pmc[n].count.toNat)) ∧
    (s.plain [.g d] [] → (0x040 ≤ index.toNat → index.toNat ≤ 0x045 → ¬user) →
      (∀ i ∈ ([0x000, 0x001, 0x002, 0x003, 0x004, 0x005, 0x006, 0x029, 0x039, 0x045, 0x059] : List (BitVec 16)), writes i id) ∧
      writes 0x010 (fun t => { t with meetwin := BitVec.ofNat 32 x.toNat }) ∧
      writes 0x011 (fun t => { t with meetst := BitVec.ofNat 34 x.toNat }) ∧ writes 0x018 (fun t => { t with rngkey := x }) ∧
      writes 0x019 (fun t => { t with rngctr := x }) ∧ writes 0x01A (fun t => { t with vstat := BitVec.ofNat 6 x.toNat }) ∧
      writes 0x020 (fun t => { t with tfmt := BitVec.ofNat 6 ((if field 5 1 = 1 ∨ 16 < field 5 1 then t.tfmt.toNat / 2
        else field 5 1) * 2 + field 0 0) }) ∧
      writes 0x028 (fun t => if 1 ≤ field 10 0 ∧ field 10 0 ≤ 1024 then { t with tkw := BitVec.ofNat 11 x.toNat } else t) ∧
      writes 0x038 (fun t => { t with qmap := BitVec.ofNat 8 x.toNat }) ∧
      writes 0x040 (fun t => { t with trapvec := BitVec.ofNat 57 x.toNat }) ∧
      writes 0x041 (fun t => { t with trapcause := BitVec.ofNat 10 x.toNat }) ∧
      writes 0x042 (fun t => { t with trapip := BitVec.ofNat 57 x.toNat }) ∧ writes 0x043 (fun t => { t with trapva := x }) ∧
      writes 0x044 (fun t => { t with trapaux := x }) ∧ writes 0x050 (fun t => { t with bartmo := BitVec.ofNat 32 x.toNat }) ∧
      writes 0x058 (fun t => { t with framep := x }) ∧
      (t.notifyActive = false → writes 0x046 fun t => { t with notifyEn := x.getLsbD 0 }) ∧
      (t.notifyActive = true → index = 0x046 → exec (.wrc d index) s = .next (s.goTo (t.savedip.setWidth 64) fun t =>
        { t with notifyActive := false })) ∧
      tile 0x022 (fun y => { y with accsat := x.getLsbD 0, trapen := x.getLsbD 1 }) ∧
      (x.getLsbD 32 = true → (∀ o ∈ c.tile.queue, o.remote ≠ none) → acts 0x021 (.tseqFlush here)) ∧
      (x.getLsbD 32 = true → index = 0x021 → ∀ xs o ys, c.tile.queue = xs ++ o :: ys → o.remote = none →
        (∀ y ∈ ys, y.remote ≠ none) → exec (.wrc d index) s = .next ((s.modMe fun t =>
          { t with wait := .tileStart c.tile.tokens none, resume := s.following, parkedAt := c.cycle }).modCore here fun k =>
            { k with tile := { k.tile with
              queue := xs ++ o :: ⟨c.tile.tokens, s.cur, t.uid, none, .flush⟩ :: ys
              tokens := c.tile.tokens + 1 } })) ∧ (x.getLsbD 32 = false → writes 0x021 id) ∧
      (field 1 0 = 1 → (∀ ipa, t.wait ≠ .declined ipa) → (s.epiReplay here none).2 = none → acts 0x023 (.epiReplay here)) ∧ (field 1 0 = 2 → acts 0x023 (.epiDiscard here)) ∧
      (field 1 0 = 0 ∨ field 1 0 = 3 → writes 0x023 id) ∧ acts 0x030 (.detmWrite p x) ∧ acts 0x031 (.detspillWrite p x) ∧
      acts 0x032 (.detspillnWrite p x) ∧
      ∀ n : Fin 8,
        (index = BitVec.ofNat 16 (0x060 + n) → ∃ sel : BitVec 17, exec (.wrc d index) s = .next ((s.retire id).modCore here fun k =>
            { k with pmc := k.pmc.set n { k.pmc[n] with sel := sel } }) ∧ (sel.getLsbD 16 = x.getLsbD 16) ∧
          sel.toNat % 2 ^ 12 = if field 11 0 < 14 then field 11 0 else c.pmc[n].sel.toNat % 2 ^ 12) ∧
        (index = BitVec.ofNat 16 (0x068 + n) → exec (.wrc d index) s = .next ((s.retire id).modCore here fun k =>
          { k with pmc := k.pmc.set n { k.pmc[n] with count := BitVec.ofNat 48 x.toNat } })))) ∧
  ∀ (s : State) (w : SlotIx) (en : Bool) (n : Note) (rest : List Note),
    let t := s.thread w
    let flies : Prop := ((s.core (SlotIx.core w)).cycle).toNat < t.flightTo.toNat
    let taken (y : State) : Prop := y.mem = s.mem ∧ y.clusters = s.clusters ∧ (∀ q, q ≠ w → y.thread q = s.thread q) ∧
      y.thread w = { t with
        wait := .run
        notes := rest
        notifyActive := true
        savedip := BitVec.ofNat 57 t.ip.toNat
        trapaux := n.id.setWidth 64
        ip := n.handler
        edgeDone := false
        parks := false
        popped := [] }
    let ready : Prop := t.notes = n :: rest ∧ t.notifyActive = false ∧ t.priv = false ∧ t.handler = false ∧ t.pend = [] ∧
      t.occ = true ∧ (s.core (SlotIx.core w)).stopping = false ∧ t.frozenBy = none ∧ t.claimed = []
    exec (.notifyReturn w) s = .next (s.modThread w fun t =>
      if t.notifyActive then { t with notifyActive := false, ip := t.savedip.setWidth 64 } else t) ∧
    exec (.notifyEnable w en) s = .next (s.modThread w fun t => if t.notifyActive then t else { t with notifyEn := en }) ∧
    (t.notes = [] ∨ t.notifyActive = true ∨ t.priv = true ∨ t.handler = true ∨ t.pend ≠ [] ∨ s.mayTry w = true →
      exec (.notifyDelivery w) s = .next s) ∧
    (ready → t.wait = .exiting ∨ (∃ ipa, t.wait = .hostStage ipa) ∨ (flies ∧ (t.wait = .run ∨ ∃ why, t.wait = .retry why)) →
      ∃ y, exec (.notifyDelivery w) s = .next y ∧ taken y) ∧
    (ready → s.mayTry w = true → t.wait = .run → ∀ u, s.attempt w = .next u →
      (u.thread w).handler = false → (∀ e, (u.thread w).wait ≠ .stopped e) → ∃ y, s.turn w = .next y ∧ taken y)

/-- R50, R356 to R359, R364 to R367, R369, R370, R382 and R407: how a trap is taken: what it saves, the mode it enters, where it
goes, and the three cases in which the thread stops instead, with its KIND 4 record, a handler whose fetch the host declines
with FETCH_FAULT (log 57); trap and the privileged instructions of user mode take one; rett returns and decides the entry that
the trap named; and a pending event is taken at an instruction boundary outside handlers, of which the waits for the skimmer, for
an earlier task and for the acceptance of a det update are none (log 28). -/
def Obligations.Exceptions : Prop :=
  (∀ (s : State) (w : SlotIx) (async : Bool) (code : BitVec 8) (ip va aux : W64),
    let t := s.thread w
    let y := s.takeTrap w async code ip va aux
    let saved (ppriv : Bool) : Thread := { t with
      trapcause := BitVec.ofNat 10 (code.toNat + (if ppriv then 2 ^ 8 else 0) + if async then 2 ^ 9 else 0)
      trapip := BitVec.ofNat 57 ip.toNat
      trapva := va
      trapaux := aux }
    let stops (ppriv : Bool) (entry : BitVec 8) : Prop :=
      y.thread w = { saved ppriv with wait := .stopped entry } ∧ (∀ q, q ≠ w → y.thread q = s.thread q) ∧
      y.clusters = s.clusters ∧ y.cores = s.cores ∧
      ∀ tm, s.teamOf t = some tm →
        let u := s.complete tm.fn (queueIx tm.fdom) { kind := 4, cseq := tm.cseq, team := t.team, slot := s.globalSlot w,
                                                      cause := code.toNat, entry := entry.toNat, ip := BitVec.ofNat 64 (ip.toNat % 2 ^ 57),
                                                      va := va, aux := aux }
        y.pages = u.pages ∧ y.mem = u.mem ∧ y.hostMem = u.hostMem
    let enters : Bool := !(t.handler && !async)
    (enters = false → stops true 0) ∧ (enters = true → t.trapvec = 0 → stops t.priv 0) ∧
    (enters = true → t.trapvec ≠ 0 → ∀ u,
      (∀ ps, s.enter (SlotIx.core w) (t.trapvec.setWidth 64) = (u, .ok ps) → y = u.modThread w fun _ =>
        { saved t.priv with
          priv := true
          handler := true
          ip := t.trapvec.setWidth 64
          wait := .run
          pjent := 0
          edgeDone := false
          parks := false }) ∧
      (∀ entry x, s.enter (SlotIx.core w) (t.trapvec.setWidth 64) = (u, .fault entry x) → stops t.priv entry) ∧
      (∀ ipa, s.enter (SlotIx.core w) (t.trapvec.setWidth 64) = (u, .host ipa) →
        (t.wait = .declined ipa → stops t.priv 0x0A) ∧
        (t.wait ≠ .declined ipa → (y.thread w) = { t with wait := .hostStage ipa })))) ∧
  (∀ (s : State) (code : BitVec 16) (d a b : GReg) (n : BitVec 16),
    let t := s.me
    let back : State := s.modMe fun t => { t with
      ip := t.trapip.setWidth 64
      priv := t.trapcause.getLsbD 8
      handler := false
      wait := .run
      popped := []
      edgeDone := false
      parks := false }
    exec (.trap code) s = .next (s.takeTrap s.cur false 0x3F s.following 0 (code.setWidth 64)) ∧
    (t.priv = false → ∀ i ∈ [Instr.rett, .splock a n, .spunlock d, .tlbinvPage a, .tlbinvRange a b, .tlbinvAll, .cxsave d a b,
      .cxload d a], s.traps i 0x04 0 s.headParcels) ∧
    (t.priv = true → t.named = none → exec .rett s = .next back) ∧
    (t.priv = true → ∀ e, t.named = some e → ∃ y, exec .rett s = .next y ∧ y.me = { back.me with named := none } ∧ y.mem = s.mem ∧
      (∀ i, e.journal = some i → y.myCore.journal = if t.trapaux.getLsbD 63 then s.myCore.journal.filter fun j => j.entry != i
        else s.myCore.journal.map fun j => if j.entry = i then { j with state := .sent } else j) ∧
      (∀ i, e.retry = some i → y.myCore.retry = if t.trapaux.getLsbD 63 then s.myCore.retry.filter fun j => j.entry != i
        else s.myCore.retry.map fun j => if j.entry = i then { j with state := .sent, tries := 0 } else j))) ∧
  ∀ (s : State) (w : SlotIx) (a : Async) (rest : List Async),
    let t := s.thread w
    (t.pend = [] ∨ t.handler = true ∨ t.wait = .skimmer ∨ t.wait = .held ∨ (∃ x, t.wait = .det none x) → exec (.asyncTrapDelivery w) s = .next s) ∧
    (t.pend = a :: rest → t.handler = false → t.occ = true → (s.core (SlotIx.core w)).stopping = false → t.frozenBy = none →
      t.claimed = [] → t.wait = .run → t.trapvec ≠ 0 → ∀ ps u, s.enter (SlotIx.core w) (t.trapvec.setWidth 64) = (u, .ok ps) →
      ∃ y, exec (.asyncTrapDelivery w) s = .next y ∧ (∀ q, q ≠ w → y.thread q = s.thread q) ∧
        y.thread w = { t with
          trapcause := BitVec.ofNat 10 (a.code.toNat + (if t.priv then 2 ^ 8 else 0) + 2 ^ 9)
          trapip := BitVec.ofNat 57 t.ip.toNat
          trapva := a.va
          trapaux := a.aux
          priv := true
          handler := true
          ip := t.trapvec.setWidth 64
          edgeDone := false
          parks := false
          popped := []
          pend := rest
          named := if a.code = 0x22 ∧ a.journal = none ∨ (a.journal = none ∧ a.retry = none) then none else some a
          pjent := match a.journal with
            | some e => BitVec.ofNat 6 (2 ^ 5 + e)
            | none => 0 } ∧
        ∀ e, a.retry = some e → a.code = 0x22 → a.journal = none →
          (y.core (SlotIx.core w)).retry = (s.core (SlotIx.core w)).retry.filter fun r => r.entry != e)

/-- R226, R371 to R377: splock locks a range of scratchpad for its thread, in order of arrival, until spunlock or the hold
limit; tlbinv removes the translations of its scope in the whole partition, once every access that took one is performed;
cxsave moves a thread out of its slot into a block of the stated layout, and cxload loads a sound block into a free slot. The
accesses that tlbinv waits for, and the poisoned lines it drops, are those of the 1 GiB block of an address (log 34); when cxsave
and cxload issue is log 37; the home that a block names when the partition has none of that number is log 24. -/
def Obligations.LocksAndContexts : Prop :=
  (∀ (s : State) (d a b : GReg) (n : BitVec 16),
    let t := s.me
    let c := s.myCore
    let here := SlotIx.core s.cur
    let x := (t.greg a).toNat
    let off := x - 0xFF20000000000000
    let locked (since : W64) (k : Core) : Core := { k with
      lock := some ⟨s.cur, off, n.toNat, since⟩
      lockWait := k.lockWait.filter fun w => w != s.cur }
    let i : Instr := .splock a n
    let mine : Prop := ∃ k, c.lock = some k ∧ k.holder = s.cur
    t.priv = true →
      (t.outs ≠ [] → s.waits i .access) ∧
      (t.outs = [] → s.plain [.g a] [] →
        (x < 2 ^ 57 → s.traps i 0x07 (t.greg a) 0) ∧
        (0xFF20000000000000 ≤ x → x < 0xFF20000000040000 →
          (off % 64 ≠ 0 → s.traps i 0x05 (t.greg a) 0) ∧
          (off % 64 = 0 → 0x40000 < off + 64 * n.toNat → s.traps i 0x06 0xFF20000000040000 0) ∧
          (off % 64 = 0 → off + 64 * n.toNat ≤ 0x40000 →
            (∀ k, c.lock = some k → k.holder = s.cur → exec (.splock a n) s = .next ((s.retire id).modCore here (locked k.since))) ∧
            (c.lock = none → c.lockWait.head? = none ∨ c.lockWait.head? = some s.cur → 
              exec (.splock a n) s = .next ((s.retire id).modCore here (locked c.cycle))) ∧
            ((∃ k, c.lock = some k ∧ k.holder ≠ s.cur) ∨
              (c.lock = none ∧ c.lockWait.head? ≠ none ∧ c.lockWait.head? ≠ some s.cur) → s.waits i .lock)))) ∧
      (s.plain [] [.g d] →
        (mine → exec (.spunlock d) s = .next ((s.retire fun t => t.setG d 1).modCore here fun k => { k with lock := none })) ∧
        (¬mine → s.gives (.spunlock d) d 0)) ∧
      (let p := s.partOf (SlotIx.cluster s.cur)
       let busy (byte : Nat → Prop) : Prop := ∃ w, (s.cluster (SlotIx.cluster w)).part = some p ∧ ∃ y ∈ (s.thread w).outs,
        ∃ l ∈ y.todo, (∃ pa, l.place = .global pa) ∧ byte l.va.toNat
       let hit (page : Nat → Nat → Prop) (base size : Nat) : Prop := size ≠ 0 ∧ page base size
       let removed (page : Nat → Nat → Prop) (byte : Nat → Prop) (y : State) : Prop := y.threads = s.threads ∧ y.mem = s.mem ∧
        ∀ k : CoreIx, (s.cluster (CoreIx.cluster k)).part = some p →
          let old := (s.core k).tile
          let new := (y.core k).tile
          let left (xs ys : List Segment) : Prop :=
            (∀ g ∈ xs, hit page g.page.1 g.page.2 → { g with stale := true } ∈ ys) ∧ ∀ g ∈ xs, ¬hit page g.page.1 g.page.2 → g ∈ ys
          (∀ e, e ∈ (y.cluster (CoreIx.cluster k)).tlb ↔ e ∈ (s.cluster (CoreIx.cluster k)).tlb ∧ ¬hit page e.gbase e.gsize) ∧
          (∀ e, e ∈ (y.core k).tlb ↔ e ∈ (s.core k).tlb ∧ ¬hit page e.gbase e.gsize) ∧
          (y.core k).l1 = (s.core k).l1 ∧
          (∀ l ∈ (y.core k).icache, l.poison ≠ none → ¬byte l.va.toNat) ∧
          (∀ l ∈ (s.core k).icache, l.poison = none → l ∈ (y.core k).icache) ∧
          left old.epi new.epi ∧ ∀ r, old.running = some r → ∃ r', new.running = some r' ∧ left r.segs r'.segs
       let gib (y : Nat) : Prop := y / 2 ^ 30 = x / 2 ^ 30
       let m := (t.greg b).toNat
       let near (y : Nat) : Prop := y / 2 ^ 30 * 2 ^ 30 < x + m ∧ x < y / 2 ^ 30 * 2 ^ 30 + 2 ^ 30
       t.outs = [] →
        (busy (fun _ => True) → s.waits .tlbinvAll .access) ∧
        (¬busy (fun _ => True) → ∃ y : State, exec .tlbinvAll s = .next (y.retire fun t => t) ∧
          removed (fun _ _ => True) (fun _ => True) y) ∧
        (s.plain [.g a] [] → busy gib → s.waits (.tlbinvPage a) .access) ∧
        (s.plain [.g a] [] → ¬busy gib → ∃ y : State, exec (.tlbinvPage a) s = .next (y.retire fun t => t) ∧
          removed (fun base size => base ≤ x ∧ x < base + size) gib y) ∧
        (s.plain [.g a, .g b] [] → m = 0 → exec (.tlbinvRange a b) s = .next (s.retire fun t => t)) ∧
        (s.plain [.g a, .g b] [] → m ≠ 0 → busy near → s.waits (.tlbinvRange a b) .access) ∧
        (s.plain [.g a, .g b] [] → m ≠ 0 → ¬busy near → ∃ y : State, exec (.tlbinvRange a b) s = .next (y.retire fun t => t) ∧
          removed (fun base size => base < x + m ∧ x < base + size) near y))) ∧
  (∀ (s : State) (c : CoreIx) (k : Lock),
    let held := (BitVec.ofInt 64 ((s.core c).cycle.toNat - k.since.toNat)).toNat
    ((s.core c).lock = none → exec (.splockHold c) s = .next s) ∧
    ((s.core c).lock = some k → held < 4096 → exec (.splockHold c) s = .next s) ∧
    ((s.core c).lock = some k → 4096 ≤ held → ∃ xs ys, s.pends k.holder 0x38 xs ys ∧ exec (.splockHold c) s =
      .next ((s.modCore c fun x => { x with lock := none }).modThread k.holder fun t => { t with pend := xs ++
        ([⟨0x38, s.now, BitVec.ofNat 64 (0xFF20000000000000 + k.base), BitVec.ofNat 64 k.units, none, none⟩] : List Async) ++
        ys }))) ∧
  ∀ (s t : State) (d a b : GReg) (ls : List Lane) (n : Fin 16),
    let me := s.me
    let here := SlotIx.core s.cur
    let p := s.partOf (SlotIx.cluster s.cur)
    let w := slotOf here n
    let x := t.thread w
    let at_ (i : Nat) : Spot := match ls[i / 64]? with
      | some l => l.spot (i % 64)
      | none => .hbm 0
    let word (y : State) (i : Nat) : Nat := bytesNat ((List.range 8).map fun k => y.byteOf (at_ (i + k)))
    let half (y : State) (i : Nat) : Nat := bytesNat ((List.range 4).map fun k => y.byteOf (at_ (i + k)))
    let flag (f : Bool) (k : Nat) : Nat := if f then 2 ^ k else 0
    let xor (y : State) : Nat := ((List.range 640).map fun i => word y (8 * i)).foldl (fun u v => u ^^^ v) 0
    let rs := t.records x
    let regs (x : Thread) : List Nat :=
      [x.meetwin.toNat, x.meetst.toNat, x.rngkey.toNat, x.rngctr.toNat, x.vstat.toNat, x.tfmt.toNat, x.tkw.toNat, x.qmap.toNat,
        x.trapvec.toNat, x.trapcause.toNat, x.trapip.toNat, x.trapva.toNat, x.trapaux.toNat,
        flag x.notifyEn 0 + x.savedip.toNat * 2 + flag x.notifyActive 63, x.bartmo.toNat, x.framep.toNat]
    me.priv = true → me.outs = [] → s.sendOut s.cur = false →
      (s.plain [.g a, .g b] [.g d] → (me.greg b).toNat % 16 = n.val → blockLanes needW (me.greg a) (List.range 80) s = .ok (ls, t) →
        (x.occ = false ∨ w = s.cur ∨ t.xslot w = true → exec (.cxsave d a b) s = .next (t.retire fun t => t.setG d 0)) ∧
        (x.occ = true → w ≠ s.cur → t.xslot w = false → x.qmap ≠ 0 →
          exec (.cxsave d a b) s = .next (t.retire fun t => t.setG d 3)) ∧
        (x.occ = true → w ≠ s.cur → t.xslot w = false → x.qmap = 0 → x.wait = .run → x.claimed = [] → t.quietSlot w = true →
          (t.encumbered w = true → ∃ y : State, exec (.cxsave d a b) s = .next (y.retire fun t => t.setG d 4) ∧ y.me = t.me ∧
            (y.thread w).occ = true ∧ (y.thread w).g = x.g ∧ (y.thread w).ip = x.ip ∧ y.mem = t.mem) ∧
          (t.encumbered w = false → ls.length = 80 → (∀ l ∈ ls, l.size = 64) → (∀ i < 5120, ∀ j < 5120, at_ i = at_ j → i = j) →
            (∀ tm, t.teamOf x = some tm → ∀ e ∈ tm.det, e.2 < 2 ^ 24) →
            ∃ y : State, exec (.cxsave d a b) s = .next (y.retire fun t => t.setG d 1) ∧ y.freed w ∧ y.me = t.me ∧
            (∀ i : GReg, word y (8 * i.val) = (x.greg i).toNat) ∧
            (∀ (i : VReg) (j : Fin 32), half y (0x100 + 128 * i.val + 4 * j.val) = (x.v[i][j]).toNat) ∧
            (∀ i : KReg, half y (0x1100 + 4 * i.val) = (x.kreg i).toNat) ∧ word y 0x1120 = x.ip.toNat % 2 ^ 57 ∧
            word y 0x1128 = flag x.priv 0 + flag x.handler 1 + flag x.migr 2 + flag (x.pend.any fun e => e.code == 0x38) 5 ∧
            word y 0x1130 = x.team.toNat + x.teamn.toNat * 2 ^ 32 + x.tid.toNat * 2 ^ 40 + x.mul.toNat * 2 ^ 48 +
              ((List.finRange 128).filter fun cl => (t.cluster cl).part = some x.part ∧ cl.val < x.home.val).length * 2 ^ 56 + flag (((t.taskOf x).map Task.member).getD false) 63 ∧
            word y 0x1138 + word y 0x1140 * 2 ^ 64 = x.idset.toNat ∧
            (∀ i v, (regs x)[i]? = some v → word y (0x1148 + 8 * i) = v) ∧
            word y 0x11C8 / 2 ^ 32 = (rs.length + x.staged.length * 2 ^ 4) % 2 ^ 32 ∧
            (∀ i, ∀ r : Region, (rs.take 8)[i]? = some r → word y (0x1200 + 16 * i) + word y (0x1208 + 16 * i) * 2 ^ 64 = r.toNat) ∧
            (∀ i, ∀ r : Region, (x.staged.take 8)[i]? = some r →
              word y (0x1280 + 16 * i) + word y (0x1288 + 16 * i) * 2 ^ 64 = r.toNat) ∧
            word y 0x13F0 = (t.part x.part).partid.toNat ∧ xor y = 0x4A4E0001))) ∧
      (s.settledIn → s.plain [.g a] [.g d] → blockLanes needR (me.greg a) (List.range 80) s = .ok (ls, t) →
        let ids := word t 0x1130
        let sound : Prop := xor t = 0x4A4E0001 ∧ word t 0x13F0 = (t.part p).partid.toNat ∧ word t 0x1120 < 2 ^ 57 ∧
          1 ≤ word t 0x1120 % 64 ∧ word t 0x1120 % 64 ≤ 31 ∧ word t 0x1128 < 2 ^ 7 ∧ ids / 2 ^ 47 % 2 = 0 ∧ word t 0x11C8 / 2 ^ 24 % 2 ^ 8 = 0 ∧
          word t 0x11C8 < 2 ^ 40 ∧ word t 0x11D8 < 2 ^ 32 ∧ word t 0x11E0 / 2 ^ 22 % 2 ^ 40 = 0 ∧ word t 0x11F0 = 0 ∧
          word t 0x11F8 = 0 ∧ ∀ i < 112, t.byteOf (at_ (0x1380 + i)) = 0
        let home := t.blockHome (t.getBlock ls) p
        (∀ l ∈ ls, l.size = 64) → ls.length = 80 → (t.filled = true → s.waits (.cxload d a) .slot) ∧ (t.filled = false →
        (t.candidates here = [] → exec (.cxload d a) s = .next (t.retire fun t => t.setG d 0x8000000000000001)) ∧
        (t.candidates here ≠ [] → ¬sound → exec (.cxload d a) s = .next (t.retire fun t => t.setG d 0x8000000000000002)) ∧
        ∀ q rest, t.candidates here = q :: rest → q ≠ s.cur → sound →
          (∀ cl, t.away = [] → t.physical p (ids / 2 ^ 56 % 2 ^ 7) = some cl → home = cl) ∧
          (t.away = [] → t.physical p (ids / 2 ^ 56 % 2 ^ 7) = none →
            (∃ cl, (t.cluster cl).part ≠ some p ∧ t.teamAt cl p (BitVec.ofNat 32 ids) = none) → (t.cluster home).part ≠ some p) ∧
          (t.loadCrowded (t.getBlock ls) p = true → s.waits (.cxload d a) .slot) ∧
          (t.loadCrowded (t.getBlock ls) p = false → ∃ y : State,
          exec (.cxload d a) s = .next (y.retire fun x => x.setG d (BitVec.ofNat 64 (t.globalSlot q))) ∧ y.me = t.me ∧
          let x := y.thread q
          x.occ = true ∧ x.home = home ∧ x.part = p ∧ (∀ i : GReg, i.val ≠ 0 → (x.greg i).toNat = word t (8 * i.val)) ∧
          (∀ (i : VReg) (j : Fin 32), (x.v[i][j]).toNat = half t (0x100 + 128 * i.val + 4 * j.val)) ∧
          (∀ i : KReg, i.val ≠ 0 → (x.kreg i).toNat = half t (0x1100 + 4 * i.val)) ∧ x.ip.toNat = word t 0x1120 ∧
          x.priv = (word t 0x1128).testBit 0 ∧ x.handler = (word t 0x1128).testBit 1 ∧
          x.team.toNat = ids % 2 ^ 32 ∧ x.teamn.toNat = ids / 2 ^ 32 % 2 ^ 8 ∧ x.tid.toNat = ids / 2 ^ 40 % 2 ^ 7 ∧
          x.mul.toNat = ids / 2 ^ 48 % 2 ^ 8 ∧ x.idset.toNat = word t 0x1138 + word t 0x1140 * 2 ^ 64 ∧
          x.rngkey.toNat = word t 0x1158 ∧ x.rngctr.toNat = word t 0x1160 ∧ x.trapva.toNat = word t 0x11A0 ∧
          x.trapaux.toNat = word t 0x11A8 ∧ x.framep.toNat = word t 0x11C0 ∧
          ((word t 0x1128).testBit 6 = true → ∃ e, x.wait = .stopped e))))

/-- R19 to R21, R41, R61, R208, R210, R301, R393 to R395, R404 to R407 and R425: a launch at the head of its queue is refused with the
lowest status that applies, or held with what its walk read; a held launch is placed in the lowest vcluster with enough
candidate slots whose skimmer has room (log 81), thread by thread in rotation over the cores, when every budget admits it and the
pops of its cores have gone first; one that no cluster has room for stays held; one that a change of XEN since its walk keeps
from ever being placed is refused; and each completion record is written in the stated layout. Which fields count as zero for
status 1, the place of status 10 and what XEN is where the configuration image forbids the node is log 21; that a walk is read
once, when its launch is consumed, is log 58. -/
def Obligations.Launches : Prop :=
  (∀ (s : State) (f : FuncIx) (q : Fin 16) (r : Completion),
    let x := (s.page f).pair q
    let size := x.cpsize.toNat
    x.cpsize ≠ 0 → (x.cptail.toNat + 1) % size ≠ x.cphead.toNat % size → x.backlog = [] →
      r.kind < 256 → r.status < 256 → r.slot < 2 ^ 14 → r.cause < 256 → r.entry < 256 →
      ∃ bs : List Byte, bs.length = 64 ∧ (∀ i : Fin 8, bytesNat ((bs.drop (8 * i)).take 8) =
          ([r.cseq.toNat * 2 ^ 32 + r.status * 2 ^ 8 + r.kind, (x.lastcpl + 1).toNat * 2 ^ 32 + r.team.toNat,
            r.entry * 2 ^ 24 + r.cause * 2 ^ 16 + r.slot, r.ip.toNat, r.va.toNat, r.aux.toNat, 0, 0] : List Nat)[i.val]?.getD 0) ∧
        s.complete f q r = (s.busWrite f (x.cpbase.toNat + 64 * x.cptail.toNat) bs).modPair f q fun x => { x with
          cptail := BitVec.ofNat 16 ((x.cptail.toNat + 1) % size)
          lastcpl := x.lastcpl + 1 }) ∧
  (∀ (s : State) (f : FuncIx) (q : Fin 16) (cmd : List Byte),
    let x := (s.page f).pair q
    let field (off hi lo : Nat) : Nat := bytesNat ((cmd.drop off).take 8) / 2 ^ lo % 2 ^ (hi + 1 - lo)
    let flag (n : Nat) : Prop := field 0 n n = 1
    let n := field 0x18 39 32
    let cseq := BitVec.ofNat 32 (field 0 63 32)
    let eaten : State := s.modPair f q fun x => { x with
      cqhead := BitVec.ofNat 16 ((x.cqhead.toNat + 1) % x.cqsize.toNat)
      lastcmd := cseq
      anyCmd := true }
    let refused (status : Nat) : Prop := exec (.launch f q) s = .next (eaten.complete f q
      { kind := 2, status := status, cseq := cseq, team := BitVec.ofNat 32 (field 0x18 31 0) })
    let word (a off : Nat) : Nat := s.mem.word (a + off) 8
    let bit (a n : Nat) : Bool := (word a 0x18).testBit n
    let image (i : Nat) : Nat := if field 0x68 63 0 = 0 then 0 else bytesNat (s.busRead f (field 0x68 63 0 + 8 * i) 8)
    let record (i : Nat) : Region := BitVec.ofNat 128 (bytesNat (s.busRead f (field 0x58 63 0 + 16 * i) 16))
    let malformed : Prop := field 0 31 16 ≠ 0 ∨ field 0 15 11 ≠ 0 ∨ field 0x18 63 50 ≠ 0 ∨ (¬flag 10 ∧ field 0x18 49 40 ≠ 0) ∨
      field 0x60 63 4 ≠ 0 ∨ field 0x70 63 0 ≠ 0 ∨ field 0x78 63 0 ≠ 0 ∨ 8 < field 0x60 3 0 ∨
      ∃ i < field 0x60 3 0, regionBad (record i) = true
    let from_ (path : List Nat) : Prop := NodePath s.mem path ∧ path.head? = some (field 8 63 0)
    let names (path : List Nat) (p : PartIx) : Prop := (s.part p).live = true ∧ (f.val = 64 ∨ f.val = p.val) ∧
      ∃ a ∈ path, s.mem.word a 1 = 1 ∧ (s.part p).node.toNat = a
    let xen (p : PartIx) : Bool := if s.mgmt.allows s.mem (s.part p).node.toNat (s.clustersOf p).length
      then bit (s.part p).node.toNat 0 else (s.part p).xen
    s.command f q = some cmd → cmd.length = 128 → field 0 7 0 = 1 → (x.anyCmd = true → cseq = x.lastcmd + 1) →
      ((∀ path, ¬from_ path) → refused 1) ∧
      ∀ path, from_ path →
        ((∀ p, ¬names path p) → refused 1) ∧
        ∀ p, (∀ p', names path p' ↔ p' = p) →
          let wrong (status : Nat) : Prop := match status with
            | 1 => malformed
            | 2 => flag 9 ∧ ∃ a ∈ path, bit a 1 = false
            | 3 => flag 10 ∧ (xen p = false ∨ n ≠ 1 ∨ s.physical p (field 0x18 49 43) = none)
            | 4 => n = 0 ∨ 128 < n ∨ (xen p = true ∧ 120 < n) ∨ ∃ a ∈ path, s.mem.word (a + 0x10) 4 < n
            | 5 => 0x3FF000 < image 1 ∨ 2 ^ 18 < image 3
            | _ => False
          (∀ status, wrong status → (∀ j < status, ¬wrong j) → refused status) ∧
          ((∀ status, ¬wrong status) → ∃ h : HeldLaunch, h.cmd = cmd ∧
            h.budgets = path.map (fun a => ⟨BitVec.ofNat 64 a, s.mem.word (a + 0x10) 4, s.mem.word (a + 0x14) 4⟩) ∧
            (∀ pre a post, path = pre ++ a :: post → (∀ b ∈ pre, s.mem.word (b + 1) 1 = 255) →
              s.mem.word (a + 1) 1 ≠ 255 ∨ post = [] → h.prio = s.mem.word (a + 1) 1) ∧
            (∀ pre a post, path = pre ++ a :: post → (∀ b ∈ pre, s.mem.word (b + 4) 2 = 0xFFFF) →
              s.mem.word (a + 4) 2 ≠ 0xFFFF ∨ post = [] → h.fdom = s.mem.word (a + 4) 2) ∧
            let u : State := (eaten.modPart p fun x => { x with xen := xen p }).modPair f q fun x => { x with held := some h }
            let room (cl : ClusterIx) : Prop := ((s.cluster cl).teams.map fun tm => tm.tasks.length).sum < 1024
            let offers (cl : ClusterIx) : Nat := ((coresOf cl).map fun c => (u.candidates c).length).sum
            let target (cl : ClusterIx) : SlotIx := slotOf (coreOf cl ⟨field 0x18 42 40, Nat.mod_lt _ (by decide)⟩) 15
            let full : Prop := if flag 10 then ∃ cl, s.physical p (field 0x18 49 43) = some cl ∧
                ((s.thread (target cl)).occ = true ∨ ¬room cl)
              else ∀ cl ∈ s.clustersOf p, room cl → offers cl < n
            exec (.launch f q) s = exec (.launchPlacement f q) u ∧
            ((∀ cl ∈ s.clustersOf p, ∀ c ∈ coresOf cl, (s.core c).deque = [] ∨ u.candidates c = []) →
              (full → exec (.launch f q) s = .next u) ∧
              ((∀ e r, (e, r) ≠ (f, q) → ((s.page e).pair r).held = none) → s.teamLive p (BitVec.ofNat 32 (field 0x18 31 0)) = false →
                (∀ b ∈ h.budgets, (b.slotMax = 0xFFFFFFFF ∨ s.slotsUnder b.node + n ≤ b.slotMax) ∧
                  (b.cmdMax = 0xFFFFFFFF ∨ s.commandsUnder b.node + 1 ≤ b.cmdMax)) →
                ¬flag 10 → (∃ cl ∈ s.clustersOf p, room cl ∧ n ≤ offers cl) → ∃ y cl tm, exec (.launch f q) s = .next y ∧
                  ((y.page f).pair q).held = none ∧ y.teamAt cl p (BitVec.ofNat 32 (field 0x18 31 0)) = some tm ∧ tm.weight = n)))) ∧
  ∀ (s : State) (f : FuncIx) (q : Fin 16) (h : HeldLaunch) (p : PartIx),
    let cmd := h.cmd
    let field (off hi lo : Nat) : Nat := bytesNat ((cmd.drop off).take 8) / 2 ^ lo % 2 ^ (hi + 1 - lo)
    let flag (n : Nat) : Prop := field 0 n n = 1
    let n := field 0x18 39 32
    let cseq := BitVec.ofNat 32 (field 0 63 32)
    let team := BitVec.ofNat 32 (field 0x18 31 0)
    let free : State := s.modPair f q fun x => { x with held := none }
    let image (i : Nat) : Nat := if field 0x68 63 0 = 0 then 0 else bytesNat (s.busRead f (field 0x68 63 0 + 8 * i) 8)
    let room (cl : ClusterIx) : Prop := ((s.cluster cl).teams.map fun tm => tm.tasks.length).sum < 1024
    let offers (cl : ClusterIx) : Nat :=
      if ((s.cluster cl).teams.map fun tm => tm.tasks.length).sum < 1024 then ((coresOf cl).map fun c => (s.candidates c).length).sum
      else 0
    let nonePops : Prop := ∀ cl ∈ s.clustersOf p, ∀ c ∈ coresOf cl, (s.core c).deque = [] ∨ s.candidates c = []
    let admitted : Prop := ∀ b ∈ h.budgets, (b.slotMax = 0xFFFFFFFF ∨ s.slotsUnder b.node + n ≤ b.slotMax) ∧
      (b.cmdMax = 0xFFFFFFFF ∨ s.commandsUnder b.node + 1 ≤ b.cmdMax)
    let rotates (cl : ClusterIx) (ws : List SlotIx) : Prop := ∀ pre w post, ws = pre ++ w :: post →
      let left (k : Nat) : List SlotIx := (s.candidates (coreOf cl ⟨k % 8, Nat.mod_lt _ (by decide)⟩)).filter fun c => c ∉ pre
      let start : Nat := match pre.getLast? with
        | none => 0
        | some v => (CoreIx.num (SlotIx.core v)).val + 1
      ∃ k < 8, (left (start + k)).head? = some w ∧ ∀ j < k, left (start + j) = []
    let lands (cl : ClusterIx) (ws : List SlotIx) : Prop :=
      (s.teamLive p team = true → exec (.launchPlacement f q) s = .next (free.complete f q
        { kind := 2, status := 10, cseq := cseq, team := team })) ∧
      (s.teamLive p team = false → image 1 ≤ 0x3FF000 → image 3 ≤ 2 ^ 18 → ∃ y, exec (.launchPlacement f q) s = .next y ∧
        let u := free.complete f q { kind := 1, cseq := cseq, team := team, slot := s.globalSlot (ws.head?.getD 0) }
        y.pages = u.pages ∧ y.hostMem = u.hostMem ∧ (∀ w ∉ ws, y.thread w = s.thread w) ∧
        (∀ i w, ws[i]? = some w → ∃ uid, y.thread w = { Thread.reset with
          occ := true
          ip := BitVec.ofNat 64 (field 0x10 63 0)
          g := Vector.ofFn fun r => if 2 ≤ r.val ∧ r.val ≤ 7 then BitVec.ofNat 64 (field (0x20 + 8 * (r.val - 2)) 63 0) else 0
          tid := BitVec.ofNat 7 i
          idset := BitVec.ofNat 128 (2 ^ i)
          team := team
          teamn := BitVec.ofNat 8 n
          trapvec := BitVec.ofNat 57 (field 0x50 63 0)
          priv := decide (flag 9 ∧ ¬flag 10)
          part := p
          home := cl
          uid := uid }) ∧
        (∃ tm, y.teamAt cl p team = some tm ∧ tm.cseq = cseq ∧ tm.fn = f ∧ tm.q = q ∧ tm.fdom = h.fdom ∧ tm.weight = n ∧
          tm.exited = 0 ∧ tm.path = h.budgets.map Budget.node ∧ ∃ k, tm.tasks = [k] ∧ k.threads = n ∧ k.conts = 0 ∧ k.member = true ∧
          ∀ r ∈ k.regions, regionMode r ≠ 0 ∧ ∃ i < min (field 0x60 3 0) 8,
            r = BitVec.ofNat 128 (bytesNat (s.busRead f (field 0x58 63 0 + 16 * i) 16))) ∧
        (∀ i, ∀ b : Byte, (s.busRead f (image 0) (image 1))[i]? = some b →
          (y.cluster cl).mem.get i = b ∧ (y.cluster cl).isFull (i / 8) = true) ∧
        (∀ w ∈ ws, ∀ i, ∀ b : Byte, (s.busRead f (image 2) (image 3))[i]? = some b →
          (y.core (SlotIx.core w)).scratch.get i = b) ∧
        (flag 8 → ∀ c ∈ coresOf cl, (y.core c).icache = []))
    (((s.page f).pair q).held = none → exec (.launchPlacement f q) s = .next s) ∧
    (((s.page f).pair q).held = some h → (∀ e r, (e, r) ≠ (f, q) → ((s.page e).pair r).held = none) → h.budgets ≠ [] → nonePops →
      s.pathPart f (h.budgets.map fun b => b.node.toNat) = some p → cmd.length = 128 → field 0 7 0 = 1 → 1 ≤ n →
      let refused (status : Nat) : Prop := exec (.launchPlacement f q) s = .next (free.complete f q
        { kind := 2, status := status, cseq := cseq, team := team })
      (flag 10 → (s.part p).xen = false → refused 3) ∧
      ((s.part p).xen = true → 120 < n → refused 4) ∧
      ((flag 10 → (s.part p).xen = true) → ((s.part p).xen = true → n ≤ 120) →
      (¬admitted → exec (.launchPlacement f q) s = .next s) ∧
      (¬flag 10 →
        ((∀ cl ∈ s.clustersOf p, offers cl < n) → exec (.launchPlacement f q) s = .next s) ∧
        (admitted → ∀ cl ∈ s.clustersOf p, n ≤ offers cl → (∀ l ∈ s.clustersOf p, l.val < cl.val → offers l < n) →
          ∃ ws : List SlotIx, ws.length = n ∧ ws.Nodup ∧ (∀ w ∈ ws, SlotIx.cluster w = cl ∧ s.candidate w = true) ∧ rotates cl ws ∧
            lands cl ws)) ∧
      (flag 10 → ∀ cl, s.physical p (field 0x18 49 43) = some cl →
        let c := coreOf cl ⟨field 0x18 42 40, Nat.mod_lt _ (by decide)⟩
        let w := slotOf c 15
        ((s.thread w).occ = true ∨ ¬room cl → exec (.launchPlacement f q) s = .next s) ∧
        (admitted → n = 1 → (s.thread w).occ = false → (s.core c).forward = [] → (s.core c).stopping = false →
          (s.cluster cl).draining = false → room cl → lands cl [w]))))

/-- R403 to R406, R408, R409, R418, R420 and R425: what each queue holds and how commands are consumed; RESUME, KILL,
HINVAL and RESOLVE with their answers; and what a function reset and a device reset leave. A KILL stays at the head of its queue
while its target waits for the skimmer, for the acceptance of a det update or for a close that it has reached (log 40); when
HINVAL waits, and that status 7 comes first, is log 21. What a function reset leaves of the queue pairs and what a device reset
keeps beyond R420 is log 21's, its uncorrectable errors log 78's. -/
def Obligations.HostCommands : Prop :=
  (∀ (s : State) (f : FuncIx) (q : Fin 16) (tail : BitVec 16),
    let x := (s.page f).pair q
    let n := x.cqsize.toNat
    let idle : Prop := n = 0 ∨ x.held ≠ none ∨ x.cqhead.toNat % n = x.cqtail.toNat % n
    let cmd := s.busRead f (x.cqbase.toNat + 128 * (x.cqhead.toNat % n)) 128
    let field (off hi lo : Nat) : Nat := bytesNat ((cmd.drop off).take 8) / 2 ^ lo % 2 ^ (hi + 1 - lo)
    let kind := field 0 7 0
    let cseq := BitVec.ofNat 32 (field 0 63 32)
    let eaten : State := s.modPair f q fun x => { x with
      cqhead := BitVec.ofNat 16 ((x.cqhead.toNat + 1) % n)
      lastcmd := cseq
      anyCmd := true }
    let refusal (status : Nat) : Completion :=
      { kind := 2, status := status, cseq := cseq, team := if kind = 1 then BitVec.ofNat 32 (field 0x18 31 0) else 0 }
    let refused (i : Instr) (status : Nat) : Prop := exec i s = .next (eaten.complete f q (refusal status))
    let takes (i : Instr) (suits : Prop) : Prop :=
      (idle ∨ ¬suits → exec i s = .next s) ∧
      (¬idle → suits → x.anyCmd = true → cseq ≠ x.lastcmd + 1 → exec i s = .next ((s.modPair f q fun x =>
        { x with cqhead := BitVec.ofNat 16 ((x.cqhead.toNat + 1) % n) }).complete f q (refusal 7)))
    let orders : Prop := ¬idle ∧ (x.anyCmd = true → cseq = x.lastcmd + 1)
    let done (u : State) (team : W32) (slot : Nat) : State := u.complete f q { kind := 5, cseq := cseq, team := team, slot := slot }
    let zeros : Prop := field 0 31 16 = 0 ∧ field 0 15 11 = 0 ∧ field 0x18 63 50 = 0 ∧ field 0x60 63 4 = 0 ∧ field 0x70 63 0 = 0 ∧
      field 0x78 63 0 = 0
    exec (.doorbell f q tail) s = .next ((s.modPair f q fun x => { x with cqtail := tail }).modPage f fun x =>
      { x with status := 0 }) ∧
    s.command f q = (if idle then none else some cmd) ∧
    takes (.launch f q) (kind < 2 ∨ 5 < kind) ∧ takes (.resume f q) (kind = 2) ∧ takes (.kill f q) (kind = 3) ∧
    takes (.hinval f q) (kind = 4) ∧ takes (.resolve f q) (kind = 5) ∧
    (orders → kind = 0 ∨ 5 < kind → refused (.launch f q) 9) ∧
    (orders → ¬zeros → (kind = 2 → refused (.resume f q) 1) ∧ (kind = 3 → refused (.kill f q) 1) ∧
      (kind = 4 → refused (.hinval f q) 1) ∧ (kind = 5 → refused (.resolve f q) 1)) ∧
    (orders → zeros → (∀ p, (s.part p).live = true → p.val = f.val → 2 ^ 14 ≤ field 8 63 0 ∨ s.slotNamed p (field 8 63 0) = none) →
      (kind = 2 → refused (.resume f q) 6) ∧ (kind = 3 → refused (.kill f q) 6)) ∧
    (orders → zeros → kind = 4 → (∀ p, (s.part p).live = true → p.val ≠ f.val) → exec (.hinval f q) s = .next (done eaten 0 0)) ∧
    (orders → zeros → kind = 5 → (∀ p, (s.part p).live = true → p.val ≠ f.val) → exec (.resolve f q) s = .next (done eaten 0 0)) ∧
    ∀ p, (s.part p).live = true → p.val = f.val → orders → zeros →
      (∀ w, field 8 63 0 < 2 ^ 14 → s.slotNamed p (field 8 63 0) = some w →
        let t := s.thread w
        let killed : State := (eaten.withdraw w).modThread w fun t => { t with wait := .killed f q cseq false }
        (t.occ = false → (kind = 2 → refused (.resume f q) 6) ∧ (kind = 3 → refused (.kill f q) 6)) ∧
        (t.occ = true → kind = 2 →
          ((∀ e, t.wait ≠ .stopped e) → refused (.resume f q) 6) ∧
          (∀ e, t.wait = .stopped e → t.named = none → exec (.resume f q) s = .next (done (eaten.modThread w fun t => { t with
            ip := t.trapip.setWidth 64
            priv := t.trapcause.getLsbD 8
            handler := false
            wait := .run }) t.team (s.globalSlot w)))) ∧
        (t.occ = true → kind = 3 →
          (t.wait = .skimmer ∨ (∃ x, t.wait = .det none x) ∨ (∃ a b c, t.wait = .sieveOut a b c) → exec (.kill f q) s = .next s) ∧
          (t.wait = .run ∨ (∃ y, t.wait = .retry y) ∨ (∃ e, t.wait = .stopped e) ∨ t.wait = .held ∨ t.wait = .exiting →
            exec (.kill f q) s = exec (.exitRetire w) killed ∧ ∃ y, exec (.kill f q) s = .next y) ∧
          (∀ a b c d, t.wait = .sieveIn a b c d → ∃ y, exec (.kill f q) s = .next y ∧
            ∀ i ∈ (y.cluster t.home).inst, w ∉ i.arrivals))) ∧
      (kind = 4 →
        let from_ := field 8 63 0
        let n := field 0x10 63 0
        let hit (e : TlbEntry) : Prop := n = 0 ∨ (e.ipa < from_ + n ∧ from_ < e.ipa + e.size ∧ e.size ≠ 0)
        let busy : Prop := ∃ w, (s.cluster (SlotIx.cluster w)).part = some p ∧ ∃ y ∈ (s.thread w).outs, ∃ l ∈ y.todo,
          ∃ pa, l.place = .global pa
        (busy → exec (.hinval f q) s = .next s) ∧
        (¬busy → ∃ y, exec (.hinval f q) s = .next y ∧ y.pages = (done eaten 0 0).pages ∧ y.mem = (done eaten 0 0).mem ∧
          y.hostMem = (done eaten 0 0).hostMem ∧ y.threads = s.threads ∧
          ∀ k : CoreIx, (s.cluster (CoreIx.cluster k)).part = some p →
            (∀ e, e ∈ (y.core k).tlb ↔ e ∈ (s.core k).tlb ∧ ¬hit e) ∧ (y.core k).l1 = (s.core k).l1 ∧
            ∀ e, e ∈ (y.cluster (CoreIx.cluster k)).tlb ↔ e ∈ (s.cluster (CoreIx.cluster k)).tlb ∧ ¬hit e)) ∧
      (kind = 5 →
        let ipa := field 8 63 0
        let no : Prop := field 0x10 0 0 = 1
        ∃ y, exec (.resolve f q) s = .next y ∧ y.pages = (done eaten 0 0).pages ∧ y.mem = (done eaten 0 0).mem ∧
          y.hostMem = (done eaten 0 0).hostMem ∧
          ∀ w, ((s.thread w).wait ≠ .hostStage ipa → (∀ x, (s.thread w).wait ≠ .det (some ipa) x) → y.thread w = s.thread w) ∧
            (∀ x, (s.cluster (SlotIx.cluster w)).part = some p → (s.thread w).wait = .det (some ipa) x →
              (no → y.thread w = { s.thread w with wait := .det none (some ipa) }) ∧
              (¬no → y.thread w = { s.thread w with wait := .det none none })) ∧
            (∀ pre o post, (s.cluster (SlotIx.cluster w)).part = some p → (s.thread w).wait = .hostStage ipa →
              (s.core (SlotIx.core w)).tile.queue = pre ++ o :: post → o.uid = (s.thread w).uid → o.remote = none →
              o.kind.stalls = true → (∀ z ∈ pre, z.uid ≠ o.uid ∨ z.remote ≠ none ∨ z.kind.stalls = false) →
              (no → y.thread w = { s.thread w with wait := .tileStart o.token (some ipa) }) ∧
              (¬no → y.thread w = { s.thread w with wait := .tileStart o.token none })) ∧
            ((s.cluster (SlotIx.cluster w)).part = some p → (s.thread w).wait = .hostStage ipa →
              (s.core (SlotIx.core w)).tile.queue = [] →
                (no → y.thread w = { s.thread w with wait := .declined ipa }) ∧
                (¬no → y.thread w = { s.thread w with wait := .run })))) ∧
  (∀ (s : State) (f : FuncIx), ∃ y, exec (.functionReset f) s = .next y ∧ y.threads = s.threads ∧ y.cores = s.cores ∧
    y.clusters = s.clusters ∧ (y.page f).status = 0 ∧ (y.page f).qosmem = Band.reset ∧ (∀ n : Fin 16, (y.page f).qoslink[n] = Band.reset) ∧
    (y.page f).ladle = Ladle.reset ∧ (y.page f).log = LogRegs.reset ∧ (∀ g, g ≠ f → y.page g = s.page g) ∧
    ((∀ q, ((s.page f).pair q).backlog = []) →
      let block (q : Fin 16) : Nat := let x := (s.page f).pair q
        if x.hsb = 0 then x.lastcmd.toNat + x.lastcpl.toNat * 2 ^ 32 else bytesNat (s.busRead f x.hsb.toNat 8)
      let back (q : Fin 16) : Nat := (((s.page f).pair q).lastcpl - BitVec.ofNat 32 (block q / 2 ^ 32)).toNat
      ((∀ q, ((s.page f).pair q).held = none) → y.mem = s.mem ∧ y.hostMem = s.hostMem ∧ ∀ q,
        let x := (s.page f).pair q
        let z := (y.page f).pair q
        z.cqbase = x.cqbase ∧ z.cqsize = x.cqsize ∧ z.cqhead = x.cqhead ∧ z.lastcmd = x.lastcmd ∧ z.cpbase = x.cpbase ∧
          z.cpsize = x.cpsize ∧ z.cphead = x.cphead ∧ z.hsb = x.hsb ∧ z.held = none ∧ z.anyCmd = false ∧ z.lastcpl = 0 ∧
          z.backlog = [] ∧
          (x.cqsize ≠ 0 →
            z.cqtail = BitVec.ofNat 16 ((x.cqhead.toNat + (BitVec.ofNat 32 (block q) - x.lastcmd).toNat) % x.cqsize.toNat)) ∧
          (x.cpsize ≠ 0 →
            z.cptail = BitVec.ofNat 16 ((x.cptail.toNat + x.cpsize.toNat * back q - back q) % x.cpsize.toNat))) ∧
      ∀ q h, ((s.page f).pair q).held = some h → (∀ r, r ≠ q → ((s.page f).pair r).held = none) → ∃ u : State,
        ((u.page f).pair q).held = none ∧ u.mem = s.mem ∧ u.hostMem = s.hostMem ∧ ((u.page f).pair q).lastcpl = 0 ∧
        (y.page f).pair q = ((u.complete f q ⟨2, 8, cmdSeq h.cmd, if cmdKind h.cmd = 1 then cmdTeam h.cmd else 0, 0, 0, 0, 0, 0, 0⟩).page
          f).pair q)) ∧
  ∀ s : State,
    let told (u : State) : Prop := ∃ y, exec .deviceReset s = .next y ∧ y.mem = u.mem ∧ y.hostMem = u.hostMem
    ((∀ c, (s.core c).deque = []) → told s) ∧
    (∀ c e tm, (s.core c).deque = [e] → (∀ d, d ≠ c → (s.core d).deque = []) → s.teamAt e.home e.part e.team = some tm →
      told (s.complete tm.fn (queueIx tm.fdom)
        { kind := 4, cseq := tm.cseq, team := e.team, slot := s.vcluster (CoreIx.cluster c) * 128 + (CoreIx.num c).val * 16 })) ∧
    ∃ y, exec .deviceReset s = .next y ∧ (∀ w, y.thread w = Thread.reset) ∧
      (∀ c, y.core c = Core.reset) ∧ (∀ cl, y.cluster cl = Cluster.reset) ∧ (∀ p, y.part p = Partition.reset) ∧
      (∀ f, y.page f = Page.reset) ∧ y.tmacrs = [] ∧ y.buffers = [] ∧ y.saved = [] ∧ y.off = false ∧
      y.mgmt.config = s.mgmt.config ∧ y.mgmt.rollback = s.mgmt.rollback ∧ y.mgmt.meetArrivals = s.mgmt.meetArrivals ∧
      y.mgmt.absorbed = s.mgmt.absorbed ∧ y.mgmt.nacks = s.mgmt.nacks ∧ y.mgmt.exhausted = s.mgmt.exhausted

/-- R10, R154, R223, R224, R226, R257, R277, R294, R322, R330, R384 to R387 and R393: a pre-empted core stops issuing, and
once it is quiet its context goes to its save area in the stated layout; a context is restored only to a free core of its
partition, and refused when its CHECK fails; a live migration moves it, and leaves a forwarding entry for each thread. That a
restore or migration which cannot be made changes nothing is log 50's (DEDUCED); the CHECK and the record that reports it
are log 20's (DESIGN CHOICE); that a core's forwarding entries stay with the core when its context leaves is log 87's
(DEDUCED). -/
def Obligations.CoreContexts : Prop :=
  (∀ (s : State) (c : CoreIx) (p : PartIx),
    let cl := CoreIx.cluster c
    let k := s.core c
    let t (n : Fin 16) : Thread := s.thread (slotOf c n)
    let area := (s.part p).savebase.toNat + (8 * s.vcluster cl + (CoreIx.num c).val) * 0x80000
    let still (n : Fin 16) : Prop := (t n).occ = false ∨ ((t n).outs = [] ∧
      ((t n).wait = .run ∨ (t n).wait = .held ∨ (t n).wait = .skimmer ∨ ∃ e, (t n).wait = .stopped e))
    let quiet : Prop := (∀ n, still n) ∧ k.tile.running = none ∧ k.tile.queue = [] ∧ (∀ g ∈ k.tile.epi, g.held ≠ none) ∧
      k.griddle.state ≠ .running ∧ s.flightsOf cl = []
    let noneOver : Prop := ∀ q, ∀ i ∈ (s.cluster q).inst, s.windowOver i = false ∧ s.instMet q i = false
    let busy : Prop := ((∃ n, (t n).occ = true ∧ (t n).outs ≠ []) ∨ k.tile.running ≠ none ∨ k.griddle.state = .running) ∧
      ∀ n id p d, (t n).wait ≠ .retry (.barWait id p d)
    ((s.cluster cl).part = none → exec (.preempt c) s = .next s) ∧
    ((s.cluster cl).part = some p →
      (∀ x ∈ s.saved, x.part ≠ p ∨ x.vcluster ≠ s.vcluster cl ∨ x.num ≠ CoreIx.num c) →
      (busy → noneOver → ∃ y, exec (.preempt c) s = .next y ∧ (y.core c).stopping = true ∧ y.saved = s.saved ∧ y.mem = s.mem ∧
        ∀ n, (y.thread (slotOf c n)).occ = (t n).occ) ∧
      (quiet → noneOver → (∀ n, (t n).claimed = []) → k.deque.length ≤ 64 → ∃ y x, exec (.preempt c) s = .next y ∧ y.saved = s.saved ++ [x] ∧ x.part = p ∧
        x.vcluster = s.vcluster cl ∧ x.num = CoreIx.num c ∧ x.epoch = (s.cluster cl).epoch ∧ x.core.deque = k.deque ∧ x.core.scratch = k.scratch ∧
        x.core.journal = k.journal ∧ x.core.retry = k.retry ∧ x.core.inbox = k.inbox ∧ x.core.mailbox.toList.map Mailbox.full =
          k.mailbox.toList.map Mailbox.full ∧ x.core.score = k.score ∧ x.core.tile.acc = k.tile.acc ∧
        (∀ n : Fin 16, x.threads[n].occ = (t n).occ ∧ (x.threads[n]).Same (t n) ∧
          y.thread (slotOf c n) = { Thread.reset with reservedBy := (t n).reservedBy }) ∧
        (∀ w, SlotIx.core w ≠ c → y.thread w = s.thread w) ∧ (y.core c).journal = [] ∧ (y.core c).retry = [] ∧
        (y.core c).deque = [] ∧ (y.core c).stopping = false ∧ (y.core c).forward = k.forward ∧ x.core.forward = [] ∧
        (∀ (n : Fin 16) (i : GReg), (t n).occ = true →
          y.mem.word (area + 5120 * n + 8 * i) 8 = ((t n).greg i).toNat ∧
          y.mem.word (area + 5120 * n + 0x1120) 8 = (t n).ip.toNat % 2 ^ 57) ∧
        (∀ n : Fin 16, (t n).occ = false →
          y.mem.word (area + 5120 * n + 0x1120) 8 = 0 ∧ y.mem.word (area + 5120 * n + 0x13F8) 8 = 0) ∧
        (∀ i < 0x40000, y.mem.get (area + 0x14000 + i) = k.scratch.get i) ∧
        (∀ i : Fin 16384, y.mem.word (area + 0x54000 + 8 * i) 4 = (k.tile.acc[i].inner).toNat ∧
          y.mem.word (area + 0x54004 + 8 * i) 4 = (k.tile.acc[i].outer).toNat) ∧
        Config.areaCheck (y.mem.read area 0x7FFF8) = BitVec.ofNat 64 (y.mem.word (area + 0x7FFF8) 8)))) ∧
  (∀ (s : State) (i : Nat) (c : CoreIx) (k : SavedCore),
    let cl := CoreIx.cluster c
    let area := (s.part k.part).savebase.toNat + (8 * k.vcluster + k.num.val) * 0x80000
    let sound : Prop := Config.areaCheck (s.mem.read area 0x7FFF8) = BitVec.ofNat 64 (s.mem.word (area + 0x7FFF8) 8)
    let flights : Prop := ∀ e : Fin 16, ∀ t : Transfer, k.core.score[e] = some t → t.state = .flight → SlotIx.cluster t.w = cl
    let tokens : Prop := ∀ x ∈ k.tokens, ∀ y ∈ (s.cluster (CoreIx.cluster x.core)).skims, y.token ≠ x.token ∨ y.uid ≠ x.uid
    let domain (a : Nat) : Nat := s.mem.word (a + 4) 2
    let movesOnly : Prop := ∀ x ∈ s.saved, ∀ f ∈ x.core.forward, ∀ n : Fin 16, f.uid ≠ (k.threads[n]).uid
    (s.saved[i]? = none → exec (.coreRestore i c) s = .next s) ∧
    (s.saved[i]? = some k →
      ((s.cluster cl).part ≠ some k.part ∨ (∃ n, (s.thread (slotOf c n)).occ = true) ∨ (s.core c).forward ≠ [] ∨ ¬flights ∨ ¬tokens →
        exec (.coreRestore i c) s = .next s) ∧
      ((s.cluster cl).part = some k.part → s.coreFree c = true → flights → tokens →
        (¬sound → ∀ pre a post, NodePath s.mem (pre ++ a :: post) → (pre ++ [a]).head? = some (s.part k.part).node.toNat →
          (∀ b ∈ pre, domain b = 0xFFFF) → domain a ≠ 0xFFFF ∨ post = [] →
          exec (.coreRestore i c) s = .next (s.complete (funcOf k.part) (queueIx (domain a))
            { kind := 4, slot := k.vcluster * 128 + k.num.val * 16 })) ∧
        (sound → movesOnly → ∃ y, exec (.coreRestore i c) s = .next y ∧ y.saved = s.saved.eraseIdx i ∧
          (∀ w, SlotIx.core w ≠ c → y.thread w = s.thread w) ∧
          (∀ n : Fin 16, k.threads[n].occ = true → (y.thread (slotOf c n)).occ = true ∧ (y.thread (slotOf c n)).Same k.threads[n] ∧
            ((y.thread (slotOf c n)).migr = true ↔
              k.threads[n].migr = true ∨ s.vcluster cl ≠ k.vcluster ∨ CoreIx.num c ≠ k.num)) ∧
          (y.core c).scratch = k.core.scratch ∧ (y.core c).deque = k.core.deque ∧ (y.core c).inbox = k.core.inbox ∧
          (y.core c).cycle = (s.core c).cycle ∧ (y.core c).pmc.toList.map Pmc.sel = (s.core c).pmc.toList.map Pmc.sel ∧
          (y.core c).journal.map JEntry.entry = k.core.journal.map JEntry.entry ∧ (y.core c).stopping = false)))) ∧
  ∀ (s : State) (c target : CoreIx) (p : PartIx),
    let near := CoreIx.cluster c
    let far := CoreIx.cluster target
    let k := s.core c
    let t (n : Fin 16) : Thread := s.thread (slotOf c n)
    let quiet : Prop := (∀ n, (t n).occ = false ∨ ((t n).outs = [] ∧ ((t n).wait = .run ∨ (t n).wait = .held))) ∧
      k.tile.running = none ∧ k.tile.queue = [] ∧ (∀ g ∈ k.tile.epi, g.held ≠ none) ∧ k.griddle.state ≠ .running ∧
      s.flightsOf near = [] ∧ (∀ q, ∀ i ∈ (s.cluster q).inst, s.windowOver i = false ∧ s.instMet q i = false) ∧ (∀ n, (t n).claimed = []) ∧
      ∀ x ∈ s.saved, ∀ f ∈ x.core.forward, ∀ n : Fin 16, f.uid ≠ (t n).uid
    ((s.cluster near).part = none ∨ (s.cluster far).part ≠ (s.cluster near).part ∨ c = target ∨
      (∃ n, (s.thread (slotOf target n)).occ = true) ∨ (s.core target).forward ≠ [] →
        exec (.liveMigration c target) s = .next s) ∧
    ((s.cluster near).part = some p → (s.cluster far).part = some p → c ≠ target → s.coreFree target = true →
      quiet → (∀ q, (s.cluster q).skims = []) → ∃ y, exec (.liveMigration c target) s = .next y ∧ y.saved = s.saved ∧
        (∀ w, SlotIx.core w ≠ c → SlotIx.core w ≠ target → y.thread w = s.thread w) ∧
        (∀ n, y.thread (slotOf c n) = { Thread.reset with reservedBy := (t n).reservedBy }) ∧
        (∀ n, (t n).occ = true → (y.thread (slotOf target n)).occ = true ∧ (y.thread (slotOf target n)).Same (t n) ∧
          (y.thread (slotOf target n)).migr = true ∧
          ∃ x ∈ (y.core c).forward, x.old = n ∧ x.new = slotOf target n ∧ x.uid = (t n).uid) ∧
        (y.core target).scratch = k.scratch ∧ (y.core target).deque = k.deque ∧ (y.core target).inbox = k.inbox)

/-- R10, R20, R136, R257, R322, R384, R393, R395 to R398, R400 to R402 and R404: partitions are created, grown, shrunk and
destroyed; a drain clears a cluster once its cores hold nothing; and the band registers take a write as a whole or not at
all. That only the highest vcluster drains, that a drain does as much as can be done, and that a shrink names how many
clusters are left is log 41's (DEDUCED); that the buffered updates of a destroyed partition are dropped is log 68's (DESIGN
CHOICE); what a configuration image allows is log 21's. -/
def Obligations.Partitions : Prop :=
  (∀ (s : State) (p : PartIx) (node : W64) (set : BitVec 128),
    let a := node.toNat
    let old := s.clustersOf p
    let count := (allClusters.filter fun cl => set.getLsbD cl.val).length
    let free : Prop := ∀ cl : ClusterIx, set.getLsbD cl.val = true → (s.cluster cl).part = none
    let holds (y : State) (cl : ClusterIx) : Prop :=
      (y.cluster cl).part = some p ∧ (∀ i, (y.cluster cl).mem.get i = 0) ∧ (∀ i, (y.cluster cl).isFull i = false) ∧
      (y.cluster cl).pool = 0 ∧ (∀ id : Fin 64, (y.cluster cl).barrier[id] = Barrier.reset) ∧
      ∀ c ∈ coresOf cl, (y.core c).tile = { Tile.reset with tokens := (s.core c).tile.tokens }
    let reads (y : State) (a : Nat) (m : Memory) : Prop :=
      let x := y.part p
      x.node.toNat = a ∧ x.partid.toNat = m.word (a + 2) 2 ∧ x.xen = (m.word (a + 0x18) 8).testBit 0 ∧
      x.gstage = (m.word (a + 0x18) 8).testBit 2 ∧ x.logarm = (m.word (a + 0x18) 8).testBit 3 ∧ x.groot.toNat = m.word (a + 0x20) 8 ∧
      x.hroot.toNat = m.word (a + 0x28) 8 ∧ x.savebase.toNat = m.word (a + 0x40) 8 ∧ x.lztab.toNat = m.word (a + 0x48) 8 ∧
      x.tring.toNat = m.word (a + 0x50) 8 ∧ x.ways.toNat = m.word (a + 0x58) 2
    let settled (y : State) (a : Nat) (cls : ClusterIx → Prop) : Prop :=
      (∀ cl, (y.cluster cl).part = some p ↔ cls cl) ∧
      (∀ i < 128, (y.mem.word (a + 0x30) 16).testBit i = true ↔ ∃ cl : ClusterIx, cl.val = i ∧ cls cl) ∧
      (∀ cl, cls cl → ∀ v, (y.cluster cl).perm.getLsbD v = true ↔ v < (y.clustersOf p).length) ∧
      (∀ x, (x < a + 0x30 ∨ a + 0x40 ≤ x) → y.mem.get x = s.mem.get x) ∧
      (let n := (allClusters.filter fun cl => (y.cluster cl).part.isNone).length
       let live := (allParts.filter fun q => (y.part q).live).length
       ∀ e ∈ y.caps, (e.kind = 1 → e.free = n) ∧ (e.kind = 7 → e.free = 64 - live) ∧ (e.kind = 8 → e.free = 4096 - live) ∧
        (e.kind = 9 → e.free = 16 * n))
    ((s.part p).live = true ∨ set = 0 ∨ ¬free ∨ ¬NodeForm s.mem a ∨ s.mem.word a 1 ≠ 1 ∨
        s.mgmt.allows s.mem a count = false →
      exec (.partitionCreate p node set) s = .next s) ∧
    ((s.part p).live = false → set ≠ 0 → free → NodeForm s.mem a → s.mem.word a 1 = 1 → s.mgmt.allows s.mem a count = true → old = [] → ∃ y,
      exec (.partitionCreate p node set) s = .next y ∧ (y.part p).live = true ∧ reads y a s.mem ∧ y.threads = s.threads ∧
        (∀ cl : ClusterIx, set.getLsbD cl.val = true → holds y cl) ∧
        settled y a fun cl => set.getLsbD cl.val = true) ∧
    (let above : Prop := ∀ cl : ClusterIx, set.getLsbD cl.val = true → ∀ d ∈ old, d.val < cl.val
     let b := (s.part p).node.toNat
     let allowed : Prop := s.mgmt.allows s.mem b (old.length + count) = true
     ((s.part p).live = false ∨ ¬free ∨ ¬above ∨ ¬allowed → exec (.partitionGrow p set) s = .next s) ∧
     ((s.part p).live = true → free → above → allowed → ∃ y, exec (.partitionGrow p set) s = .next y ∧ y.threads = s.threads ∧
      reads y b s.mem ∧ (∀ cl : ClusterIx, set.getLsbD cl.val = true → holds y cl) ∧
      (∀ cl ∈ old, (y.cluster cl).mem = (s.cluster cl).mem ∧ y.vcluster cl = s.vcluster cl) ∧
      settled y b fun cl => cl ∈ old ∨ set.getLsbD cl.val = true))) ∧
  (∀ (s : State) (p : PartIx) (cl : ClusterIx) (n : Nat),
    let cls := s.clustersOf p
    let noneOver : Prop := ∀ q, ∀ i ∈ (s.cluster q).inst, s.windowOver i = false ∧ s.instMet q i = false
    let idle : Prop := (∀ c ∈ coresOf cl, s.holdsContext c = false ∧ (s.core c).griddle.state ≠ .running) ∧
      s.flightsOf cl = [] ∧ (s.cluster cl).skims = [] ∧ noneOver
    let cleared (y : State) : Prop :=
      (y.cluster cl).part = none ∧ (∀ i, (y.cluster cl).mem.get i = 0) ∧ (∀ i, (y.cluster cl).isFull i = false) ∧
      (y.cluster cl).pool = 0 ∧ (y.cluster cl).perm = 0 ∧ (y.cluster cl).tlb = [] ∧ (y.cluster cl).draining = false ∧
      (∀ c ∈ coresOf cl, (y.core c).l1 = [] ∧ (y.core c).icache = [] ∧ (y.core c).tlb = [] ∧ (∀ i, (y.core c).scratch.get i = 0) ∧
        (y.core c).tile = { Tile.reset with tokens := (s.core c).tile.tokens }) ∧
      (∀ d, d ≠ cl → ((y.cluster d).part = (s.cluster d).part ∧ (y.cluster d).mem = (s.cluster d).mem)) ∧
      (∀ d ∈ cls, d ≠ cl → y.vcluster d = s.vcluster d ∧ ∀ v, (y.cluster d).perm.getLsbD v = true ↔ v + 1 < cls.length)
    ((s.cluster cl).part = none → exec (.clusterDrain cl) s = .next s) ∧
    ((s.cluster cl).part = some p → cls.getLast? ≠ some cl → exec (.clusterDrain cl) s = .next s) ∧
    ((s.cluster cl).part = some p → cls.getLast? = some cl →
      (idle → ∃ y, exec (.clusterDrain cl) s = .next y ∧ cleared y) ∧
      (∀ c ∈ coresOf cl, ∀ w ∈ slotsOf c, (s.thread w).occ = true → (s.thread w).outs ≠ [] → noneOver →
        (∀ x ∈ s.saved, x.part ≠ p ∨ x.vcluster ≠ s.vcluster cl) → ∃ y,
        exec (.clusterDrain cl) s = .next y ∧ (y.cluster cl).draining = true ∧ (y.cluster cl).part = some p ∧
        (y.core c).stopping = true ∧ y.candidates c = []) ∧
      (n < cls.length → exec (.partitionShrink p n) s = exec (.clusterDrain cl) s) ∧
      (∀ x : State, exec (.clusterDrain cl) s = .next x → x.clustersOf p ≠ [] → exec (.partitionDestroy p) s = .next x)) ∧
    (cls.length ≤ n → exec (.partitionShrink p n) s = .next s) ∧
    (cls = [] → ∃ y, exec (.partitionDestroy p) s = .next y ∧ y.part p = Partition.reset ∧
      (∀ d, (y.cluster d).part = (s.cluster d).part ∧ (y.cluster d).mem = (s.cluster d).mem ∧
        (y.cluster d).teams = (s.cluster d).teams.filter fun z => z.part != p) ∧
      y.buffers = (s.buffers.filter fun z => z.part != p) ∧ y.threads = s.threads ∧ y.mem = s.mem ∧ ∀ q, q ≠ p → y.part q = s.part q)) ∧
  ∀ (s : State) (r : BandReg) (x : W64),
    let field (hi lo : Nat) : Nat := x.toNat / 2 ^ lo % 2 ^ (hi + 1 - lo)
    let floor := field 12 0
    let ceil := field 28 16
    let f := bandFunc r
    let holder (r : BandReg) : Prop := ∃ p, s.funcPart (bandFunc r) = some p ∧ match r with
      | .mem _ => True
      | .link _ n => s.holdsPort p n = true
    let others (x : Nat) : Prop := ∀ hs : List FuncIx, hs.Nodup → (∀ g, g ∈ hs ↔ g ≠ f ∧ holder (bandAt r g)) →
      x = (hs.map fun g => (s.band (bandAt r g)).floor.toNat).sum
    let fits : Prop := holder r ∧ s.mgmt.allowsBand r floor ceil = true ∧ (∀ x, others x → floor + x ≤ 4096) ∧ floor ≤ ceil ∧ 1 ≤ ceil ∧ ceil ≤ 4096
    (¬fits → exec (.qosWrite r x) s = .next (s.modPage f fun y => { y with status := 2 })) ∧
    (fits → ∃ y, exec (.qosWrite r x) s = .next y ∧ (y.band r).floor.toNat = floor ∧ (y.band r).ceil.toNat = ceil ∧
      (y.band r).weight.toNat = (if field 39 32 = 0 then (s.band r).weight.toNat else field 39 32) ∧
      (y.page f).status = 0 ∧ (∀ q, q ≠ r → y.band q = s.band q) ∧ y.threads = s.threads ∧ y.mem = s.mem) ∧
    ∃ y, exec (.bandWindow r) s = .next y ∧ (y.band r).used = 0 ∧ (y.band r).floor = (s.band r).floor ∧
      (y.band r).ceil = (s.band r).ceil ∧ (y.band r).weight = (s.band r).weight ∧ (∀ q, q ≠ r → y.band q = s.band q) ∧
      y.threads = s.threads ∧ y.mem = s.mem

/-- R29, R336, R393, R399, R401, R403, R404, R410 to R413, R415 to R418, R421 and R423: the ladle takes the token ring's entries and
writes its records; the registers of a page and of the counter window take a write under their field rules; host writes
land at the slices; the links answer, replay and fail; landing writes land; and clocks, boot and attestation. The form of
a flit's answer is log 19's; the ladle's room, the shape of its ring and the configuration image's stage log 21's; a write
of LSIZE or LOGSIZE outside its form log 74's; the range of host addresses that names device memory is log 7's (PRESUMED); when the
straggler count advances is log 42's, that a landing write which cannot be translated is refused log 43's, the bounds of a
clock row log 44's, and that a page write of a band register is ignored log 46's (all DEDUCED). -/
def Obligations.Surroundings : Prop :=
  (∀ (s : State) (p : PartIx) (cl : ClusterIx) (off : Nat) (r : Ring),
    let x := s.part p
    let f := funcOf p
    let l := (s.page f).ladle
    let entry := bytesWord ((s.cluster cl).mem.read (r.base + 8 * r.head) 8)
    let takes (g : Ladle → Ladle) : Prop := ∃ y, exec (.ladleTake p) s = .next y ∧
      y.pages = (s.modPage f fun q => { q with ladle := g q.ladle }).pages ∧ y.mem = s.mem ∧ y.hostMem = s.hostMem ∧
      y.threads = s.threads ∧ (y.cluster cl).pool = (s.cluster cl).pool ∧
      (y.cluster cl).mem.word (off + 16) 8 = (r.count - 1) * 2 ^ 32 + (r.head + 1) % r.cap ∧
      ∀ i, (i < off + 16 ∨ off + 32 ≤ i) → (y.cluster cl).mem.get i = (s.cluster cl).mem.get i
    let zero : Prop := entry.toNat / 2 ^ 48 % 2 ^ 15 = 0 ∧ (entry.getLsbD 63 = true → entry.toNat / 2 ^ 32 % 2 ^ 16 = 0)
    let n := l.tokens.length
    let size := (16 + 8 * n + 63) / 64 * 64
    (x.live = false ∨ x.tring.getLsbD 63 = false ∨ s.physical p (x.tring.toNat / 2 ^ 56 % 2 ^ 7) = none →
      exec (.ladleTake p) s = .next s) ∧
    (x.live = true → x.tring.getLsbD 63 = true → s.physical p (x.tring.toNat / 2 ^ 56 % 2 ^ 7) = some cl → x.tring.toNat % 2 ^ 22 = off →
      (ringAt (s.cluster cl).mem off = none → exec (.ladleTake p) s = .next s) ∧
      (ringAt (s.cluster cl).mem off = some r →
        (r.count = 0 ∨ l.lsize = 0 → exec (.ladleTake p) s = .next s) ∧
        (r.count ≠ 0 → r.lent = 0 → r.cap ≠ 0 → n < 4096 →
          (16 + 8 * (n + 1) + 63) / 64 * 64 ≤ (l.lhead.toNat + l.lsize.toNat - l.ltail.toNat - 1) % l.lsize.toNat → l.lsize ≠ 0 →
          (¬zero → takes fun l => { l with ldrop := l.ldrop + 1 }) ∧
          (zero → entry.getLsbD 63 = false → takes fun l => { l with tokens := l.tokens ++ [entry] }) ∧
          (zero → entry.getLsbD 63 = true → l.ltail.toNat + size ≤ l.lsize.toNat → ∃ bs : List Byte, bs.length = size ∧
            bytesNat (bs.take 8) = entry.toNat % 2 ^ 32 + n * 2 ^ 32 ∧ bytesNat ((bs.drop 8).take 8) = (l.lseq + 1).toNat ∧
            (∀ i, ∀ t : W64, l.tokens[i]? = some t → bytesNat ((bs.drop (16 + 8 * i)).take 8) = t.toNat) ∧
            (∀ b ∈ bs.drop (16 + 8 * n), b = 0) ∧ ∃ y, exec (.ladleTake p) s = .next y ∧ y.threads = s.threads ∧
              y.hostMem = (s.busWrite f (l.lbase.toNat + l.ltail.toNat) bs).hostMem ∧
              y.mem = (s.busWrite f (l.lbase.toNat + l.ltail.toNat) bs).mem ∧
              let z := (y.page f).ladle
              z.tokens = [] ∧ z.lseq = l.lseq + 1 ∧ z.ltail = BitVec.ofNat 64 ((l.ltail.toNat + size) % l.lsize.toNat) ∧
              z.ldrop = l.ldrop ∧
              (if l.lcount ≠ 0 ∧ l.lcount.toNat ≤ l.unsignalled + 1 then z.interrupts = l.interrupts + 1 ∧ z.unsignalled = 0
                else z.interrupts = l.interrupts ∧ z.unsignalled = l.unsignalled + 1))))) ∧
    (∃ y, exec (.ladleTimer p) s = .next y ∧
      (if l.ltimer ≠ 0 ∧ l.unsignalled ≠ 0 ∧ l.oldest + l.ltimer.toNat ≤ s.wall then
        y = s.modPage f fun q => { q with ladle := { q.ladle with unsignalled := 0, interrupts := q.ladle.interrupts + 1 } }
       else y = s))) ∧
  (∀ (s : State) (f : FuncIx) (p : PartIx) (q n : Fin 16) (x : W64) (h : W32) (one : Bool) (bs : List Byte),
    let page (f : FuncIx) (off : Nat) (g : Page → Page) : Prop :=
      exec (.registerWrite (.page f off) x) s = .next (s.modPage f fun y => { g y with status := 0 })
    let ignored (off : Nat) : Prop := exec (.registerWrite (.page f off) x) s = .next (s.modPage f fun y => { y with status := 2 })
    let pair (off : Nat) (g : QueuePair → QueuePair) : Prop := page f (0x40 * q + off) fun y => y.modPair q g
    let ladle (off : Nat) (g : Ladle → Ladle) : Prop := page f off fun y => { y with ladle := g y.ladle }
    let log (off : Nat) (g : LogRegs → LogRegs) : Prop := page f off fun y => { y with log := g y.log }
    let size (lo hi k : Nat) : Prop := ∃ i, lo ≤ i ∧ i ≤ hi ∧ x.toNat % 2 ^ k = 2 ^ i
    let own := (s.page (funcOf p)).log
    let written (g : Page → Page) : Out := .next (s.modPage (funcOf p) fun y => { g y with status := 0 })
    let mayLog : Prop := ∃ p, (s.part p).live = true ∧ p.val = f.val ∧ (s.part p).logarm = true
    pair 0x00 (fun y => { y with cqbase := x }) ∧ pair 0x10 (fun y => { y with cqtail := x.setWidth 16 }) ∧
    pair 0x20 (fun y => { y with cpbase := x }) ∧
    (size 6 16 17 → pair 0x08 (fun y => { y with cqsize := x.setWidth 17 }) ∧ pair 0x28 fun y => { y with cpsize := x.setWidth 17 }) ∧
    (¬size 6 16 17 → ignored (0x40 * q + 0x08) ∧ ignored (0x40 * q + 0x28)) ∧ ignored (0x40 * q + 0x18) ∧ ignored (0x40 * q + 0x38) ∧
    (((s.page f).pair q).backlog = [] → pair 0x30 fun y => { y with cphead := x.setWidth 16 }) ∧
    page f (0x400 + 8 * q) (fun y => y.modPair q fun y => { y with hsb := x }) ∧
    ignored 0x500 ∧ ignored (0x508 + 8 * n) ∧
    ladle 0x800 (fun l => { l with lbase := x }) ∧
    (if x.toNat % 4096 = 0 then ladle 0x808 (fun l => { l with lsize := x }) else ignored 0x808) ∧
    ladle 0x810 (fun l => { l with lhead := x }) ∧ ignored 0x818 ∧
    (x.toNat % 2 ^ 16 = 0 ∨ (s.page f).ladle.unsignalled < x.toNat % 2 ^ 16 → ladle 0x820 fun l => { l with lcount := x.setWidth 16 }) ∧
    (x.toNat % 2 ^ 16 ≠ 0 → x.toNat % 2 ^ 16 ≤ (s.page f).ladle.unsignalled → ladle 0x820 fun l => { l with
      lcount := x.setWidth 16
      unsignalled := 0
      interrupts := l.interrupts + 1 }) ∧
    ladle 0x828 (fun l => { l with ltimer := x.setWidth 32 }) ∧ ladle 0x830 (fun l => { l with ldrop := l.ldrop &&& ~~~x.setWidth 32 }) ∧
    log 0x900 (fun l => { l with base := x }) ∧ (size 9 31 32 → log 0x908 fun l => { l with size := x.setWidth 32 }) ∧
    (¬size 9 31 32 → ignored 0x908) ∧ log 0x910 (fun l => { l with head := x.setWidth 32 }) ∧ ignored 0x918 ∧ ignored 0x480 ∧
    ignored 0x488 ∧
    (mayLog → log 0x920 fun l => { l with lost := l.lost && !x.getLsbD 2, final := x.getLsbD 1, arm := x.getLsbD 0 }) ∧
    (¬mayLog → log 0x920 fun l => { l with
      lost := l.lost && !x.getLsbD 2
      final := x.getLsbD 1
      arm := if x.getLsbD 0 then l.arm else false }) ∧
    exec (.lheadWrite p x) s = written (fun y => { y with ladle := { y.ladle with lhead := x } }) ∧
    exec (.logheadWrite p h) s = written (fun y => { y with log := { y.log with head := h } }) ∧
    exec (.logFinal p one) s = written (fun y => { y with log := { y.log with final := one } }) ∧
    exec (.loglostClear p one) s = written (fun y => { y with log := { y.log with lost := if one then false else own.lost } }) ∧
    (one = false ∨ (s.part p).logarm = true →
      exec (.logArm p one) s = written fun y => { y with log := { y.log with arm := one } }) ∧
    (one = true → (s.part p).logarm = false → exec (.logArm p one) s = .next (s.modPage (funcOf p) fun y => { y with status := 2 })) ∧
    (∀ cl : ClusterIx, ∃ y z, exec (.registerWrite (.window (0x100 * cl + 0x10 * n)) x) s = .next y ∧
      exec (.registerWrite (.window (0x100 * cl + 0x10 * n + 8)) x) s = .next z ∧
      (((y.cluster cl).pmc[n]).sel.getLsbD 16 = x.getLsbD 16) ∧
      ((y.cluster cl).pmc[n]).sel.toNat % 2 ^ 12 = (if x.toNat % 2 ^ 12 < 14 then x.toNat % 2 ^ 12
        else ((s.cluster cl).pmc[n]).sel.toNat % 2 ^ 12) ∧
      ((z.cluster cl).pmc[n]).count = x.setWidth 48 ∧ ((z.cluster cl).pmc[n]).sel = ((s.cluster cl).pmc[n]).sel ∧
      y.threads = s.threads ∧ z.threads = s.threads ∧ y.mem = s.mem ∧ z.mem = s.mem) ∧
    s.readPage f (0x40 * q + 0x18) = BitVec.ofNat 64 (((s.page f).pair q).lastcmd.toNat * 2 ^ 32 + ((s.page f).pair q).cqhead.toNat) ∧
    s.readPage f (0x40 * q + 0x38) = BitVec.ofNat 64 (((s.page f).pair q).lastcpl.toNat * 2 ^ 32 + ((s.page f).pair q).cptail.toNat) ∧
    (∀ cl : ClusterIx, s.readWindow (0x100 * cl + 0x10 * n) = ((s.cluster cl).pmc[n]).sel.setWidth 64 ∧
      s.readWindow (0x100 * cl + 0x10 * n + 8) = ((s.cluster cl).pmc[n]).count.setWidth 64) ∧
    (let read (off n : Nat) : Nat := bytesNat ((List.range n).map fun i => s.hostRead 64 (s.capbase.toNat + off + i))
     (∀ i, ∀ c : CapEntry, s.caps[i]? = some c → read (32 * i) 2 = c.kind % 2 ^ 16 ∧ read (32 * i + 2) 2 = c.flags % 2 ^ 16 ∧
      read (32 * i + 4) 4 = c.unit % 2 ^ 32 ∧ read (32 * i + 8) 8 = c.total % 2 ^ 64 ∧ read (32 * i + 16) 8 = c.free % 2 ^ 64 ∧
      read (32 * i + 24) 4 = c.grain % 2 ^ 32 ∧ read (32 * i + 28) 4 = 0) ∧ read (32 * s.caps.length) 2 = 0 ∧
     ∀ a, (f ≠ 64 ∨ a < s.capbase.toNat ∨ s.capbase.toNat + 32 * (s.caps.length + 1) ≤ a) →
      s.hostRead f a = (s.busRead f a 1).headD 0) ∧
    s.readPage f 0x480 = BitVec.ofNat 64 (s.page f).status.toNat ∧ (∀ off, 0x930 ≤ off → s.readPage f off = 0) ∧
    (let from_ := (s.page f).hdmBase
     let device : Prop := from_ ≤ x.toNat ∧ x.toNat < from_ + (s.page f).hdmSize
     exec (.hostMemWrite f x bs) s = .next (if device then { s with mem := s.mem.write (x.toNat - from_) bs }
      else { s with hostMem := s.hostMem.write x.toNat bs }))) ∧
  (∀ (s : State) (n : Fin 16) (flit : Flit),
    let x := s.ports[n]
    let port (g : Port → Port) : State := { s with ports := s.ports.set n (g s.ports[n]) }
    let replays (i : Instr) : Prop := exec i s = .next (if x.replays + 1 < 64 then port fun y => { y with replays := y.replays + 1 }
      else { port fun y => { y with replays := y.replays + 1, up := false } with
        mgmt := { s.mgmt with linksDown := s.mgmt.linksDown ++ [n] } })
    (x.up = false → exec (.carranFlit n flit) s = .next s ∧ exec (.carranReplay n) s = .next s) ∧
    (x.up = true → (x.unacked = [] → exec (.carranReplay n) s = .next s) ∧ (x.unacked ≠ [] → replays (.carranReplay n)) ∧
      (flit.crcOk = false → replays (.carranFlit n flit)) ∧
      (flit.crcOk = true → 2 ≤ flit.payload.length → flit.seq ≠ x.expect → exec (.carranFlit n flit) s = .next s) ∧
      (flit.crcOk = true → 2 ≤ flit.payload.length → flit.seq = x.expect → exec (.carranFlit n flit) s = .next (port fun y =>
        { y with replays := 0, expect := y.expect + 1, received := y.received ++ flit.payload })) ∧
      (flit.crcOk = true → flit.payload.length < 2 → exec (.carranFlit n flit) s = .next (port fun y => { y with
        replays := 0
        unacked := y.unacked.filter fun g => g.seq ≠ flit.seq
        refused := if flit.payload.length = 1 ∧ ∃ g ∈ y.unacked, g.seq = flit.seq then y.refused ++ [flit.seq] else y.refused })))) ∧
  (∀ (s t : State) (p : PartIx) (zone : Fin 16) (peer : BitVec 16) (offset : Nat) (bs : List Byte),
    let e := (s.part p).lztab.toNat + 32 * zone
    let base := s.mem.word e 8
    let size := s.mem.word (e + 8) 8
    let old := s.mem.word (e + 24) 8
    let i : Instr := .landingZoneWrite p zone peer offset bs
    let aperture (r : Walked) (va : Nat) : Prop := (r.entry.pa + (va - r.entry.base)) / 2 ^ 48 % 16 = 15
    ((s.part p).lztab = 0 ∨ s.mem.word (e + 16) 2 ≠ peer.toNat ∨ size < offset + bs.length → exec i s = .next s) ∧
    ((s.part p).lztab ≠ 0 → s.mem.word (e + 16) 2 = peer.toNat → offset + bs.length ≤ size →
      s.landBytes p (base + offset) bs = .done t → ∃ y, exec i s = .next y ∧ y.threads = t.threads ∧ y.clusters = t.clusters ∧
        y.mem.word (e + 24) 8 = (old + bs.length) % 2 ^ 64 ∧
        (∀ a, (a < e + 24 ∨ e + 32 ≤ a) → y.mem.get a = t.mem.get a) ∧
        (y.part p).straggler = (t.part p).straggler + if size ≠ 0 ∧ ∃ k ∈ t.saved, k.part = p then
          (old + bs.length) / size - old / size else 0) ∧
    ((s.part p).lztab ≠ 0 → s.mem.word (e + 16) 2 = peer.toNat → offset + bs.length ≤ size →
      s.landBytes p (base + offset) bs = .refused → exec i s = .next s) ∧
    ∀ (va : Nat) (b : Byte),
      (∀ x, walk s.mem (s.part p) va needW = .error x → s.landBytes p va [b] = .refused) ∧
      (∀ r, walk s.mem (s.part p) va needW = .ok r → aperture r va → s.landBytes p va [b] = .refused) ∧
      (∀ r, walk s.mem (s.part p) va needW = .ok r → ¬aperture r va → s.logArmed p = true → r.host.lg = false → (s.page (funcOf p)).log.full = true →
        s.landBytes p va [b] = .logFull) ∧
      ∀ r, walk s.mem (s.part p) va needW = .ok r → ¬aperture r va → s.logArmed p = false →
        s.landBytes p va [b] = .done { s with mem := s.mem.set (r.entry.pa + (va - r.entry.base)) b }) ∧
  ∀ (s : State) (c : CoreIx) (mhz stage : Nat) (image signature nonce : List Byte),
    let clock : State := s.modCore c fun k => { k with mhz := mhz }
    let stored : Nat := match s.mgmt.stageRollback.find? fun v => v.1 == stage with
      | some v => v.2
      | none => 0
    let measured := s.mgmt.digests.flatten ++ Config.digest s.mgmt.config ++ nonce
    (1 ≤ mhz → mhz ≤ 2800 → exec (.clockBoost c mhz) s = .next clock) ∧ (2800 < mhz → exec (.clockBoost c mhz) s = .next s) ∧
    (1 ≤ mhz → mhz < (s.core c).mhz → exec (.thermalThrottle c mhz) s = .next clock) ∧
    ((s.core c).mhz ≤ mhz → exec (.thermalThrottle c mhz) s = .next s) ∧
    (∃ y, exec .thermalShutdown s = .next y ∧ y.off = true ∧ y.mgmt.shutdowns = s.mgmt.shutdowns + 1 ∧ y.threads = s.threads ∧
      y.mem = s.mem) ∧
    (stage = 0xFFFF → Config.signatureOk image signature = true → s.mgmt.rollback ≤ Config.imageVersion image →
      exec (.bootVerify stage image signature) s =
        .next { s with mgmt := { s.mgmt with config := image, rollback := Config.imageVersion image } }) ∧
    (stage = 0xFFFF → (Config.signatureOk image signature = false ∨ Config.imageVersion image < s.mgmt.rollback) →
      exec (.bootVerify stage image signature) s = .next { s with mgmt := { s.mgmt with recovery := true } }) ∧
    (stage = s.mgmt.stage → stage ≠ 0xFFFF → Config.signatureOk image signature = true → stored ≤ Config.imageVersion image →
      exec (.bootVerify stage image signature) s = .next { s with mgmt := { s.mgmt with
        stage := stage + 1
        digests := s.mgmt.digests ++ [Config.digest image]
        stageRollback := (s.mgmt.stageRollback.filter fun v => v.1 ≠ stage) ++ [(stage, Config.imageVersion image)] } }) ∧
    (stage = s.mgmt.stage → stage ≠ 0xFFFF → (Config.signatureOk image signature = false ∨ Config.imageVersion image < stored) → exec (.bootVerify stage image signature) s =
      .next { s with mgmt := { s.mgmt with recovery := true } }) ∧
    exec (.attestationReport nonce) s = .next { s with mgmt := { s.mgmt with
      reports := s.mgmt.reports ++ [measured ++ Config.sign measured] } }
end

