-- ==== Sys2Proof/Laws/Memory.lean ====
section
/-! SUPPORT. A Memory: reading after writing, and the canonical form that every operation keeps. -/

namespace Sys2Proof.Machine

/-- A bound on every entry may be lowered. -/
theorem Memory.above_mono {lo lo' : Nat} (h : lo' ≤ lo) : ∀ {m : Memory}, Memory.above lo m = true → Memory.above lo' m = true
  | [], _ => rfl
  | (k, b) :: rest, hm => by
    simp only [Memory.above, Bool.and_eq_true, decide_eq_true_eq] at hm ⊢
    exact ⟨⟨by omega, hm.1.2⟩, hm.2⟩

/-- Below the bound of a memory every byte reads 0. -/
theorem Memory.get_below {lo a : Nat} (h : a < lo) : ∀ {m : Memory}, Memory.above lo m = true → m.get a = 0
  | [], _ => rfl
  | (k, b) :: rest, hm => by
    simp only [Memory.above, Bool.and_eq_true, decide_eq_true_eq] at hm
    simp only [Memory.get]
    rw [if_neg (by simp; omega), if_pos (by omega)]

/-- A write keeps every entry above a bound that the address meets. -/
theorem Memory.above_set {lo a : Nat} (x : Byte) (h : lo ≤ a) :
    ∀ {m : Memory}, Memory.above lo m = true → Memory.above lo (m.set a x) = true
  | [], _ => by
    unfold Memory.set
    split
    · rfl
    · simp_all [Memory.above]
  | (k, b) :: rest, hm => by
    have hm' := hm
    simp only [Memory.above, Bool.and_eq_true, decide_eq_true_eq] at hm'
    obtain ⟨⟨h1, h2⟩, h3⟩ := hm'
    unfold Memory.set
    split
    · next hk => simp only [Memory.above, h1, h2, decide_true, Bool.and_self, Bool.true_and]; exact Memory.above_set x hk h3
    · split
      · next hk =>
        have hk : k = a := by simpa using hk
        subst hk
        split
        · exact Memory.above_mono (by omega) h3
        · simp_all [Memory.above]
      · next hk hne =>
        have hne : k ≠ a := by simpa using hne
        split
        · exact hm
        · simp_all [Memory.above]
          omega

/-- Reading a byte after writing one. -/
theorem Memory.get_set {a b : Nat} (x : Byte) :
    ∀ {lo : Nat} {m : Memory}, Memory.above lo m = true → (m.set a x).get b = if b = a then x else m.get b
  | _, [], _ => by
    unfold Memory.set
    split
    · next hx =>
      have hx : x = 0 := by simpa using hx
      subst hx; simp [Memory.get]
    · simp only [Memory.get]
      by_cases hb : b = a
      · subst hb; simp
      · rw [if_neg (by simp; omega), if_neg hb]; simp
  | lo, (k, c) :: rest, hm => by
    have hm' := hm
    simp only [Memory.above, Bool.and_eq_true, decide_eq_true_eq] at hm'
    obtain ⟨⟨h1, h2⟩, h3⟩ := hm'
    unfold Memory.set
    split
    · next hk =>
      simp only [Memory.get]
      by_cases hb : k = b
      · subst hb; simp; omega
      · rw [if_neg (by simpa using hb)]
        by_cases hlt : k > b
        · rw [if_pos hlt, if_neg (by omega)]; simp [hb, hlt]
        · rw [if_neg hlt, Memory.get_set x h3]; simp [hb, hlt]
    · split
      · next hk hka =>
        have hka : k = a := by simpa using hka
        subst hka
        split
        · next hx =>
          have hx : x = 0 := by simpa using hx
          subst hx
          by_cases hb : b = k
          · subst hb; simp [Memory.get_below (Nat.lt_succ_self b) h3]
          · rw [if_neg hb]
            simp only [Memory.get]
            rw [if_neg (by simp; omega)]
            by_cases hlt : k > b
            · rw [if_pos hlt, Memory.get_below (lo := k + 1) (by omega) h3]
            · rw [if_neg hlt]
        · simp only [Memory.get]
          by_cases hb : b = k
          · subst hb; simp
          · simp [hb, show k ≠ b from Ne.symm hb]
      · next hk hka =>
        have hka : k ≠ a := by simpa using hka
        split
        · next hx =>
          have hx : x = 0 := by simpa using hx
          subst hx
          by_cases hb : b = a
          · subst hb
            simp only [Memory.get]
            rw [if_neg (by simpa using hka), if_pos (by omega)]; simp
          · rw [if_neg hb]
        · simp only [Memory.get]
          by_cases hb : b = a
          · subst hb; simp
          · rw [if_neg (by simp; omega), if_neg hb]
            by_cases hlt : a > b
            · rw [if_pos hlt, if_neg (by simp; omega), if_pos (by omega)]
            · rw [if_neg hlt]

/-- The canonical form is kept by a write of one byte. -/
theorem Memory.wf_set {m : Memory} (a : Nat) (x : Byte) (h : m.wf = true) : (m.set a x).wf = true :=
  Memory.above_set x (Nat.zero_le a) h

/-- The canonical form is kept by a write of several bytes. -/
theorem Memory.wf_write {m : Memory} (a : Nat) (bs : List Byte) (h : m.wf = true) : (m.write a bs).wf = true := by
  induction bs generalizing m a with
  | nil => exact h
  | cons b bs ih => exact ih (a + 1) (Memory.wf_set a b h)

theorem Memory.above_filter (p : Host.Cell → Bool) : ∀ {lo : Nat} {m : Memory}, Memory.above lo m = true →
    Memory.above lo (m.filter p) = true
  | _, [], _ => rfl
  | lo, (k, b) :: rest, hm => by
    simp only [Memory.above, Bool.and_eq_true, decide_eq_true_eq] at hm
    obtain ⟨⟨h1, h2⟩, h3⟩ := hm
    have ih := Memory.above_filter p h3
    cases hp : p (k, b) with
    | true => simp only [List.filter_cons, hp, if_true, Memory.above, h1, h2, decide_true, Bool.and_self, Bool.true_and]; exact ih
    | false => simp only [List.filter_cons, hp]; exact Memory.above_mono (by omega) ih

/-- The canonical form is kept when a range is cleared. -/
theorem Memory.wf_clear {m : Memory} (a n : Nat) (h : m.wf = true) : (m.clear a n).wf = true := Memory.above_filter _ h

/-- The canonical form is kept by a write of entries. -/
theorem Memory.wf_fill8 {m : Memory} (a v n : Nat) (h : m.wf = true) : (m.fill8 a v n).wf = true := by
  induction n generalizing m a with
  | zero => exact h
  | succ n ih => exact ih (a + 8) (Memory.wf_write a _ h)

/-- Nothing listed is the canonical form of an empty memory. -/
theorem Memory.wf_nil : Memory.wf [] = true := rfl

/-- A byte read after several were written: one of them, or the byte that was there. -/
theorem Memory.get_write {m : Memory} (a b : Nat) (bs : List Byte) (h : m.wf = true) :
    (m.write a bs).get b = if a ≤ b ∧ b < a + bs.length then bs.getD (b - a) 0 else m.get b := by
  induction bs generalizing m a with
  | nil => rw [if_neg (by simp)]; rfl
  | cons x bs ih =>
    simp only [Memory.write, ih (a + 1) (Memory.wf_set a x h), List.length_cons]
    rw [Memory.get_set x h]
    by_cases h1 : a = b
    · subst h1
      rw [if_neg (by omega), if_pos rfl, if_pos (by omega)]; simp
    · by_cases h2 : a + 1 ≤ b ∧ b < a + 1 + bs.length
      · rw [if_pos h2, if_pos (by omega)]
        have : b - a = (b - (a + 1)) + 1 := by omega
        rw [this]; simp
      · rw [if_neg h2, if_neg (by omega), if_neg (by omega)]

/-- A byte outside a write reads as before. -/
theorem Memory.get_write_outside {m : Memory} {a b : Nat} {bs : List Byte} (h : m.wf = true) (hb : b < a ∨ a + bs.length ≤ b) :
    (m.write a bs).get b = m.get b := by
  rw [Memory.get_write a b bs h, if_neg (by omega)]

theorem natBytes_length (n x : Nat) : (natBytes n x).length = n := by
  induction n generalizing x with
  | zero => rfl
  | succ n ih => simp [natBytes, ih]

/-- Bytes of a number, read back. -/
theorem bytesNat_natBytes (n x : Nat) : bytesNat (natBytes n x) = x % 256 ^ n := by
  induction n generalizing x with
  | zero => simp [natBytes, bytesNat, Nat.mod_one]
  | succ n ih =>
    simp only [natBytes, bytesNat, ih, BitVec.toNat_ofNat]
    rw [show x % 256 ^ (n + 1) = x % (256 * 256 ^ n) by rw [Nat.pow_succ, Nat.mul_comm], Nat.mod_mul]

theorem Memory.read_eq (m m' : Memory) (a n : Nat) (h : ∀ i, i < n → m.get (a + i) = m'.get (a + i)) :
    m.read a n = m'.read a n := by
  induction n generalizing a with
  | zero => rfl
  | succ n ih =>
    simp only [Memory.read]
    rw [show m.get a = m'.get a from h 0 (by omega), ih (a + 1) fun i hi => by
      have := h (i + 1) (by omega); rwa [show a + 1 + i = a + (i + 1) by omega]]

/-- Reading where bytes were written gives them back. -/
theorem Memory.read_write {m : Memory} (a : Nat) (bs : List Byte) (h : m.wf = true) :
    (m.write a bs).read a bs.length = bs := by
  induction bs generalizing m a with
  | nil => rfl
  | cons x bs ih =>
    simp only [Memory.write, List.length_cons, Memory.read]
    rw [Memory.get_write_outside (Memory.wf_set a x h) (by omega), Memory.get_set x h, if_pos rfl,
      ih (a + 1) (Memory.wf_set a x h)]

/-- A range read outside a write is as before. -/
theorem Memory.read_write_outside {m : Memory} {a b n : Nat} {bs : List Byte} (h : m.wf = true)
    (hb : b + n ≤ a ∨ a + bs.length ≤ b) : (m.write a bs).read b n = m.read b n :=
  Memory.read_eq _ _ _ _ fun _ _ => Memory.get_write_outside h (by omega)

end Sys2Proof.Machine
end

