-- ==== Sys2Proof/Laws/State.lean ====
section
/-! SUPPORT. What each named update of State leaves and changes: one lemma for a field and an update, so that no proof
unfolds a record update. -/

namespace Sys2Proof.Machine

/-- Reading a vector after a write, by index. -/
theorem vector_get_set {α : Type} {n : Nat} (v : Vector α n) (i j : Fin n) (x : α) :
    (v.set i x)[j] = if i = j then x else v[j] := by
  simp [Fin.getElem_fin, Vector.getElem_set, Fin.ext_iff]

/-! ### setThread and modThread -/

@[simp] theorem State.setThread_cores (s : State) (i : SlotIx) (x : Thread) : (s.setThread i x).cores = s.cores := rfl
@[simp] theorem State.modThread_cores (s : State) (i : SlotIx) (g : Thread → Thread) : (s.modThread i g).cores = s.cores := rfl
@[simp] theorem State.setThread_clusters (s : State) (i : SlotIx) (x : Thread) : (s.setThread i x).clusters = s.clusters := rfl
@[simp] theorem State.modThread_clusters (s : State) (i : SlotIx) (g : Thread → Thread) : (s.modThread i g).clusters = s.clusters := rfl
@[simp] theorem State.setThread_parts (s : State) (i : SlotIx) (x : Thread) : (s.setThread i x).parts = s.parts := rfl
@[simp] theorem State.modThread_parts (s : State) (i : SlotIx) (g : Thread → Thread) : (s.modThread i g).parts = s.parts := rfl
@[simp] theorem State.setThread_pages (s : State) (i : SlotIx) (x : Thread) : (s.setThread i x).pages = s.pages := rfl
@[simp] theorem State.modThread_pages (s : State) (i : SlotIx) (g : Thread → Thread) : (s.modThread i g).pages = s.pages := rfl
@[simp] theorem State.setThread_mem (s : State) (i : SlotIx) (x : Thread) : (s.setThread i x).mem = s.mem := rfl
@[simp] theorem State.modThread_mem (s : State) (i : SlotIx) (g : Thread → Thread) : (s.modThread i g).mem = s.mem := rfl
@[simp] theorem State.setThread_hostMem (s : State) (i : SlotIx) (x : Thread) : (s.setThread i x).hostMem = s.hostMem := rfl
@[simp] theorem State.modThread_hostMem (s : State) (i : SlotIx) (g : Thread → Thread) : (s.modThread i g).hostMem = s.hostMem := rfl
@[simp] theorem State.setThread_buffers (s : State) (i : SlotIx) (x : Thread) : (s.setThread i x).buffers = s.buffers := rfl
@[simp] theorem State.modThread_buffers (s : State) (i : SlotIx) (g : Thread → Thread) : (s.modThread i g).buffers = s.buffers := rfl
@[simp] theorem State.setThread_tmacrs (s : State) (i : SlotIx) (x : Thread) : (s.setThread i x).tmacrs = s.tmacrs := rfl
@[simp] theorem State.modThread_tmacrs (s : State) (i : SlotIx) (g : Thread → Thread) : (s.modThread i g).tmacrs = s.tmacrs := rfl
@[simp] theorem State.setThread_saved (s : State) (i : SlotIx) (x : Thread) : (s.setThread i x).saved = s.saved := rfl
@[simp] theorem State.modThread_saved (s : State) (i : SlotIx) (g : Thread → Thread) : (s.modThread i g).saved = s.saved := rfl
@[simp] theorem State.setThread_away (s : State) (i : SlotIx) (x : Thread) : (s.setThread i x).away = s.away := rfl
@[simp] theorem State.modThread_away (s : State) (i : SlotIx) (g : Thread → Thread) : (s.modThread i g).away = s.away := rfl
@[simp] theorem State.setThread_ports (s : State) (i : SlotIx) (x : Thread) : (s.setThread i x).ports = s.ports := rfl
@[simp] theorem State.modThread_ports (s : State) (i : SlotIx) (g : Thread → Thread) : (s.modThread i g).ports = s.ports := rfl
@[simp] theorem State.setThread_ue (s : State) (i : SlotIx) (x : Thread) : (s.setThread i x).ue = s.ue := rfl
@[simp] theorem State.modThread_ue (s : State) (i : SlotIx) (g : Thread → Thread) : (s.modThread i g).ue = s.ue := rfl
@[simp] theorem State.setThread_mgmt (s : State) (i : SlotIx) (x : Thread) : (s.setThread i x).mgmt = s.mgmt := rfl
@[simp] theorem State.modThread_mgmt (s : State) (i : SlotIx) (g : Thread → Thread) : (s.modThread i g).mgmt = s.mgmt := rfl
@[simp] theorem State.setThread_caps (s : State) (i : SlotIx) (x : Thread) : (s.setThread i x).caps = s.caps := rfl
@[simp] theorem State.modThread_caps (s : State) (i : SlotIx) (g : Thread → Thread) : (s.modThread i g).caps = s.caps := rfl
@[simp] theorem State.setThread_capbase (s : State) (i : SlotIx) (x : Thread) : (s.setThread i x).capbase = s.capbase := rfl
@[simp] theorem State.modThread_capbase (s : State) (i : SlotIx) (g : Thread → Thread) : (s.modThread i g).capbase = s.capbase := rfl
@[simp] theorem State.setThread_off (s : State) (i : SlotIx) (x : Thread) : (s.setThread i x).off = s.off := rfl
@[simp] theorem State.modThread_off (s : State) (i : SlotIx) (g : Thread → Thread) : (s.modThread i g).off = s.off := rfl
@[simp] theorem State.setThread_cur (s : State) (i : SlotIx) (x : Thread) : (s.setThread i x).cur = s.cur := rfl
@[simp] theorem State.modThread_cur (s : State) (i : SlotIx) (g : Thread → Thread) : (s.modThread i g).cur = s.cur := rfl
@[simp] theorem State.setThread_agenda (s : State) (i : SlotIx) (x : Thread) : (s.setThread i x).agenda = s.agenda := rfl
@[simp] theorem State.modThread_agenda (s : State) (i : SlotIx) (g : Thread → Thread) : (s.modThread i g).agenda = s.agenda := rfl
@[simp] theorem State.setThread_flip (s : State) (i : SlotIx) (x : Thread) : (s.setThread i x).flip = s.flip := rfl
@[simp] theorem State.modThread_flip (s : State) (i : SlotIx) (g : Thread → Thread) : (s.modThread i g).flip = s.flip := rfl
@[simp] theorem State.setThread_now (s : State) (i : SlotIx) (x : Thread) : (s.setThread i x).now = s.now := rfl
@[simp] theorem State.modThread_now (s : State) (i : SlotIx) (g : Thread → Thread) : (s.modThread i g).now = s.now := rfl
@[simp] theorem State.setThread_phase (s : State) (i : SlotIx) (x : Thread) : (s.setThread i x).phase = s.phase := rfl
@[simp] theorem State.modThread_phase (s : State) (i : SlotIx) (g : Thread → Thread) : (s.modThread i g).phase = s.phase := rfl
@[simp] theorem State.setThread_filled (s : State) (i : SlotIx) (x : Thread) : (s.setThread i x).filled = s.filled := rfl
@[simp] theorem State.modThread_filled (s : State) (i : SlotIx) (g : Thread → Thread) : (s.modThread i g).filled = s.filled := rfl
@[simp] theorem State.setThread_endings (s : State) (i : SlotIx) (x : Thread) : (s.setThread i x).endings = s.endings := rfl
@[simp] theorem State.modThread_endings (s : State) (i : SlotIx) (g : Thread → Thread) : (s.modThread i g).endings = s.endings := rfl
@[simp] theorem State.setThread_sliced (s : State) (i : SlotIx) (x : Thread) : (s.setThread i x).sliced = s.sliced := rfl
@[simp] theorem State.modThread_sliced (s : State) (i : SlotIx) (g : Thread → Thread) : (s.modThread i g).sliced = s.sliced := rfl
@[simp] theorem State.setThread_frees (s : State) (i : SlotIx) (x : Thread) : (s.setThread i x).frees = s.frees := rfl
@[simp] theorem State.modThread_frees (s : State) (i : SlotIx) (g : Thread → Thread) : (s.modThread i g).frees = s.frees := rfl
@[simp] theorem State.setThread_uids (s : State) (i : SlotIx) (x : Thread) : (s.setThread i x).uids = s.uids := rfl
@[simp] theorem State.modThread_uids (s : State) (i : SlotIx) (g : Thread → Thread) : (s.modThread i g).uids = s.uids := rfl
@[simp] theorem State.setThread_wall (s : State) (i : SlotIx) (x : Thread) : (s.setThread i x).wall = s.wall := rfl
@[simp] theorem State.modThread_wall (s : State) (i : SlotIx) (g : Thread → Thread) : (s.modThread i g).wall = s.wall := rfl

@[simp] theorem State.setThread_core (s : State) (i : SlotIx) (x : Thread) (j : CoreIx) : (s.setThread i x).core j = s.core j := rfl
@[simp] theorem State.modThread_core (s : State) (i : SlotIx) (g : Thread → Thread) (j : CoreIx) : (s.modThread i g).core j = s.core j := rfl
@[simp] theorem State.setThread_cluster (s : State) (i : SlotIx) (x : Thread) (j : ClusterIx) : (s.setThread i x).cluster j = s.cluster j := rfl
@[simp] theorem State.modThread_cluster (s : State) (i : SlotIx) (g : Thread → Thread) (j : ClusterIx) : (s.modThread i g).cluster j = s.cluster j := rfl
@[simp] theorem State.setThread_part (s : State) (i : SlotIx) (x : Thread) (j : PartIx) : (s.setThread i x).part j = s.part j := rfl
@[simp] theorem State.modThread_part (s : State) (i : SlotIx) (g : Thread → Thread) (j : PartIx) : (s.modThread i g).part j = s.part j := rfl
@[simp] theorem State.setThread_page (s : State) (i : SlotIx) (x : Thread) (j : FuncIx) : (s.setThread i x).page j = s.page j := rfl
@[simp] theorem State.modThread_page (s : State) (i : SlotIx) (g : Thread → Thread) (j : FuncIx) : (s.modThread i g).page j = s.page j := rfl

theorem State.setThread_thread (s : State) (i j : SlotIx) (x : Thread) :
    (s.setThread i x).thread j = if i = j then x else s.thread j := by
  simp only [State.setThread, State.thread, vector_get_set]

@[simp] theorem State.setThread_thread_same (s : State) (i : SlotIx) (x : Thread) : (s.setThread i x).thread i = x := by
  simp [State.setThread_thread]

@[simp] theorem State.modThread_thread_same (s : State) (i : SlotIx) (g : Thread → Thread) : (s.modThread i g).thread i = g (s.thread i) := by
  simp [State.modThread]

theorem State.modThread_thread (s : State) (i j : SlotIx) (g : Thread → Thread) :
    (s.modThread i g).thread j = if i = j then g (s.thread j) else s.thread j := by
  by_cases h : i = j
  · subst h; simp
  · simp [State.modThread, State.setThread_thread, h]

theorem State.modThread_thread_ne (s : State) (g : Thread → Thread) (i j : SlotIx) (h : i ≠ j) : (s.modThread i g).thread j = s.thread j := by
  simp [State.modThread_thread, h]

/-- Two updates of one place are one update. -/
theorem State.modThread_modThread (s : State) (i : SlotIx) (g h : Thread → Thread) :
    (s.modThread i g).modThread i h = s.modThread i fun x => h (g x) := by
  simp only [State.modThread, State.setThread_thread_same]
  simp [State.setThread]

/-! ### setCore and modCore -/

@[simp] theorem State.setCore_threads (s : State) (i : CoreIx) (x : Core) : (s.setCore i x).threads = s.threads := rfl
@[simp] theorem State.modCore_threads (s : State) (i : CoreIx) (g : Core → Core) : (s.modCore i g).threads = s.threads := rfl
@[simp] theorem State.setCore_clusters (s : State) (i : CoreIx) (x : Core) : (s.setCore i x).clusters = s.clusters := rfl
@[simp] theorem State.modCore_clusters (s : State) (i : CoreIx) (g : Core → Core) : (s.modCore i g).clusters = s.clusters := rfl
@[simp] theorem State.setCore_parts (s : State) (i : CoreIx) (x : Core) : (s.setCore i x).parts = s.parts := rfl
@[simp] theorem State.modCore_parts (s : State) (i : CoreIx) (g : Core → Core) : (s.modCore i g).parts = s.parts := rfl
@[simp] theorem State.setCore_pages (s : State) (i : CoreIx) (x : Core) : (s.setCore i x).pages = s.pages := rfl
@[simp] theorem State.modCore_pages (s : State) (i : CoreIx) (g : Core → Core) : (s.modCore i g).pages = s.pages := rfl
@[simp] theorem State.setCore_mem (s : State) (i : CoreIx) (x : Core) : (s.setCore i x).mem = s.mem := rfl
@[simp] theorem State.modCore_mem (s : State) (i : CoreIx) (g : Core → Core) : (s.modCore i g).mem = s.mem := rfl
@[simp] theorem State.setCore_hostMem (s : State) (i : CoreIx) (x : Core) : (s.setCore i x).hostMem = s.hostMem := rfl
@[simp] theorem State.modCore_hostMem (s : State) (i : CoreIx) (g : Core → Core) : (s.modCore i g).hostMem = s.hostMem := rfl
@[simp] theorem State.setCore_buffers (s : State) (i : CoreIx) (x : Core) : (s.setCore i x).buffers = s.buffers := rfl
@[simp] theorem State.modCore_buffers (s : State) (i : CoreIx) (g : Core → Core) : (s.modCore i g).buffers = s.buffers := rfl
@[simp] theorem State.setCore_tmacrs (s : State) (i : CoreIx) (x : Core) : (s.setCore i x).tmacrs = s.tmacrs := rfl
@[simp] theorem State.modCore_tmacrs (s : State) (i : CoreIx) (g : Core → Core) : (s.modCore i g).tmacrs = s.tmacrs := rfl
@[simp] theorem State.setCore_saved (s : State) (i : CoreIx) (x : Core) : (s.setCore i x).saved = s.saved := rfl
@[simp] theorem State.modCore_saved (s : State) (i : CoreIx) (g : Core → Core) : (s.modCore i g).saved = s.saved := rfl
@[simp] theorem State.setCore_away (s : State) (i : CoreIx) (x : Core) : (s.setCore i x).away = s.away := rfl
@[simp] theorem State.modCore_away (s : State) (i : CoreIx) (g : Core → Core) : (s.modCore i g).away = s.away := rfl
@[simp] theorem State.setCore_ports (s : State) (i : CoreIx) (x : Core) : (s.setCore i x).ports = s.ports := rfl
@[simp] theorem State.modCore_ports (s : State) (i : CoreIx) (g : Core → Core) : (s.modCore i g).ports = s.ports := rfl
@[simp] theorem State.setCore_ue (s : State) (i : CoreIx) (x : Core) : (s.setCore i x).ue = s.ue := rfl
@[simp] theorem State.modCore_ue (s : State) (i : CoreIx) (g : Core → Core) : (s.modCore i g).ue = s.ue := rfl
@[simp] theorem State.setCore_mgmt (s : State) (i : CoreIx) (x : Core) : (s.setCore i x).mgmt = s.mgmt := rfl
@[simp] theorem State.modCore_mgmt (s : State) (i : CoreIx) (g : Core → Core) : (s.modCore i g).mgmt = s.mgmt := rfl
@[simp] theorem State.setCore_caps (s : State) (i : CoreIx) (x : Core) : (s.setCore i x).caps = s.caps := rfl
@[simp] theorem State.modCore_caps (s : State) (i : CoreIx) (g : Core → Core) : (s.modCore i g).caps = s.caps := rfl
@[simp] theorem State.setCore_capbase (s : State) (i : CoreIx) (x : Core) : (s.setCore i x).capbase = s.capbase := rfl
@[simp] theorem State.modCore_capbase (s : State) (i : CoreIx) (g : Core → Core) : (s.modCore i g).capbase = s.capbase := rfl
@[simp] theorem State.setCore_off (s : State) (i : CoreIx) (x : Core) : (s.setCore i x).off = s.off := rfl
@[simp] theorem State.modCore_off (s : State) (i : CoreIx) (g : Core → Core) : (s.modCore i g).off = s.off := rfl
@[simp] theorem State.setCore_cur (s : State) (i : CoreIx) (x : Core) : (s.setCore i x).cur = s.cur := rfl
@[simp] theorem State.modCore_cur (s : State) (i : CoreIx) (g : Core → Core) : (s.modCore i g).cur = s.cur := rfl
@[simp] theorem State.setCore_agenda (s : State) (i : CoreIx) (x : Core) : (s.setCore i x).agenda = s.agenda := rfl
@[simp] theorem State.modCore_agenda (s : State) (i : CoreIx) (g : Core → Core) : (s.modCore i g).agenda = s.agenda := rfl
@[simp] theorem State.setCore_flip (s : State) (i : CoreIx) (x : Core) : (s.setCore i x).flip = s.flip := rfl
@[simp] theorem State.modCore_flip (s : State) (i : CoreIx) (g : Core → Core) : (s.modCore i g).flip = s.flip := rfl
@[simp] theorem State.setCore_now (s : State) (i : CoreIx) (x : Core) : (s.setCore i x).now = s.now := rfl
@[simp] theorem State.modCore_now (s : State) (i : CoreIx) (g : Core → Core) : (s.modCore i g).now = s.now := rfl
@[simp] theorem State.setCore_phase (s : State) (i : CoreIx) (x : Core) : (s.setCore i x).phase = s.phase := rfl
@[simp] theorem State.modCore_phase (s : State) (i : CoreIx) (g : Core → Core) : (s.modCore i g).phase = s.phase := rfl
@[simp] theorem State.setCore_filled (s : State) (i : CoreIx) (x : Core) : (s.setCore i x).filled = s.filled := rfl
@[simp] theorem State.modCore_filled (s : State) (i : CoreIx) (g : Core → Core) : (s.modCore i g).filled = s.filled := rfl
@[simp] theorem State.setCore_endings (s : State) (i : CoreIx) (x : Core) : (s.setCore i x).endings = s.endings := rfl
@[simp] theorem State.modCore_endings (s : State) (i : CoreIx) (g : Core → Core) : (s.modCore i g).endings = s.endings := rfl
@[simp] theorem State.setCore_sliced (s : State) (i : CoreIx) (x : Core) : (s.setCore i x).sliced = s.sliced := rfl
@[simp] theorem State.modCore_sliced (s : State) (i : CoreIx) (g : Core → Core) : (s.modCore i g).sliced = s.sliced := rfl
@[simp] theorem State.setCore_frees (s : State) (i : CoreIx) (x : Core) : (s.setCore i x).frees = s.frees := rfl
@[simp] theorem State.modCore_frees (s : State) (i : CoreIx) (g : Core → Core) : (s.modCore i g).frees = s.frees := rfl
@[simp] theorem State.setCore_uids (s : State) (i : CoreIx) (x : Core) : (s.setCore i x).uids = s.uids := rfl
@[simp] theorem State.modCore_uids (s : State) (i : CoreIx) (g : Core → Core) : (s.modCore i g).uids = s.uids := rfl
@[simp] theorem State.setCore_wall (s : State) (i : CoreIx) (x : Core) : (s.setCore i x).wall = s.wall := rfl
@[simp] theorem State.modCore_wall (s : State) (i : CoreIx) (g : Core → Core) : (s.modCore i g).wall = s.wall := rfl

@[simp] theorem State.setCore_thread (s : State) (i : CoreIx) (x : Core) (j : SlotIx) : (s.setCore i x).thread j = s.thread j := rfl
@[simp] theorem State.modCore_thread (s : State) (i : CoreIx) (g : Core → Core) (j : SlotIx) : (s.modCore i g).thread j = s.thread j := rfl
@[simp] theorem State.setCore_cluster (s : State) (i : CoreIx) (x : Core) (j : ClusterIx) : (s.setCore i x).cluster j = s.cluster j := rfl
@[simp] theorem State.modCore_cluster (s : State) (i : CoreIx) (g : Core → Core) (j : ClusterIx) : (s.modCore i g).cluster j = s.cluster j := rfl
@[simp] theorem State.setCore_part (s : State) (i : CoreIx) (x : Core) (j : PartIx) : (s.setCore i x).part j = s.part j := rfl
@[simp] theorem State.modCore_part (s : State) (i : CoreIx) (g : Core → Core) (j : PartIx) : (s.modCore i g).part j = s.part j := rfl
@[simp] theorem State.setCore_page (s : State) (i : CoreIx) (x : Core) (j : FuncIx) : (s.setCore i x).page j = s.page j := rfl
@[simp] theorem State.modCore_page (s : State) (i : CoreIx) (g : Core → Core) (j : FuncIx) : (s.modCore i g).page j = s.page j := rfl

theorem State.setCore_core (s : State) (i j : CoreIx) (x : Core) :
    (s.setCore i x).core j = if i = j then x else s.core j := by
  simp only [State.setCore, State.core, vector_get_set]

@[simp] theorem State.setCore_core_same (s : State) (i : CoreIx) (x : Core) : (s.setCore i x).core i = x := by
  simp [State.setCore_core]

@[simp] theorem State.modCore_core_same (s : State) (i : CoreIx) (g : Core → Core) : (s.modCore i g).core i = g (s.core i) := by
  simp [State.modCore]

theorem State.modCore_core (s : State) (i j : CoreIx) (g : Core → Core) :
    (s.modCore i g).core j = if i = j then g (s.core j) else s.core j := by
  by_cases h : i = j
  · subst h; simp
  · simp [State.modCore, State.setCore_core, h]

theorem State.modCore_core_ne (s : State) (g : Core → Core) (i j : CoreIx) (h : i ≠ j) : (s.modCore i g).core j = s.core j := by
  simp [State.modCore_core, h]

/-- Two updates of one place are one update. -/
theorem State.modCore_modCore (s : State) (i : CoreIx) (g h : Core → Core) :
    (s.modCore i g).modCore i h = s.modCore i fun x => h (g x) := by
  simp only [State.modCore, State.setCore_core_same]
  simp [State.setCore]

/-! ### setCluster and modCluster -/

@[simp] theorem State.setCluster_threads (s : State) (i : ClusterIx) (x : Cluster) : (s.setCluster i x).threads = s.threads := rfl
@[simp] theorem State.modCluster_threads (s : State) (i : ClusterIx) (g : Cluster → Cluster) : (s.modCluster i g).threads = s.threads := rfl
@[simp] theorem State.setCluster_cores (s : State) (i : ClusterIx) (x : Cluster) : (s.setCluster i x).cores = s.cores := rfl
@[simp] theorem State.modCluster_cores (s : State) (i : ClusterIx) (g : Cluster → Cluster) : (s.modCluster i g).cores = s.cores := rfl
@[simp] theorem State.setCluster_parts (s : State) (i : ClusterIx) (x : Cluster) : (s.setCluster i x).parts = s.parts := rfl
@[simp] theorem State.modCluster_parts (s : State) (i : ClusterIx) (g : Cluster → Cluster) : (s.modCluster i g).parts = s.parts := rfl
@[simp] theorem State.setCluster_pages (s : State) (i : ClusterIx) (x : Cluster) : (s.setCluster i x).pages = s.pages := rfl
@[simp] theorem State.modCluster_pages (s : State) (i : ClusterIx) (g : Cluster → Cluster) : (s.modCluster i g).pages = s.pages := rfl
@[simp] theorem State.setCluster_mem (s : State) (i : ClusterIx) (x : Cluster) : (s.setCluster i x).mem = s.mem := rfl
@[simp] theorem State.modCluster_mem (s : State) (i : ClusterIx) (g : Cluster → Cluster) : (s.modCluster i g).mem = s.mem := rfl
@[simp] theorem State.setCluster_hostMem (s : State) (i : ClusterIx) (x : Cluster) : (s.setCluster i x).hostMem = s.hostMem := rfl
@[simp] theorem State.modCluster_hostMem (s : State) (i : ClusterIx) (g : Cluster → Cluster) : (s.modCluster i g).hostMem = s.hostMem := rfl
@[simp] theorem State.setCluster_buffers (s : State) (i : ClusterIx) (x : Cluster) : (s.setCluster i x).buffers = s.buffers := rfl
@[simp] theorem State.modCluster_buffers (s : State) (i : ClusterIx) (g : Cluster → Cluster) : (s.modCluster i g).buffers = s.buffers := rfl
@[simp] theorem State.setCluster_tmacrs (s : State) (i : ClusterIx) (x : Cluster) : (s.setCluster i x).tmacrs = s.tmacrs := rfl
@[simp] theorem State.modCluster_tmacrs (s : State) (i : ClusterIx) (g : Cluster → Cluster) : (s.modCluster i g).tmacrs = s.tmacrs := rfl
@[simp] theorem State.setCluster_saved (s : State) (i : ClusterIx) (x : Cluster) : (s.setCluster i x).saved = s.saved := rfl
@[simp] theorem State.modCluster_saved (s : State) (i : ClusterIx) (g : Cluster → Cluster) : (s.modCluster i g).saved = s.saved := rfl
@[simp] theorem State.setCluster_away (s : State) (i : ClusterIx) (x : Cluster) : (s.setCluster i x).away = s.away := rfl
@[simp] theorem State.modCluster_away (s : State) (i : ClusterIx) (g : Cluster → Cluster) : (s.modCluster i g).away = s.away := rfl
@[simp] theorem State.setCluster_ports (s : State) (i : ClusterIx) (x : Cluster) : (s.setCluster i x).ports = s.ports := rfl
@[simp] theorem State.modCluster_ports (s : State) (i : ClusterIx) (g : Cluster → Cluster) : (s.modCluster i g).ports = s.ports := rfl
@[simp] theorem State.setCluster_ue (s : State) (i : ClusterIx) (x : Cluster) : (s.setCluster i x).ue = s.ue := rfl
@[simp] theorem State.modCluster_ue (s : State) (i : ClusterIx) (g : Cluster → Cluster) : (s.modCluster i g).ue = s.ue := rfl
@[simp] theorem State.setCluster_mgmt (s : State) (i : ClusterIx) (x : Cluster) : (s.setCluster i x).mgmt = s.mgmt := rfl
@[simp] theorem State.modCluster_mgmt (s : State) (i : ClusterIx) (g : Cluster → Cluster) : (s.modCluster i g).mgmt = s.mgmt := rfl
@[simp] theorem State.setCluster_caps (s : State) (i : ClusterIx) (x : Cluster) : (s.setCluster i x).caps = s.caps := rfl
@[simp] theorem State.modCluster_caps (s : State) (i : ClusterIx) (g : Cluster → Cluster) : (s.modCluster i g).caps = s.caps := rfl
@[simp] theorem State.setCluster_capbase (s : State) (i : ClusterIx) (x : Cluster) : (s.setCluster i x).capbase = s.capbase := rfl
@[simp] theorem State.modCluster_capbase (s : State) (i : ClusterIx) (g : Cluster → Cluster) : (s.modCluster i g).capbase = s.capbase := rfl
@[simp] theorem State.setCluster_off (s : State) (i : ClusterIx) (x : Cluster) : (s.setCluster i x).off = s.off := rfl
@[simp] theorem State.modCluster_off (s : State) (i : ClusterIx) (g : Cluster → Cluster) : (s.modCluster i g).off = s.off := rfl
@[simp] theorem State.setCluster_cur (s : State) (i : ClusterIx) (x : Cluster) : (s.setCluster i x).cur = s.cur := rfl
@[simp] theorem State.modCluster_cur (s : State) (i : ClusterIx) (g : Cluster → Cluster) : (s.modCluster i g).cur = s.cur := rfl
@[simp] theorem State.setCluster_agenda (s : State) (i : ClusterIx) (x : Cluster) : (s.setCluster i x).agenda = s.agenda := rfl
@[simp] theorem State.modCluster_agenda (s : State) (i : ClusterIx) (g : Cluster → Cluster) : (s.modCluster i g).agenda = s.agenda := rfl
@[simp] theorem State.setCluster_flip (s : State) (i : ClusterIx) (x : Cluster) : (s.setCluster i x).flip = s.flip := rfl
@[simp] theorem State.modCluster_flip (s : State) (i : ClusterIx) (g : Cluster → Cluster) : (s.modCluster i g).flip = s.flip := rfl
@[simp] theorem State.setCluster_now (s : State) (i : ClusterIx) (x : Cluster) : (s.setCluster i x).now = s.now := rfl
@[simp] theorem State.modCluster_now (s : State) (i : ClusterIx) (g : Cluster → Cluster) : (s.modCluster i g).now = s.now := rfl
@[simp] theorem State.setCluster_phase (s : State) (i : ClusterIx) (x : Cluster) : (s.setCluster i x).phase = s.phase := rfl
@[simp] theorem State.modCluster_phase (s : State) (i : ClusterIx) (g : Cluster → Cluster) : (s.modCluster i g).phase = s.phase := rfl
@[simp] theorem State.setCluster_filled (s : State) (i : ClusterIx) (x : Cluster) : (s.setCluster i x).filled = s.filled := rfl
@[simp] theorem State.modCluster_filled (s : State) (i : ClusterIx) (g : Cluster → Cluster) : (s.modCluster i g).filled = s.filled := rfl
@[simp] theorem State.setCluster_endings (s : State) (i : ClusterIx) (x : Cluster) : (s.setCluster i x).endings = s.endings := rfl
@[simp] theorem State.modCluster_endings (s : State) (i : ClusterIx) (g : Cluster → Cluster) : (s.modCluster i g).endings = s.endings := rfl
@[simp] theorem State.setCluster_sliced (s : State) (i : ClusterIx) (x : Cluster) : (s.setCluster i x).sliced = s.sliced := rfl
@[simp] theorem State.modCluster_sliced (s : State) (i : ClusterIx) (g : Cluster → Cluster) : (s.modCluster i g).sliced = s.sliced := rfl
@[simp] theorem State.setCluster_frees (s : State) (i : ClusterIx) (x : Cluster) : (s.setCluster i x).frees = s.frees := rfl
@[simp] theorem State.modCluster_frees (s : State) (i : ClusterIx) (g : Cluster → Cluster) : (s.modCluster i g).frees = s.frees := rfl
@[simp] theorem State.setCluster_uids (s : State) (i : ClusterIx) (x : Cluster) : (s.setCluster i x).uids = s.uids := rfl
@[simp] theorem State.modCluster_uids (s : State) (i : ClusterIx) (g : Cluster → Cluster) : (s.modCluster i g).uids = s.uids := rfl
@[simp] theorem State.setCluster_wall (s : State) (i : ClusterIx) (x : Cluster) : (s.setCluster i x).wall = s.wall := rfl
@[simp] theorem State.modCluster_wall (s : State) (i : ClusterIx) (g : Cluster → Cluster) : (s.modCluster i g).wall = s.wall := rfl

@[simp] theorem State.setCluster_thread (s : State) (i : ClusterIx) (x : Cluster) (j : SlotIx) : (s.setCluster i x).thread j = s.thread j := rfl
@[simp] theorem State.modCluster_thread (s : State) (i : ClusterIx) (g : Cluster → Cluster) (j : SlotIx) : (s.modCluster i g).thread j = s.thread j := rfl
@[simp] theorem State.setCluster_core (s : State) (i : ClusterIx) (x : Cluster) (j : CoreIx) : (s.setCluster i x).core j = s.core j := rfl
@[simp] theorem State.modCluster_core (s : State) (i : ClusterIx) (g : Cluster → Cluster) (j : CoreIx) : (s.modCluster i g).core j = s.core j := rfl
@[simp] theorem State.setCluster_part (s : State) (i : ClusterIx) (x : Cluster) (j : PartIx) : (s.setCluster i x).part j = s.part j := rfl
@[simp] theorem State.modCluster_part (s : State) (i : ClusterIx) (g : Cluster → Cluster) (j : PartIx) : (s.modCluster i g).part j = s.part j := rfl
@[simp] theorem State.setCluster_page (s : State) (i : ClusterIx) (x : Cluster) (j : FuncIx) : (s.setCluster i x).page j = s.page j := rfl
@[simp] theorem State.modCluster_page (s : State) (i : ClusterIx) (g : Cluster → Cluster) (j : FuncIx) : (s.modCluster i g).page j = s.page j := rfl

theorem State.setCluster_cluster (s : State) (i j : ClusterIx) (x : Cluster) :
    (s.setCluster i x).cluster j = if i = j then x else s.cluster j := by
  simp only [State.setCluster, State.cluster, vector_get_set]

@[simp] theorem State.setCluster_cluster_same (s : State) (i : ClusterIx) (x : Cluster) : (s.setCluster i x).cluster i = x := by
  simp [State.setCluster_cluster]

@[simp] theorem State.modCluster_cluster_same (s : State) (i : ClusterIx) (g : Cluster → Cluster) : (s.modCluster i g).cluster i = g (s.cluster i) := by
  simp [State.modCluster]

theorem State.modCluster_cluster (s : State) (i j : ClusterIx) (g : Cluster → Cluster) :
    (s.modCluster i g).cluster j = if i = j then g (s.cluster j) else s.cluster j := by
  by_cases h : i = j
  · subst h; simp
  · simp [State.modCluster, State.setCluster_cluster, h]

theorem State.modCluster_cluster_ne (s : State) (g : Cluster → Cluster) (i j : ClusterIx) (h : i ≠ j) : (s.modCluster i g).cluster j = s.cluster j := by
  simp [State.modCluster_cluster, h]

/-- Two updates of one place are one update. -/
theorem State.modCluster_modCluster (s : State) (i : ClusterIx) (g h : Cluster → Cluster) :
    (s.modCluster i g).modCluster i h = s.modCluster i fun x => h (g x) := by
  simp only [State.modCluster, State.setCluster_cluster_same]
  simp [State.setCluster]

/-! ### setPart and modPart -/

@[simp] theorem State.setPart_threads (s : State) (i : PartIx) (x : Partition) : (s.setPart i x).threads = s.threads := rfl
@[simp] theorem State.modPart_threads (s : State) (i : PartIx) (g : Partition → Partition) : (s.modPart i g).threads = s.threads := rfl
@[simp] theorem State.setPart_cores (s : State) (i : PartIx) (x : Partition) : (s.setPart i x).cores = s.cores := rfl
@[simp] theorem State.modPart_cores (s : State) (i : PartIx) (g : Partition → Partition) : (s.modPart i g).cores = s.cores := rfl
@[simp] theorem State.setPart_clusters (s : State) (i : PartIx) (x : Partition) : (s.setPart i x).clusters = s.clusters := rfl
@[simp] theorem State.modPart_clusters (s : State) (i : PartIx) (g : Partition → Partition) : (s.modPart i g).clusters = s.clusters := rfl
@[simp] theorem State.setPart_pages (s : State) (i : PartIx) (x : Partition) : (s.setPart i x).pages = s.pages := rfl
@[simp] theorem State.modPart_pages (s : State) (i : PartIx) (g : Partition → Partition) : (s.modPart i g).pages = s.pages := rfl
@[simp] theorem State.setPart_mem (s : State) (i : PartIx) (x : Partition) : (s.setPart i x).mem = s.mem := rfl
@[simp] theorem State.modPart_mem (s : State) (i : PartIx) (g : Partition → Partition) : (s.modPart i g).mem = s.mem := rfl
@[simp] theorem State.setPart_hostMem (s : State) (i : PartIx) (x : Partition) : (s.setPart i x).hostMem = s.hostMem := rfl
@[simp] theorem State.modPart_hostMem (s : State) (i : PartIx) (g : Partition → Partition) : (s.modPart i g).hostMem = s.hostMem := rfl
@[simp] theorem State.setPart_buffers (s : State) (i : PartIx) (x : Partition) : (s.setPart i x).buffers = s.buffers := rfl
@[simp] theorem State.modPart_buffers (s : State) (i : PartIx) (g : Partition → Partition) : (s.modPart i g).buffers = s.buffers := rfl
@[simp] theorem State.setPart_tmacrs (s : State) (i : PartIx) (x : Partition) : (s.setPart i x).tmacrs = s.tmacrs := rfl
@[simp] theorem State.modPart_tmacrs (s : State) (i : PartIx) (g : Partition → Partition) : (s.modPart i g).tmacrs = s.tmacrs := rfl
@[simp] theorem State.setPart_saved (s : State) (i : PartIx) (x : Partition) : (s.setPart i x).saved = s.saved := rfl
@[simp] theorem State.modPart_saved (s : State) (i : PartIx) (g : Partition → Partition) : (s.modPart i g).saved = s.saved := rfl
@[simp] theorem State.setPart_away (s : State) (i : PartIx) (x : Partition) : (s.setPart i x).away = s.away := rfl
@[simp] theorem State.modPart_away (s : State) (i : PartIx) (g : Partition → Partition) : (s.modPart i g).away = s.away := rfl
@[simp] theorem State.setPart_ports (s : State) (i : PartIx) (x : Partition) : (s.setPart i x).ports = s.ports := rfl
@[simp] theorem State.modPart_ports (s : State) (i : PartIx) (g : Partition → Partition) : (s.modPart i g).ports = s.ports := rfl
@[simp] theorem State.setPart_ue (s : State) (i : PartIx) (x : Partition) : (s.setPart i x).ue = s.ue := rfl
@[simp] theorem State.modPart_ue (s : State) (i : PartIx) (g : Partition → Partition) : (s.modPart i g).ue = s.ue := rfl
@[simp] theorem State.setPart_mgmt (s : State) (i : PartIx) (x : Partition) : (s.setPart i x).mgmt = s.mgmt := rfl
@[simp] theorem State.modPart_mgmt (s : State) (i : PartIx) (g : Partition → Partition) : (s.modPart i g).mgmt = s.mgmt := rfl
@[simp] theorem State.setPart_caps (s : State) (i : PartIx) (x : Partition) : (s.setPart i x).caps = s.caps := rfl
@[simp] theorem State.modPart_caps (s : State) (i : PartIx) (g : Partition → Partition) : (s.modPart i g).caps = s.caps := rfl
@[simp] theorem State.setPart_capbase (s : State) (i : PartIx) (x : Partition) : (s.setPart i x).capbase = s.capbase := rfl
@[simp] theorem State.modPart_capbase (s : State) (i : PartIx) (g : Partition → Partition) : (s.modPart i g).capbase = s.capbase := rfl
@[simp] theorem State.setPart_off (s : State) (i : PartIx) (x : Partition) : (s.setPart i x).off = s.off := rfl
@[simp] theorem State.modPart_off (s : State) (i : PartIx) (g : Partition → Partition) : (s.modPart i g).off = s.off := rfl
@[simp] theorem State.setPart_cur (s : State) (i : PartIx) (x : Partition) : (s.setPart i x).cur = s.cur := rfl
@[simp] theorem State.modPart_cur (s : State) (i : PartIx) (g : Partition → Partition) : (s.modPart i g).cur = s.cur := rfl
@[simp] theorem State.setPart_agenda (s : State) (i : PartIx) (x : Partition) : (s.setPart i x).agenda = s.agenda := rfl
@[simp] theorem State.modPart_agenda (s : State) (i : PartIx) (g : Partition → Partition) : (s.modPart i g).agenda = s.agenda := rfl
@[simp] theorem State.setPart_flip (s : State) (i : PartIx) (x : Partition) : (s.setPart i x).flip = s.flip := rfl
@[simp] theorem State.modPart_flip (s : State) (i : PartIx) (g : Partition → Partition) : (s.modPart i g).flip = s.flip := rfl
@[simp] theorem State.setPart_now (s : State) (i : PartIx) (x : Partition) : (s.setPart i x).now = s.now := rfl
@[simp] theorem State.modPart_now (s : State) (i : PartIx) (g : Partition → Partition) : (s.modPart i g).now = s.now := rfl
@[simp] theorem State.setPart_phase (s : State) (i : PartIx) (x : Partition) : (s.setPart i x).phase = s.phase := rfl
@[simp] theorem State.modPart_phase (s : State) (i : PartIx) (g : Partition → Partition) : (s.modPart i g).phase = s.phase := rfl
@[simp] theorem State.setPart_filled (s : State) (i : PartIx) (x : Partition) : (s.setPart i x).filled = s.filled := rfl
@[simp] theorem State.modPart_filled (s : State) (i : PartIx) (g : Partition → Partition) : (s.modPart i g).filled = s.filled := rfl
@[simp] theorem State.setPart_endings (s : State) (i : PartIx) (x : Partition) : (s.setPart i x).endings = s.endings := rfl
@[simp] theorem State.modPart_endings (s : State) (i : PartIx) (g : Partition → Partition) : (s.modPart i g).endings = s.endings := rfl
@[simp] theorem State.setPart_sliced (s : State) (i : PartIx) (x : Partition) : (s.setPart i x).sliced = s.sliced := rfl
@[simp] theorem State.modPart_sliced (s : State) (i : PartIx) (g : Partition → Partition) : (s.modPart i g).sliced = s.sliced := rfl
@[simp] theorem State.setPart_frees (s : State) (i : PartIx) (x : Partition) : (s.setPart i x).frees = s.frees := rfl
@[simp] theorem State.modPart_frees (s : State) (i : PartIx) (g : Partition → Partition) : (s.modPart i g).frees = s.frees := rfl
@[simp] theorem State.setPart_uids (s : State) (i : PartIx) (x : Partition) : (s.setPart i x).uids = s.uids := rfl
@[simp] theorem State.modPart_uids (s : State) (i : PartIx) (g : Partition → Partition) : (s.modPart i g).uids = s.uids := rfl
@[simp] theorem State.setPart_wall (s : State) (i : PartIx) (x : Partition) : (s.setPart i x).wall = s.wall := rfl
@[simp] theorem State.modPart_wall (s : State) (i : PartIx) (g : Partition → Partition) : (s.modPart i g).wall = s.wall := rfl

@[simp] theorem State.setPart_thread (s : State) (i : PartIx) (x : Partition) (j : SlotIx) : (s.setPart i x).thread j = s.thread j := rfl
@[simp] theorem State.modPart_thread (s : State) (i : PartIx) (g : Partition → Partition) (j : SlotIx) : (s.modPart i g).thread j = s.thread j := rfl
@[simp] theorem State.setPart_core (s : State) (i : PartIx) (x : Partition) (j : CoreIx) : (s.setPart i x).core j = s.core j := rfl
@[simp] theorem State.modPart_core (s : State) (i : PartIx) (g : Partition → Partition) (j : CoreIx) : (s.modPart i g).core j = s.core j := rfl
@[simp] theorem State.setPart_cluster (s : State) (i : PartIx) (x : Partition) (j : ClusterIx) : (s.setPart i x).cluster j = s.cluster j := rfl
@[simp] theorem State.modPart_cluster (s : State) (i : PartIx) (g : Partition → Partition) (j : ClusterIx) : (s.modPart i g).cluster j = s.cluster j := rfl
@[simp] theorem State.setPart_page (s : State) (i : PartIx) (x : Partition) (j : FuncIx) : (s.setPart i x).page j = s.page j := rfl
@[simp] theorem State.modPart_page (s : State) (i : PartIx) (g : Partition → Partition) (j : FuncIx) : (s.modPart i g).page j = s.page j := rfl

theorem State.setPart_part (s : State) (i j : PartIx) (x : Partition) :
    (s.setPart i x).part j = if i = j then x else s.part j := by
  simp only [State.setPart, State.part, vector_get_set]

@[simp] theorem State.setPart_part_same (s : State) (i : PartIx) (x : Partition) : (s.setPart i x).part i = x := by
  simp [State.setPart_part]

@[simp] theorem State.modPart_part_same (s : State) (i : PartIx) (g : Partition → Partition) : (s.modPart i g).part i = g (s.part i) := by
  simp [State.modPart]

theorem State.modPart_part (s : State) (i j : PartIx) (g : Partition → Partition) :
    (s.modPart i g).part j = if i = j then g (s.part j) else s.part j := by
  by_cases h : i = j
  · subst h; simp
  · simp [State.modPart, State.setPart_part, h]

theorem State.modPart_part_ne (s : State) (g : Partition → Partition) (i j : PartIx) (h : i ≠ j) : (s.modPart i g).part j = s.part j := by
  simp [State.modPart_part, h]

/-- Two updates of one place are one update. -/
theorem State.modPart_modPart (s : State) (i : PartIx) (g h : Partition → Partition) :
    (s.modPart i g).modPart i h = s.modPart i fun x => h (g x) := by
  simp only [State.modPart, State.setPart_part_same]
  simp [State.setPart]

/-! ### setPage and modPage -/

@[simp] theorem State.setPage_threads (s : State) (i : FuncIx) (x : Page) : (s.setPage i x).threads = s.threads := rfl
@[simp] theorem State.modPage_threads (s : State) (i : FuncIx) (g : Page → Page) : (s.modPage i g).threads = s.threads := rfl
@[simp] theorem State.setPage_cores (s : State) (i : FuncIx) (x : Page) : (s.setPage i x).cores = s.cores := rfl
@[simp] theorem State.modPage_cores (s : State) (i : FuncIx) (g : Page → Page) : (s.modPage i g).cores = s.cores := rfl
@[simp] theorem State.setPage_clusters (s : State) (i : FuncIx) (x : Page) : (s.setPage i x).clusters = s.clusters := rfl
@[simp] theorem State.modPage_clusters (s : State) (i : FuncIx) (g : Page → Page) : (s.modPage i g).clusters = s.clusters := rfl
@[simp] theorem State.setPage_parts (s : State) (i : FuncIx) (x : Page) : (s.setPage i x).parts = s.parts := rfl
@[simp] theorem State.modPage_parts (s : State) (i : FuncIx) (g : Page → Page) : (s.modPage i g).parts = s.parts := rfl
@[simp] theorem State.setPage_mem (s : State) (i : FuncIx) (x : Page) : (s.setPage i x).mem = s.mem := rfl
@[simp] theorem State.modPage_mem (s : State) (i : FuncIx) (g : Page → Page) : (s.modPage i g).mem = s.mem := rfl
@[simp] theorem State.setPage_hostMem (s : State) (i : FuncIx) (x : Page) : (s.setPage i x).hostMem = s.hostMem := rfl
@[simp] theorem State.modPage_hostMem (s : State) (i : FuncIx) (g : Page → Page) : (s.modPage i g).hostMem = s.hostMem := rfl
@[simp] theorem State.setPage_buffers (s : State) (i : FuncIx) (x : Page) : (s.setPage i x).buffers = s.buffers := rfl
@[simp] theorem State.modPage_buffers (s : State) (i : FuncIx) (g : Page → Page) : (s.modPage i g).buffers = s.buffers := rfl
@[simp] theorem State.setPage_tmacrs (s : State) (i : FuncIx) (x : Page) : (s.setPage i x).tmacrs = s.tmacrs := rfl
@[simp] theorem State.modPage_tmacrs (s : State) (i : FuncIx) (g : Page → Page) : (s.modPage i g).tmacrs = s.tmacrs := rfl
@[simp] theorem State.setPage_saved (s : State) (i : FuncIx) (x : Page) : (s.setPage i x).saved = s.saved := rfl
@[simp] theorem State.modPage_saved (s : State) (i : FuncIx) (g : Page → Page) : (s.modPage i g).saved = s.saved := rfl
@[simp] theorem State.setPage_away (s : State) (i : FuncIx) (x : Page) : (s.setPage i x).away = s.away := rfl
@[simp] theorem State.modPage_away (s : State) (i : FuncIx) (g : Page → Page) : (s.modPage i g).away = s.away := rfl
@[simp] theorem State.setPage_ports (s : State) (i : FuncIx) (x : Page) : (s.setPage i x).ports = s.ports := rfl
@[simp] theorem State.modPage_ports (s : State) (i : FuncIx) (g : Page → Page) : (s.modPage i g).ports = s.ports := rfl
@[simp] theorem State.setPage_ue (s : State) (i : FuncIx) (x : Page) : (s.setPage i x).ue = s.ue := rfl
@[simp] theorem State.modPage_ue (s : State) (i : FuncIx) (g : Page → Page) : (s.modPage i g).ue = s.ue := rfl
@[simp] theorem State.setPage_mgmt (s : State) (i : FuncIx) (x : Page) : (s.setPage i x).mgmt = s.mgmt := rfl
@[simp] theorem State.modPage_mgmt (s : State) (i : FuncIx) (g : Page → Page) : (s.modPage i g).mgmt = s.mgmt := rfl
@[simp] theorem State.setPage_caps (s : State) (i : FuncIx) (x : Page) : (s.setPage i x).caps = s.caps := rfl
@[simp] theorem State.modPage_caps (s : State) (i : FuncIx) (g : Page → Page) : (s.modPage i g).caps = s.caps := rfl
@[simp] theorem State.setPage_capbase (s : State) (i : FuncIx) (x : Page) : (s.setPage i x).capbase = s.capbase := rfl
@[simp] theorem State.modPage_capbase (s : State) (i : FuncIx) (g : Page → Page) : (s.modPage i g).capbase = s.capbase := rfl
@[simp] theorem State.setPage_off (s : State) (i : FuncIx) (x : Page) : (s.setPage i x).off = s.off := rfl
@[simp] theorem State.modPage_off (s : State) (i : FuncIx) (g : Page → Page) : (s.modPage i g).off = s.off := rfl
@[simp] theorem State.setPage_cur (s : State) (i : FuncIx) (x : Page) : (s.setPage i x).cur = s.cur := rfl
@[simp] theorem State.modPage_cur (s : State) (i : FuncIx) (g : Page → Page) : (s.modPage i g).cur = s.cur := rfl
@[simp] theorem State.setPage_agenda (s : State) (i : FuncIx) (x : Page) : (s.setPage i x).agenda = s.agenda := rfl
@[simp] theorem State.modPage_agenda (s : State) (i : FuncIx) (g : Page → Page) : (s.modPage i g).agenda = s.agenda := rfl
@[simp] theorem State.setPage_flip (s : State) (i : FuncIx) (x : Page) : (s.setPage i x).flip = s.flip := rfl
@[simp] theorem State.modPage_flip (s : State) (i : FuncIx) (g : Page → Page) : (s.modPage i g).flip = s.flip := rfl
@[simp] theorem State.setPage_now (s : State) (i : FuncIx) (x : Page) : (s.setPage i x).now = s.now := rfl
@[simp] theorem State.modPage_now (s : State) (i : FuncIx) (g : Page → Page) : (s.modPage i g).now = s.now := rfl
@[simp] theorem State.setPage_phase (s : State) (i : FuncIx) (x : Page) : (s.setPage i x).phase = s.phase := rfl
@[simp] theorem State.modPage_phase (s : State) (i : FuncIx) (g : Page → Page) : (s.modPage i g).phase = s.phase := rfl
@[simp] theorem State.setPage_filled (s : State) (i : FuncIx) (x : Page) : (s.setPage i x).filled = s.filled := rfl
@[simp] theorem State.modPage_filled (s : State) (i : FuncIx) (g : Page → Page) : (s.modPage i g).filled = s.filled := rfl
@[simp] theorem State.setPage_endings (s : State) (i : FuncIx) (x : Page) : (s.setPage i x).endings = s.endings := rfl
@[simp] theorem State.modPage_endings (s : State) (i : FuncIx) (g : Page → Page) : (s.modPage i g).endings = s.endings := rfl
@[simp] theorem State.setPage_sliced (s : State) (i : FuncIx) (x : Page) : (s.setPage i x).sliced = s.sliced := rfl
@[simp] theorem State.modPage_sliced (s : State) (i : FuncIx) (g : Page → Page) : (s.modPage i g).sliced = s.sliced := rfl
@[simp] theorem State.setPage_frees (s : State) (i : FuncIx) (x : Page) : (s.setPage i x).frees = s.frees := rfl
@[simp] theorem State.modPage_frees (s : State) (i : FuncIx) (g : Page → Page) : (s.modPage i g).frees = s.frees := rfl
@[simp] theorem State.setPage_uids (s : State) (i : FuncIx) (x : Page) : (s.setPage i x).uids = s.uids := rfl
@[simp] theorem State.modPage_uids (s : State) (i : FuncIx) (g : Page → Page) : (s.modPage i g).uids = s.uids := rfl
@[simp] theorem State.setPage_wall (s : State) (i : FuncIx) (x : Page) : (s.setPage i x).wall = s.wall := rfl
@[simp] theorem State.modPage_wall (s : State) (i : FuncIx) (g : Page → Page) : (s.modPage i g).wall = s.wall := rfl

@[simp] theorem State.setPage_thread (s : State) (i : FuncIx) (x : Page) (j : SlotIx) : (s.setPage i x).thread j = s.thread j := rfl
@[simp] theorem State.modPage_thread (s : State) (i : FuncIx) (g : Page → Page) (j : SlotIx) : (s.modPage i g).thread j = s.thread j := rfl
@[simp] theorem State.setPage_core (s : State) (i : FuncIx) (x : Page) (j : CoreIx) : (s.setPage i x).core j = s.core j := rfl
@[simp] theorem State.modPage_core (s : State) (i : FuncIx) (g : Page → Page) (j : CoreIx) : (s.modPage i g).core j = s.core j := rfl
@[simp] theorem State.setPage_cluster (s : State) (i : FuncIx) (x : Page) (j : ClusterIx) : (s.setPage i x).cluster j = s.cluster j := rfl
@[simp] theorem State.modPage_cluster (s : State) (i : FuncIx) (g : Page → Page) (j : ClusterIx) : (s.modPage i g).cluster j = s.cluster j := rfl
@[simp] theorem State.setPage_part (s : State) (i : FuncIx) (x : Page) (j : PartIx) : (s.setPage i x).part j = s.part j := rfl
@[simp] theorem State.modPage_part (s : State) (i : FuncIx) (g : Page → Page) (j : PartIx) : (s.modPage i g).part j = s.part j := rfl

theorem State.setPage_page (s : State) (i j : FuncIx) (x : Page) :
    (s.setPage i x).page j = if i = j then x else s.page j := by
  simp only [State.setPage, State.page, vector_get_set]

@[simp] theorem State.setPage_page_same (s : State) (i : FuncIx) (x : Page) : (s.setPage i x).page i = x := by
  simp [State.setPage_page]

@[simp] theorem State.modPage_page_same (s : State) (i : FuncIx) (g : Page → Page) : (s.modPage i g).page i = g (s.page i) := by
  simp [State.modPage]

theorem State.modPage_page (s : State) (i j : FuncIx) (g : Page → Page) :
    (s.modPage i g).page j = if i = j then g (s.page j) else s.page j := by
  by_cases h : i = j
  · subst h; simp
  · simp [State.modPage, State.setPage_page, h]

theorem State.modPage_page_ne (s : State) (g : Page → Page) (i j : FuncIx) (h : i ≠ j) : (s.modPage i g).page j = s.page j := by
  simp [State.modPage_page, h]

/-- Two updates of one place are one update. -/
theorem State.modPage_modPage (s : State) (i : FuncIx) (g h : Page → Page) :
    (s.modPage i g).modPage i h = s.modPage i fun x => h (g x) := by
  simp only [State.modPage, State.setPage_page_same]
  simp [State.setPage]

/-! ### The current thread and its core -/

@[simp] theorem State.modThread_me (s : State) (g : Thread → Thread) : (s.modThread s.cur g).me = g s.me := by
  simp [State.me]

@[simp] theorem State.modMe_me (s : State) (g : Thread → Thread) : (s.modMe g).me = g s.me := by simp [State.modMe]
@[simp] theorem State.modMe_cur (s : State) (g : Thread → Thread) : (s.modMe g).cur = s.cur := rfl
@[simp] theorem State.modMe_core (s : State) (g : Thread → Thread) (c : CoreIx) : (s.modMe g).core c = s.core c := rfl
@[simp] theorem State.modMe_myCore (s : State) (g : Thread → Thread) : (s.modMe g).myCore = s.myCore := rfl
@[simp] theorem State.modMe_cluster (s : State) (g : Thread → Thread) (c : ClusterIx) : (s.modMe g).cluster c = s.cluster c := rfl
@[simp] theorem State.modMe_part (s : State) (g : Thread → Thread) (p : PartIx) : (s.modMe g).part p = s.part p := rfl
@[simp] theorem State.modMe_page (s : State) (g : Thread → Thread) (f : FuncIx) : (s.modMe g).page f = s.page f := rfl
@[simp] theorem State.modMe_mem (s : State) (g : Thread → Thread) : (s.modMe g).mem = s.mem := rfl
@[simp] theorem State.modMe_frees (s : State) (g : Thread → Thread) : (s.modMe g).frees = s.frees := rfl
@[simp] theorem State.modMyCore_cur (s : State) (g : Core → Core) : (s.modMyCore g).cur = s.cur := rfl
@[simp] theorem State.modMyCore_me (s : State) (g : Core → Core) : (s.modMyCore g).me = s.me := rfl
@[simp] theorem State.modMyCore_mem (s : State) (g : Core → Core) : (s.modMyCore g).mem = s.mem := rfl
@[simp] theorem State.modMyCore_thread (s : State) (g : Core → Core) (w : SlotIx) : (s.modMyCore g).thread w = s.thread w := rfl
@[simp] theorem State.modMyCore_cluster (s : State) (g : Core → Core) (c : ClusterIx) : (s.modMyCore g).cluster c = s.cluster c := rfl
@[simp] theorem State.modMyCore_myCore (s : State) (g : Core → Core) : (s.modMyCore g).myCore = g s.myCore := by
  simp [State.modMyCore, State.myCore]

theorem State.modMe_modMe (s : State) (g h : Thread → Thread) : (s.modMe g).modMe h = s.modMe fun t => h (g t) :=
  State.modThread_modThread s s.cur g h

theorem State.modMe_modThread (s : State) (g h : Thread → Thread) :
    (s.modMe g).modThread s.cur h = s.modMe fun t => h (g t) :=
  State.modThread_modThread s s.cur g h

end Sys2Proof.Machine
end

