-- ==== Sys2Proof/Laws/Ops.lean ====
section
/-! SUPPORT. What the shared operations answer: one lemma each, so that a proof about an instruction cites them and
unfolds none. -/

namespace Sys2Proof.Machine

/-! ### Sequencing -/

theorem op_bind {α β : Type} (x : Op α) (f : α → Op β) (s : State) :
    (x >>= f) s = match x s with
      | .ok (a, t) => f a t
      | .error e => .error e := by
  cases h : x s with
  | error e => simp [bind, StateT.bind, Except.bind, h]
  | ok r => simp [bind, StateT.bind, Except.bind, h]

theorem op_bind_ok {α β : Type} {x : Op α} {f : α → Op β} {s t : State} {a : α} (h : x s = .ok (a, t)) :
    (x >>= f) s = f a t := by rw [op_bind, h]

theorem op_bind_error {α β : Type} {x : Op α} {f : α → Op β} {s : State} {e : Stop} (h : x s = .error e) :
    (x >>= f) s = .error e := by rw [op_bind, h]

@[simp] theorem op_pure {α : Type} (a : α) (s : State) : (pure a : Op α) s = .ok (a, s) := rfl
@[simp] theorem op_get (s : State) : (get : Op State) s = .ok (s, s) := rfl
@[simp] theorem op_set (t s : State) : (set t : Op PUnit) s = .ok ((), t) := rfl
@[simp] theorem op_modify (f : State → State) (s : State) : (modify f : Op PUnit) s = .ok ((), f s) := rfl

/-- A meaning that acts. -/
theorem State.run_ok {s t : State} {body : Op Unit} (h : body s = .ok ((), t)) :
    s.run body = .next (t.modThread s.cur Thread.settled) := by simp only [State.run, h]

/-- A meaning that traps. -/
theorem State.run_trap {s : State} {body : Op Unit} {code : BitVec 8} {va aux : W64}
    (h : body s = .error (.trap code va aux)) : s.run body = .next (s.unqueued.takeTrap s.cur false code s.me.ip va aux) := by
  simp only [State.run, h]

/-- A meaning that waits. -/
theorem State.run_wait {s : State} {body : Op Unit} {why : Why} (h : body s = .error (.wait why)) :
    s.run body = .next (s.await why) := by simp only [State.run, h]

/-- Every meaning answers a next state. -/
theorem State.run_next (s : State) (body : Op Unit) : ∃ t, s.run body = .next t := by
  unfold State.run
  split <;> exact ⟨_, rfl⟩

/-! ### What fetching reads -/

theorem State.count_setThread (s : State) (w : SlotIx) (t : Thread) (c : CoreIx) (code n : Nat) :
    (s.setThread w t).count c code n = (s.count c code n).setThread w t := rfl

theorem State.walkNow_setThread (s : State) (w : SlotIx) (t : Thread) (c : CoreIx) (p : PartIx) (va : Nat) (need : Need) :
    (s.setThread w t).walkNow c p va need = ((s.walkNow c p va need).1.setThread w t, (s.walkNow c p va need).2) := by
  unfold State.walkNow
  simp only [State.setThread_mem, State.setThread_part]
  cases walk s.mem (s.part p) va need with
  | error e => cases e <;> rfl
  | ok r =>
    simp only [State.logArmed, State.setThread_page]
    rcases Bool.eq_false_or_eq_true (need.w && (s.page (funcOf p)).log.arm && !r.host.lg) with h | h
    · rcases Bool.eq_false_or_eq_true (s.page (funcOf p)).log.full with h' | h' <;> simp only [h, h', reduceIte, Bool.false_eq_true] <;> rfl
    · simp only [h, reduceIte, Bool.false_eq_true]
      rfl

theorem State.translate_setThread (s : State) (w : SlotIx) (t : Thread) (c : CoreIx) (p : PartIx) (va : Nat) (need : Need) :
    (s.setThread w t).translate c p va need = ((s.translate c p va need).1.setThread w t, (s.translate c p va need).2) := by
  unfold State.translate
  simp only [State.setThread_core, State.logArmed, State.setThread_page, State.count_setThread, State.setThread_cluster]
  cases (s.core c).tlb.find? (TlbEntry.serves (s.page (funcOf p)).log.arm need va) with
  | some e => rfl
  | none =>
    simp only
    cases ((s.count c 5 1).cluster (CoreIx.cluster c)).tlb.find? (TlbEntry.serves (s.page (funcOf p)).log.arm need va) with
    | some e => rfl
    | none => exact State.walkNow_setThread _ _ _ _ _ _ _

theorem State.readLine_setThread (s : State) (w : SlotIx) (t : Thread) (c : CoreIx) (p : PartIx) (va : W64) :
    (s.setThread w t).readLine c p va = ((s.readLine c p va).1.setThread w t, (s.readLine c p va).2) := by
  unfold State.readLine
  cases inGlobal va
  · rfl
  · simp only [Bool.not_true, Bool.false_eq_true, if_false]
    rw [State.translate_setThread]
    rcases s.translate c p va.toNat needX with ⟨s', r⟩
    cases r with
    | ok pa =>
      simp only
      generalize inAperture pa = b
      cases b <;> rfl
    | absent => rfl
    | perm code => rfl
    | host ipa => rfl
    | logFull final => rfl

/-- Fetching a line does not depend on a thread. -/
theorem State.fetchLine_setThread (s : State) (w : SlotIx) (t : Thread) (c : CoreIx) (va : W64) :
    (s.setThread w t).fetchLine c va = ((s.fetchLine c va).1.setThread w t, (s.fetchLine c va).2) := by
  unfold State.fetchLine
  simp only [State.setThread_core, State.setThread_ue]
  cases (s.core c).icache.find? fun l => l.va == va with
  | some l =>
    simp only
    rcases Bool.eq_false_or_eq_true (s.ue.contains (UePlace.icache c va)) with h | h
    · simp only [h, reduceIte]
    · simp only [h, reduceIte, Bool.false_eq_true]
      cases l.poison <;> rfl
  | none =>
    simp only
    rw [show (s.setThread w t).partOf (CoreIx.cluster c) = s.partOf (CoreIx.cluster c) from rfl, State.readLine_setThread]
    rcases s.readLine c (s.partOf (CoreIx.cluster c)) va with ⟨s', r⟩
    cases r with
    | line bs =>
      simp only [State.setThread_ue]
      rfl
    | fault code => rfl
    | host ipa => rfl

@[simp] theorem State.parcelsAt_setThread (s : State) (w : SlotIx) (t : Thread) (c : CoreIx) (ip : W64) :
    (s.setThread w t).parcelsAt c ip = s.parcelsAt c ip := by
  simp only [State.parcelsAt, State.fetchLine_setThread]

@[simp] theorem State.after_setThread (s : State) (w : SlotIx) (t : Thread) (c : CoreIx) (ip : W64) :
    (s.setThread w t).after c ip = s.after c ip := by simp only [State.after, State.parcelsAt_setThread]

@[simp] theorem State.after_modThread (s : State) (w : SlotIx) (f : Thread → Thread) (c : CoreIx) (ip : W64) :
    (s.modThread w f).after c ip = s.after c ip := State.after_setThread _ _ _ _ _

@[simp] theorem State.after_modMe (s : State) (f : Thread → Thread) (c : CoreIx) (ip : W64) :
    (s.modMe f).after c ip = s.after c ip := State.after_setThread _ _ _ _ _

/-- Entering a line does not depend on a thread. -/
theorem State.enter_setThread (s : State) (w : SlotIx) (t : Thread) (c : CoreIx) (ip : W64) :
    (s.setThread w t).enter c ip = ((s.enter c ip).1.setThread w t, (s.enter c ip).2) := by
  unfold State.enter
  rw [State.fetchLine_setThread]
  rcases s.fetchLine c (lineBase ip) with ⟨s', r⟩
  cases r with
  | line bs =>
    simp only
    generalize (!lineOk (lineParcels bs)) = a
    generalize (headIx ip == 0 || headIx ip > lineNh (lineParcels bs)) = b
    cases a
    · cases b <;> rfl
    · rfl
  | fault code => rfl
  | host ipa => rfl

/-! ### Registers -/

/-- A slot that does not wait is in no wait list to leave. -/
theorem State.unqueued_of_not_retry {s : State} (h : ∀ why, s.me.wait ≠ .retry why) : s.unqueued = s := by
  unfold State.unqueued
  split
  · exact absurd ‹_› (h _)
  · rfl

/-- Registers that nothing is still to deliver lose nothing. -/
theorem State.disown_plain {s : State} {dsts : List GV} (h : ∀ r ∈ dsts, s.pending s.cur r = false) : s.disown dsts = s := by
  have : (dsts.filter fun r => !s.me.maps r && s.pending s.cur r) = [] := by
    rw [List.filter_eq_nil_iff]
    intro r hr
    simp [h r hr]
  simp [State.disown, this]

/-- A masked destination keeps lanes of itself only. -/
theorem keptBy_sub (m : Mask) (d : VReg) (srcs : List GV) : ∀ r ∈ keptBy m d, r ∈ srcs ++ [.v d] := by
  intro r hr
  unfold keptBy at hr
  split at hr <;> simp_all

/-- Operands that are the thread's own make an instruction ready. -/
theorem ready_plain {s : State} {srcs dsts keeps : List GV} (h : s.plain srcs dsts)
    (hk : ∀ r ∈ keeps, r ∈ srcs ++ dsts := by simp) : ready srcs dsts keeps s = .ok ((), s) := by
  obtain ⟨h1, h2⟩ := h
  have hs : srcs.filter s.me.maps = [] := by
    simp only [List.filter_eq_nil_iff]
    intro r hr
    simp [(h1 r (List.mem_append_left _ hr)).1]
  have hd : dsts.filter s.me.maps = [] := by
    simp only [List.filter_eq_nil_iff]
    intro r hr
    simp [(h1 r (List.mem_append_right _ hr)).1]
  have hp : ((srcs ++ keeps).any fun r => !s.me.maps r && s.pending s.cur r) = false := by
    rw [List.any_eq_false]
    intro r hr
    rcases List.mem_append.mp hr with hr | hr
    · simp [(h1 r (List.mem_append_left _ hr)).2]
    · simp [(h1 r (hk r hr)).2]
  have hf : (srcs.findSome? fun r => if s.me.maps r = true then none else s.me.poison.find? fun p => p.reg == unified r) = none := by
    rw [List.findSome?_eq_none_iff]
    intro r hr
    rw [if_neg (by simp [(h1 r (List.mem_append_left _ hr)).1]), List.find?_eq_none]
    intro p hp
    simpa using h2 r hr p hp
  simp only [ready, hs, hd, hp, hf, List.length_nil]
  simp [State.disown_plain fun r hr => (h1 r (List.mem_append_right _ hr)).2]

theorem srcG_plain {s : State} {r : GReg} (h : s.me.maps (.g r) = false) : srcG r s = .ok (s.me.greg r, s) := by
  simp [srcG, h]

theorem dstG_plain {s : State} {r : GReg} (x : W64) (h : s.me.maps (.g r) = false) :
    dstG r x s = .ok ((), s.modMe fun t => t.setG r x) := by simp [dstG, h]

theorem reserve_plain {s : State} {r : GReg} (h : s.me.maps (.g r) = false) : reserve r s = .ok (.reg r, s) := by
  simp [reserve, h]

theorem srcGV_plain {s : State} {r : GV} (ty : ETy) (h : s.me.maps r = false) :
    srcGV r ty s = .ok ((match r with
      | .g r => broadcast ty (s.me.greg r)
      | .v r => s.me.v[r]), s) := by
  cases r with
  | g r => simp [srcGV, op_bind, srcG_plain h]
  | v r => rfl

theorem advance_eq (s : State) : advance s = .ok ((), s.modMe fun t => { t with ip := s.following }) := rfl

@[simp] theorem Thread.cure_ip (t : Thread) (r : GV) : (t.cure r).ip = t.ip := rfl

@[simp] theorem Thread.setG_ip (t : Thread) (r : GReg) (x : W64) : (t.setG r x).ip = t.ip := by
  unfold Thread.setG
  split <;> rfl

@[simp] theorem Thread.setG_qmap (t : Thread) (r : GReg) (x : W64) : (t.setG r x).qmap = t.qmap := by
  unfold Thread.setG
  split <;> rfl

@[simp] theorem Thread.setG_wait (t : Thread) (r : GReg) (x : W64) : (t.setG r x).wait = t.wait := by
  unfold Thread.setG
  split <;> rfl

@[simp] theorem Thread.setG_maps (t : Thread) (r : GReg) (x : W64) (q : GV) : (t.setG r x).maps q = t.maps q := by
  cases q <;> simp [Thread.maps]

@[simp] theorem Thread.setG_mul (t : Thread) (r : GReg) (x : W64) : (t.setG r x).mul = t.mul := by
  unfold Thread.setG
  split <;> rfl

/-- Reading a g register after a write (R89): g0 reads zero and discards. -/
theorem Thread.greg_setG (t : Thread) (d r : GReg) (x : W64) :
    (t.setG d x).greg r = if d = r ∧ r.val ≠ 0 then x else t.greg r := by
  unfold Thread.setG Thread.greg
  by_cases hr : r.val = 0
  · simp [hr]
  · by_cases h : d = r
    · subst h
      simp only [beq_iff_eq, hr, if_false, Thread.cure, vector_get_set, if_true, ne_eq, not_false_eq_true, and_self]
    · by_cases hd : d.val = 0
      · simp only [beq_iff_eq, hd, if_true, h, false_and, if_false]
      · simp only [beq_iff_eq, hd, hr, if_false, Thread.cure, vector_get_set, h, false_and]

@[simp] theorem State.following_modMe (s : State) (f : Thread → Thread) (h : (f s.me).ip = s.me.ip) :
    (s.modMe f).following = s.following := by simp [State.following, h]

/-- An instruction that writes its thread and advances. -/
theorem State.run_advance {s : State} {body : Op Unit} {f : Thread → Thread}
    (h : body s = .ok ((), (s.modMe f).modMe fun t => { t with ip := s.following })) : s.run body = .next (s.retire f) := by
  rw [State.run_ok h]
  simp only [State.modMe_modMe, State.modMe_modThread, State.retire, State.goTo]

/-- An instruction that only advances. -/
theorem State.run_pass {s : State} {body : Op Unit} (h : body s = .ok ((), s.modMe fun t => { t with ip := s.following })) :
    s.run body = .next (s.retire id) := by
  rw [State.run_ok h]
  simp only [State.modMe_modThread, State.retire, State.goTo]
  rfl

/-- An instruction that leaves a state t in which its thread goes on at an IP. -/
theorem State.run_goTo {s t : State} {body : Op Unit} {f : Thread → Thread} {ip : W64}
    (h : body s = .ok ((), t.modMe fun x => { f x with ip := ip })) (hc : t.cur = s.cur) :
    s.run body = .next (t.goTo ip f) := by
  rw [State.run_ok h, ← hc]
  simp only [State.modMe_modThread, State.goTo]

/-! ### What translating and entering leave -/

theorem State.walkNow_keeps (s : State) (c : CoreIx) (p : PartIx) (va : Nat) (need : Need) :
    (s.walkNow c p va need).1.cur = s.cur ∧ (s.walkNow c p va need).1.threads = s.threads := by
  unfold State.walkNow
  cases walk s.mem (s.part p) va need with
  | error e => cases e <;> exact ⟨rfl, rfl⟩
  | ok r =>
    simp only
    split
    · split <;> exact ⟨rfl, rfl⟩
    · exact ⟨rfl, rfl⟩

theorem State.translate_keeps (s : State) (c : CoreIx) (p : PartIx) (va : Nat) (need : Need) :
    (s.translate c p va need).1.cur = s.cur ∧ (s.translate c p va need).1.threads = s.threads := by
  unfold State.translate
  simp only
  split
  · exact ⟨rfl, rfl⟩
  · split
    · exact ⟨rfl, rfl⟩
    · exact (State.count s c 5 1).walkNow_keeps c p va need

theorem State.readLine_keeps (s : State) (c : CoreIx) (p : PartIx) (va : W64) :
    (s.readLine c p va).1.cur = s.cur ∧ (s.readLine c p va).1.threads = s.threads := by
  unfold State.readLine
  have h := s.translate_keeps c p va.toNat needX
  split
  · exact ⟨rfl, rfl⟩
  · split <;> rename_i heq <;> simp only [heq] at h
    · split <;> exact h
    · exact h
    · exact h

theorem State.fetchLine_keeps (s : State) (c : CoreIx) (va : W64) :
    (s.fetchLine c va).1.cur = s.cur ∧ (s.fetchLine c va).1.threads = s.threads := by
  unfold State.fetchLine
  have h := s.readLine_keeps c (s.partOf (CoreIx.cluster c)) va
  split
  · split
    · exact ⟨rfl, rfl⟩
    · split <;> exact ⟨rfl, rfl⟩
  · split <;> rename_i heq
    · simp only [heq] at h
      exact h
    · exact h

/-- Entering a line changes no thread. -/
theorem State.enter_keeps (s : State) (c : CoreIx) (ip : W64) :
    (s.enter c ip).1.cur = s.cur ∧ (s.enter c ip).1.threads = s.threads := by
  unfold State.enter
  have h := s.fetchLine_keeps c (lineBase ip)
  split <;> rename_i heq <;> simp only [heq] at h
  · exact h
  · exact h
  · simp only
    split
    · exact h
    · split <;> exact h

theorem State.enter_cur {s t : State} {c : CoreIx} {ip : W64} {e : Entry} (h : s.enter c ip = (t, e)) : t.cur = s.cur := by
  have := (s.enter_keeps c ip).1
  rwa [h] at this

theorem State.enter_me {s t : State} {c : CoreIx} {ip : W64} {e : Entry} (h : s.enter c ip = (t, e)) : t.me = s.me := by
  have := s.enter_keeps c ip
  rw [h] at this
  obtain ⟨h1, h2⟩ := this
  simp only at h1 h2
  simp only [State.me, State.thread, h1, h2]

/-- The cores that a condition holds of are those of the list. -/
theorem State.mem_coresWith {s : State} {f : Core → Bool} {c : CoreIx} : c ∈ s.coresWith f ↔ f (s.core c) = true := by
  have zip : ∀ x, x ∈ (List.finRange 1024).zip s.cores.toList ↔ x.2 = s.core x.1 := by
    rintro ⟨d, k⟩
    rw [List.mem_iff_getElem]
    constructor
    · rintro ⟨n, hn, he⟩
      simp only [List.getElem_zip, Prod.mk.injEq, List.getElem_finRange] at he
      obtain ⟨rfl, rfl⟩ := he
      simp [State.core]
    · intro h
      exact ⟨d.val, by simp, by simp_all [State.core]⟩
  simp [State.coresWith, zip]

end Sys2Proof.Machine
end

