-- ==== Sys2Proof/Laws/Scalar.lean ====
section
/-! SUPPORT. The moulds of the scalar class: what they answer when their operands are the thread's own. -/

namespace Sys2Proof.Machine

theorem State.plain_src {s : State} {srcs dsts : List GV} (h : s.plain srcs dsts) {r : GV} (hr : r ∈ srcs) :
    s.me.maps r = false := (h.1 r (List.mem_append_left _ hr)).1

theorem State.plain_dst {s : State} {srcs dsts : List GV} (h : s.plain srcs dsts) {r : GV} (hr : r ∈ dsts) :
    s.me.maps r = false := (h.1 r (List.mem_append_right _ hr)).1

/-- A write of a g register, then the advance. -/
theorem dstG_advance {s : State} {d : GReg} (x : W64) (h : s.me.maps (.g d) = false) :
    (do dstG d x; advance : Op Unit) s = .ok ((), (s.modMe fun t => t.setG d x).modMe fun t => { t with ip := s.following }) := by
  rw [op_bind_ok (dstG_plain x h), advance_eq, State.following_modMe _ _ (by simp)]

theorem scalar2_run {s : State} {d a b : GReg} (f : W64 → W64 → W64) (h : s.plain [.g a, .g b] [.g d]) :
    s.run (scalar2 f d a b) = .next (s.retire fun t => t.setG d (f (s.me.greg a) (s.me.greg b))) := by
  apply State.run_advance
  unfold scalar2
  rw [op_bind_ok (ready_plain h), op_bind_ok (srcG_plain (State.plain_src h (by simp))),
    op_bind_ok (srcG_plain (State.plain_src h (by simp))), dstG_advance _ (State.plain_dst h (by simp))]

theorem scalar1_run {s : State} {d a : GReg} (f : W64 → W64) (h : s.plain [.g a] [.g d]) :
    s.run (scalar1 f d a) = .next (s.retire fun t => t.setG d (f (s.me.greg a))) := by
  apply State.run_advance
  unfold scalar1
  rw [op_bind_ok (ready_plain h), op_bind_ok (srcG_plain (State.plain_src h (by simp))),
    dstG_advance _ (State.plain_dst h (by simp))]

end Sys2Proof.Machine
end

