-- ==== Sys2Proof/Laws/Vector.lean ====
section
/-! SUPPORT. Lanes and elements, and the moulds of the vector class: what they answer when their operands are the thread's
own. -/

namespace Sys2Proof.Machine

/-! ### Elements -/

theorem laneSplit_eq (ty : ETy) (x : W32) : laneSplit ty x = (List.range (32 / ty.width)).map (elementOf ty x) := by
  have h := x.isLt
  cases ty <;> simp [laneSplit, elementOf, ETy.width, List.range_succ] <;> omega

@[simp] theorem laneSplit_length (ty : ETy) (x : W32) : (laneSplit ty x).length = 32 / ty.width := by
  simp [laneSplit_eq]

/-- An element of a lane made from its elements, each reduced to the element width. -/
theorem elementOf_laneJoin (ty : ETy) (f : Nat → Nat) {j : Nat} (h : j < 32 / ty.width) :
    elementOf ty (laneJoin ty ((List.range (32 / ty.width)).map f)) j = f j % 2 ^ ty.width := by
  cases ty <;> simp only [laneJoin, elementOf, ETy.width, List.range_succ, BitVec.toNat_ofNat] at h ⊢ <;>
    simp only [Nat.reduceDiv, Nat.reducePow, List.range_zero, List.nil_append, List.map_cons, List.map_nil,
      List.cons_append, List.foldr_cons, List.foldr_nil] at h ⊢ <;>
    interval_cases j <;> simp <;> omega

theorem elementOf_broadcast (ty : ETy) (x : W64) (n : Fin 32) {j : Nat} (h : j < 32 / ty.width) :
    elementOf ty (broadcast ty x)[n] j = x.toNat % 2 ^ ty.width := by
  have := elementOf_laneJoin ty (fun _ => x.toNat) h
  simpa [broadcast, List.map_const'] using this

theorem foldl_or_getLsbD {α : Type} (g : α → Flags) (xs : List α) (z : Flags) (b : Nat) :
    (xs.foldl (fun acc r => acc ||| g r) z).getLsbD b = true ↔ z.getLsbD b = true ∨ ∃ x ∈ xs, (g x).getLsbD b = true := by
  induction xs generalizing z with
  | nil => simp
  | cons x xs ih => simp [ih, or_assoc]

theorem zip_map_range {α : Type} (n : Nat) (f g h : Nat → α) :
    ((List.range n).map f).zip (((List.range n).map g).zip ((List.range n).map h)) =
      (List.range n).map fun j => (f j, g j, h j) := by
  apply List.ext_getElem <;> simp

/-- One lane of an element-wise operation, element by element. -/
theorem laneOp_fst (ty : ETy) (f : Nat → Nat → Nat → Nat × Flags) (a b c : W32) {j : Nat} (h : j < 32 / ty.width) :
    elementOf ty (laneOp ty f a b c).1 j =
      (f (elementOf ty a j) (elementOf ty b j) (elementOf ty c j)).1 % 2 ^ ty.width := by
  have := elementOf_laneJoin ty (fun j => (f (elementOf ty a j) (elementOf ty b j) (elementOf ty c j)).1) h
  simpa only [laneOp, laneSplit_eq, zip_map_range, List.map_map, Function.comp_def] using this

theorem laneOp_snd (ty : ETy) (f : Nat → Nat → Nat → Nat × Flags) (x y z : W32) (b : Nat) :
    (laneOp ty f x y z).2.getLsbD b = true ↔
      ∃ j < 32 / ty.width, (f (elementOf ty x j) (elementOf ty y j) (elementOf ty z j)).2.getLsbD b = true := by
  simp only [laneOp, laneSplit_eq, zip_map_range, List.map_map, foldl_or_getLsbD (fun r : Nat × Flags => r.2)]
  simp

theorem laneFlags_getLsbD (mask : W32) (fl : Vector Flags 32) (b : Nat) :
    (laneFlags mask fl).getLsbD b = true ↔ ∃ n : Fin 32, mask.getLsbD n = true ∧ fl[n].getLsbD b = true := by
  have h : laneFlags mask fl = (List.finRange 32).foldl (fun acc i => acc ||| if mask.getLsbD i.val then fl[i] else 0) 0 := by
    unfold laneFlags
    congr 1
    funext acc i
    split <;> simp
  rw [h, foldl_or_getLsbD]
  constructor
  · rintro (h | ⟨n, -, h⟩)
    · simp at h
    · refine ⟨n, ?_⟩
      split at h
      · exact ⟨‹_›, h⟩
      · simp at h
  · rintro ⟨n, hn, h⟩
    exact Or.inr ⟨n, by simp, by simpa [hn] using h⟩

theorem mergeV_getElem (mask : W32) (z : Bool) (old r : Vec) (n : Fin 32) :
    (mergeV mask z old r)[n] = if mask.getLsbD n then r[n] else if z then 0 else old[n] := by
  simp [mergeV]

/-! ### Operands -/

/-- The register that a source of class GV gives (R110). -/
def State.operand (s : State) (ty : ETy) (r : GV) : Vec :=
  match r with
  | .g r => broadcast ty (s.me.greg r)
  | .v r => s.me.v[r]

theorem State.srcGV_operand {s : State} {r : GV} (ty : ETy) (h : s.me.maps r = false) :
    srcGV r ty s = .ok (s.operand ty r, s) := by
  rw [srcGV_plain ty h]
  cases r <;> rfl

theorem State.operand_element (s : State) (ty : ETy) (r : GV) (n : Fin 32) {j : Nat} (h : j < 32 / ty.width) :
    elementOf ty (s.operand ty r)[n] j = s.element r ty n j := by
  cases r with
  | g r => exact elementOf_broadcast ty _ n h
  | v r => simp only [State.operand, State.element]

/-! ### The moulds -/

theorem State.modMe_congr {s : State} {f g : Thread → Thread} (h : f s.me = g s.me) : s.modMe f = s.modMe g :=
  congrArg (s.setThread s.cur) h

theorem dstV_eq (s : State) (d : VReg) (m : Mask) (r : Vec) :
    dstV d m r s = .ok ((), s.modMe fun t => t.setV d (mergeV (s.me.kreg m.k) m.z s.me.v[d] r)) := by
  unfold dstV
  rw [op_modify, State.modMe_congr (g := fun t => t.setV d (mergeV (s.me.kreg m.k) m.z s.me.v[d] r)) rfl]

theorem setFlags_eq (s : State) (fl : Flags) : setFlags fl s = .ok ((), s.modMe fun t => t.raiseFlags fl) := by
  unfold setFlags
  rw [op_modify]

@[simp] theorem Thread.setV_ip (t : Thread) (r : VReg) (x : Vec) : (t.setV r x).ip = t.ip := rfl
@[simp] theorem Thread.raiseFlags_ip (t : Thread) (fl : Flags) : (t.raiseFlags fl).ip = t.ip := rfl

/-- The flags and the advance after an update that leaves the IP. -/
theorem flags_advance (s : State) (f : Thread → Thread) (fl : Flags) (h : (f s.me).ip = s.me.ip) :
    (do setFlags fl; advance : Op Unit) (s.modMe f) =
      .ok ((), (s.modMe fun t => (f t).raiseFlags fl).modMe fun t => { t with ip := s.following }) := by
  rw [op_bind_ok (setFlags_eq ..), State.modMe_modMe, advance_eq, State.following_modMe]
  simp [h]

/-- A v register under the mask, the flags and the advance. -/
theorem dstV_advance (s : State) (d : VReg) (m : Mask) (r : Vec) (fl : Flags) :
    (do dstV d m r; setFlags fl; advance : Op Unit) s =
      .ok ((), (s.modMe fun t => (t.setV d (mergeV (s.me.kreg m.k) m.z s.me.v[d] r)).raiseFlags fl).modMe
        fun t => { t with ip := s.following }) := by
  rw [op_bind_ok (dstV_eq ..), flags_advance]
  simp

theorem srcK_eq (s : State) (k : KReg) : srcK k s = .ok (s.me.kreg k, s) := rfl
theorem srcV_eq (s : State) (r : VReg) : srcV r s = .ok (s.me.v[r], s) := rfl

theorem vec3_run {s : State} {ty : ETy} {m : Mask} {d : VReg} {a b c : GV} (f : Nat → Nat → Nat → Nat × Flags)
    (h : s.plain [a, b, c] [.v d]) :
    let r := lanewise ty (s.me.kreg m.k) f (s.operand ty a) (s.operand ty b) (s.operand ty c)
    s.run (vec3 ty m f d a b c) =
      .next (s.retire fun t => (t.setV d (mergeV (s.me.kreg m.k) m.z s.me.v[d] r.1)).raiseFlags r.2) := by
  apply State.run_advance
  unfold vec3
  rw [op_bind_ok (ready_plain h (keptBy_sub m d _)), op_bind_ok (State.srcGV_operand ty (h.1 a (by simp)).1),
    op_bind_ok (State.srcGV_operand ty (h.1 b (by simp)).1), op_bind_ok (State.srcGV_operand ty (h.1 c (by simp)).1),
    op_bind_ok (srcK_eq ..)]
  generalize lanewise _ _ _ _ _ _ = p
  obtain ⟨r, fl⟩ := p
  dsimp only
  rw [dstV_advance]

theorem vec2_run {s : State} {ty : ETy} {m : Mask} {d : VReg} {a b : GV} (f : Nat → Nat → Nat × Flags)
    (h : s.plain [a, b] [.v d]) :
    let r := lanewise ty (s.me.kreg m.k) (fun x y _ => f x y) (s.operand ty a) (s.operand ty b) (s.operand ty a)
    s.run (vec2 ty m f d a b) =
      .next (s.retire fun t => (t.setV d (mergeV (s.me.kreg m.k) m.z s.me.v[d] r.1)).raiseFlags r.2) := by
  apply State.run_advance
  unfold vec2
  rw [op_bind_ok (ready_plain h (keptBy_sub m d _)), op_bind_ok (State.srcGV_operand ty (h.1 a (by simp)).1),
    op_bind_ok (State.srcGV_operand ty (h.1 b (by simp)).1), op_bind_ok (srcK_eq ..)]
  generalize lanewise _ _ _ _ _ _ = p
  obtain ⟨r, fl⟩ := p
  dsimp only
  rw [dstV_advance]

theorem vec1_run {s : State} {ty : ETy} {m : Mask} {d : VReg} {a : GV} (f : Nat → Nat × Flags) (h : s.plain [a] [.v d]) :
    let r := lanewise ty (s.me.kreg m.k) (fun x _ _ => f x) (s.operand ty a) (s.operand ty a) (s.operand ty a)
    s.run (vec1 ty m f d a) =
      .next (s.retire fun t => (t.setV d (mergeV (s.me.kreg m.k) m.z s.me.v[d] r.1)).raiseFlags r.2) := by
  apply State.run_advance
  unfold vec1
  rw [op_bind_ok (ready_plain h (keptBy_sub m d _)), op_bind_ok (State.srcGV_operand ty (h.1 a (by simp)).1), op_bind_ok (srcK_eq ..)]
  generalize lanewise _ _ _ _ _ _ = p
  obtain ⟨r, fl⟩ := p
  dsimp only
  rw [dstV_advance]

/-- An instruction that leaves an element-wise result under its mask computes it element by element. -/
theorem State.computes_lanewise {s : State} {i : Instr} {ty : ETy} {m : Mask} {d : VReg} {a b c : GV}
    {f : Nat → Nat → Nat → Nat × Flags}
    (h : let r := lanewise ty (s.me.kreg m.k) f (s.operand ty a) (s.operand ty b) (s.operand ty c)
      exec i s = .next (s.retire fun t => (t.setV d (mergeV (s.me.kreg m.k) m.z s.me.v[d] r.1)).raiseFlags r.2)) :
    s.computes i d ty m fun n j =>
      let r := f (s.element a ty n j) (s.element b ty n j) (s.element c ty n j)
      (r.1, r.2) := by
  refine ⟨_, _, h, ?_, ?_⟩
  · intro n
    rw [mergeV_getElem]
    refine ⟨fun hn j hj => ?_, fun hn => by simp only [hn, Bool.false_eq_true, if_false]⟩
    have := laneOp_fst ty f (s.operand ty a)[n] (s.operand ty b)[n] (s.operand ty c)[n] hj
    simp only [State.operand_element _ _ _ _ hj] at this
    simp only [hn, if_true, lanewise, Vector.getElem_map, Fin.getElem_fin, Vector.getElem_ofFn] at this ⊢
    rw [this]
    norm_cast
  · intro k
    simp only [lanewise, laneFlags_getLsbD, Vector.getElem_map, Fin.getElem_fin, Vector.getElem_ofFn, laneOp_snd]
    constructor
    · rintro ⟨n, hn, j, hj, h⟩
      refine ⟨n, j, hn, hj, ?_⟩
      simp only [← State.operand_element _ _ _ _ hj]
      exact h
    · rintro ⟨n, j, hn, hj, h⟩
      refine ⟨n, hn, j, hj, ?_⟩
      simp only [← State.operand_element _ _ _ _ hj] at h
      exact h

/-- The mould of the reductions: D and the flags. -/
theorem dstG_flags_advance {s : State} {d : GReg} (x : W64) (fl : Flags) (h : s.me.maps (.g d) = false) :
    (do dstG d x; setFlags fl; advance : Op Unit) s =
      .ok ((), (s.modMe fun t => (t.setG d x).raiseFlags fl).modMe fun t => { t with ip := s.following }) := by
  rw [op_bind_ok (dstG_plain x h), flags_advance]
  simp

theorem reduce_run {s : State} {d : GReg} {a : VReg} {ty : ETy} {k : KReg} (f : List Nat → W64 × Flags)
    (h : s.plain [.v a] [.g d]) :
    let r := f (selectedElems ty (s.me.kreg k) s.me.v[a])
    s.run (reduce f d a ty k) = .next (s.retire fun t => (t.setG d r.1).raiseFlags r.2) := by
  apply State.run_advance
  unfold reduce
  rw [op_bind_ok (ready_plain h), op_bind_ok (srcV_eq ..), op_bind_ok (srcK_eq ..)]
  generalize f _ = p
  obtain ⟨r, fl⟩ := p
  dsimp only
  rw [dstG_flags_advance _ _ (h.1 (.g d) (by simp)).1]

theorem indexedExtreme_run {s : State} {max : Bool} {d : GReg} {a : VReg} {ty : ETy} {k : KReg}
    (h : s.plain [.v a] [.g d]) :
    let r := indexed ty max (selectedLanes (s.me.kreg k) s.me.v[a])
    s.run (indexedExtreme max d a ty k) = .next (s.retire fun t => (t.setG d r.1).raiseFlags r.2) := by
  apply State.run_advance
  unfold indexedExtreme
  rw [op_bind_ok (ready_plain h), op_bind_ok (srcV_eq ..), op_bind_ok (srcK_eq ..)]
  generalize indexed _ _ _ = p
  obtain ⟨r, fl⟩ := p
  dsimp only
  rw [dstG_flags_advance _ _ (h.1 (.g d) (by simp)).1]

end Sys2Proof.Machine
end

