-- ==== Sys2Proof/Tests/Slice0.lean ====
section
/-! SUPPORT. The model's own tests: ill-formed terms that the check refuses, words of the spec's encodings, witnesses that
meet the hypotheses of each statement, and single steps on a small state whose results are the spec's. -/

namespace Sys2Proof.Tests

open Sys2Proof Sys2Proof.Machine

set_option maxRecDepth 20000
set_option Elab.async false

/-- A register file that begins with some values and is zero after them. -/
def regs (xs : List W64) : Vector W64 32 := Vector.ofFn fun i => xs.getD i.val 0

/-- The thread of withFetchWord in slot 0 of cluster 0, partition 0, with some g registers. -/
def bench (xs : List W64) : State := (State.reset.withFetchWord 16 0).modThread 0 fun t => { t with g := regs xs }

/-- A v register that begins with some lanes and is zero after them. -/
def vec (xs : List W32) : Vec := Vector.ofFn fun i => xs.getD i.val 0

/-- The thread of bench with some v and k registers. -/
def benchV (xs : List W64) (vs : List Vec) (ks : List W32) : State := (bench xs).modThread 0 fun t => { t with
  v := Vector.ofFn fun i => vs.getD i.val (vec [])
  k := Vector.ofFn fun i => ks.getD i.val 0 }

/-- An instruction answers a next state with a property. -/
def yields (i : Instr) (s : State) (p : State → Bool) : Bool :=
  match exec i s with
  | .next t => p t
  | _ => false

/-- A check of addresses answers with a property. -/
def passing {α : Type} (r : Except Stop (α × State)) (p : α → State → Bool) : Bool :=
  match r with
  | .ok x => p x.1 x.2
  | .error _ => false

/-- The IP after the instruction of bench, which has one parcel of head (R37). -/
def thenIp : W64 := 0x10041


/-- Nothing of the current core holds an access back, of those things that State.unheld names. -/
def free (s : State) (l : Lane) : Bool :=
  s.myCore.lock.isNone && s.myCore.journal.isEmpty && s.myCore.tile.epi.isEmpty && s.myCore.tile.running.isNone &&
  !s.scoreHolds (SlotIx.core s.cur) l.va l.size true && !s.tileHolds s.cur l && !s.behindPosted l && !s.fabricFails s.cur l

/-! ### Ill-formed terms, one for each check of Instr.wf -/

theorem test_wf_rdc : (Instr.rdc 1 0x007).wf = false := by decide
theorem test_wf_wrc : (Instr.wrc 1 0x070).wf = false := by decide
theorem test_wf_splock : (Instr.splock 1 0).wf = false ∧ (Instr.splock 1 65).wf = false := by decide
theorem test_wf_shifts : (Instr.shli 1 2 64).wf = false ∧ (Instr.shri 1 2 64).wf = false ∧ (Instr.sari 1 2 64).wf = false := by
  decide
theorem test_wf_rounding : (Instr.vadd 1 (.v 2) (.v 3) .s32 .ru ⟨0, false⟩).wf = false ∧
    (Instr.vsub 1 (.v 2) (.v 3) .s8 .rz ⟨0, false⟩).wf = false ∧ (Instr.vmul 1 (.v 2) (.v 3) .n32 .rd ⟨0, false⟩).wf = false ∧
    (Instr.vfma 1 (.v 2) (.v 3) 4 .s16 .rz ⟨0, false⟩).wf = false := by decide
theorem test_wf_vector_shifts : (Instr.vshl 1 (.v 2) (.v 3) .f32 ⟨0, false⟩).wf = false ∧
    (Instr.vshr 1 (.v 2) (.v 3) .f16 ⟨0, false⟩).wf = false ∧ (Instr.vsar 1 (.v 2) (.v 3) .bf16 ⟨0, false⟩).wf = false := by decide
theorem test_wf_vcvt : (Instr.vcvt 1 2 .f32 .bf16 .rne 2 ⟨0, false⟩).wf = false ∧
    (Instr.vcvt 1 2 .s8 .f32 .rne 4 ⟨0, false⟩).wf = false ∧ (Instr.vcvt 1 2 .f32 .s32 .rne 1 ⟨0, false⟩).wf = false := by decide
theorem test_wf_vcmp : (Instr.vcmp (.int .lts) .s16 1 (.v 2) (.v 3) ⟨0, false⟩).wf = false ∧
    (Instr.vcmp (.flt .flt) .s32 1 (.v 2) (.v 3) ⟨0, false⟩).wf = false := by decide
theorem test_wf_lanes : (Instr.vext 1 2 3 .f16).wf = false ∧ (Instr.vmaxi 1 2 .s8 0).wf = false ∧
    (Instr.vmini 1 2 .bf16 0).wf = false ∧ (Instr.vpopc 1 2 .f32 ⟨0, false⟩).wf = false := by decide
theorem test_wf_st : (Instr.st 1 2 3 .s8 0).wf = false ∧ (Instr.st 1 2 3 .s32 0).wf = false := by decide
theorem test_wf_amo : (Instr.amo .fadd .i32 false 1 2 3 4).wf = false ∧ (Instr.amo .add .f32 false 1 2 3 4).wf = false ∧
    (Instr.amo .swap .i32 true 1 2 3 4).wf = false ∧ (Instr.amo .add .i64 true 1 2 3 4).wf = false ∧
    (Instr.amocas .f32 1 2 3 4).wf = false ∧ (Instr.vamo .add .i64 false 1 2 3 4 0 0).wf = false ∧
    (Instr.vamo .fmax .f32 true 1 2 3 4 0 0).wf = false := by decide
theorem test_wf_frame : (Instr.frame 1 2 0).wf = false ∧ (Instr.frame 1 2 32768).wf = false := by decide
theorem test_wf_tepi : (Instr.tepi .n32 .none .rne 1 2 3 0).wf = false := by decide
theorem test_wf_recv : (Instr.recv 0 31).wf = false := by decide
theorem test_wf_grpred : (Instr.grpred .fsum .s64 false 1 2 3).wf = false ∧ (Instr.grpred .sum .n64 true 1 2 3).wf = false := by decide

/-! ### Words written out from the encodings of the spec -/

theorem test_decode_01 :
    decode 0x0000 [] = .ok (.nop) ∧
    decode 0x0040 [] = .ok (.rlx) ∧
    decode 0x8084 [0x0000, 0x0010] = .ok (.rdc 4 0x10) ∧
    decode 0x8084 [0x0000, 0x0005] = .ok (.rdc 4 0x5) ∧
    decode 0x80C5 [0x0000, 0x0010] = .ok (.wrc 5 0x10) ∧
    decode 0x8100 [0x0000, 0x0012] = .ok (.trap 0x12) ∧
    decode 0x0140 [] = .ok (.rett) ∧
    decode 0x01C0 [] = .ok (.yield) ∧
    decode 0x0200 [] = .ok (.exit) ∧
    decode 0x8240 [0x1000, 0x0008] = .ok (.splock 4 0x8) ∧
    decode 0x4285 [0x0000] = .ok (.spunlock 5) := by
  decide

theorem test_decode_02 :
    decode 0x42C0 [0x1000] = .ok (.tlbinvPage 4) ∧
    decode 0x42C0 [0x1052] = .ok (.tlbinvRange 4 5) ∧
    decode 0x42C0 [0x0004] = .ok (.tlbinvAll) ∧
    decode 0x4306 [0x1050] = .ok (.cxsave 6 4 5) ∧
    decode 0x4346 [0x1000] = .ok (.cxload 6 4) ∧
    decode 0x4403 [0x1050] = .ok (.add 3 4 5) ∧
    decode 0x445F [0x79D0] = .ok (.sub 31 30 29) ∧
    decode 0x449F [0x79D0] = .ok (.mul 31 30 29) ∧
    decode 0x44C8 [0x24A0] = .ok (.mulhs 8 9 10) ∧
    decode 0x451F [0x79D0] = .ok (.mulhn 31 30 29) ∧
    decode 0x455F [0x79D0] = .ok (.divs 31 30 29) := by
  decide

theorem test_decode_03 :
    decode 0x459F [0x79D0] = .ok (.divn 31 30 29) ∧
    decode 0x45DF [0x79D0] = .ok (.rems 31 30 29) ∧
    decode 0x461F [0x79D0] = .ok (.remn 31 30 29) ∧
    decode 0x465F [0x79D0] = .ok (.and 31 30 29) ∧
    decode 0x469F [0x79D0] = .ok (.or 31 30 29) ∧
    decode 0x46DF [0x79D0] = .ok (.xor 31 30 29) ∧
    decode 0x471F [0x79D0] = .ok (.andn 31 30 29) ∧
    decode 0x475F [0x79D0] = .ok (.shl 31 30 29) ∧
    decode 0x479F [0x79D0] = .ok (.shr 31 30 29) ∧
    decode 0x47DF [0x79D0] = .ok (.sar 31 30 29) ∧
    decode 0x481F [0x79D0] = .ok (.mins 31 30 29) := by
  decide

theorem test_decode_04 :
    decode 0x485F [0x79D0] = .ok (.minn 31 30 29) ∧
    decode 0x489F [0x79D0] = .ok (.maxs 31 30 29) ∧
    decode 0x48DF [0x79D0] = .ok (.maxn 31 30 29) ∧
    decode 0x8906 [0x1052, 0x0000] = .ok (.cmp .lts 6 4 5) ∧
    decode 0x8946 [0x1004, 0xFFFF] = .ok (.cmpi .ltn 6 4 0xFFFF) ∧
    decode 0x8987 [0x2090, 0x000A] = .ok (.sel 7 8 9 10) ∧
    decode 0x898C [0x0030, 0x000B] = .ok (.sel 12 0 3 11) ∧
    decode 0x49DF [0x7800] = .ok (.clz 31 30) ∧
    decode 0x4A1F [0x7800] = .ok (.ctz 31 30) ∧
    decode 0x4A43 [0x1000] = .ok (.popc 3 4) ∧
    decode 0x8A83 [0x1001, 0x0000] = .ok (.ext .s16 3 4) := by
  decide

theorem test_decode_05 :
    decode 0x8AC3 [0x1000, 0xFFFF] = .ok (.addi 3 4 0xFFFF) ∧
    decode 0x8B1F [0x7800, 0x8001] = .ok (.andi 31 30 0x8001) ∧
    decode 0x8B5F [0x7800, 0x8001] = .ok (.ori 31 30 0x8001) ∧
    decode 0x8B9F [0x7800, 0x8001] = .ok (.xori 31 30 0x8001) ∧
    decode 0x8BDF [0x7800, 0x003F] = .ok (.shli 31 30 63) ∧
    decode 0x8BDF [0x7801, 0x003F] = .ok (.shri 31 30 63) ∧
    decode 0x8BC3 [0x1002, 0x0007] = .ok (.sari 3 4 0x7) ∧
    decode 0xCC0A [0x0000, 0xFFFB, 0xFFFF] = .ok (.li 10 0xFFFFFFFB) ∧
    decode 0xCC4A [0x0000, 0x1234, 0x0000] = .ok (.lih 10 0x1234) ∧
    decode 0xCC44 [0x0000, 0x0000, 0xFF10] = .ok (.lih 4 0xFF100000) ∧
    decode 0x8C83 [0x1053, 0x0008] = .ok (.lea 3 4 5 0x3 0x8) := by
  decide

theorem test_decode_06 :
    decode 0xCE00 [0x0000, 0x0022, 0x0000] = .ok (.b 0x22) ∧
    decode 0xCE40 [0x1800, 0xFFE1, 0xFFFF] = .ok (.bz 6 0xFFFFFFE1) ∧
    decode 0xCE80 [0x1800, 0x0022, 0x0000] = .ok (.bnz 6 0x22) ∧
    decode 0xCEC0 [0x1052, 0xFFC3, 0xFFFF] = .ok (.bcc .lts 4 5 0xFFFFFFC3) ∧
    decode 0xCF01 [0x0000, 0x0061, 0x0000] = .ok (.call 1 0x61) ∧
    decode 0x4F41 [0x2400] = .ok (.callr 1 9) ∧
    decode 0x4F80 [0x0400] = .ok (.jr 1) ∧
    decode 0x9025 [0x9876, 0x0000] = .ok (.vadd 5 (.v 6) (.g 7) .s32 .rne ⟨3, false⟩) ∧
    decode 0x9067 [0x5210, 0x4000] = .ok (.vsub 7 (.g 20) (.v 1) .f32 .rne ⟨0, false⟩) ∧
    decode 0x90AA [0xAEC8, 0x6800] = .ok (.vmul 10 (.v 11) (.v 12) .bf16 .rz ⟨4, false⟩) ∧
    decode 0x90E1 [0x8A35, 0x4024] = .ok (.vfma 1 (.v 2) (.v 3) 4 .f32 .rne ⟨2, true⟩) := by
  decide

theorem test_decode_07 :
    decode 0x90E3 [0x88C2, 0x4021] = .ok (.vfma 3 (.v 2) (.g 12) 1 .f32 .rne ⟨1, false⟩) ∧
    decode 0x913F [0xF9D5, 0x0000] = .ok (.vmin 31 (.v 30) (.g 29) .s32 ⟨2, true⟩) ∧
    decode 0x917F [0xF9D5, 0x0000] = .ok (.vmax 31 (.v 30) (.g 29) .s32 ⟨2, true⟩) ∧
    decode 0x91BF [0xF805, 0x0000] = .ok (.vabs 31 (.v 30) .s32 ⟨2, true⟩) ∧
    decode 0x91FF [0xF805, 0x0000] = .ok (.vneg 31 (.v 30) .s32 ⟨2, true⟩) ∧
    decode 0x923F [0xF9D5, 0x0000] = .ok (.vand 31 (.v 30) (.g 29) .s32 ⟨2, true⟩) ∧
    decode 0x927F [0xF9D5, 0x0000] = .ok (.vor 31 (.v 30) (.g 29) .s32 ⟨2, true⟩) ∧
    decode 0x92BF [0xF9D5, 0x0000] = .ok (.vxor 31 (.v 30) (.g 29) .s32 ⟨2, true⟩) ∧
    decode 0x92E1 [0x8830, 0xA000] = .ok (.vshl 1 (.v 2) (.g 3) .s16 ⟨0, false⟩) ∧
    decode 0x933F [0xF9D5, 0x0000] = .ok (.vshr 31 (.v 30) (.g 29) .s32 ⟨2, true⟩) ∧
    decode 0x937F [0xF9D5, 0x0000] = .ok (.vsar 31 (.v 30) (.g 29) .s32 ⟨2, true⟩) := by
  decide

theorem test_decode_08 :
    decode 0x93A8 [0xA400, 0x40C1] = .ok (.vcvt 8 9 .f32 .bf16 .rne 0x1 ⟨0, false⟩) ∧
    decode 0x93C3 [0x9252, 0x4480] = .ok (.vcmp (.flt .flt) .f32 3 (.v 4) (.v 5) ⟨1, false⟩) ∧
    decode 0x9423 [0x900A, 0x0000] = .ok (.vsel 3 (.v 4) (.g 0) .s32 5) ∧
    decode 0x9465 [0x9A70, 0x0000] = .ok (.vperm 5 6 7 ⟨0, false⟩) ∧
    decode 0x94A5 [0x9800, 0x0008] = .ok (.vrot 5 6 8 ⟨0, false⟩) ∧
    decode 0x94C9 [0xA800, 0x000B] = .ok (.vext 9 10 11 .s32) ∧
    decode 0x952A [0x1000, 0x000B] = .ok (.vins 10 4 11) ∧
    decode 0x9523 [0x1400, 0x000F] = .ok (.vins 3 5 15) ∧
    decode 0x957F [0x7805, 0x4000] = .ok (.vrcp 31 (.g 30) ⟨2, true⟩) ∧
    decode 0x95A2 [0x8400, 0x4000] = .ok (.vrsqrt 2 (.v 1) ⟨0, false⟩) ∧
    decode 0x95AB [0xA800, 0x4000] = .ok (.vrsqrt 11 (.v 10) ⟨0, false⟩) := by
  decide

theorem test_decode_09 :
    decode 0x95FF [0x7805, 0x4000] = .ok (.vsqrt 31 (.g 30) ⟨2, true⟩) ∧
    decode 0x9621 [0x8A30, 0x4000] = .ok (.vdiv 1 (.v 2) (.v 3) ⟨0, false⟩) ∧
    decode 0x967F [0x7805, 0x4000] = .ok (.vlog2 31 (.g 30) ⟨2, true⟩) ∧
    decode 0x96BF [0x7805, 0x4000] = .ok (.vexp2 31 (.g 30) ⟨2, true⟩) ∧
    decode 0x96C6 [0x8C04, 0x4000] = .ok (.vredsum 6 3 .f32 2) ∧
    decode 0x971F [0xF80A, 0x4000] = .ok (.vredmin 31 30 .f32 5) ∧
    decode 0x975F [0xF80A, 0x4000] = .ok (.vredmax 31 30 .f32 5) ∧
    decode 0x9788 [0x8800, 0x4000] = .ok (.vmaxi 8 2 .f32 0) ∧
    decode 0x97DF [0xF80A, 0x4000] = .ok (.vmini 31 30 .f32 5) ∧
    decode 0x9823 [0x0000, 0x4040] = .ok (.vrng 3 true ⟨0, false⟩) ∧
    decode 0x9864 [0x9660, 0x4000] = .ok (.vresid 4 5 6 ⟨0, false⟩) := by
  decide

theorem test_decode_10 :
    decode 0x98A7 [0xA000, 0x0000] = .ok (.vscan 7 8 .s32 ⟨0, false⟩) ∧
    decode 0x98FF [0xF805, 0x0000] = .ok (.vpopc 31 30 .s32 ⟨2, true⟩) ∧
    decode 0x9901 [0xA400, 0x40C0] = .ok (.vclass 1 9 0x3 ⟨0, false⟩) ∧
    decode 0x59A1 [0x2406] = .ok (.vmov 1 (.g 9) ⟨3, false⟩) ∧
    decode 0x59E2 [0x0000] = .ok (.vidx 2 0 ⟨0, false⟩) ∧
    decode 0x5A01 [0x0830] = .ok (.kand 1 2 3) ∧
    decode 0x5A47 [0x1850] = .ok (.kor 7 6 5) ∧
    decode 0x5A87 [0x1850] = .ok (.kxor 7 6 5) ∧
    decode 0x5AC7 [0x1800] = .ok (.knot 7 6) ∧
    decode 0x5B07 [0x1800] = .ok (.kmovKk 7 6) ∧
    decode 0x5B02 [0x1402] = .ok (.kmovKg 2 5) := by
  decide

theorem test_decode_11 :
    decode 0x5B1F [0x1804] = .ok (.kmovGk 31 6) ∧
    decode 0x5B44 [0x0800] = .ok (.kpopc 4 2) ∧
    decode 0x5B80 [0x1800] = .ok (.rngadv 6) ∧
    decode 0xA007 [0x1462, 0x0010] = .ok (.ld 7 5 6 .n32 0x10) ∧
    decode 0xA007 [0x1406, 0x0000] = .ok (.ld 7 5 0 .w64 0x0) ∧
    decode 0xA048 [0x2406, 0xFFF8] = .ok (.st 8 9 0 .w64 0xFFF8) ∧
    decode 0xA048 [0x24A2, 0x0004] = .ok (.st 8 9 10 .n32 0x4) ∧
    decode 0xE0A4 [0x1464, 0x0000, 0x0080] = .ok (.vld 4 5 (.unit 6) 0x80 ⟨2, false⟩) ∧
    decode 0xE0A4 [0x1400, 0x0047, 0x0000] = .ok (.vld 4 5 (.str 0 7) 0x0 ⟨0, false⟩) ∧
    decode 0xE0E3 [0x1692, 0x0080, 0x0000] = .ok (.vst 3 5 (.gat 9) 0x0 1) ∧
    decode 0xA104 [0x1401, 0x0008] = .ok (.ldsync true 4 5 0 0x8) := by
  decide

theorem test_decode_12 :
    decode 0xA144 [0x1401, 0x0008] = .ok (.stfill true 4 5 0 0x8) ∧
    decode 0xA146 [0x3401, 0x0000] = .ok (.stfill true 6 13 0 0x0) ∧
    decode 0xA180 [0x1400, 0x0000] = .ok (.femark false 5 0 0x0) ∧
    decode 0xA180 [0x3400, 0x0000] = .ok (.femark false 13 0 0x0) ∧
    decode 0xA1C0 [0x1400, 0x0040] = .ok (.pref false 5 0 0x40) ∧
    decode 0xA200 [0x0003, 0x0000] = .ok (.fence .posted) ∧
    decode 0xA244 [0x0002, 0x0000] = .ok (.mbput 4 2) ∧
    decode 0xA284 [0x0002, 0x0000] = .ok (.mbget 4 2) ∧
    decode 0xA404 [0x28B0, 0x2145] = .ok (.amo .maxs .i64 false 4 10 11 5) ∧
    decode 0xA400 [0x2801, 0x4246] = .ok (.amo .fadd .f32 true 0 10 0 6) ∧
    decode 0xA444 [0x2800, 0x2005] = .ok (.amocas .i64 4 10 0 5) := by
  decide

theorem test_decode_13 :
    decode 0xE4A7 [0x2A83, 0x4269, 0x0010] = .ok (.vamo .fadd .f32 true 7 10 8 9 0x10 1) ∧
    decode 0x64C5 [0x0000] = .ok (.amodrain 5) ∧
    decode 0xA800 [0x1052, 0x0000] = .ok (.rgn .w 4 5) ∧
    decode 0xA800 [0x34E2, 0x0000] = .ok (.rgn .w 13 14) ∧
    decode 0x6840 [0x0000] = .ok (.rgnclr) ∧
    decode 0xA880 [0x1051, 0x0000] = .ok (.rgnadd .r 4 5) ∧
    decode 0xA880 [0x79D1, 0x0000] = .ok (.rgnadd .r 30 29) ∧
    decode 0xE8C0 [0x0000, 0x0041, 0x0000] = .ok (.spawn 0x41) ∧
    decode 0xE908 [0x2400, 0x0023, 0x0000] = .ok (.fork 8 9 0x23) ∧
    decode 0x6940 [0x0C00] = .ok (.join 3) ∧
    decode 0x6940 [0x1800] = .ok (.join 6) := by
  decide

theorem test_decode_14 :
    decode 0xA986 [0x0C00, 0x0003] = .ok (.frame 6 3 0x3) ∧
    decode 0xA980 [0x1800, 0x0003] = .ok (.frame 0 6 0x3) ∧
    decode 0x29C0 [] = .ok (.edge) ∧
    decode 0xAC09 [0x2800, 0x0003] = .ok (.meet 9 10 0x3) ∧
    decode 0xAC44 [0x0001, 0x0000] = .ok (.idset true 4) ∧
    decode 0x6C85 [0x0000] = .ok (.unmerge 5) ∧
    decode 0xB000 [0x1050, 0x01C6] = .ok (.tmac ⟨true, true, true⟩ 4 5 6) ∧
    decode 0xB048 [0x1050, 0x0846] = .ok (.tmacr ⟨true, false, false⟩ 1 8 4 5 6) ∧
    decode 0xB080 [0x1C03, 0x0000] = .ok (.tzero .both 7) ∧
    decode 0xF0CA [0x2CC0, 0x6040, 0x0000] = .ok (.tepi .bf16 .relu .rne 10 11 12 0x0) ∧
    decode 0xB123 [0x1000, 0x4080] = .ok (.taccGet true 3 4 2 ⟨0, false⟩) := by
  decide

theorem test_decode_15 :
    decode 0xB13F [0x780A, 0x44C0] = .ok (.taccPut true 31 30 3 5) ∧
    decode 0xB148 [0x2400, 0x0102] = .ok (.tplane 8 9 0x102) ∧
    decode 0x3180 [] = .ok (.tsync) ∧
    decode 0xB1C0 [0x2400, 0x0102] = .ok (.tscale 9 0x102) ∧
    decode 0xB1C0 [0x1001, 0x0003] = .ok (.tscaleKey 4 3) ∧
    decode 0x7404 [0x0000] = .ok (.gclaim 4) ∧
    decode 0xB462 [0x1400, 0x0000] = .ok (.gdelay 2 5) ∧
    decode 0xB462 [0x0000, 0x0000] = .ok (.gdelay 2 0) ∧
    decode 0xB462 [0x1401, 0x0000] = .ok (.gdelayGet 2 5) ∧
    decode 0xB4A3 [0x0000, 0x0000] = .ok (.glaunch 3 false) ∧
    decode 0xB4A3 [0x0003, 0x0000] = .ok (.glaunchGo 3 true) := by
  decide

theorem test_decode_16 :
    decode 0xB4A3 [0x0002, 0x0000] = .ok (.glaunchGo 3 false) ∧
    decode 0xB4E4 [0x0002, 0x0000] = .ok (.gcap 4 false true) ∧
    decode 0xB4C7 [0x2000, 0x0000] = .ok (.gcapScalar 7 8) ∧
    decode 0xB4C6 [0x0000, 0x0000] = .ok (.gcapScalar 6 0) ∧
    decode 0x3500 [] = .ok (.greset) ∧
    decode 0x3540 [] = .ok (.grelease) ∧
    decode 0x7580 [0x1800] = .ok (.gmode 6) ∧
    decode 0x7604 [0x1400] = .ok (.xgo 4 5) ∧
    decode 0x7646 [0x1000] = .ok (.xwait 6 4) ∧
    decode 0x7687 [0x1000] = .ok (.xstat 7 4) ∧
    decode 0x76C8 [0x1000] = .ok (.xcancel 8 4) := by
  decide

theorem test_decode_17 :
    decode 0xB804 [0x1851, 0x0000] = .ok (.send 1 4 6 5) ∧
    decode 0xB844 [0x0001, 0x0000] = .ok (.recv 1 4) ∧
    decode 0x7884 [0x1400] = .ok (.qmap 4 5) ∧
    decode 0xB8C4 [0x2850, 0x0000] = .ok (.ringput false 4 10 5 0x0) ∧
    decode 0xB906 [0x2871, 0x0000] = .ok (.ringget 6 10 (some 7) 0x0) ∧
    decode 0x7944 [0x1400] = .ok (.migrate 4 5) ∧
    decode 0xB989 [0x0000, 0x0045] = .ok (.barArv true 9 5) ∧
    decode 0xB98A [0x0000, 0x0000] = .ok (.barArv false 10 0) ∧
    decode 0xB989 [0x2000, 0x0085] = .ok (.barArvRem false 9 8 5) ∧
    decode 0xB9C9 [0x0000, 0x0005] = .ok (.barWait 9 5) ∧
    decode 0xB9CA [0x0000, 0x0000] = .ok (.barWait 10 0) := by
  decide

theorem test_decode_18 :
    decode 0xBA09 [0x1000, 0x0007] = .ok (.barExp 9 4 7) ∧
    decode 0xBA49 [0x1050, 0x0007] = .ok (.barCfg 9 4 5 7) ∧
    decode 0xBA4A [0x2400, 0x0000] = .ok (.barCfg 10 9 0 0) ∧
    decode 0xBA86 [0x1050, 0x4000] = .ok (.grpred .fsum .f32 false 6 4 5) := by
  decide

/-- R52: an opcode that no row has, a head of another tail length, and a shift immediate of 64. -/
theorem test_decode_refuses : decode 0x0180 [] = .error .reservedOp ∧ decode 0xC403 [0x1050, 0, 0] = .error .tailLength ∧
    decode 0x8B43 [0x1002, 0x0040] ≠ .ok (.shli 3 4 64) ∧ (decode 0x8B43 [0x1002, 0x0040]).toBool = false := by decide

/-- The words of an instruction come back from the encoder; an event has none. -/
theorem test_encode : encode (.add 3 4 5) = some [0x4403, 0x1050] ∧ encode (.sari 3 4 7) = some [0x8BC3, 0x1002, 0x0007] ∧
    encode (.li 10 0xFFFFFFFB) = some [0xCC0A, 0x0000, 0xFFFB, 0xFFFF] ∧ encode .nop = some [0x0000] ∧
    encode (.loadReturn 0 0 0) = none := by decide

/-! ### Scalar and control flow -/

theorem witness_DecodeEncode : (Instr.vfma 1 (.v 2) (.v 3) 4 .f32 .rne ⟨2, true⟩).wf = true ∧
    encode (.vfma 1 (.v 2) (.v 3) 4 .f32 .rne ⟨2, true⟩) = some [0x90E1, 0x8A35, 0x4024] ∧
    decode 0x90E1 [0x8A35, 0x4024] = .ok (.vfma 1 (.v 2) (.v 3) 4 .f32 .rne ⟨2, true⟩) ∧ (headTl 0x90E1).toNat = 2 := by decide

theorem witness_ScalarArithmetic : (bench [0, 0, 0, 0, 5, 7]).plain [.g 4, .g 5] [.g 3] := by
  refine ⟨?_, ?_⟩ <;> decide

/-- R93: a source that is also the destination, and the edges of each result. −1 is 2^64 − 1. -/
theorem test_arithmetic :
    let s := bench [0, 0, 0, 0, 0xFFFFFFFFFFFFFFFF, 2]
    let is (i : Instr) (x : W64) : Bool := yields i s fun t => t.me.greg 4 == x && t.me.greg 5 == 2 && t.me.ip == thenIp
    is (.add 4 4 5) 1 ∧ is (.sub 4 5 4) 3 ∧ is (.mul 4 4 5) 0xFFFFFFFFFFFFFFFE ∧ is (.mulhs 4 4 5) 0xFFFFFFFFFFFFFFFF ∧
    is (.mulhn 4 4 5) 1 ∧ is (.and 4 4 5) 2 ∧ is (.or 4 4 5) 0xFFFFFFFFFFFFFFFF ∧ is (.xor 4 4 5) 0xFFFFFFFFFFFFFFFD ∧
    is (.andn 4 4 5) 0xFFFFFFFFFFFFFFFD ∧ is (.mins 4 4 5) 0xFFFFFFFFFFFFFFFF ∧ is (.minn 4 4 5) 2 ∧
    is (.maxs 4 4 5) 2 ∧ is (.maxn 4 4 5) 0xFFFFFFFFFFFFFFFF := by decide

/-- R93: the count of a shift is its low six bits. -/
theorem test_shifts :
    let s := bench [0, 0, 0, 0, 0x8000000000000001, 65]
    let is (i : Instr) (x : W64) : Bool := yields i s fun t => t.me.greg 3 == x
    is (.shl 3 4 5) 2 ∧ is (.shr 3 4 5) 0x4000000000000000 ∧ is (.sar 3 4 5) 0xC000000000000000 := by decide

/-- g0 discards a write and reads zero (R89). -/
theorem test_g0 : yields (.add 0 4 5) (bench [9, 0, 0, 0, 5, 7]) (fun t => t.me.greg 0 == 0 && t.me.ip == thenIp) = true := by
  decide

/-- R67: y = 0, the quotient that does not fit, and signs that differ. -/
theorem witness_Division :
    let is (xs : List W64) (i : Instr) (x : W64) : Bool := yields i (bench xs) fun t => t.me.greg 3 == x
    let low : List W64 := [0, 0, 0, 0, 0x8000000000000000, 0xFFFFFFFFFFFFFFFF]
    let minus : List W64 := [0, 0, 0, 0, 0xFFFFFFFFFFFFFFF9, 2]
    (bench low).plain [.g 4, .g 5] [.g 3] ∧
    (is [0, 0, 0, 0, 5] (.divs 3 4 5) 0xFFFFFFFFFFFFFFFF ∧ is [0, 0, 0, 0, 5] (.divn 3 4 5) 0xFFFFFFFFFFFFFFFF ∧
      is [0, 0, 0, 0, 5] (.rems 3 4 5) 5 ∧ is [0, 0, 0, 0, 5] (.remn 3 4 5) 5) ∧
    (is low (.divs 3 4 5) 0x8000000000000000 ∧ is low (.rems 3 4 5) 0 ∧ is low (.divn 3 4 5) 0 ∧
      is low (.remn 3 4 5) 0x8000000000000000) ∧
    is minus (.divs 3 4 5) 0xFFFFFFFFFFFFFFFD ∧ is minus (.rems 3 4 5) 0xFFFFFFFFFFFFFFFF := by
  refine ⟨⟨?_, ?_⟩, ?_, ?_, ?_⟩ <;> decide

/-- R94 to R100 at the ends of their ranges. -/
theorem witness_ScalarOther :
    let is (xs : List W64) (i : Instr) (x : W64) : Bool := yields i (bench xs) fun t => t.me.greg 3 == x && t.me.ip == thenIp
    let top : List W64 := [0, 0, 0, 0, 0x8000000000000000, 1, 1]
    let one : List W64 := [0, 0, 0, 0, 1, 0xFFFFFFFFFFFFFFFF]
    let b80 : List W64 := [0, 0, 0, 9, 0xFFFFFFFF80808080]
    (bench top).plain [.g 4, .g 5, .g 6] [.g 3] ∧
    (is [] (.clz 3 4) 64 ∧ is [] (.ctz 3 4) 64 ∧ is top (.clz 3 4) 0 ∧ is one (.clz 3 4) 63 ∧ is one (.ctz 3 4) 0 ∧
      is top (.ctz 3 4) 63 ∧ is one (.popc 3 5) 64) ∧
    (is b80 (.ext .s8 3 4) 0xFFFFFFFFFFFFFF80 ∧ is b80 (.ext .s16 3 4) 0xFFFFFFFFFFFF8080 ∧
      is b80 (.ext .s32 3 4) 0xFFFFFFFF80808080 ∧ is b80 (.ext .n8 3 4) 0x80 ∧ is b80 (.ext .n16 3 4) 0x8080 ∧
      is b80 (.ext .n32 3 4) 0x80808080) ∧
    (is top (.cmpi .lts 3 4 0) 1 ∧ is top (.cmpi .ltn 3 4 0xFFFF) 1 ∧ is one (.cmpi .eq 3 5 0xFFFF) 1 ∧
      is one (.cmp .gtn 3 4 5) 0 ∧ is one (.cmp .gts 3 4 5) 1 ∧ is one (.cmp .les 3 5 5) 1) ∧
    (is one (.addi 3 4 0x8000) 0xFFFFFFFFFFFF8001 ∧ is one (.andi 3 5 0xFFFF) 0xFFFF ∧ is one (.ori 3 4 0x8000) 0x8001 ∧
      is one (.xori 3 5 0xFFFF) 0xFFFFFFFFFFFF0000 ∧ is one (.shli 3 4 63) 0x8000000000000000 ∧ is top (.shri 3 4 63) 1 ∧
      is top (.sari 3 4 63) 0xFFFFFFFFFFFFFFFF) ∧
    (is [0, 0, 0, 0, 5, 7, 1] (.sel 3 4 5 6) 5 ∧ is [0, 0, 0, 0, 5, 7, 0] (.sel 3 4 5 6) 7) ∧
    (is [] (.li 3 0x80000000) 0xFFFFFFFF80000000 ∧ is [0, 0, 0, 0xFFFFFFFF00000005] (.lih 3 0x80000000) 0x8000000000000005 ∧
      is [0, 0, 0, 0, 100, 3] (.lea 3 4 5 3 0xFFFF) 123) := by
  refine ⟨⟨?_, ?_⟩, ?_, ?_, ?_, ?_, ?_, ?_⟩ <;> decide

/-- A value waits in the core queue, and g24 is mapped to it. -/
def queued : State := ((bench [0, 0, 0, 0, 5]).modThread 0 fun t => { t with qmap := 1 }).modCore 0 fun c =>
  { c with queue := [⟨0, some 9⟩], tickets := 1 }

/-- R331 and R332: one value to take and room for one, and an empty queue, which makes the instruction wait. -/
theorem test_core_queue :
    queued.me.maps (.g 24) = true ∧ queued.me.maps (.g 3) = false ∧ queued.me.outs = [] ∧ queued.me.wait = .run ∧
    queued.myCore.queueTurn queued.cur 1 0 = true ∧ queued.myCore.queueTurn queued.cur 0 1 = true ∧
    queued.myCore.queueTurn queued.cur 2 0 = false ∧
    yields (.addi 3 24 1) queued (fun t => t.me.greg 3 == 10 && t.myCore.queue == []) ∧
    yields (.addi 24 4 0xFFFF) queued (fun t => t.me.greg 24 == 0 && t.myCore.queue.map QEntry.val == [some 9, some 4]) ∧
    yields (.add 3 24 24) queued (fun t => t.me.wait == .retry (.queue 2 0) && t.myCore.queue.length == 1 && t.me.ip == 0x10001) := by
  decide

/-- The line of bench holds one head, so 0x10001 can be entered, 0x10000 and 0x10002 cannot (R40). -/
theorem witness_TransfersOfControl :
    let s := bench [0, 0, 0, 0, 0x10001, 0x10000, 0x10002]
    let goes (i : Instr) (d : W64) : Bool := yields i s fun t => t.me.ip == 0x10001 && t.me.greg 3 == d
    let refusedAt (i : Instr) (va : W64) : Bool := yields i s fun t =>
      t.me.trapcause.extractLsb' 0 8 == 0x03#8 && t.me.trapip == 0x10001 && t.me.trapva == va && t.me.trapaux == 1 && t.me.greg 3 == 0
    s.plain [.g 4, .g 5] [.g 3] ∧
    (goes (.b 1) 0 ∧ goes (.bz 0 1) 0 ∧ goes (.bnz 4 1) 0 ∧ goes (.bcc .gts 4 5 1) 0 ∧ goes (.jr 4) 0 ∧
      goes (.call 3 1) thenIp ∧ goes (.callr 3 4) thenIp) ∧
    (refusedAt (.b 0) 0x10000 ∧ refusedAt (.callr 3 5) 0x10000 ∧ refusedAt (.jr 6) 0x10002) ∧
    (yields (.bz 4 1) s (fun t => t.me.ip == thenIp) ∧ yields (.bcc .eq 4 5 1) s (fun t => t.me.ip == thenIp) ∧
      yields .nop s (fun t => t.me.ip == thenIp) ∧ yields .yield s (fun t => t.me.ip == thenIp)) := by
  refine ⟨⟨?_, ?_⟩, ?_, ?_, ?_⟩ <;> decide

/-- A step decodes and runs the word placed: add 3, 4, 5. -/
theorem witness_StepRunsDecoded :
    let s := (State.reset.withFetchWord 32 0x44031050).modThread 0 fun t => { t with g := regs [0, 0, 0, 0, 5, 7] }
    s.agenda = [⟨0, .core 0⟩] ∧ (s.core 0).turned = false ∧ (s.thread 0).wait = .run ∧ s.taskOf (s.thread 0) ≠ none ∧
    (match step s with
      | .next t => (t.thread 0).greg 3 == 12 && (t.thread 0).ip == 0x10041
      | _ => false) = true := by decide

/-- R25: slot 0 waits for g4, and slot 1 issues in the same turn; the slot that issued last is slot 1 then. -/
theorem test_turn_goes_on :
    let s := (State.reset.withFetchWord 32 0x44031050).modThread 0 fun t => { t with g := regs [0, 0, 0, 0, 5, 7] }
    let s := (s.setThread 1 { s.thread 0 with uid := 9 }).modThread 0 fun t => { t with outs := [⟨.load (.reg 4) .n8, false, [⟨0, 0, .global 0, 1, [false], 0⟩], [], [], []⟩] }
    (match step s with
      | .next t => (t.thread 0).wait == .retry .access && t.unissued 0 && (t.thread 0).ip == 0x10001 && (t.thread 1).greg 3 == 12 && !t.unissued 1 &&
          (t.core 0).lastSlot == 1
      | _ => false) = true := by decide +kernel

theorem witness_StepKeepsMemory : State.reset.MemoryOk where
  hbm := rfl
  host := rfl
  cluster cl := by simp [State.cluster, State.reset, Cluster.reset, Memory.wf, Memory.above]
  scratch c := by simp [State.core, State.reset, Core.reset, Memory.wf, Memory.above]
  saved k h := by simp [State.reset] at h

/-! ### Vectors and numbers -/

/-- Three v registers, a mask of lanes 0 and 2 in k1, and two scalars. -/
def vecs (a b c : List W32) : State := benchV [0, 0, 0, 0, 0x80, 2] [vec [], vec a, vec b, vec c] [0, 5]

/-- Lanes 0 and 1 of v3, and VSTAT, after an instruction. -/
def lanes (i : Instr) (s : State) (x y : W32) (fl : Flags) : Bool :=
  yields i s fun t => t.me.v[(3 : VReg)][0] == x && t.me.v[(3 : VReg)][1] == y && t.me.vstat == fl && t.me.ip == thenIp

/-- R117 on integer types: elements wrap, a g operand gives its low bits to every element, and lane 1 keeps its value or is
zeroed under k1 (R111). -/
theorem witness_VectorElements_integers :
    let s := vecs [0x7FFF80FF, 9] [0x00018001, 9] [1, 7]
    let k : Mask := ⟨1, false⟩
    let is (i : Instr) (x : W32) : Bool := lanes i s x 7 0
    s.plain [.v 1, .v 2, .v 3, .g 4] [.v 3] ∧
    (is (.vadd 3 (.v 1) (.v 2) .s16 .rne k) 0x80000100 ∧ is (.vsub 3 (.v 1) (.v 2) .s32 .rne k) 0x7FFE00FE ∧
      is (.vmul 3 (.v 1) (.v 2) .s8 .rne k) 0x00FF00FF ∧ is (.vfma 3 (.v 1) (.v 2) 3 .n32 .rne k) 0xC17E0100) ∧
    (is (.vmin 3 (.v 1) (.v 2) .s16 k) 0x00018001 ∧ is (.vmax 3 (.v 1) (.v 2) .n32 k) 0x7FFF80FF ∧
      is (.vabs 3 (.v 1) .s8 k) 0x7F018001 ∧ is (.vneg 3 (.v 1) .s16 k) 0x80017F01) ∧
    (is (.vshl 3 (.v 1) (.g 5) .s8 k) 0xFCFC00FC ∧ is (.vshr 3 (.v 1) (.g 5) .s16 k) 0x1FFF203F ∧
      is (.vsar 3 (.v 1) (.g 5) .s16 k) 0x1FFFE03F) ∧
    (is (.vand 3 (.v 1) (.v 2) .f32 k) 0x00018001 ∧ is (.vor 3 (.v 1) (.v 2) .f16 k) 0x7FFF80FF ∧
      is (.vxor 3 (.v 1) (.v 2) .s32 k) 0x7FFE00FE) ∧
    lanes (.vadd 3 (.v 1) (.g 4) .s8 .rne ⟨1, true⟩) s 0xFF7F007F 0 0 := by
  refine ⟨⟨?_, ?_⟩, ?_, ?_, ?_, ?_, ?_⟩ <;> decide +kernel

/-- R117, R118 and R124 on f32: exact results, and a masked signalling NaN, which sets no flag. -/
theorem witness_VectorElements_floats :
    let s := vecs [0x3F800000, 0x7F800001, 0x3F800000] [0x40000000, 0, 0x3F800000] [0x40400000, 7]
    let k : Mask := ⟨1, false⟩
    let is (i : Instr) (x : W32) : Bool := lanes i s x 7 0
    (is (.vadd 3 (.v 1) (.v 2) .f32 .rne k) 0x40400000 ∧ is (.vsub 3 (.v 1) (.v 2) .f32 .rz k) 0xBF800000 ∧
      is (.vmul 3 (.v 2) (.v 2) .f32 .ru k) 0x40800000 ∧ is (.vfma 3 (.v 2) (.v 2) 3 .f32 .rd k) 0x40E00000) ∧
    (is (.vmin 3 (.v 1) (.v 2) .f32 k) 0x3F800000 ∧ is (.vmax 3 (.v 1) (.v 2) .f32 k) 0x40000000 ∧
      is (.vneg 3 (.v 1) .f32 k) 0xBF800000 ∧ is (.vabs 3 (.v 1) .f32 k) 0x3F800000) ∧
    (is (.vdiv 3 (.v 1) (.v 2) k) 0x3F000000 ∧ is (.vrcp 3 (.v 2) k) 0x3EFF0000 ∧ is (.vsqrt 3 (.v 1) k) 0x3F800000 ∧
      is (.vlog2 3 (.v 2) k) 0x3F800000 ∧ is (.vexp2 3 (.v 1) k) 0x40000000) ∧
    (fRsqrt 0x40000000 = (0x3F34B000, 0) ∧ lanes (.vrsqrt 3 (.v 2) ⟨1, true⟩) s 0x3F34B000 0 0) ∧
    yields (.vdiv 3 (.v 1) (.v 2) ⟨0, false⟩) s (fun t => t.me.v[(3 : VReg)][1] == 0x7FC00000 && t.me.vstat == flagInv) := by
  refine ⟨?_, ?_, ?_, ?_, ?_⟩ <;> decide +kernel

/-- R71 and R72: 1 + 2^−24 lies between 1 and its successor; 2^−149 halved underflows; the largest f32 doubled overflows. -/
theorem witness_CorrectRounding :
    roundNum fmtF32 .rne (.fin false (2 ^ 24 + 1) (-24)) = (0x3F800000, flagInx) ∧
    roundNum fmtF32 .ru (.fin false (2 ^ 24 + 1) (-24)) = (0x3F800001, flagInx) ∧
    roundNum fmtF32 .rz (.fin true 1 (-150)) = (0x80000000, flagUnf ||| flagInx) ∧
    roundNum fmtF32 .rd (.fin true 1 (-150)) = (0x80000001, flagUnf ||| flagInx) ∧
    roundNum fmtF32 .rne (.fin false 1 128) = (0x7F800000, flagOvf ||| flagInx) ∧
    roundNum fmtF16 .rne (.fin false 0xFFF 5) = (0x7C00, flagOvf ||| flagInx) ∧
    roundNum fmtBf16 .rne (.fin false 0x101 (-8)) = (0x3F80, flagInx) ∧
    (fDiv 0x3F800000 0x40400000 = (0x3EAAAAAB, flagInx) ∧ fmtF32.val 0x3F800000 = .fin false (2 ^ 23) (-23)) ∧
    fSqrt 0x40000000 = (0x3FB504F3, flagInx) := by decide +kernel

/-- R64 to R73: NaN operands, infinities, an exact zero under each mode, and a fused product. -/
theorem witness_FloatArithmetic :
    let f := fmtF32
    let one := 0x3F800000
    let inf := 0x7F800000
    (fAdd f .rne 0x7FC00001 one = (0x7FC00000, 0) ∧ fMul f .rne one 0x7F800001 = (0x7FC00000, flagInv)) ∧
    (fAdd f .rne inf (inf + 2 ^ 31) = (0x7FC00000, flagInv) ∧ fSub f .rne inf inf = (0x7FC00000, flagInv) ∧
      fAdd f .rne inf one = (inf, 0) ∧ fMul f .rne inf 0 = (0x7FC00000, flagInv) ∧ fFma f .rne inf 0 one = (0x7FC00000, flagInv)) ∧
    (fSub f .rne one one = (0, 0) ∧ fSub f .rd one one = (0x80000000, 0) ∧ fAdd f .rd 0 0 = (0, 0) ∧
      fAdd f .rne 0x80000000 0x80000000 = (0x80000000, 0) ∧ fMul f .rne 0x80000000 one = (0x80000000, 0)) ∧
    fFma f .rne 0x3F800001 0x3F800001 0xBF800002 = (0x28800000, 0) ∧
    f.val 0x7FC00000 = .nan false ∧ f.val 0x7F800001 = .nan true ∧ f.val inf = .inf false ∧ f.val 0x80000000 = .fin true 0 (-149) := by
  decide +kernel

/-- R74, R75, R78 to R80 and R118 at their special operands. -/
theorem witness_FloatSpecials :
    (fMinMax fmtF32 false 0 0x80000000 = (0x80000000, 0) ∧ fMinMax fmtF32 true 0x80000000 0 = (0, 0) ∧
      fMinMax fmtF32 true 0x7F800001 5 = (5, flagInv) ∧ fMinMax fmtF32 false 0x7FC00000 0x7FC00001 = (0x7FC00000, 0)) ∧
    (convert .s8 .f32 .rne 0x43000000 = (0x7F, flagInv) ∧ convert .s8 .f32 .rne 0x40200000 = (2, flagInx) ∧
      convert .s32 .f32 .rz 0xBFC00000 = (0xFFFFFFFF, flagInx) ∧ convert .n32 .f32 .rne 0x7FC00000 = (0, flagInv) ∧
      convert .s16 .f32 .rne 0xFF800000 = (0x8000, flagInv) ∧ convert .f32 .s32 .rne 0x01000001 = (0x4B800000, flagInx) ∧
      convert .s8 .s32 .rne 0xFFFFFF7F = (0x80, 0) ∧ convert .n32 .s8 .rne 0xFF = (0, 0) ∧
      convert .bf16 .f32 .rne 0x3F808000 = (0x3F80, flagInx) ∧ convert .f32 .f16 .rne 0x3C00 = (0x3F800000, 0)) ∧
    (fRcp 0x80000000 = (0xFF800000, flagDz) ∧ fRcp 0xFF800000 = (0x80000000, 0) ∧ fRsqrt 0x80000000 = (0x7F800000, flagDz) ∧
      fRsqrt 0xBF800000 = (0x7FC00000, flagInv) ∧ fSqrt 0x80000000 = (0x80000000, 0) ∧ fLog2 0 = (0xFF800000, flagDz) ∧
      fLog2 0x7F800000 = (0x7F800000, 0) ∧ fExp2 0xFF800000 = (0, 0) ∧ fExp2 0x43000000 = (0x7F800000, flagOvf ||| flagInx)) ∧
    (fDiv 0 0 = (0x7FC00000, flagInv) ∧ fDiv 0xBF800000 0 = (0xFF800000, flagDz) ∧ fDiv 0 0xBF800000 = (0x80000000, 0) ∧
      fDiv 0x7F800000 0x7F800000 = (0x7FC00000, flagInv) ∧ fDiv 0x3F800000 0xFF800000 = (0x80000000, 0)) := by decide +kernel

/-- R119, R121, R122, R123 and R128. -/
theorem witness_VectorMoves :
    let s := vecs [0x80000005, 0x3F800000] [1, 33] [0xAAAAAAAA, 7]
    let k : Mask := ⟨1, false⟩
    let gives (i : Instr) (x : W64) : Bool := yields i s fun t => t.me.greg 6 == x
    s.plain [.v 1, .v 2, .v 3, .g 4, .g 5] [.v 3, .g 6] ∧
    (lanes (.vmov 3 (.g 4) k) s 0x80 7 0 ∧ lanes (.vidx 3 5 ⟨0, false⟩) s 2 3 0 ∧ lanes (.vsel 3 (.v 1) (.v 2) .s32 1) s 0x80000005 33 0 ∧
      lanes (.vperm 3 1 2 ⟨0, false⟩) s 0x3F800000 0x3F800000 0 ∧ lanes (.vrot 3 1 5 ⟨1, true⟩) s 0 0 0) ∧
    (gives (.vext 6 1 4 .s32) 0xFFFFFFFF80000005 ∧ gives (.vext 6 1 4 .n32) 0x80000005 ∧ gives (.vext 6 1 4 .f32) 0x80000005) ∧
    (lanes (.vins 3 5 4) s 2 7 0 ∧ lanes (.vpopc 3 1 .s8 k) s 0x01000002 7 0) ∧
    (lanes (.vcvt 3 1 .bf16 .f32 .rne 0 ⟨0, false⟩) s 0x3F808000 0 (flagUnf ||| flagInx) ∧
      lanes (.vcvt 3 1 .bf16 .f32 .rne 1 ⟨0, false⟩) s 0xAAAAAAAA 7 (flagUnf ||| flagInx)) := by
  refine ⟨⟨?_, ?_⟩, ?_, ?_, ?_, ?_⟩ <;> decide +kernel

/-- R133 and R134: k0 reads all ones and discards. -/
theorem witness_MaskLogic :
    let s := benchV [0, 0, 0, 0, 0x1FFFFFFF0] [] [7, 5, 3]
    let is (i : Instr) (x : W32) : Bool := yields i s fun t => t.me.kreg 3 == x && t.me.ip == thenIp
    let gives (i : Instr) (x : W64) : Bool := yields i s fun t => t.me.greg 3 == x
    s.plain [.g 4] [] ∧ s.plain [] [.g 3] ∧
    is (.kand 3 1 2) 1 ∧ is (.kor 3 1 2) 7 ∧ is (.kxor 3 1 2) 6 ∧ is (.knot 3 1) 0xFFFFFFFA ∧ is (.kmovKk 3 0) 0xFFFFFFFF ∧
    is (.kmovKg 3 4) 0xFFFFFFF0 ∧ gives (.kmovGk 3 1) 5 ∧ gives (.kpopc 3 0) 32 ∧
    yields (.kand 0 1 2) s (fun t => t.me.kreg 0 == 0xFFFFFFFF) := by
  refine ⟨⟨?_, ?_⟩, ⟨?_, ?_⟩, ?_⟩ <;> decide +kernel

/-- R120 and R128: bits of lanes 0 and 2 are written, the others kept; an ordered comparison of a NaN is invalid. -/
theorem witness_VectorComparisons :
    let s := (vecs [0xFFFFFFFF, 0, 0x7FC00000] [1, 0, 0] []).modThread 0 fun t => { t with k := t.k.set 2 0xFFFFFFF0 }
    let is (i : Instr) (x : W32) (fl : Flags) : Bool := yields i s fun t => t.me.kreg 2 == x && t.me.vstat == fl
    let k : Mask := ⟨1, false⟩
    s.plain [.v 1, .v 2] [] ∧
    is (.vcmp (.int .lts) .s32 2 (.v 1) (.v 2) k) 0xFFFFFFF1 0 ∧ is (.vcmp (.int .ltn) .n32 2 (.v 1) (.v 2) ⟨1, true⟩) 0 0 ∧
    is (.vcmp (.flt .funo) .f32 2 (.v 1) (.v 2) k) 0xFFFFFFF5 0 ∧ is (.vcmp (.flt .flt) .f32 2 (.v 1) (.v 2) k) 0xFFFFFFF0 flagInv ∧
    is (.vclass 2 1 1 k) 0xFFFFFFF5 0 ∧ is (.vclass 2 1 16 ⟨0, false⟩) 0xFFFFFFFA 0 := by
  refine ⟨⟨?_, ?_⟩, ?_⟩ <;> decide +kernel

/-- R125 and R126: lanes 0 and 2 count; none where no lane is unmasked (k2 = 0). -/
theorem witness_Reductions :
    let s := vecs [3, 0x80000000, 0xFFFFFFFF] [] []
    let f := vecs [0x3F800000, 0x7F800001, 0x40000000] [] []
    let is (s : State) (i : Instr) (x : W64) (fl : Flags) : Bool := yields i s fun t => t.me.greg 6 == x && t.me.vstat == fl
    s.plain [.v 1] [.g 6] ∧
    (is s (.vredsum 6 1 .s32 1) 2 0 ∧ is s (.vredmin 6 1 .s32 1) 0xFFFFFFFFFFFFFFFF 0 ∧ is s (.vredmax 6 1 .n32 1) 0xFFFFFFFF 0 ∧
      is s (.vmaxi 6 1 .s32 1) 3 0 ∧ is s (.vmini 6 1 .s32 1) 0x00000002FFFFFFFF 0 ∧
      is s (.vmini 6 1 .s32 2) 0xFFFFFFFF7FFFFFFF 0 ∧ is s (.vredmin 6 1 .s16 2) 0x7FFF 0) ∧
    (is f (.vredsum 6 1 .f32 1) 0x40400000 0 ∧ is f (.vredmax 6 1 .f32 1) 0x40000000 0 ∧ is f (.vredmax 6 1 .f32 0) 0x40000000 flagInv ∧
      is f (.vmini 6 1 .f32 1) 0x3F800000 0 ∧ is f (.vmaxi 6 1 .f32 2) 0xFFFFFFFFFF800000 0) := by
  refine ⟨⟨?_, ?_⟩, ?_, ?_⟩ <;> decide +kernel

/-- R127 and R129: a running sum over the unmasked lanes, and a residual whose sum is zero (flag 5). -/
theorem witness_ScansAndStreams_scans :
    let s := vecs [3, 9, 4] [] [1, 7, 8]
    let f := vecs [0x40000000, 0, 0x3F800000] [0x3F800000, 0, 0x40000000] [1, 7]
    let z := vecs [0x3F800000, 0] [0x40000000, 0] [1, 7]
    s.plain [.v 1] [.v 3] ∧ f.plain [.v 1, .v 2] [.v 3] ∧
    yields (.vscan 3 1 .s32 ⟨1, false⟩) s (fun t => t.me.v[(3 : VReg)][0] == 3 && t.me.v[(3 : VReg)][1] == 7 && t.me.v[(3 : VReg)][2] == 7) ∧
    lanes (.vscan 3 1 .f32 ⟨0, false⟩) f 0x40000000 0x40000000 0 ∧
    lanes (.vresid 3 1 2 ⟨1, false⟩) f 0x3F800000 7 0 ∧ lanes (.vresid 3 1 2 ⟨1, false⟩) z 0x3F800000 7 32 := by
  refine ⟨⟨?_, ?_⟩, ⟨?_, ?_⟩, ?_⟩ <;> decide +kernel

/-- R131 and R132 at both sides of the end of a stream. -/
theorem witness_ScansAndStreams_stream :
    let s (ctr : W64) : State := (bench [0, 0, 0, 0, 1]).modThread 0 fun t => { t with rngctr := ctr }
    let exhausted (t : State) : Bool := t.me.trapcause.extractLsb' 0 8 == 0x31#8 && t.me.trapip == 0x10001
    (s 0xFFFFFE).plain [] [.v 3] ∧ (s 0).plain [.g 4] [] ∧
    yields (.vrng 3 false ⟨0, false⟩) (s 0xFFFFFE) (fun t => t.me.rngctr == 0xFFFFFF && t.me.ip == thenIp) ∧
    yields (.vrng 3 true ⟨0, false⟩) (s 0xFFFFFF) (fun t => exhausted t && t.me.rngctr == 0xFFFFFF) ∧
    yields (.rngadv 4) (s 0xFFFFFE000005) (fun t => t.me.rngctr == 0xFFFFFF000000 && t.me.ip == thenIp) ∧
    yields (.rngadv 4) (s 0xFFFFFFFFFF000005) (fun t => exhausted t && t.me.rngctr == 0xFFFFFFFFFF000005) := by
  refine ⟨⟨?_, ?_⟩, ⟨?_, ?_⟩, ?_⟩ <;> decide +kernel

/-! ### Memory -/

/-- bench in a partition of clusters 0 and 1, with addresses below 2 MiB at physical address 4 MiB, and a task that may
read and write the page 0x2000 through its caches, uses 0x3000 uncached, only reads 0x4000 and only updates 0x5000. -/
def land (xs : List W64) : State :=
  (((bench xs).modCluster 0 fun c => { c with
      perm := 3
      teams := c.teams.map fun tm => tm.modTask 0 fun k => { k with regions :=
        [mkRegion 3 0x1000 0x2000, mkRegion 4 0x1000 0x3000, mkRegion 1 0x1000 0x4000, mkRegion 5 0x1000 0x5000] } }).modCluster 1
    fun c => { c with part := some 0 }).modCore 0 fun c => { c with tlb := [⟨0, 0x200000, 0x400000, true, true, false, false, 0, 0, 0x200000⟩] }

/-- An exact trap of the thread in slot 0, with its IP and g registers as they were. -/
def trapped (code : BitVec 8) (va aux : W64) (t : State) : Bool :=
  t.me.trapcause.extractLsb' 0 8 == code && t.me.trapip == 0x10001 && t.me.trapva == va && t.me.trapaux == aux

/-- R135 and R141 at the bounds of each window and check. -/
theorem witness_AddressChecks :
    let s := land []
    let fault (sp : AccSpec) (lane : Nat) (va : W64) (code : BitVec 8) (aux : W64) : Bool := match checkAddr sp lane va s with
      | .error e => e == .trap code va aux
      | .ok _ => false
    let at_ (sp : AccSpec) (va : W64) (p : Place) (slice : List Bool) : Bool :=
      passing (checkAddr sp 0 va s) fun l _ => l == ⟨0, va, p, sp.size, slice, 0⟩
    (fault (loadSpec 1) 3 0x200000000000000 0x06 3 ∧ fault (loadSpec 1) 0 0xFEFFFFFFFFFFFFFF 0x06 0 ∧
      fault (loadSpec 1) 0 0xFF00000000400000 0x06 0 ∧ fault (loadSpec 1) 0 0xFF20000000040000 0x06 0 ∧
      fault (loadSpec 1) 0 0xFF10000000800000 0x06 0) ∧
    (at_ (loadSpec 8) 0xFF00000000000000 (.own 0 0) [] ∧ at_ (loadSpec 1) 0xFF000000003FEFFF (.own 0 0x3FEFFF) [] ∧
      fault (loadSpec 1) 2 0xFF000000003FF000 0x07 0x205 ∧ fault (loadSpec 8) 2 0xFF00000000000004 0x05 2 ∧
      fault (amoSpec 4 false) 0 0xFF00000000000000 0x07 0) ∧
    (at_ (feSpec needR) 0xFF10000000400008 (.remote 1 8) [] ∧ at_ (storeSpec 1) 0xFF2000000003FFFF (.scratch 0 0x3FFFF) [] ∧
      fault (feSpec needR) 0 0xFF20000000000000 0x07 0 ∧ fault (feSpec needR) 0 0x2000 0x07 0) ∧
    (at_ (storeSpec 8) 0x2FF8 (.global 0x402FF8) (List.replicate 8 false) ∧ at_ (loadSpec 2) 0x3000 (.global 0x403000) [true, true] ∧
      at_ (amoSpec 8 false) 0x5FF8 (.global 0x405FF8) (List.replicate 8 true) ∧ fault (storeSpec 1) 1 0x4000 0x08 1 ∧
      fault (loadSpec 1) 0 0x5000 0x08 0 ∧ fault (loadSpec 1) 0 0x6000 0x08 0 ∧
      fault (amoSpec 4 true) 1 0x400000000 0x07 0x101) ∧
    s.physical 0 1 = some 1 ∧ s.physical 0 2 = none ∧ s.permitted 0 1 1 = true ∧
    (match s.translate 0 0 0x1FFFFF needW with
      | (_, r) => r == .ok 0x5FFFFF) = true := by
  refine ⟨?_, ?_, ?_, ?_, ?_⟩ <;> decide +kernel

/-- R202, R203 and R206: a record covers its last byte and not the next, and empty records conflict with nothing. -/
theorem test_regions :
    let r := mkRegion 3 16 64
    regionsPermit [r] needW 72 8 = true ∧ regionsPermit [r] needW 73 8 = false ∧ regionsPermit [mkRegion 5 16 64] needRW 64 4 = true ∧
    regionsPermit [mkRegion 1 8 64, mkRegion 4 8 72] needR 68 8 = true ∧ sliceBytes [r, mkRegion 4 4 64] 66 4 = [true, true, false, false] ∧
    regionsConflict r (mkRegion 1 1 79) = true ∧ regionsConflict r (mkRegion 1 1 80) = false ∧ regionsConflict r (mkRegion 2 0 70) = false ∧
    regionsConflict (mkRegion 1 9 64) (mkRegion 1 9 64) = false := by decide +kernel

/-- R137 to R144: what an access leaves outstanding, and where it traps. -/
theorem witness_LoadsAndStores :
    let s := land [0, 0, 0, 0x1122334455667788, 0x2000, 0x3000, 0xFF10000000400000]
    let busy := s.modThread 0 fun t => { t with outs := [⟨.store, true, [], [], [], []⟩] }
    s.plain [.g 4, .g 5] [.g 3] ∧
    (passing (checkAddr (loadSpec 4) 0 0x2004 s) (fun l t => !t.bad l && free t l) ∧
      yields (.ld 7 4 0 .s32 4) s (fun t => t.me.ip == thenIp && t.me.outs ==
        [⟨.load (.reg 7) .s32, false, [⟨0, 0x2004, .global 0x402004, 4, List.replicate 4 false, 0⟩], [], [], []⟩])) ∧
    (yields (.st 3 5 0 .n16 2) s (fun t => t.me.outs ==
        [⟨.store, false, [⟨0, 0x3002, .global 0x403002, 2, [true, true], 0x1122334455667788⟩], [], [], []⟩]) ∧
      yields (.st 3 6 0 .w64 8) s (fun t => t.me.outs == [] && t.me.ip == thenIp && t.myCore.journal.map (fun j =>
        (j.entry, j.cl, j.kind, j.state, j.lanes.map Lane.place)) == [(0, 1, .store, .sent, [.remote 1 8])])) ∧
    (yields (.st 3 4 5 .n8 0xFFFF) s (trapped 0x08 0x4FFF 0) ∧ yields (.ld 7 4 0 .w64 4) s (trapped 0x05 0x2004 0)) ∧
    busy.me.outs ≠ [] ∧ yields (.ld 7 4 0 .s32 4) busy (fun t => t.me.wait == .retry .access && t.me.ip == 0x10001) := by
  refine ⟨⟨?_, ?_⟩, ?_, ?_, ?_, ?_⟩ <;> decide +kernel

/-- R419, R138, R151: a fabric error stops a load and a store, and not one to the scratchpad; a posted store waits for a message
and for an entry. -/
theorem witness_LoadsAndStores_fabric :
    let s := land [0, 0, 0, 0x1122334455667788, 0x2000, 0x3000, 0xFF10000000400000, 0xFF20000000000000]
    let f : State := { s with ue := [.fabric 0] }
    let sent := s.modCore 0 fun c => { c with retry := [⟨4, 0, s.me.uid, 0, 128, 128, 0, 2, 11, 22, 0, .sent⟩] }
    let full := s.modCore 0 fun c => { c with journal := (List.range 32).map fun n => ⟨n, n, 1, 9, 0, 1, 0, .store, [], 0, .sent⟩ }
    yields (.ld 3 4 0 .s32 0) f (trapped 0x0C 0x2000 0) ∧ yields (.st 3 5 0 .n16 2) f (trapped 0x0C 0x3002 0) ∧
    yields (.st 3 6 0 .w64 8) f (trapped 0x0C 0xFF10000000400008 0) ∧ yields (.st 3 7 0 .w64 8) f (fun t => t.me.ip == thenIp && t.me.outs.length == 1) ∧
    yields (.st 3 6 0 .w64 8) sent (fun t => t.me.wait == .retry .retryBuffer && t.me.ip == 0x10001) ∧
    yields (.st 3 6 0 .w64 8) full (fun t => t.me.wait == .retry .journal && t.me.ip == 0x10001) := by decide +kernel

/-- R33 and R137: rlx marks the load of the next head, and both are passed at once. -/
theorem witness_LoadsAndStores_rlx :
    let bytes := parcelBytes ([0x1000, 0x0040, 0xA007] ++ List.replicate 27 0 ++ [0x1400, 0x0000])
    let s := (land [0, 0, 0, 0, 0, 0x3000]).modCore 0 fun c => { c with icache := [⟨0x10000, bytes, none⟩] }
    let m := s.marked
    (match m with
      | .ok i => i == .ld 7 5 0 .n8 0
      | .error _ => false) = true ∧
    yields .rlx s (fun t => t.me.outs.map Access.rlx == [true] && t.me.ip == 0x10041) := by decide +kernel

/-- R111 and R144: lanes 0 and 2 of a strided load, a gathered lane that traps, and a store to two clusters. -/
theorem witness_VectorAccesses :
    let s := ((land [0, 0, 0, 0, 0x3000, 0x10]).modThread 0 fun t => { t with
      k := t.k.set 1 5
      v := (t.v.set 1 (vec [0, 0, 0x2000])).set 2 (vec [7, 8, 9]) })
    let r := (land [0, 0, 0, 0, 0xFF10000000000000]).modThread 0 fun t => { t with
      k := t.k.set 1 5
      v := (t.v.set 1 (vec [0, 0, 0x400000])).set 2 (vec [7, 8, 9]) }
    s.plain [.g 4, .g 5, .v 1, .v 2] [.v 3] ∧
    (passing (checkLanes (loadSpec 4) [(0, 0x3000), (2, 0x3020)] s) (fun ls t => ls.all fun l => !t.bad l && free t l) ∧
      yields (.vld 3 4 (.str 0 5) 0 ⟨1, true⟩) s (fun t => t.me.outs.map (fun a => (a.kind, a.todo.map fun l => (l.lane, l.va))) ==
        [(.vload (some 3) true, [(0, 0x3000), (2, 0x3020)])])) ∧
    yields (.vld 3 4 (.gat 1) 0x1000 ⟨1, false⟩) s (trapped 0x08 0x6000 2) ∧
    (yields (.vst 2 4 (.gat 1) 0 1) r (fun t => t.me.outs == [] && t.myCore.journal.map (fun j =>
      (j.entry, j.cl, j.lanes.map fun l => (l.lane, l.data))) == [(0, 0, [(0, 7)]), (1, 1, [(2, 9)])])) := by
  refine ⟨⟨?_, ?_⟩, ?_, ?_, ?_⟩ <;> decide +kernel

/-- R144: lanes 0 and 2 of one vst to the same word, the lower through the remote window of its own cluster: the near part of
the store knows the entry by its key. -/
theorem witness_VectorAccesses_own :
    let s := (land [0, 0, 0, 0, 0xFF00000000000000]).modThread 0 fun t => { t with
      k := t.k.set 1 5
      v := (t.v.set 1 (vec [0, 0, 8])).set 2 (vec [7, 8, 9]) }
    let far := (land [0, 0, 0, 0, 0xFF10000000000008]).modThread 0 fun t => { t with
      k := t.k.set 1 1
      v := (t.v.set 1 (vec [0])).set 2 (vec [7, 8, 9]) }
    yields (.vst 2 4 (.gat 1) 0 1) s (fun t => t.myCore.journal == [] && t.me.outs.map (fun a => (a.todo.map Lane.lane, a.keys)) == [([0, 2], [])]) ∧
    yields (.vst 2 4 (.gat 1) 0 1) far (fun t => t.me.outs == [] && t.myCore.journal.map (fun j => (j.cl, j.lanes.map Lane.data)) == [(0, [7])] &&
      t.uids == far.uids + 1) := by decide +kernel

/-- An access of slot 0 stands first, over bytes 80 FF of its scratchpad or of HBM at 0x402000. -/
def standing (a : Access) : State := { ((land []).modThread 0 fun t => { t with outs := [a] }).modCore 0 fun c => { c with
  scratch := [(8, 0x80), (9, 0xFF)]
  l1 := [⟨0x10080, [0x80], List.replicate 64 0x11, 0⟩] } with
  mem := [(0x402000, 0x80), (0x402001, 0x22), (0x403000, 0x90)] }

/-- R138 to R143: a value is extended by its width, cached bytes come from the L1 line, and slice bytes from memory. -/
theorem witness_LoadsReturn :
    let at_ (p : Place) (size : Nat) (slice : Bool) : Lane := ⟨0, 0x2000, p, size, List.replicate size slice, 0⟩
    let load (w : LdW) (l : Lane) : State := standing ⟨.load (.reg 3) w, false, [l], [], [], []⟩
    let gives (s : State) (x : W64) : Bool := yields (.loadReturn 0 0 0xFFFFFFFF) s fun t => t.me.greg 3 == x && t.me.outs == []
    let v := standing ⟨.vload (some 3) true, false, [⟨1, 0, .scratch 0 8, 4, [], 0⟩], [], [], []⟩
    let first : Access := ⟨.store, true, [at_ (.scratch 0 9) 1 false], [], [], []⟩
    let held := (load .n16 (at_ (.scratch 0 8) 2 false)).modThread 0 fun t => { t with outs := first :: t.outs }
    gives (load .s8 (at_ (.scratch 0 8) 1 false)) 0xFFFFFFFFFFFFFF80 ∧ gives (load .n16 (at_ (.scratch 0 8) 2 false)) 0xFF80 ∧
    gives (load .s8 (at_ (.global 0x403000) 1 true)) 0xFFFFFFFFFFFFFF90 ∧
    gives (load .w64 (at_ (.global 0x402000) 8 false)) 0x1111111111111111 ∧
    yields (.loadReturn 0 0 0xFFFFFFFF) v (fun t => t.me.v[(3 : VReg)][0] == 0 && t.me.v[(3 : VReg)][1] == 0xFF80) ∧
    yields (.loadReturn 0 1 0xFFFFFFFF) held (fun t => t.me.outs == held.me.outs) := by decide +kernel

/-- R138 and R144: the higher of two lanes over one byte stays, a cached store changes the line and not the slice. -/
theorem witness_StoresComplete :
    let two := standing ⟨.store, false, [⟨0, 0, .scratch 0 8, 4, [], 0x04030201⟩, ⟨1, 0, .scratch 0 10, 4, [], 0x08070605⟩], [], [], []⟩
    let cached := standing ⟨.store, false, [⟨0, 0x2001, .global 0x402001, 2, [false, false], 0xBBAA⟩], [], [], []⟩
    two.me.outs.length = 1 ∧
    yields (.storeComplete 0 0 0xFFFFFFFF) two (fun t => t.myCore.scratch.read 7 8 == [0, 1, 2, 5, 6, 7, 8, 0] && t.me.outs == []) ∧
    yields (.storeComplete 0 0 0xFFFFFFFF) cached (fun t => t.mem == cached.mem && t.myCore.l1.map (fun l => l.bytes.take 4) ==
      [[0x11, 0xAA, 0xBB, 0x11]] && t.myCore.l1.map L1Line.dirty == [6]) := by decide +kernel

/-- R144 and R372: a lane behind a lower one in the journal, and one in a range that slot 1 has locked, are not performed. -/
theorem witness_StoresComplete_held :
    let l : Lane := ⟨2, 0xFF00000000000008, .own 0 8, 4, [], 9⟩
    let far : Lane := ⟨0, 0xFF10000000000008, .remote 0 8, 4, [], 7⟩
    let s := standing ⟨.store, false, [l], [], [(0, 77)], []⟩
    let behind := s.modCore 0 fun c => { c with journal := [⟨5, 77, 0, s.me.uid, 0, 0, 0, .store, [far], far.va, .sent⟩] }
    let locked := (standing ⟨.store, false, [⟨0, 0, .scratch 0 8, 4, [], 1⟩], [], [], []⟩).modCore 0 fun c => { c with lock := some ⟨1, 0, 1, 0⟩ }
    behind.laneBehind 0 0 l = true ∧ yields (.storeComplete 0 0 0xFFFFFFFF) behind (fun t => t.me.outs.length == 1 && (t.cluster 0).mem == (behind.cluster 0).mem) ∧
    yields (.storeComplete 0 0 0xFFFFFFFF) s (fun t => t.me.outs == [] && (t.cluster 0).mem.get 8 == 9) ∧
    yields (.storeComplete 0 0 0xFFFFFFFF) locked (fun t => t.me.outs.length == 1 && t.myCore.scratch == locked.myCore.scratch) := by decide +kernel

/-- Word 1 of cluster 0 with its bit full or empty, and some waiters. -/
def feWord (full : Bool) (fe : List FeWait) : State := (land [0, 0, 0, 0x77, 0xFF00000000000000, 0, 0xFF10000000400000]).modCluster 0
  fun c => { c with full := if full then [1] else [], fe := fe, mem := [(8, 0x55)] }

/-- R145 and R146: each operation on a full and an empty word, and through the remote window. -/
theorem witness_FullEmptyWords :
    let full := feWord true []
    let empty := feWord false []
    let now (i : Instr) (s : State) (x : W64) (ws : List Nat) (b : Byte) : Bool := yields i s fun t =>
      t.me.greg 7 == x && (t.cluster 0).full == ws && (t.cluster 0).mem.get 8 == b && t.me.ip == thenIp
    let parks (i : Instr) (s : State) : Bool := yields i s fun t => t.me.wait == .bank 0 0xFF00000000000008 && (t.cluster 0).fe.length == 1 && t.me.resume == thenIp
    full.plain [.g 4, .g 3] [.g 7] ∧
    (passing (checkAddr (feSpec needR) 0 0xFF00000000000008 full) (fun l t => l.place == .own 0 8 && free t l && !t.bad l)) ∧
    (now (.ldsync false 7 4 0 8) full 0x55 [1] 0x55 ∧ now (.ldsync true 7 4 0 8) full 0x55 [] 0x55 ∧
      parks (.ldsync true 7 4 0 8) empty ∧ parks (.stfill true 3 4 0 8) full) ∧
    (now (.stfill false 3 4 0 8) full 0 [1] 0x77 ∧ now (.stfill true 3 4 0 8) empty 0 [1] 0x77 ∧ now (.femark true 4 0 8) empty 0 [1] 0x55 ∧
      now (.femark false 4 0 8) full 0 [] 0x55) ∧
    (yields (.stfill true 3 6 0 8) full (fun t => t.myCore.journal.map (fun j => (j.entry, j.kind, j.cl)) == [(0, .fill true, 1)]) ∧
      yields (.femark false 6 0 8) full (fun t => t.myCore.journal.map JEntry.kind == [.mark false])) := by
  refine ⟨⟨?_, ?_⟩, ?_, ?_, ?_, ?_⟩ <;> decide +kernel

/-- R141 and R153: a full word that cannot be read traps and an empty one parks; a posted stfill.wait is served, or not where
the far side is to refuse it. -/
theorem witness_FullEmptyWords_errors :
    let flawed (s : State) : State := { s with ue := [.local_ 0 9] }
    let w : Lane := ⟨0, 0xFF10000000400008, .remote 1 8, 8, [], 0x66⟩
    let queued : State :=
      let s := land []
      let s := s.modCore 0 fun c => { c with journal := [⟨5, 1, 0, s.me.uid, 0, 1, (s.cluster 1).epoch, .fill true, [w], w.va, .queued⟩] }
      s.modCluster 1 fun c => { c with perm := 1, fe := [⟨1, .journal 1, .fill 0x66⟩] }
    yields (.ldsync true 7 4 0 8) (flawed (feWord true [])) (fun t => trapped 0x0C 0xFF00000000000008 0 t && (t.cluster 0).full == [1]) ∧
    yields (.ldsync true 7 4 0 8) (flawed (feWord false [])) (fun t => t.me.wait == .bank 0 0xFF00000000000008) ∧
    yields (.feWaiterService 1 1) queued (fun t => (t.cluster 1).full == [1] && (t.cluster 1).mem.get 8 == 0x66 && (t.cluster 1).fe == [] &&
      (t.core 0).journal.map JEntry.state == [.performed]) ∧
    yields (.feWaiterService 1 1) (queued.modCluster 1 fun c => { c with perm := 0 }) (fun t => (t.cluster 1).full == [] && (t.cluster 1).fe.length == 1 &&
      (t.core 0).journal.map JEntry.state == [.queued]) := by decide +kernel

/-- R146: a waiter is served when the bit fits it, and a refused request is repeated. -/
theorem witness_FullEmptyWords_waiters :
    let take : FeWait := ⟨1, .thread 0, .take (.reg 7)⟩
    let fill : FeWait := ⟨1, .thread 0, .fill 0x66⟩
    let waits (s : State) (x : Wait) : State := s.modThread 0 fun t => { t with wait := x, resume := thenIp }
    let done (i : Instr) (s : State) (x : W64) (ws : List Nat) (b : Byte) : Bool := yields i s fun t =>
      t.me.greg 7 == x && (t.cluster 0).full == ws && (t.cluster 0).mem.get 8 == b && t.me.wait == .run && t.me.ip == thenIp &&
        (t.cluster 0).fe == []
    let va : W64 := 0xFF00000000000008
    let flawed (s : State) : State := { s with ue := [.local_ 0 9] }
    done (.feWaiterService 0 1) (waits (feWord true [take]) (.bank 0 va)) 0x55 [] 0x55 ∧
    done (.feWaiterService 0 1) (waits (feWord false [fill]) (.bank 0 va)) 0 [1] 0x66 ∧
    done (.bankQueueResend 0) (waits (feWord true []) (.bankRefused 0 va take)) 0x55 [] 0x55 ∧
    yields (.bankQueueResend 0) (waits (feWord false []) (.bankRefused 0 va take)) (fun t => t.me.wait == .bank 0 va && (t.cluster 0).fe == [take]) ∧
    yields (.feWaiterService 0 1) (flawed (waits (feWord true [take]) (.bank 0 va))) (fun t => trapped 0x0C 0xFF00000000000008 0 t &&
      (t.cluster 0).full == [1] && (t.cluster 0).fe == []) := by
  decide +kernel

/-- R147 to R149: fences with and without an access outstanding, both ways of a mailbox, and a prefetch. -/
theorem witness_FencesMailboxesPrefetches :
    let s := land [0, 0, 0, 0x77, 0x2000]
    let busy := s.modThread 0 fun t => { t with outs := [⟨.load (.reg 3) .n8, true, [], [], [], []⟩] }
    let box (b : Mailbox) := s.modCore 0 fun c => c.modBox 2 fun _ => b
    let goes (i : Instr) (s : State) : Bool := yields i s fun t => t.me.ip == thenIp
    let waits (i : Instr) (s : State) (why : Why) : Bool := yields i s fun t => t.me.wait == .retry why && t.me.ip == 0x10001
    s.plain [.g 3, .g 4] [.g 7] ∧
    (goes (.fence .all) s ∧ goes (.fence .posted) s ∧ waits (.fence .all) busy .fence ∧ waits (.fence .ld) busy .fence ∧
      goes (.fence .st) busy ∧ goes (.fence .posted) busy) ∧
    (yields (.mbput 3 2) s (fun t => t.myCore.mailbox[2] == ⟨true, 0x77, [], []⟩ && t.me.ip == thenIp) ∧ waits (.mbget 7 2) s (.mbget 2) ∧
      waits (.mbput 3 2) (box ⟨true, 9, [], []⟩) (.mbput 2) ∧
      yields (.mbget 7 2) (box ⟨true, 9, [], [0, 1]⟩) (fun t => t.myCore.mailbox[2] == ⟨false, 9, [], [1]⟩ && t.me.greg 7 == 9) ∧
      waits (.mbget 7 2) (box ⟨true, 9, [], [1, 0]⟩) (.mbget 2)) ∧
    (goes (.pref true 4 0 0) s ∧ yields (.pref false 0 0 0) s (fun t => t.myCore.l1 == [] && t.me.ip == thenIp) ∧
      yields (.pref false 4 0 0x1000) s (fun t => t.myCore.l1 == [] && t.me.ip == thenIp) ∧
      yields (.pref false 4 0 0) s (fun t => t.myCore.l1.map L1Line.pa == [0x10080] && t.me.ip == thenIp)) := by
  refine ⟨⟨?_, ?_⟩, ?_, ?_, ?_⟩ <;> decide +kernel

/-- R160 and R147: fence.all waits for a message under way; pref reads a poisoned base and fetches, or waits for a pending one. -/
theorem witness_FencesMailboxesPrefetches_more :
    let s := land [0, 0, 0, 0x77, 0x2000]
    let sent := s.modCore 0 fun c => { c with retry := [⟨4, 0, s.me.uid, 0, 128, 128, 0, 2, 11, 22, 0, .sent⟩] }
    let poisoned := s.modThread 0 fun t => { t with poison := [⟨4, 0x2000, 0⟩] }
    let late := s.modThread 0 fun t => { t with outs := [⟨.load (.reg 4) .n8, true, [⟨0, 0, .global 0, 1, [false], 0⟩], [], [], []⟩] }
    yields (.fence .all) sent (fun t => t.me.wait == .retry .fence) ∧ yields (.fence .posted) sent (fun t => t.me.ip == thenIp) ∧
    yields (.pref false 4 0 0) poisoned (fun t => t.me.ip == thenIp && t.myCore.l1.map L1Line.pa == [0x10080]) ∧
    yields (.pref false 4 0 0) late (fun t => t.me.wait == .retry .access) ∧
    yields (.pref false 4 0 0) { s with ue := [.global 0x402000] } (fun t => t.me.ip == thenIp && t.myCore.l1 == []) := by decide +kernel

/-- An entry of core 0's journal for cluster 1. -/
def posted (k : JKind) (st : SendState) (lane : Lane) : State :=
  let j : JEntry := ⟨5, 1, 0, ((land []).thread 0).uid, 0, 1, 0, k, [lane], lane.va, st⟩
  (land []).modCore 0 fun c => { c with journal := [j] }

/-- R138, R151 and R153: an entry is performed and acknowledged, refused for permission, and refused for an error. -/
theorem witness_PostedStores :
    let l : Lane := ⟨0, 0xFF10000000400008, .remote 1 8, 2, [], 0x0201⟩
    let w : Lane := ⟨0, 0xFF10000000400008, .remote 1 8, 8, [], 0x66⟩
    let sent := posted .store .sent l
    let shut := sent.modCluster 0 fun c => { c with perm := 1 }
    sent.permitted 1 (sent.vcluster 0) 0 = false ∧
    (let open_ (s : State) : State := s.modCluster 1 fun c => { c with perm := 1 }
     (open_ sent).permitted 1 0 0 = true ∧
     yields (.postedStorePerform 0 5 0xFFFFFFFF) (open_ sent) (fun t => (t.cluster 1).mem.read 8 2 == [1, 2] &&
       (t.core 0).journal.map JEntry.state == [.performed]) ∧
     yields (.postedStorePerform 0 5 0xFFFFFFFF) (open_ (posted (.mark true) .sent w)) (fun t => (t.cluster 1).full == [1] && (t.cluster 1).mem == []) ∧
     yields (.postedStorePerform 0 5 0xFFFFFFFF) (open_ (posted (.fill false) .sent w)) (fun t => (t.cluster 1).full == [1] && (t.cluster 1).mem.get 8 == 0x66) ∧
     yields (.postedStorePerform 0 5 0xFFFFFFFF) ((open_ (posted (.fill true) .sent w)).modCluster 1 fun c => { c with full := [1] })
       (fun t => (t.core 0).journal.map JEntry.state == [.queued] && (t.cluster 1).fe.length == 1) ∧
     yields (.postedRefused 0 5) { open_ sent with ue := [.local_ 1 9] } (fun t => (t.core 0).journal.map JEntry.state == [.refused 3] &&
       t.me.pend == [⟨0x28, 0, 0xFF10000000400008, 0x305, some 5, none⟩])) ∧
    yields (.postedStoreAck 0 5) (posted .store .performed l) (fun t => (t.core 0).journal == []) ∧
    yields (.postedStoreAck 0 5) sent (fun t => (t.core 0).journal.length == 1) ∧
    yields (.postedRefused 0 5) shut (fun t => t.me.pend == [⟨0x28, 0, 0xFF10000000400008, 0x205, some 5, none⟩] && (t.cluster 1).mem == []) := by
  decide +kernel

/-- R140, R378 and R381: a dirty byte is written and the others are not, and a walk of one 1 GiB leaf of the host table. -/
theorem witness_CachesAndWalks :
    let s := { (land []).modCore 0 fun c => { c with l1 := [⟨0x10080, [0x80], List.replicate 64 0x11, 2⟩], icache := [] } with
      mem := [(0x402000, 0x99)] }
    let walked := { (s.modPart 0 fun p => { p with hroot := 0x1000 }).modCore 0 fun c => { c with tlb := [] } with
      mem := (s.mem.write 0x1000 (natBytes 8 0x2003)).write 0x2000 (natBytes 8 0x3003) |>.write 0x3000 (natBytes 8 0x1D) }
    yields (.l1Eviction 0 0x10080) s (fun t => (t.core 0).l1 == [] && t.mem == [(0x402000, 0x99), (0x402001, 0x11)]) ∧
    (match walk walked.mem (walked.part 0) 0x1234 needR with
      | .ok r => r.entry.pa == 0 && r.entry.size == 2 ^ 30
      | .error _ => false) = true ∧
    yields (.pageWalkComplete 0 0x1234 false) walked (fun t => t.mem == walked.mem && (t.core 0).tlb.length == 1) := by decide +kernel

/-- R379 and R380: the example of R380 (a 16 KiB leaf in entries 32 to 35), with an entry of its group changed, and a table
entry at level 0. -/
theorem witness_CachesAndWalks_entries :
    let rd (e : Nat) (a : Nat) : Nat := if a / 8 = 34 then e else if 32 ≤ a / 8 ∧ a / 8 ≤ 35 then 0x000000012340804D else 0
    let leaf (e : Nat) (guest : Bool) : Option (Nat × Nat × Bool × Bool × Bool) := match radix (fun a => .ok (rd e a)) guest 0x0000004000023450 0 0 with
      | .ok (some l) => some (l.oa, l.size, l.need.r, l.need.w, l.need.x)
      | _ => none
    leaf 0x000000012340804D true = some (0x123408000, 2 ^ 14, true, true, false) ∧ leaf 0 true = none ∧
    (match radix (fun _ => .ok 3) true 0 0 0 with
      | .ok none => true
      | _ => false) = true ∧
    (match radix (fun a => .ok (if a = 0x5000 then 0x4D else 0x5003)) true 0 1 0 with
      | .ok none => true
      | _ => false) = true := by decide +kernel

/-- R378: the two stages of R380's example: host entries of a 1 GiB leaf for frame 4. -/
theorem witness_CachesAndWalks_stages :
    let p := { (land []).part 0 with gstage := true, groot := 0x100001000, hroot := 0x1000 }
    let m : Memory := [(0x1000, 0x2003), (0x2000, 0x3003), (0x3020, 0x800000000D)].foldl (fun m x => m.write x.1 (natBytes 8 x.2)) []
    let m : Memory := [(0x8000001000, 0x100002003), (0x8000002000, 0x100003003), (0x8000003800, 0x100004003), (0x8000004000, 0x100005003),
      (0x8000005100, 0x12340804D), (0x8000005108, 0x12340804D), (0x8000005110, 0x12340804D), (0x8000005118, 0x12340804D)].foldl
        (fun m x => m.write x.1 (natBytes 8 x.2)) m
    (match walk m p 0x4000023450 needR with
      | .ok r => r.entry.pa + (0x4000023450 - r.entry.base) == 0x802340B450 && r.entry.size == 2 ^ 14 && r.entry.base == 0x4000020000
      | .error _ => false) = true ∧
    (match walk m p 0x4000023450 needX with
      | .error .perm => true
      | _ => false) = true ∧
    (match walk m p 0x4000033450 needR with
      | .error .absent => true
      | _ => false) = true := by decide +kernel

/-- A continuation of bench's team, with 11 × i in register i. -/
def entryOf (s : State) : DequeEntry :=
  let t := s.thread 0
  ⟨Vector.ofFn fun i => BitVec.ofNat 64 (11 * i.val), 0x20001, [], 0, 0, t.idset, t.team, t.tid, t.teamn, t.mul, 0, 0, 0, 0, 0, t.part, t.home, 0⟩

/-! ### Atomics -/

/-- R178 to R185: what each atomic leaves outstanding; a word that only may be read traps. -/
theorem witness_AtomicsIssue :
    let s := (land [0, 0, 0, 0xFFFFFFFF00000007, 0x5000, 8, 0x4000]).modThread 0 fun t => { t with
      mul := 3, v := (t.v.set 1 (vec [1, 0, 2])).set 2 (vec [7, 8, 9]), k := t.k.set 1 5 }
    let at_ (va : W64) (size : Nat) (x : W64) (lane : Nat) : Lane := ⟨lane, va, .global (0x400000 + va.toNat), size, List.replicate size true, x⟩
    s.plain [.g 3, .g 4, .g 5, .v 1, .v 2] [.g 3, .v 3] ∧
    passing (checkAddr (amoSpec 4 false) 0 0x5008 s) (fun l t => free t l && !t.bad l) ∧
    yields (.amo .add .i32 false 7 4 5 3) s (fun t => t.me.ip == thenIp && t.me.outs ==
      [⟨.amo .add .i32 (.reg 7) 3, false, [at_ 0x5008 4 7 0], [], [], []⟩]) ∧
    yields (.amocas .i64 3 4 5 5) s (fun t => t.me.outs ==
      [⟨.amocas .i64 (.reg 3) 0xFFFFFFFF00000007, false, [at_ 0x5008 8 8 0], [], [], []⟩]) ∧
    yields (.vamo .maxn .i32 false 3 4 1 2 4 1) s (fun t => t.me.outs ==
      [⟨.vamo .maxn .i32 (some 3) 3, false, [at_ 0x5008 4 7 0, at_ 0x500C 4 9 2], [], [], []⟩]) ∧
    yields (.amo .swap .i64 false 7 6 0 3) s (trapped 0x08 0x4000 0) ∧
    yields (.amo .add .i32 false 7 4 5 3) (s.modThread 0 fun t => { t with outs := [⟨.store, true, [], [], [], []⟩] })
      (fun t => t.me.wait == .retry .access) := by
  refine ⟨⟨?_, ?_⟩, ?_⟩ <;> decide +kernel

/-- R419: the way of an atomic through the fabric fails. -/
theorem witness_AtomicsIssue_fabric :
    let s := land [0, 0, 0, 7, 0x5000, 8]
    yields (.amo .add .i32 false 7 4 5 3) { s with ue := [.fabric 0] } (trapped 0x0C 0x5008 0) ∧
    yields (.amocas .i64 3 4 5 5) { s with ue := [.global 0x40500B] } (trapped 0x0C 0x5008 0) := by decide +kernel

/-- An atomic of slot 0 stands first, on the word at 0x405008; the core's L1 has byte 0 of the word dirty. -/
def atWord (a : AccKind) (mem : Memory) : State := { ((land []).modThread 0 fun t => { t with outs := [⟨a, false,
    [⟨0, 0x5008, .global 0x405008, 4, List.replicate 4 true, 3⟩], [], [], []⟩] }).modCore 0 fun c => { c with
  l1 := [⟨0x10140, [0x140], List.replicate 64 0xFE, 0x100⟩] } with mem := mem }

/-- R156, R180 to R184: each operation on an old word of −2 (its low byte from the L1 line) with the operand 3 and a
multiplicity of 2, then a compare that meets and one that does not. -/
theorem witness_AtomicsPerform :
    let mem : Memory := [(0x405008, 0x11), (0x405009, 0xFF), (0x40500A, 0xFF), (0x40500B, 0xFF)]
    let is (k : AccKind) (m : Memory) (old : W64) (new : Nat) : Bool := yields (.atomicPerform 0 0 0) (atWord k m) fun t =>
      t.me.greg 7 == old && t.mem.word 0x405008 4 == new && t.myCore.l1 == [] && t.me.outs == []
    let op (o : AmoOp) (new : Nat) : Bool := is (.amo o .i32 (.reg 7) 2) mem 0xFFFFFFFFFFFFFFFE new
    op .add 4 ∧ op .and 2 ∧ op .or 0xFFFFFFFF ∧ op .xor 0xFFFFFFFE ∧ op .mins 0xFFFFFFFE ∧ op .maxs 3 ∧ op .minn 3 ∧
    op .maxn 0xFFFFFFFE ∧ op .swap 3 ∧
    is (.amocas .i32 (.reg 7) 9) mem 0xFFFFFFFFFFFFFFFE 0xFFFFFFFE ∧
    is (.amocas .i32 (.reg 7) 9) [(0x405008, 9)] 0xFE 0xFE ∧
    yields (.atomicPerform 0 0 0) ((atWord (.amocas .i32 (.reg 7) 9) [(0x405008, 3)]).modCore 0 fun c => { c with l1 := [] })
      (fun t => t.me.greg 7 == 3 && t.mem == [(0x405008, 9)]) ∧
    yields (.atomicPerform 0 0 0) (atWord (.vamo .add .i32 (some 3) 1) mem) (fun t => t.me.v[(3 : VReg)][0] == 0xFFFFFFFE && t.mem.word 0x405008 4 == 1) := by
  decide +kernel

/-- A partition with a spill area of one record at 0x2000. -/
def detLand (seq cap : Nat) : State := ((land [0, 0, 0, 7, 0x5000]).modPart 0 fun p => { p with detspill := 0x80, cap := BitVec.ofNat 32 cap }).modCluster 0
  fun c => { c with teams := c.teams.map fun tm => { tm with det := if seq = 0 then [] else [(0, seq)] } }

/-- R187 to R192: an update with room, without room, and at the end of its counter; accepted in a new buffer, and spilled
when the word's buffer is full. -/
theorem witness_DeterministicUpdates :
    let s := detLand (2 ^ 24 - 2) 1
    let sent (rest : List Buffer) : State := { (detLand 1 1).modThread 0 fun t => { t with
        wait := .det none none, resume := thenIp, outs := [⟨.det .add (.reg 7) 1, false, [⟨0, 0x5000, .global 0x405000, 4, [true, true, true, true], 7⟩], [], [(0, 2)], []⟩] }
      with buffers := rest }
    let full : Buffer := ⟨0, 21, 0x405000, List.replicate 16 (0, 1)⟩
    s.plain [.g 4, .g 0, .g 3] [.g 7] ∧
    passing (checkAddr (amoSpec 4 true) 0 0x5000 s) (fun l t => free t l && !t.bad l && (t.teamOf s.me).isSome) ∧
    yields (.amo .add .i32 true 7 4 0 3) s (fun t => t.me.wait == .det none none && (t.part 0).reserved == 1 &&
      t.me.outs.map Access.keys == [[(0, BitVec.ofNat 64 ((2 ^ 24 - 2) * 2))]]) ∧
    yields (.amo .add .i32 true 7 4 0 3) (detLand (2 ^ 24 - 1) 1) (trapped 0x30 0x5000 2) ∧
    yields (.amo .fadd .f32 true 7 4 0 3) (detLand 0 0) (trapped 0x30 0x5000 1) ∧
    yields (.detUpdateAccept 0 0 0) (sent []) (fun t => t.buffers == [⟨0, 21, 0x405000, [(2, 7)]⟩] && t.me.wait == .run && t.me.ip == thenIp) ∧
    yields (.detUpdateAccept 0 0 0) (sent [full]) (fun t => t.buffers == [full] && (t.part 0).spills == [⟨0, 21, 0x405000, 2, 7⟩] &&
      t.mem.word 0x402000 8 == 2 && t.mem.word 0x402008 4 == 7 && t.mem.word 0x40200C 4 == 0x1400) ∧
    yields (.detmWrite 0 0x400000000) s (fun t => (t.part 0).detm == 1) ∧ yields (.detmWrite 0 0x400000000) (sent [full]) (fun t => (t.part 0).detm == 0) ∧
    yields (.detspillWrite 0 0x40) s (fun t => (t.part 0).detspill == 1) ∧ yields (.detspillnWrite 0 9) s (fun t => (t.part 0).cap == 9) ∧
    yields (.detspillnWrite 0 9) (s.modPart 0 fun p => { p with reserved := 1 }) (fun t => (t.part 0).cap == 1) := by
  refine ⟨⟨?_, ?_⟩, ?_⟩ <;> decide +kernel

/-- R190, R192 and R382: the spill write meets a page that may not be written: the trap takes the number back, unless a later one
of the index is held; a host-stage failure asks the host once, and traps when the host declines. -/
theorem witness_DeterministicUpdates_spill :
    let outs (key : W64) : List Access := [⟨.det .add (.reg 7) 1, false, [⟨0, 0x5000, .global 0x405000, 4, [true, true, true, true], 7⟩], [], [(0, key)], []⟩]
    let full (later : List (W64 × W32)) : List Buffer := [⟨0, 21, 0x405000, List.replicate 16 (0, 1)⟩, ⟨0, 22, 0x409000, later⟩]
    let s (seq : Nat) (later : List (W64 × W32)) (wait : Wait) : State :=
      let x := (detLand seq 1).modPart 0 fun p => { p with reserved := 1, detspill := 0x7000000000000, hroot := 0x1000, groot := 0x8000, gstage := true }
      { x.modThread 0 fun t => { t with wait := wait, resume := thenIp, outs := outs (BitVec.ofNat 64 (128 * t.team.toNat * 2 ^ 25 + 2)) } with
        buffers := full later
        mem := ((Memory.write [] 0x1000 (natBytes 8 0x2003)).write 0x2000 (natBytes 8 0x3003)).write 0x3000 (natBytes 8 0x1D) }
    let s2 (asked declined : Option Nat) : State :=
      let x := s 2 [] (.det asked declined)
      { x.modPart 0 fun p => { p with detspill := 0x1000000, gstage := false } with mem := [] }
    let team := ((land []).thread 0).team.toNat * 128
    let later : W64 := BitVec.ofNat 64 (team * 2 ^ 25 + 4)
    let seq (t : State) : Option Nat := (t.teamOf t.me).map fun tm => detCount tm 0
    yields (.detUpdateAccept 0 0 0) (s 2 [(BitVec.ofNat 64 (team * 2 ^ 25), 1)] (.det none none)) (fun t => trapped 0x30 0x5000 3 t && seq t == some 1 &&
      (t.part 0).reserved == 0 && t.me.outs == []) ∧
    yields (.detUpdateAccept 0 0 0) (s 3 [(later, 1)] (.det none none)) (fun t => trapped 0x30 0x5000 3 t && seq t == some 3) ∧
    yields (.detUpdateAccept 0 0 0) (s2 none none) (fun t => t.me.wait == .det (some 0x40000000) none && ((t.page 0).pair 0).backlog.map (List.take 1) == [[6]]) ∧
    yields (.detUpdateAccept 0 0 0) (s2 (some 0x40000000) none) (fun t => t.me.wait == .det (some 0x40000000) none && ((t.page 0).pair 0).backlog == []) ∧
    yields (.detUpdateAccept 0 0 0) (s2 (some 0x40000000) (some 0x40000000)) (trapped 0x30 0x5000 3) := by decide +kernel

/-- R193 and R194: updates 5, then 7, in ascending key, and a word withheld for an error. -/
theorem witness_Drains :
    let s := bench []
    let dr : Drain := ⟨0, s.me.uid, 0, 0x200000⟩
    let waits : State := { (s.modPart 0 fun p => { p with drains := [dr], spills := [⟨0, 21, 0x405000, 2, 5⟩] }).modThread 0 fun t =>
        { t with wait := .drain (.reg 3) 0 false, resume := thenIp } with
      buffers := [⟨0, 21, 0x405000, [(4, 7)]⟩], mem := [(0x405000, 1)] }
    s.plain [] [.g 3] ∧ waits.detWords 0 21 = [0x405000] ∧
    yields (.amodrain 3) s (fun t => t.me.wait == .drain (.reg 3) 0 false && (t.part 0).drains == [⟨0, s.me.uid, 0, BitVec.allOnes 64⟩]) ∧
    yields (.drainMarker 0 21) waits (fun t => t.mem == [(0x405000, 13)] && t.buffers == [] && (t.part 0).spills == [] && t.me.greg 3 == 2 && t.me.ip == thenIp) ∧
    yields (.drainMarker 0 21) { waits with ue := [.global 0x405003] } (fun t => t.mem == [(0x405000, 1)] && t.buffers.length == 1 &&
      t.me.greg 3 == 0x8000000000000000) := by
  refine ⟨⟨?_, ?_⟩, ?_⟩ <;> decide +kernel

/-! ### Tasks, frames and endings -/

/-- R193: the update of an access that is not accepted yet stays (log 13). -/
theorem witness_Drains_open :
    let s := bench []
    let waits : State := { (s.modPart 0 fun p => { p with reserved := 1, drains := [⟨0, s.me.uid, 0, 0x200000⟩] }).modThread 0 fun t =>
        { t with wait := .drain (.reg 3) 0 false, resume := thenIp } with buffers := [⟨0, 21, 0x405000, [(4, 7), (6, 8)]⟩], mem := [(0x405000, 1)] }
    let open_ := waits.setThread 1 { waits.thread 0 with uid := 9, wait := .det none none, outs := [⟨.det .add (.reg 7) 1, false, [], [], [(0, 6)], []⟩] }
    yields (.drainMarker 0 21) open_ (fun t => t.mem == [(0x405000, 8)] && t.buffers.map Buffer.entries == [[(6, 8)]] && t.me.greg 3 == 1) := by
  decide +kernel

/-- A record of task 0 that some later or earlier task conflicts with, or none. -/
def tasks (f : Task → List Task) : State := (bench [0, 0, 0, 0, 0x2000, 0x100, 0x10000000000]).modCluster 0 fun c =>
  { c with teams := c.teams.map fun tm => { tm with tasks := tm.tasks.flatMap f, nextTask := 3 } }

def otherTask (id : Nat) (rs : List Region) : Task := ⟨id, rs, true, true, 1, 0⟩

/-- R201, R206, R214 and R215: the eighth record, an extent of 2^40, and a conflict with a task before and after. -/
theorem witness_RegionRecords :
    let s := tasks fun k => [k]
    let busy : Region := mkRegion 3 0x100 0x20FF
    let before := tasks fun k => [otherTask 1 [busy], k]
    let after := tasks fun k => [k, otherTask 2 [busy]]
    let staged (n : Nat) : State := s.modThread 0 fun t => { t with staged := List.replicate n 0 }
    s.plain [.g 4, .g 5, .g 6] [] ∧ ((s.taskOf s.me).map Task.id) = some 0 ∧
    yields (.rgn .rw 4 5) (staged 7) (fun t => t.me.staged.length == 8 && t.me.staged.getLast? == some (mkRegion 3 0x100 0x2000)) ∧
    yields (.rgn .rw 4 5) (staged 8) (trapped 0x09 0 1) ∧ yields (.rgn .r 4 6) s (trapped 0x09 0 2) ∧
    yields .rgnclr (staged 8) (fun t => t.me.staged == []) ∧
    yields (.rgnadd .r 4 5) s (fun t => t.me.wait == .skimmer && t.records t.me == [mkRegion 1 0x100 0x2000]) ∧
    yields (.rgnadd .r 4 5) before (fun t => t.me.wait == .rgnadd (mkRegion 1 0x100 0x2000) && t.me.resume == thenIp) ∧
    yields (.rgnadd .r 4 5) after (trapped 0x09 0 3) ∧
    yields (.rgnaddAppend 0) (before.modThread 0 fun t => { t with wait := .rgnadd (mkRegion 1 0x100 0x2000), resume := thenIp })
      (fun t => t.me.wait == .rgnadd (mkRegion 1 0x100 0x2000)) ∧
    yields (.rgnaddAppend 0) (s.modThread 0 fun t => { t with wait := .rgnadd (mkRegion 1 0 0x2000), resume := thenIp })
      (fun t => t.me.wait == .run && t.me.ip == thenIp && t.records t.me == [mkRegion 1 0 0x2000]) := by
  refine ⟨⟨?_, ?_⟩, ?_⟩ <;> decide +kernel

/-- R215: another thread of the task with records of its own counts, and takes the new record too. -/
theorem witness_RegionRecords_views :
    let s := (tasks fun k => [{ k with threads := 2 }]).setThread 1 { (tasks fun k => [k]).thread 0 with uid := 9, view := some (List.replicate 7 0) }
    let many := s.modThread 1 fun t => { t with view := some (List.replicate 8 0) }
    s.recordCount s.me = 7 ∧ many.recordCount many.me = 8 ∧ (many.viewers many.me).length = 1 ∧
    yields (.rgnadd .r 4 5) s (fun t => t.me.wait == .skimmer && t.records t.me == [mkRegion 1 0x100 0x2000] && (t.thread 1).view == some (List.replicate 7 0 ++ [mkRegion 1 0x100 0x2000])) ∧
    yields (.rgnadd .r 4 5) many (trapped 0x09 0 1) := by decide +kernel

/-- R205, R208, R216 and R217: spawn continues at its target with its continuation on the deque; fork gives g4 and not g5
to the arm in slot 1; no index is free; the target cannot be entered. -/
theorem witness_SpawnAndFork :
    let s := bench [0, 1, 2, 3, 0x10, 5]
    let full := s.modCluster 0 fun c => { c with teams := c.teams.map fun tm => { tm with used := BitVec.allOnes 128 } }
    s.me.outs = [] ∧ s.myCore.journal = [] ∧ s.tileStores 0 = false ∧ s.slotNear 0 = some 1 ∧ s.plain [.g 4] [.g 7] ∧
    yields (.spawn 1) s (fun t => t.me.ip == 0x10001 && t.me.task == 1 && t.me.greg 5 == 5 &&
      t.myCore.deque.map (fun e => (e.ip, e.task, e.g[3])) == [(thenIp, 0, 3)] && ((t.teamOf t.me).map fun tm => tm.tasks.map Task.id) == some [1, 0]) ∧
    yields (.fork 7 4 1) s (fun t => t.me.greg 7 == 1 && t.me.ip == thenIp && (t.thread 1).ip == 0x10001 && (t.thread 1).greg 4 == 0x10 &&
      (t.thread 1).greg 5 == 0 && (t.thread 1).tid == 1 && ((t.teamOf t.me).map fun tm => tm.tasks.map Task.id) == some [0, 1]) ∧
    yields (.fork 7 4 1) full (fun t => t.me.greg 7 == 0x8000000000000001 && (t.thread 1).occ == false) ∧
    yields (.spawn 2) s (fun t => trapped 0x03 0x10002 1 t && t.myCore.deque == []) ∧
    yields (.spawn 1) (s.modCore 0 fun c => { c with deque := List.replicate 64 (entryOf s) }) (fun t => t.me.wait == .retry .deque) := by
  refine ⟨?_, ?_, ?_, ?_, ⟨?_, ?_⟩, ?_⟩ <;> decide +kernel

/-- R209 and R210: a continuation popped by its own core into slot 0, and taken by the core that asked for one. -/
theorem witness_Deques :
    let s := ((bench []).modThread 0 fun t => { t with occ := false }).modCluster 0 fun c =>
      { c with teams := c.teams.map fun tm => tm.modTask 0 fun k => { k with threads := 0, conts := 1 } }
    let near := s.modCore 0 fun c => { c with deque := [entryOf s] }
    let busy := (slotsOf 0).foldl (fun s w => s.modThread w fun t => { t with occ := true }) near
    let ask := busy.modCore 1 fun c => { c with victim := some 0 }
    (s.candidates 0).head? = some 0 ∧ (s.candidates 1).head? = some 16 ∧
    yields (.dequePop 0) near (fun t => (t.core 0).deque == [] && (t.thread 0).occ && (t.thread 0).ip == 0x20001 && (t.thread 0).greg 3 == 33 &&
      (t.thread 0).greg 8 == 0 && (t.thread 0).wait == .run) ∧
    yields (.stealAnswer 1) ask (fun t => (t.core 0).deque == [] && (t.core 1).victim == none && (t.thread 16).ip == 0x20001 && (t.thread 16).greg 7 == 77) ∧
    yields (.stealAnswer 1) (ask.modCore 0 fun c => { c with deque := [] }) (fun t => (t.core 1).victim == none && (t.core 1).stealFrom == 1) ∧
    s.victims 1 ≠ [] ∧ yields (.stealRequest 1) near (fun t => (t.core 1).victim != none) := by decide +kernel

/-- R22 and R210: a thief without a free slot takes the answer empty, and one that has not stayed eligible starts again. -/
theorem witness_Deques_late :
    let s := ((bench []).modThread 0 fun t => { t with occ := false }).modCluster 0 fun c =>
      { c with teams := c.teams.map fun tm => tm.modTask 0 fun k => { k with threads := 0, conts := 1 } }
    let ask := (s.modCore 0 fun c => { c with deque := [entryOf s], popped := true }).modCore 1 fun c => { c with victim := some 0 }
    let full := (slotsOf 1).foldl (fun s w => s.modThread w fun t => { t with occ := true }) ask
    full.candidates 1 = [] ∧
    yields (.stealAnswer 1) full (fun t => (t.core 0).deque.length == 1 && (t.core 1).victim == none && (t.core 1).stealFrom == 0) ∧
    yields (.stealAnswer 1) ((ask.modCore 0 fun c => { c with deque := [] }).modCore 1 fun c => { c with stealLate := true }) (fun t => (t.core 1).stealFrom == 0 && !(t.core 1).stealLate) := by
  decide +kernel

/-- The frame at byte 0x100 of cluster 0: its header word and its saved IP. -/
def framed (header : Nat) (fp : W64) : State := ((bench [0, 11, 12, 0, 0xFF00000000000100, 5]).modThread 0 fun t => { t with framep := fp }).modCluster 0
  fun c => { c with mem := (c.mem.write 0x100 (natBytes 8 header)).write 0x108 (natBytes 8 0x20001) |>.write 0x120 (natBytes 8 66) |>.write 0x148 (natBytes 8 0x800) }

/-- R218 to R221: a frame is written whole; the owner with a child to come, the last child, an early child, and a closed
frame. -/
theorem witness_Frames :
    let mine : W64 := 0xFF10000000000100
    passing (checkAddr { size := 256, align := 256, need := needRW, fe := true } 0 0xFF00000000000100 (framed 2 mine))
      (fun l t => l.place == .own 0 0x100 && free t l && !t.bad l) ∧
    yields (.frame 7 4 3) (framed 2 9) (fun t => t.me.framep == mine && t.me.greg 7 == 9 && (t.cluster 0).mem.word 0x100 8 == 3 &&
      (t.cluster 0).mem.word 0x150 8 == 9 && (t.cluster 0).mem.word 0x108 8 == 0 && t.me.ip == thenIp) ∧
    yields (.join 4) (framed 2 mine) (fun t => t.me.occ == false && (t.cluster 0).mem.word 0x100 8 % 2 ^ 33 == 2 ^ 32 + 1 &&
      (t.cluster 0).mem.word 0x108 8 == thenIp.toNat && (t.cluster 0).mem.word 0x118 8 == 12 && (t.cluster 0).mem.word 0x148 8 == 2048) ∧
    yields (.join 4) (framed 1 mine) (fun t => t.me.ip == thenIp && t.me.framep == mine && (t.cluster 0).mem.word 0x100 8 % 2 ^ 33 == 2 ^ 32) ∧
    yields (.join 4) (framed 2 0) (fun t => t.me.occ == false && (t.cluster 0).mem.word 0x100 8 == 1) ∧
    yields (.join 4) (framed (2 ^ 32 + 1) 0) (fun t => t.me.ip == 0x20001 && t.me.framep == mine && t.me.greg 3 == 66 && t.me.greg 5 == 0 && t.me.mul == 1) ∧
    yields (.join 4) (framed (2 ^ 32) 0) (trapped 0x07 0xFF00000000000100 4) ∧
    yields .edge (framed 0 0) (fun t => t.me.ip == thenIp) ∧
    yields .edge (land []) (fun t => t.me.wait == .skimmer && t.me.ip == 0x10001 &&
      ((t.cluster 0).skims.map fun k => (k.kind, k.after)) == [(.writeBack, .again)]) := by decide +kernel

/-- R229, R407 and R409: exit retires the only thread of a team with a KIND 3 record, keeps the team when a task is left,
waits for a store, and a killed thread has a KIND 5 record. -/
theorem witness_Endings :
    let s := tasks fun k => [k]
    let two := tasks fun k => [k, otherTask 2 []]
    let at_ (s : State) (w : Wait) : State := s.modThread 0 fun t => { t with wait := w, resume := thenIp }
    let kinds (t : State) : List (List Byte) := ((t.page 0).pair 0).backlog.map (List.take 1)
    yields .exit s (fun t => t.me.wait == .exiting && t.me.ip == 0x10001) ∧
    yields .exit (s.modThread 0 fun t => { t with outs := [⟨.store, true, [], [], [], []⟩] }) (fun t => t.me.wait == .retry .access) ∧
    yields (.exitRetire 0) (at_ s .exiting) (fun t => t.me.occ == false && (t.cluster 0).teams == [] && kinds t == [[3]]) ∧
    yields (.exitRetire 0) (at_ two .exiting) (fun t => t.me.occ == false && kinds t == [] &&
      (t.cluster 0).teams.map (fun tm => (tm.tasks.map Task.id, tm.exited, tm.used)) == [([2], 1, 0)]) ∧
    yields (.exitRetire 0) (at_ two (.killed 0 0 7 false)) (fun t => t.me.occ == false && kinds t == [[5]]) := by decide +kernel

/-- R223 to R226: byte 1 of the line at 0x2000 is covered and dirty, byte 2 is not covered. -/
theorem witness_SkimmerActions :
    let s (kind : SkimKind) (after : SkimThen) : State := { ((land []).modCore 0 fun c => { c with
        l1 := [⟨0x10080, [0x80], List.replicate 64 0x11, 6⟩] }).modCluster 0 fun c => { c with
          skims := [⟨4, 0, kind, [mkRegion 3 2 0x2000], 0, ((land []).thread 0).uid, after⟩] } with mem := [] }
    yields (.skimmerActionComplete 0 4) (s .writeBack .again) (fun t => t.mem == [(0x402001, 0x11)] && t.me.edgeDone && t.me.wait == .run &&
      (t.core 0).l1.map L1Line.dirty == [4] && (t.cluster 0).skims == []) ∧
    yields (.skimmerActionComplete 0 4) (s .invalidate .go) (fun t => (t.core 0).l1 == [] && t.mem == [(0x402001, 0x11), (0x402002, 0x11)]) ∧
    yields (.skimmerActionComplete 0 4) ((s .writeBack .finish).modThread 0 fun t => { t with resume := thenIp }) (fun t => t.me.ip == thenIp) := by
  decide +kernel

/-- R225: records of 65 lines stand for every byte (log 10). -/
theorem witness_SkimmerActions_all :
    let s (n : Nat) : State := { ((land []).modCore 0 fun c => { c with
        l1 := [⟨0x10080, [0x80], List.replicate 64 0x11, 6⟩] }).modCluster 0 fun c => { c with
          skims := [⟨4, 0, .invalidate, [mkRegion 3 (64 * n) 0x9000], 0, ((land []).thread 0).uid, .go⟩] } with mem := [] }
    yields (.skimmerActionComplete 0 4) (s 65) (fun t => (t.core 0).l1 == [] && t.mem == [(0x402001, 0x11), (0x402002, 0x11)]) ∧
    yields (.skimmerActionComplete 0 4) (s 64) (fun t => (t.core 0).l1.length == 1 && t.mem == []) := by decide +kernel

/-! ### Meet -/

/-- Slots 0 and 1 hold the indices 0 and 1 of bench's team, at one IP, with one value in g5 and different ones in g6. -/
def pair : State :=
  let s := bench [0, 0, 0, 0, 0x20, 0x100000002, 8]
  let s := s.modThread 0 fun t => { t with ip := 0x10001, resume := thenIp, tid := 0, idset := 1 }
  (s.setThread 1 { s.thread 0 with g := regs [0, 0, 0, 0, 0x20, 0x100000002, 9], uid := 9, tid := 1, idset := 2 }).modCluster 0 fun c =>
    { c with teams := c.teams.map fun tm => { tm with weight := 2, used := 3, tasks := tm.tasks.map fun k => { k with threads := 2 } } }

/-- An instance of identity 5 in which some slots have arrived. -/
def inst (arrivals : List SlotIx) (win : W32) : Inst := ⟨0, 0, 5, 7, win, (pair.thread 0).uid, 0, 0, none, arrivals⟩

/-- R228 and R230: the hash of g5 is 2 ^ 1 = 3; a handler, a mapped register and an earlier access. -/
theorem witness_Meets :
    let s := pair
    s.plain [.g 4] [.g 3] ∧ ((s.taskOf s.me).map Task.member) = some true ∧
    yields (.meet 3 4 5) s (fun t => t.me.wait == .sieveWay (.reg 3) 5 0x20 3 && t.me.resume == thenIp && t.me.ip == 0x10001) ∧
    yields (.meet 3 4 5) (s.modThread 0 fun t => { t with handler := true }) (trapped 0x18 0 3) ∧
    yields (.meet 3 4 5) (s.modThread 0 fun t => { t with qmap := 0x80, g := t.g.set 4 0x80000000 }) (trapped 0x18 0 1) ∧
    yields (.meet 3 4 5) (s.modThread 0 fun t => { t with outs := [⟨.store, true, [], [], [], []⟩] }) (fun t => t.me.wait == .retry .access) ∧
    yields (.idset false 3) s (fun t => t.me.greg 3 == 1) ∧ yields (.idset true 3) s (fun t => t.me.greg 3 == 0) := by
  refine ⟨⟨?_, ?_⟩, ?_⟩ <;> decide +kernel

/-- R238 to R240: a released member gets its status and the sticky bits of MEETST. -/
theorem test_meet_release :
    yields (.meetRelease 0) (pair.modThread 0 fun t => { t with wait := .sieveOut (.reg 3) 0x0007000C 0 }) (fun t =>
      t.me.greg 3 == 0x0007000C && t.me.meetst == 0x30007000C && t.me.wait == .run && t.me.ip == thenIp) = true := by decide +kernel

/-- R231 to R236: slot 0 opens an instance, slot 1 closes it by count; with g5 declared the two merge into slot 0, with g6
declared they do not; a window passes; a full table. -/
theorem witness_MeetInstances :
    let way (mask : W64) (h : W32) (w : SlotIx) (s : State) : State := s.modThread w fun t => { t with wait := .sieveWay (.reg 3) 5 mask h }
    let in_ (mask : W64) (h : W32) (w : SlotIx) (s : State) : State := s.modThread w fun t => { t with wait := .sieveIn (.reg 3) 5 mask h }
    let open_ (i : Inst) (s : State) : State := s.modCluster 0 fun c => { c with inst := [i] }
    let others : List Inst := (List.range 64).map fun n => { inst [] 0 with team := BitVec.ofNat 32 (n + 1) }
    yields (.meetArrival 0) (way 0x20 3 0 pair) (fun t => (t.cluster 0).inst.map (fun i => (i.id, i.gen, i.arrivals)) == [(5, 0, [0])] &&
      t.me.wait == .sieveIn (.reg 3) 5 0x20 3 && (t.cluster 0).gens.map (fun g => (g.id, g.gen)) == [(5, 1)]) ∧
    yields (.meetArrival 1) (way 0x20 3 1 (in_ 0x20 3 0 (open_ (inst [0] 0) pair))) (fun t => (t.cluster 0).inst == [] && (t.thread 1).occ == false &&
      t.me.idset == 3 && t.me.mul == 2 && (match t.me.wait with
        | .sieveOut d x _ => d == .reg 3 && x == 0x00070101
        | _ => false)) ∧
    yields (.meetArrival 1) (way 0x40 9 1 (in_ 0x40 9 0 (open_ (inst [0] 0) pair))) (fun t => (t.thread 1).occ && t.me.mul == 1 && (match t.me.wait with
        | .sieveOut _ x _ => x == 0x00070008
        | _ => false)) ∧
    yields (.meetArrival 0) ((way 0x20 3 0 pair).modCluster 0 fun c => { c with inst := others }) (fun t => t.me.wait == .run && t.me.greg 3 == 4 && t.me.meetst == 0x200000004) ∧
    yields (.meetWindowExpiry 0 0) ((in_ 0x20 3 0 (open_ (inst [0] 10) pair)).modCore 0 fun c => { c with cycle := 10 }) (fun t => (t.cluster 0).inst == [] &&
      (match t.me.wait with
        | .sieveOut _ x _ => x == 0x00070002
        | _ => false)) ∧
    yields (.meetWindowExpiry 0 0) ((in_ 0x20 3 0 (open_ (inst [0] 10) pair)).modCore 0 fun c => { c with cycle := 9 }) (fun t => (t.cluster 0).inst.length == 1) := by
  decide +kernel

/-- R241: one thread of index 0 and 3 becomes two; a thread of one index gets 1; a cluster that takes no thread 0. -/
theorem witness_Unmerge :
    let s := (bench [0, 0, 0, 0, 44]).modThread 0 fun t => { t with mul := 2, idset := 9, tid := 0 }
    let full : State := s.modCluster 0 fun c => { c with draining := true }
    s.plain [] [.g 3] ∧ ((s.taskOf s.me).map Task.member) = some true ∧ s.me.outs = [] ∧
    yields (.unmerge 3) s (fun t => t.me.greg 3 == 2 && t.me.mul == 1 && t.me.idset == 1 && t.me.ip == thenIp && (t.thread 1).tid == 3 &&
      (t.thread 1).idset == 8 && (t.thread 1).greg 3 == 2 && (t.thread 1).greg 4 == 44 && (t.thread 1).ip == thenIp && (t.thread 1).occ) ∧
    yields (.unmerge 3) (s.modThread 0 fun t => { t with mul := 1, idset := 1 }) (fun t => t.me.greg 3 == 1 && (t.thread 1).occ == false) ∧
    yields (.unmerge 3) full (fun t => t.me.greg 3 == 0 && t.me.mul == 2) ∧
    yields (.unmerge 3) (s.modThread 0 fun t => { t with handler := true }) (trapped 0x18 0 3) := by
  refine ⟨⟨?_, ?_⟩, ?_⟩ <;> decide +kernel

/-! ### Tile -/

/-- One entry of slot 0 heads the tile queue of core 0, its thread stalled by it; a formed P2 group with sequence number 5
lies at byte 0 of the scratchpad, an activation 6 at byte 0x1000. -/
def tileHead (k : TileKind) (fifo : List ScaleEntry) : State :=
  let s := (land []).modThread 0 fun t => { t with wait := .tileStart 3 none, resume := thenIp }
  s.modCore 0 fun c => { c with
    scratch := [(0, 5), (2, 2), (4, 64), (5, 128), (64, 1), (0x1000, 6)]
    tile := { c.tile with queue := [⟨3, 0, s.me.uid, none, k⟩], fifo := fifo, tokens := 4 } }

def flags (first promote pop : Bool) : TFlags := { promote := promote, first := first, pop := pop }

/-- R250, R262 and R265: what each instruction samples and whether its thread stalls. -/
theorem witness_TileIssue :
    let s := benchV [0, 0, 0, 0, 0xFF20000000000000, 0x101, 9] [vec [], vec [3]] [0, 5]
    let queue (i : Instr) (k : TileKind) : Bool := yields i s fun t => t.myCore.tile.queue == [⟨0, 0, t.me.uid, none, k⟩] && t.me.ip == thenIp
    let stalls (i : Instr) (k : TileKind) : Bool := yields i s fun t => t.myCore.tile.queue == [⟨0, 0, t.me.uid, none, k⟩] &&
      t.me.wait == .tileStart 0 none && t.me.ip == 0x10001
    let m : Mask := ⟨1, true⟩
    s.plain [.g 4, .g 5, .g 6, .v 1] [] ∧
    stalls (.tmac (flags true false true) 4 4 5) (.tmac (flags true false true) 0xFF20000000000000 0xFF20000000000000 0x101 0x10 false) ∧
    queue (.tzero .both 5) (.tzero .both 0x101) ∧ stalls (.tepi .s8 (.clamp 6) .rz 4 6 5 0x40) (.tepi .s8 (.clamp 6) .rz 0xFF20000000000040 9 0x101 9) ∧
    stalls (.tepi .f32 .relu .rne 4 6 5 0) (.tepi .f32 .relu .rne 0xFF20000000000000 9 0x101 0) ∧
    queue (.taccGet true 1 5 2 m) (.taccGet true (some 1) 0x101 2 m 5) ∧ queue (.taccPut false 1 5 2 1) (.taccPut false (vec [3]) 0x101 2 5) ∧
    stalls (.tplane 4 4 7) (.tplane 0xFF20000000000000 0xFF20000000000000 7 0x10) ∧ stalls (.tscale 4 7) (.tscale 0xFF20000000000000 7) ∧
    queue (.tscaleKey 5 3) (.key 0x101 3) ∧ yields .tsync s (fun t => t.me.ip == thenIp) ∧
    yields .tsync (tileHead .flush []) (fun t => t.me.wait == .retry .tile) ∧
    yields (.tmacr (flags false true false) 2 6 4 4 5) s (fun t => t.tmacrs.map (fun z => (z.src, z.ch, z.cap, z.c, z.count, z.phase)) ==
      [(0, 2, 9, 0x101, 0, .sent)] && t.me.tmacrs == 1 && t.me.ip == thenIp) ∧
    yields (.tscale 4 7) (s.modThread 0 fun t => { t with outs := [⟨.store, true, [], [], [], []⟩] }) (fun t => t.me.wait == .retry .access) := by
  refine ⟨⟨?_, ?_⟩, ?_⟩ <;> decide +kernel

/-- R263, R269, R272 and R274: the checks of a start in their order. -/
theorem witness_TileStarts :
    let g : W64 := 0xFF20000000000000
    let b : W64 := 0xFF20000000001000
    let tmac (a b : W64) : TileKind := .tmac (flags false false false) a b 1 4 false
    let faults (k : TileKind) (fifo : List ScaleEntry) (code : BitVec 8) (va aux : W64) : Bool :=
      yields (.tileStart 0) (tileHead k fifo) fun t => trapped code va aux t && t.myCore.tile.queue == []
    let head : ScaleEntry := ⟨5, []⟩
    faults (tmac 0x2000 b) [head] 0x07 0x2000 0 ∧ faults (tmac (g + 32) b) [head] 0x05 0xFF20000000000020 0 ∧
    faults (tmac 0xFF2000000003FFC0 b) [head] 0x06 0xFF20000000040000 0 ∧ faults (tmac g 0xFF20000000040000) [head] 0x06 0xFF20000000040000 0 ∧
    faults (tmac g b) [] 0x11 g 0x300000005 ∧ faults (tmac g b) [⟨6, []⟩] 0x11 g 0x100060005 ∧ faults (tmac b g) [head] 0x11 b 0x200050006 ∧
    yields (.tileStart 0) (tileHead (tmac g b) [head]) (fun t => t.me.ip == thenIp && t.me.wait == .run &&
      (t.myCore.tile.running.map fun r => (r.data % 2 ^ 16, r.rows, r.head, r.op.token)) == some (5, 6, head, 3)) ∧
    yields (.tileStart 0) (tileHead (.tscale b 9) [head]) (fun t => (t.myCore.tile.running.map TileRun.data) == some 6 && t.me.ip == thenIp) ∧
    yields (.tileStart 0) (tileHead (.tscale b 9) (List.replicate 8 head)) (fun t => t.myCore.tile.running == none && t.me.wait == .tileStart 3 none) ∧
    faults (.tepi .s8 .none .rne 0x2020 0 1 0) [] 0x05 0x2020 0 ∧ faults (.tplane g 0x2000 0 4) [] 0x07 0x2000 0 ∧
    yields (.tileStart 0) (tileHead .flush [head]) (fun t => t.myCore.tile.fifo == [] && t.myCore.tile.queue == []) := by decide +kernel

/-- R259: a flush that its wrc waits for lets the thread go on. -/
theorem test_tile_flush :
    yields (.tileStart 0) (tileHead .flush [⟨5, []⟩]) (fun t => t.myCore.tile.fifo == [] && t.me.wait == .run && t.me.ip == thenIp) ∧
    yields (.tileStart 0) ((tileHead .flush [⟨5, []⟩]).modThread 0 fun t => { t with wait := .run }) (fun t => t.myCore.tile.fifo == [] && t.me.ip == 0x10001) := by
  decide +kernel

/-- R269: the two segments of one row of s8, from an accumulator row whose first outer entries are 2.5 and −1, with relu and
rounding to even; the row is released. -/
theorem test_tepi_start :
    let s := (tileHead (.tepi .s8 .relu .rne 0x2000 64 1 0) []).modCore 0 fun c => { c with tile := { c.tile with
      acc := (c.tile.acc.set 0 ⟨4, 0x40200000⟩).set 1 ⟨5, 0xBF800000⟩ } }
    yields (.tileStart 0) s (fun t => t.me.ip == thenIp && t.myCore.tile.acc[0] == ⟨0, 0⟩ && t.myCore.tile.acc[1] == ⟨0, 0⟩ &&
      (t.myCore.tile.running.map fun r => r.segs.map fun g => (g.va, (g.lanes.map Lane.data).take 1)) == some [(0x2000, [2]), (0x2040, [0])]) = true := by
  decide +kernel

/-- What slot 0's entry read at its start. -/
def tileRun (k : TileKind) (data rows : Nat) (head : ScaleEntry) (valid : BitVec 128) : State :=
  let s := tileHead k [head]
  s.modCore 0 fun c => { c with tile := { c.tile with
    queue := []
    acc := (c.tile.acc.set 0 ⟨0x7FFFFFFE, 0x3F800000⟩).set 1 ⟨9, 8⟩
    running := some ⟨⟨3, 0, s.me.uid, none, k⟩, data, rows, head, valid, []⟩ } }

/-- R87, R88 and R255: weight 1 at K-lane 0 of column 0 (plane 0 of P2), and −2 at column 1; activation 6; scales 1. The
first cell saturates, or starts from zero, or is promoted to 1 + 6. -/
theorem witness_TileCompletes :
    let data : Nat := 2 ^ 512 + 2 ^ (8 * 1088 + 1)
    let rows : Nat := 6 + 0xF0 * 2 ^ 512
    let row0 : Nat := 6 + 2032 * 2 ^ 512
    let head : ScaleEntry := ⟨5, List.replicate 128 2032⟩
    let tmac (fl : TFlags) (trapen : Bool) : State := tileRun (.tmac fl 0 0 1 4 trapen) data row0 head (BitVec.allOnes 128)
    let cells (s : State) (x y : AccEntry) : Bool := yields (.tileComplete 0) s fun t =>
      t.myCore.tile.acc[0] == x && t.myCore.tile.acc[1] == y && t.myCore.tile.running == none
    rows ≠ 0 ∧
    cells (tmac (flags false false false) false) ⟨0x7FFFFFFF, 0x3F800000⟩ ⟨0xFFFFFFFD, 8⟩ ∧
    cells (tmac (flags true true true) false) ⟨0, 0x40E00000⟩ ⟨0, 0xC1400000⟩ ∧
    yields (.tileComplete 0) (tmac (flags false false true) false) (fun t => t.myCore.tile.accsat && t.myCore.tile.fifo == []) ∧
    cells (tileRun (.tmac (flags true false false) 0 0 1 4 false) data row0 head 0) ⟨0x7FFFFFFE, 0x3F800000⟩ ⟨9, 8⟩ ∧
    yields (.tileComplete 0) (tmac (flags false false false) true) (trapped 0x10 0 0) := by decide +kernel

/-- R268, R271, R274 and R275: what the other entries have done when they complete. -/
theorem test_tile_completions :
    let run (k : TileKind) : State := tileRun k 7 0 ⟨5, []⟩ 0
    yields (.tileComplete 0) (run (.tzero .inner 1)) (fun t => t.myCore.tile.acc[0] == ⟨0, 0x3F800000⟩) ∧
    yields (.tileComplete 0) (run (.tzero .invalid 0x7F02)) (fun t => !t.myCore.tile.valid.getLsbD 127 && !t.myCore.tile.valid.getLsbD 0 &&
      t.myCore.tile.valid.getLsbD 1) ∧
    yields (.tileComplete 0) (run (.taccGet false (some 3) 0 0 ⟨1, true⟩ 2)) (fun t => t.me.v[(3 : VReg)][0] == 0 && t.me.v[(3 : VReg)][1] == 9) ∧
    yields (.tileComplete 0) (run (.taccPut true (vec [7, 7]) 0 0 2)) (fun t => t.myCore.tile.acc[0] == ⟨0x7FFFFFFE, 0x3F800000⟩ &&
      t.myCore.tile.acc[1] == ⟨9, 7⟩) ∧
    yields (.tileComplete 0) (run (.tscale 0 9)) (fun t => t.myCore.tile.fifo.map (fun e => (e.tag, e.scales.take 2)) == [(5, []), (9, [7, 0])]) ∧
    yields (.tileComplete 0) (run (.key 0x8000001500000063 3)) (fun t => t.myCore.tile.keys[3] == ⟨true, 0x15, 0x63⟩) := by decide +kernel

/-- R372: a tplane does not write into a range that another thread has locked. -/
theorem witness_TileCompletes_locked :
    let s := tileRun (.tplane 0xFF20000000001000 0xFF20000000000000 7 0x10) 0 0 ⟨5, []⟩ 0
    let lock (by_ : SlotIx) : State := s.modCore 0 fun c => { c with lock := some ⟨by_, 0x1000, 1, 0⟩, scratch := [] }
    (lock 1).myCore.locksOut 0 0x1000 64 = true ∧
    yields (.tileComplete 0) (lock 1) (fun t => t.myCore.tile.running.isSome && t.myCore.scratch == []) ∧
    yields (.tileComplete 0) (lock 0) (fun t => t.myCore.tile.running.isNone && t.myCore.scratch.get 0x1000 == 7) := by decide +kernel

/-- A remote command for core 1 of cluster 0 that asks for one use of a key, and a segment of 64 bytes at 0x403000. -/
def command (cap : W64) (phase : RPhase) : Tmacr := ⟨7, 0, ((land []).thread 0).uid, 1, cap, flags false false false, 0x40, 0, 1, 4, 2, phase⟩

def segment (held : Option Nat) (stale : Bool) : Segment := ⟨9, 4, (0, 0x200000), 0, 0, ((land []).thread 0).uid, 0x3000,
  (List.range 8).map (fun k => ⟨k, 0x3000 + BitVec.ofNat 64 (8 * k), .global (0x403000 + 8 * k), 8, List.replicate 8 true, 0x11⟩), stale, held, false⟩

theorem witness_TileCommands :
    let s (z : Tmacr) : State := { land [] with tmacrs := [z] }
    let epi (g : Segment) : State := (land []).modCore 0 fun c => { c with tile := { c.tile with epi := [g] } }
    yields (.tmacrCommand 0) (s (command 0x0401 .sent)) (fun t => t.tmacrs.map Tmacr.phase == [.queued] &&
      (t.core 1).tile.queue == [⟨0, 0, ((land []).thread 0).uid, some 7, .tmac (flags false false false) 0x40 0 1 4 false⟩]) ∧
    yields (.tmacrCommand 0) (s (command 0x0410 .sent)) (fun t => t.tmacrs.map Tmacr.phase == [.refused 2 0]) ∧
    yields (.tmacrCommand 0) ((s (command 0x0401 .sent)).modCore 1 fun c => { c with stopping := true }) (fun t => t.tmacrs.map Tmacr.phase == [.refused 4 0]) ∧
    yields (.tmacrAck 0) (s (command 0x0401 .done)) (fun t => t.tmacrs == []) ∧
    yields (.tileCap 0) (s (command 0x0401 (.refused 3 8))) (fun t => t.tmacrs == [] && t.me.pend == [⟨0x12, 0, 0x40, 0x8300020401, none, none⟩]) ∧
    yields (.tileStart 1) ((s (command 0x0401 .queued)).modCore 1 fun c => { c with tile := { c.tile with
      queue := [⟨0, 0, 1, some 7, .tmac (flags false false false) 0x40 0 1 4 false⟩] } }) (fun t => t.tmacrs.map Tmacr.phase == [.refused 1 0]) ∧
    yields (.epiStore 0 9) (epi (segment none false)) (fun t => t.myCore.tile.epi == [] && t.mem.word 0x403038 8 == 0x11 && t.mem.get 0x403040 == 0) ∧
    yields (.epiStore 0 9) (epi (segment none true)) (fun t => t.myCore.tile.epi == [segment (some 3) true] && t.me.pend == [⟨0x13, 0, 0x3000, 0x30109, none, none⟩]) ∧
    yields (.epiStore 0 9) { epi (segment none false) with ue := [.global 0x403001] } (fun t => t.me.pend == [⟨0x13, 0, 0x3000, 0x20109, none, none⟩] && t.mem == []) ∧
    yields (.tseqFlush 0) (tileRun .flush 0 0 ⟨5, []⟩ 0) (fun t => t.myCore.tile.fifo == []) ∧
    yields (.epiDiscard 0) (epi (segment (some 3) true)) (fun t => t.myCore.tile.epi == []) ∧
    yields (.epiReplay 0) (epi (segment (some 3) true)) (fun t => t.myCore.tile.epi == [] && t.mem.word 0x403038 8 == 0x11) := by decide +kernel

/-- R372: a segment, or a held one that is to be replayed, waits while another thread has its range locked. -/
theorem witness_TileCommands_locked :
    let g (held : Option Nat) : Segment := { segment held false with
      va := 0xFF20000000000000, lanes := [⟨0, 0xFF20000000000000, .scratch 0 0, 8, [], 0x11⟩] }
    let epi (held : Option Nat) (by_ : SlotIx) : State := (land []).modCore 0 fun c => { c with
      tile := { c.tile with epi := [g held] }, lock := some ⟨by_, 0, 1, 0⟩ }
    yields (.epiStore 0 9) (epi none 1) (fun t => t.myCore.tile.epi == [g none] && t.myCore.scratch == []) ∧
    yields (.epiStore 0 9) (epi none 0) (fun t => t.myCore.tile.epi == [] && t.myCore.scratch.get 0 == 0x11) ∧
    yields (.epiReplay 0) (epi (some 3) 1) (fun t => t.myCore.tile.epi.map (fun x => (x.held, x.again)) == [(some 3, true)] && t.myCore.scratch == []) ∧
    yields (.epiReplay 0) (epi (some 3) 0) (fun t => t.myCore.tile.epi == [] && t.myCore.scratch.get 0 == 0x11) := by decide +kernel

/-! ### The griddle -/

/-- Slot 0 holds the claim of its griddle; column 0 has input 1 with delay 4 and input 2 with delay 3, column 1 input 3. -/
def claimed (st : GState) (modes : W64) : State := ((benchV [0, 0, 0, 0, 1] [vec [], vec [0x104, 0x103]] [] ).modThread 0 fun t => { t with tkw := 8 }).modCore 0 fun c =>
  { c with cycle := 14, griddle := { Griddle.reset with
    holder := some 0, state := st, win := 8, modes := modes
    cells := ((Vector.replicate 4096 0).set 64 0x104).set 128 0x103 |>.set 193 0x100
    staged := ((Vector.replicate 64 0xFFFFFFFF).set 1 1).set 2 2 |>.set 3 8 } }

theorem witness_GriddleWaves :
    let s := claimed .idle 0
    let other := s.modCore 0 fun c => { c with griddle := { c.griddle with holder := some 1 } }
    s.plain [.g 4, .v 1] [.g 3, .v 3] ∧
    yields (.gclaim 3) (bench []) (fun t => t.me.greg 3 == 1 && t.myCore.griddle.holder == some 0) ∧ yields (.gclaim 3) s (fun t => t.me.greg 3 == 1) ∧
    yields (.gclaim 3) other (fun t => t.me.greg 3 == 0 && t.myCore.griddle.holder == some 1) ∧ yields .greset other (trapped 0x1A 0 1) ∧
    yields (.gdelay 1 4) s (fun t => t.myCore.griddle.cells[1] == 0x104 && t.myCore.griddle.cells[65] == 0x103 && t.myCore.griddle.cells[64] == 0x104) ∧
    yields (.gdelayGet 3 0) s (fun t => t.me.v[(3 : VReg)][1] == 0x104 && t.me.v[(3 : VReg)][3] == 0) ∧
    yields (.gmode 4) s (fun t => t.myCore.griddle.modes == 1) ∧ yields (.gmode 4) (claimed .running 0) (fun t => t.me.wait == .retry .wave) ∧
    yields (.glaunch 1 true) s (fun t => t.myCore.griddle.staged[32] == 0x104 && t.myCore.griddle.staged[1] == 1) ∧
    yields (.glaunchGo 1 true) s (fun t => t.myCore.griddle.state == .running && t.myCore.griddle.win == 8 && t.myCore.griddle.started == 14) ∧
    yields (.glaunchGo 1 false) (claimed .done 0) (trapped 0x1A 0 2) ∧ yields (.glaunchGo 1 false) { s with ue := [.cell 0 2 5] } (trapped 0x0C 0 0x85) ∧
    yields (.gcap 3 false false) s (trapped 0x1A 0 3) ∧ yields (.gcapScalar 3 4) (claimed .running 0) (fun t => t.me.wait == .retry .gcap) ∧
    yields (.gcapScalar 3 4) (claimed .done 0) (fun t => t.me.greg 3 == 0xFFFFFFFFFFFFFFFF) ∧
    yields (.gcap 3 false true) (claimed .done 0) (fun t => t.me.v[(3 : VReg)][0] == 0xFFFFFFFF) ∧
    yields .grelease s (fun t => t.myCore.griddle.holder == none && t.myCore.griddle.cells[64] == 0) ∧
    yields .greset (claimed .running 1) (fun t => t.myCore.griddle.state == .idle && t.myCore.griddle.holder == some 0 && t.myCore.griddle.modes == 1) := by
  refine ⟨⟨?_, ?_⟩, ?_⟩ <;> decide +kernel

/-- R279 and R290: of two risers in one tick the lower input wins, for OR and for AND; a wave that has not run TKW + 6
cycles goes on. -/
theorem test_wave_end :
    extreme false [(1, 5), (2, 5), (3, 8)] = some (1, 5) ∧ extreme true [(0, 4), (1, 5), (2, 5)] = some (1, 5) ∧ extreme false [] = none ∧
    yields (.waveEnd 0) ((claimed .running 0).modCore 0 fun c => { c with cycle := 13 }) (fun t => t.myCore.griddle.state == .running) := by decide +kernel

/-! ### Transfers -/

/-- The thread stands in slot 15 of a partition that enables transfers, with a parameter block at 0xFF20000000000040. -/
def xland (src dst size ctl marg handler : Nat) : State :=
  let s := (land []).modPart 0 fun p => { p with xen := true }
  let s := s.setThread 15 { s.thread 0 with g := regs [0, 0, 0, 0, 0xFF20000000000040] }
  { (s.modThread 0 fun t => { t with occ := false }).modCore 0 fun c => { c with
    scratch := [src, dst, size * 2 ^ 32 + 1, 0, 0, ctl, marg, handler].foldl (fun (m : Nat × Memory) x => (m.1 + 8, m.2.write m.1 (natBytes 8 x))) (64, []) |>.2 } with cur := 15 }

/-- A transfer of core 0's thread in slot 15, of one row. -/
def transfer (src dst : W64) (size : Nat) (ctl : W64) (state : XState) (bytes : Nat) : Transfer :=
  ⟨5, 15, ((land []).thread 0).uid, 0, 0, 0, src, dst, size, 1, 0, 0, ctl, 0, 0x4001, state, [], bytes, [(0, ((land []).cluster 0).epoch), (1, ((land []).cluster 1).epoch)], none, none, none, false, [], 0⟩

/-- That transfer in entry 2. -/
def flying (t : Transfer) : State := (xland 0 0 0 0 0 0).modCore 0 fun c => { c with score := c.score.set 2 (some t) }

/-- R301 to R303, R311 and R315 to R318: a block taken, the lowest code of each kind, the wrong slot, and the three answers. -/
theorem witness_TransferInstructions :
    let local_ := 0xFF00000000000000
    let code (s : State) (n : W64) : Bool := yields (.xgo 3 4) s fun t => t.me.greg 3 == 0x8000000000000000 + n && t.me.ip == thenIp
    let good := xland 0x2000 local_ 64 0 0 0
    let name (s : State) : State := s.modThread 15 fun t => { t with g := regs [0, 0, 0, 0, 0x52] }
    let answers (i : Instr) (t : Transfer) (x : W64) : Bool := yields i (name (flying t)) fun y => y.me.greg 3 == x && y.me.ip == thenIp
    let tr (st : XState) := transfer 0x2000 0xFF00000000000000 64 0 st 8
    good.plain [.g 4] [.g 3] ∧ good.xslot good.cur = true ∧
    yields (.xgo 3 4) good (fun t => t.me.greg 3 == 0 && t.myCore.xcount == 1 && (t.myCore.score[0].map fun x => (x.src, x.rowBytes, x.rows, x.state)) ==
      some (0x2000, 64, 1, .flight)) ∧
    code (xland 0 local_ 64 3 0 0) 1 ∧ code (xland 0 local_ 0 0 0 0) 2 ∧ code (xland 0 0x2000 64 8 0 0) 3 ∧ code (xland 0 local_ 64 1 64 0) 4 ∧
    code (xland 0 local_ 64 2 0 0) 5 ∧ code (xland 0 local_ 64 16 0 0) 6 ∧ code (xland 0 local_ 64 0 1 0) 7 ∧
    yields (.xgo 3 4) (land [0, 0, 0, 0, 0xFF20000000000040]) (fun t => t.me.trapcause.extractLsb' 0 8 == 0x04#8) ∧
    answers (.xstat 3 4) (tr .flight) 8 ∧ answers (.xwait 3 4) (tr .complete) 0x4000000000000040 ∧ answers (.xwait 3 4) (tr (.error 5)) 0x8500000000000008 ∧
    answers (.xcancel 3 4) (tr .flight) 0xC000000000000008 ∧ answers (.xcancel 3 4) (tr .complete) 0x4000000000000040 ∧
    yields (.xwait 3 4) (name (flying (tr .flight))) (fun t => t.me.wait == .xwait (.reg 3) 0x52) ∧
    yields (.xstat 3 4) good (fun t => t.me.greg 3 == 0x4080000000000000) := by
  refine ⟨⟨?_, ?_⟩, ?_⟩ <;> decide +kernel

/-- That transfer with a flit on its way out of port 3. -/
def outbound (t : Transfer) (refused : List Nat) : State :=
  let s := (flying { t with flits := [(3, 7, 0)] }).modThread 15 fun t => { t with g := regs [0, 0, 0, 0, 0x52], resume := thenIp }
  { s with ports := s.ports.set 3 ⟨true, 8, 0, 0, [⟨7, true, []⟩], [], refused⟩ }

/-- R312, R316 and R318: xcancel waits while a flit is out, and an xwait with it; once it is answered the transfer is cancelled and both
go on; a refused flit counts as not written. -/
theorem witness_TransferInstructions_cancel :
    let t := transfer 0x2000 0x400000000000 64 0 .flight 8
    let s := outbound t []
    let waiting (s : State) (halted : Bool) : State := (s.modThread 15 fun x => { x with wait := .xcancel (.reg 3) 0x52 }).modCore 0 fun c =>
      { c with score := c.score.set 2 (some { t with halted := halted, flits := [(3, 7, 0)] }) }
    let gone : State := { outbound t [] with ports := s.ports }
    let acked : State := { waiting s true with ports := s.ports.set 3 ⟨true, 8, 0, 0, [], [], []⟩ }
    yields (.xcancel 3 4) s (fun t => t.me.wait == .xcancel (.reg 3) 0x52 && t.me.ip == 0x10001 && t.me.resume == thenIp &&
      (t.myCore.score[2].map fun x => (x.halted, x.state)) == some (true, .flight)) ∧
    yields (.xwait 3 4) s (fun t => t.me.wait == .xwait (.reg 3) 0x52) ∧ yields (.xstat 3 4) s (fun t => t.me.greg 3 == 0) ∧
    yields (.xcancel 3 4) (outbound t [7]) (fun t => t.me.greg 3 == 0xC000000000000000 && t.me.ip == thenIp) ∧
    yields (.transferComplete 0 2) (waiting gone true) (fun t => t.me.wait == .xcancel (.reg 3) 0x52) ∧
    yields (.transferComplete 0 2) acked (fun t => t.me.wait == .run && t.me.greg 3 == 0xC000000000000008 && t.me.ip == thenIp &&
      (t.myCore.score[2].map Transfer.state) == some .cancelled) := by decide +kernel

/-- R309 and R322: the end of a transfer gives a waiting xwait its status; a transfer of a saved context goes on in its entry while
the core's own entry is taken. -/
theorem witness_TransferEngine_saved :
    let t := transfer 0x2000 0xFF00000000000008 8 0 .flight 0
    let done := (flying (transfer 0x2000 0xFF00000000000000 8 0 .flight 8)).modThread 15 fun t => { t with wait := .xwait (.reg 3) 0x52, resume := thenIp }
    let k : SavedCore := ⟨0, 0, 0, 0, { Core.reset with score := Core.reset.score.set 2 (some t) }, Vector.replicate 16 Thread.reset, [], 0⟩
    let both : State := { flying { t with num := 6, dst := 0xFF00000000000010 } with saved := [k], mem := [(0x402000, 9)] }
    yields (.transferComplete 0 2) done (fun y => y.me.wait == .run && y.me.greg 3 == 0x4000000000000008 && y.me.ip == thenIp) ∧
    yields (.copySector 0 18 0 0xFF) both (fun y => (y.cluster 0).mem == [(8, 9)] && (y.saved.map fun k => k.core.score[2].map Transfer.bytes) == [some 8] &&
      ((y.core 0).score[2].map Transfer.bytes) == some 0) ∧
    yields (.copySector 0 2 0 0xFF) both (fun y => (y.cluster 0).mem == [(16, 9)]) := by decide +kernel

/-- R305, R308, R313 and R319: a sector of four bytes from HBM to local memory with its full bit, the end of the transfer with
a notification, and the errors of a source and a destination. -/
theorem witness_TransferEngine :
    let run (t : Transfer) : State := { flying t with mem := [(0x402000, 9), (0x402003, 7), (0x402004, 8)] }
    let t := transfer 0x2000 0xFF00000000000008 8 8 .flight 0
    let noted := (run (transfer 0x2000 0xFF00000000000000 8 16 .flight 8)).modThread 15 fun t => { t with notifyEn := true }
    let fails (src dst : W64) (n : Nat) : Bool := yields (.transferError 0 2) (run (transfer src dst 8 0 .flight 0)) fun y =>
      ((y.core 0).score[2].map Transfer.state) == some (.error n)
    yields (.copySector 0 2 0 0xFF) (run t) (fun y => (y.cluster 0).mem.read 8 8 == [9, 0, 0, 7, 8, 0, 0, 0] && (y.cluster 0).full == [1] &&
      ((y.core 0).score[2].map Transfer.bytes) == some 8) ∧
    yields (.copySector 0 2 1 0xFF) (run t) (fun y => (y.cluster 0).mem == []) ∧
    yields (.transferComplete 0 2) noted (fun y => ((y.core 0).score[2].map Transfer.state) == some .complete && y.me.notes == [⟨0x52, 0x4001⟩]) ∧
    yields (.transferComplete 0 2) (run t) (fun y => ((y.core 0).score[2].map Transfer.state) == some .flight) ∧
    fails 0x200000000000000 0xFF00000000000000 1 ∧ fails 0xFF000000003FF000 0xFF00000000000000 2 ∧ fails 0x2000 0xFEFFFFFFFFFFFFFF 3 ∧
    fails 0x2000 0xFF000000003FF000 4 ∧
    yields (.transferComplete 0 2) (run (transfer 0x2000 0xFF20000000000000 8 0x017F000000000002 .flight 8)) (fun y =>
      (y.core 0).tile.valid == 0x80000000000000000000000000000000) := by decide +kernel

/-! ### Messages and rings -/

/-- Core 0 sends to slot 0 of cluster 1, which some thread occupies. -/
def message (st : SendState) (tries : Nat) : RetryEntry := ⟨4, 0, ((land []).thread 0).uid, 0, 128, 128, 0, 2, 11, 22, tries, st⟩
def sending (e : RetryEntry) : State := ((land []).modThread 128 fun t => { t with occ := true }).modCore 0 fun c => { c with retry := [e], cycle := 100 }

theorem witness_Messages :
    let s := land [0, 0, 0, 11, 128, 22, 0x4000, 256]
    let got := s.modCore 0 fun c => { c with inbox := [⟨0, 1, 5, 6⟩, ⟨0, 2, 7, 8⟩] }
    let states (t : State) : List SendState := (t.core 0).retry.map RetryEntry.state
    s.plain [.g 3, .g 4, .g 5] [.g 8, .g 9] ∧
    yields (.send 2 3 4 5) s (fun t => t.myCore.retry == [⟨0, 0, t.me.uid, 0, 128, 128, 0, 2, 11, 22, 0, .sent⟩] && t.me.ip == thenIp) ∧
    yields (.send 2 3 6 5) s (trapped 0x06 0x4000 0) ∧ yields (.send 2 3 7 5) s (trapped 0x06 256 0) ∧
    yields (.send 2 3 4 5) (s.modCluster 0 fun c => { c with perm := 1 }) (trapped 0x07 128 0) ∧
    yields (.recv 2 8) got (fun t => t.me.greg 8 == 7 && t.me.greg 9 == 8 && t.myCore.inbox == [⟨0, 1, 5, 6⟩]) ∧
    yields (.recv 4 8) got (fun t => t.me.greg 8 == 5 && t.me.greg 9 == 6) ∧ yields (.recv 3 8) got (fun t => t.me.wait == .retry .recv) ∧
    yields (.qmap 8 4) ((s.modThread 0 fun t => { t with qmap := 3 }).modCore 0 fun c => { c with queue := [⟨0, some 1⟩, ⟨1, none⟩] }) (fun t =>
      t.me.greg 8 == 0x103 && t.me.qmap == 128) ∧
    yields (.messageArrival 0 4) (sending (message .sent 0)) (fun t => (t.core 0).retry == [] && (t.core 8).inbox == [⟨0, 2, 11, 22⟩]) ∧
    yields (.messageArrival 0 4) ((sending (message .sent 0)).modThread 128 fun t => { t with occ := false }) (fun t => states t == [.gone 2]) ∧
    yields (.messageArrival 0 4) ((sending (message .sent 0)).modCore 8 fun c => { c with inbox := List.replicate 32 ⟨1, 0, 0, 0⟩ }) (fun t =>
      states t == [.nack]) ∧
    yields (.messageArrival 0 4) ((sending (message .sent 0)).modCluster 1 fun c => { c with epoch := 1 }) (fun t => states t == [.gone 1]) ∧
    yields (.nack 0 4) (sending (message .nack 0)) (fun t => states t == [.backoff 164]) ∧
    yields (.nack 0 4) (sending (message .nack 15)) (fun t => states t == [.refused 0] && t.me.pend == [⟨0x29, 0, 0, 0x80804, none, some 4⟩]) ∧
    yields (.nackRetry 0 4) (sending (message (.backoff 100) 1)) (fun t => states t == [.sent]) ∧
    yields (.nackRetry 0 4) (sending (message (.backoff 101) 1)) (fun t => states t == [.backoff 101]) ∧
    yields (.targetGone 0 false 4) (sending (message (.gone 2) 0)) (fun t => t.me.pend == [⟨0x22, 0, 128, 0x402, none, some 4⟩]) := by
  refine ⟨⟨?_, ?_⟩, ?_⟩ <;> decide +kernel

/-- R151, R328 and R338: the forwarding entry serves a message once more, and goes when 16,384 cycles have passed. -/
theorem test_forwarding :
    let f : Forward := ⟨0, 144, 1, 1⟩
    let s := (sending (message .sent 0)).modCore 8 fun c => { c with forward := [f], cycle := 16385 }
    yields (.messageArrival 0 4) s (fun t => (t.core 0).retry.map RetryEntry.dst == [144] && (t.core 8).forward.map Forward.last == [16385]) ∧
    yields (.forwardingRelease 8 0) s (fun t => (t.core 8).forward == []) ∧
    yields (.forwardingRelease 8 0) (s.modCore 8 fun c => { c with cycle := 16384 }) (fun t => (t.core 8).forward == [f]) ∧
    yields (.targetGone 0 true 5) (posted .store (.gone 2) ⟨0, 0xFF10000000400008, .remote 1 8, 2, [], 1⟩) (fun t =>
      t.me.pend == [⟨0x22, 0, 0xFF10000000400008, 0x10502, some 5, none⟩]) := by decide +kernel

/-- A ring at byte 0x40 of cluster 0: base 0x100, capacity 2, its count and head, and its tail word; pool slot 3 is lent. -/
def ring (count head tail : Nat) (pool : BitVec 256) : State := (land [0, 0, 0, 0, 0xFF00000000000000, 77]).modCluster 0 fun c => { c with
  pool := pool
  mem := [0x100, 2, count * 2 ^ 32 + head, tail].foldl (fun (m : Nat × Memory) x => (m.1 + 8, m.2.write m.1 (natBytes 8 x))) (0x40, []) |>.2
    |>.write 0x100 (natBytes 8 41) |>.write 0x108 (natBytes 8 42) |>.write 0x3FF030 (natBytes 8 43) }

theorem witness_ElasticRings :
    let word (t : State) (a : Nat) : Nat := (t.cluster 0).mem.word a 8
    let put (try_ : Bool) : Instr := .ringput try_ 3 4 5 0x40
    let s := ring 1 1 0 0
    s.plain [.g 4, .g 5] [.g 3, .g 6] ∧
    passing (checkAddr { size := 32, align := 32, need := needRW, fe := true } 0 0xFF00000000000040 s) (fun l t => l.place == .own 0 0x40 && free t l) ∧
    yields (put false) s (fun t => t.me.greg 3 == 0 && word t 0x100 == 77 && word t 0x50 == 2 * 2 ^ 32 + 1 && t.me.ip == thenIp) ∧
    ((ring 2 0 0 0).cluster 0).pool = 0 ∧ (ring 2 0 0 0).me.wait = .run ∧
    yields (put true) (ring 2 0 0 (BitVec.allOnes 256)) (fun t => t.me.greg 3 == 2 && t.me.ip == thenIp) ∧
    yields (put false) (ring 2 0 0 (BitVec.allOnes 256)) (fun t => t.me.wait == .retry (.ringPut 0 0x40 0)) ∧
    yields (put true) (ring 3 0 0 0) (trapped 0x07 0xFF00000000000040 6) ∧
    yields (.ringget 3 4 none 0x40) s (fun t => t.me.greg 3 == 42 && word t 0x50 == 0) ∧
    yields (.ringget 3 4 (some 6) 0x40) (ring 2 0 0x03030001 8) (fun t => t.me.greg 3 == 41 && t.me.greg 6 == 1 && word t 0x100 == 43 &&
      word t 0x50 == 2 * 2 ^ 32 + 1 && word t 0x58 % 2 ^ 16 == 0 && (t.cluster 0).pool == 0) ∧
    yields (.ringget 3 4 (some 6) 0x40) (ring 0 0 0 0) (fun t => t.me.greg 6 == 0 && t.me.ip == thenIp) ∧
    yields (.ringget 3 4 none 0x40) (ring 0 0 0 0) (fun t => t.me.wait == .retry .ringGet) := by
  refine ⟨⟨?_, ?_⟩, ?_⟩ <;> decide +kernel

/-- R336: a full ring with a pool slot free, on which slot 1 waits. -/
theorem witness_ElasticRings_waiters :
    let s := ring 2 0 0 8
    let other : State := s.setThread 1 { s.thread 0 with uid := 9, wait := .retry (.ringPut 0 0x40 0) }
    (other.thread 1).wait = .retry (.ringPut 0 0x40 0) ∧ (ringAt (other.cluster 0).mem 0x40).map (fun r => (r.count, r.cap, r.lent)) = some (2, 2, 0) ∧
    (other.cluster 0).pool.getLsbD 0 = false := by decide +kernel

/-- R337: the thread of slot 0 moves to core 1 with its message; each status of a move that is not made. -/
theorem witness_Migration :
    let s := (bench [0, 0, 0, 0, 1, 8]).modCore 0 fun c => { c with inbox := [⟨0, 1, 5, 6⟩] }
    let answers (d : W64) (i : Instr) (s : State) : Bool := yields i s fun t => t.me.greg 3 == d && t.me.ip == thenIp
    s.plain [.g 4, .g 5] [.g 3] ∧ s.finished 0 = true ∧
    yields (.migrate 3 4) s (fun t => (t.thread 0).occ == false && (t.thread 16).occ && (t.thread 16).greg 3 == 1 && (t.thread 16).migr &&
      (t.thread 16).ip == thenIp && (t.core 1).inbox == [⟨0, 1, 5, 6⟩] && (t.core 0).inbox == [] &&
      (t.core 0).forward.map (fun f => (f.old, f.new)) == [(0, 16)]) ∧
    answers 2 (.migrate 3 5) s ∧ answers 1 (.migrate 3 0) s ∧ answers 3 (.migrate 3 4) (s.modThread 0 fun t => { t with qmap := 1 }) ∧
    answers 4 (.migrate 3 4) (s.modThread 0 fun t => { t with handler := true }) ∧
    answers 0 (.migrate 3 4) (s.modCluster 0 fun c => { c with draining := true }) ∧
    yields (.migrate 3 4) (s.modThread 0 fun t => { t with outs := [⟨.store, true, [], [], [], []⟩] }) (fun t => t.me.wait == .retry .access) := by
  refine ⟨⟨?_, ?_⟩, ?_⟩ <;> decide +kernel

/-! ### Barriers -/

/-- Barrier 9 of cluster 0. -/
def barred (b : Barrier) (xs : List W64) : State := (bench xs).modCluster 0 fun c => { c with barrier := c.barrier.set 9 b }
def bar9 (t : State) : Barrier := (t.cluster 0).barrier[(9 : Fin 64)]
def barrier (exp arr : BitVec 16) : Barrier := { Barrier.reset with exp := exp, arr := arr, phase := 6 }

/-- R339 to R346: an arrival that fills the phase, one that does not, a gathering port, waits, and a home that is gone. -/
theorem witness_BarrierInstructions :
    let s := barred (barrier 2 1) [0, 0, 0, 6, 0xFFFFFFFFFF, 9, 5]
    let gone := s.modCluster 0 fun c => { c with epoch := 1 }
    let told (i : Instr) : Bool := yields i gone fun t => t.me.pend == [⟨0x22, 0, 0, 1, none, none⟩] && t.me.ip == thenIp
    let timed := (s.modThread 0 fun t => { t with bartmo := 10, parkedAt := 5, wait := .retry (.barWait 9 6 3) }).modCore 0 fun c => { c with cycle := 15 }
    let j : JEntry := ⟨5, 1, 0, s.me.uid, 0, 0, 0, .arrive 9 1 false, [], 0, .sent⟩
    let remote := (s.modCore 0 fun c => { c with journal := [j] }).modCluster 0 fun c => { c with barrier := c.barrier.set 9 { barrier 2 1 with gathering := true } }
    s.plain [.g 3, .g 4, .g 5] [.g 3, .g 7] ∧ (s.teamOf s.me).isSome = true ∧
    yields (.barArv false 7 9) s (fun t => t.me.greg 7 == 6 && t.me.ip == thenIp && (bar9 t).phase == 7 && (bar9 t).arr == 0) ∧
    yields (.barArv true 7 9) (barred (barrier 3 1) []) (fun t => t.me.greg 7 == 6 && (bar9 t).arr == 2 && (bar9 t).phase == 6 && (bar9 t).edged) ∧
    yields (.barArv false 7 9) (barred { barrier 2 1 with gathering := true } []) (fun t => t.me.wait == .port (.reg 7) && (bar9 t).port.length == 1 && t.me.ip == 0x10001) ∧
    yields (.barExp 7 4 9) (barred (barrier 2 1) [0, 0, 0, 0, 0xFFFFFFFFFF]) (fun t => t.me.greg 7 == 6 && (bar9 t).bytes == 0xFFFFFFFFFF) ∧
    yields (.barCfg 7 6 5 9) s (fun t => t.me.greg 7 == 6 && (bar9 t).exp == 5 && (bar9 t).breload == 9 && (bar9 t).bytes == 9 && (bar9 t).arr == 0) ∧
    yields (.barWait 3 9) s (fun t => t.me.wait == .retry (.barWait 9 6 3) && t.me.ip == 0x10001) ∧
    yields (.barWait 6 9) s (fun t => t.me.greg 6 == 6 && t.me.ip == thenIp) ∧
    yields (.grpred .sum .n64 false 7 6 5) s (fun t => t.me.greg 7 == 5 && (bar9 t).phase == 7 && t.me.ip == thenIp) ∧
    yields (.barArvRem false 7 0 9) s (fun t => t.me.greg 7 == 0xFFFFFFFFFFFFFFFF && t.myCore.journal.map (fun j => (j.entry, j.kind, j.cl)) ==
      [(0, .arrive 9 1 false, 0)]) ∧
    yields (.barArvRem false 7 5 9) s (trapped 0x06 9 0) ∧ told (.barArv false 7 9) ∧ told (.barExp 7 4 9) ∧
    yields (.barTimeout 0) timed (trapped 0x21 0 9) ∧ yields (.barTimeout 0) (timed.modCore 0 fun c => { c with cycle := 14 }) (fun t => t.me.wait == .retry (.barWait 9 6 3)) ∧
    yields (.remoteBarrierArrival 0 5) remote (fun t => (t.core 0).journal.map JEntry.state == [.queued] && (bar9 t).port == [.remote 1 1 false]) ∧
    yields (.remoteBarrierArrival 0 5) (remote.modCluster 0 fun c => { c with epoch := 1 }) (fun t => (t.core 0).journal.map JEntry.state == [.gone 1]) := by
  refine ⟨⟨?_, ?_⟩, ?_⟩ <;> decide +kernel

/-- R340, R343 and R346: of two arrivals for one place the lower slot counts; the other counts into the next phase, or raises
BAR_OVER where the phase does not advance; a bar.cfg goes first. -/
theorem witness_BarrierEvaluation :
    let s (b : Barrier) : State := ((barred b []).setThread 1 { (bench []).thread 0 with uid := 9 }).modThread 0 fun t => { t with wait := .port (.reg 7), resume := thenIp }
    let s (b : Barrier) : State := (s b).modThread 1 fun t => { t with wait := .port (.reg 7), resume := thenIp }
    let arrive (w : SlotIx) : BarEvent := .arrive w (.reg 7) 1 false none
    let run (b : Barrier) (p : State → Bool) : Bool := yields (.barrierReevaluate 0 9) (s b) p
    run { barrier 2 1 with port := [arrive 1, arrive 0] } (fun t => (bar9 t).phase == 7 && (bar9 t).arr == 1 && (t.thread 0).greg 7 == 6 &&
      (t.thread 1).greg 7 == 7 && (bar9 t).port == [.again]) ∧
    run { barrier 2 1 with port := [arrive 1, arrive 0], bytes := 8 } (fun t => (bar9 t).phase == 6 && (bar9 t).arr == 2 && (t.thread 0).greg 7 == 6 &&
      (t.thread 1).trapcause.extractLsb' 0 8 == 0x20#8 && (t.thread 1).trapaux == 9) ∧
    run { barrier 2 1 with port := [.bytes 8, arrive 0], bytes := 8, breload := 16 } (fun t => (bar9 t).phase == 7 && (bar9 t).bytes == 16) ∧
    run { barrier 2 1 with port := [arrive 0, .config 1 (.reg 7) 1 3] } (fun t => (bar9 t).phase == 6 && (bar9 t).exp == 1 && (bar9 t).arr == 1 &&
      (bar9 t).bytes == 3 && (t.thread 1).greg 7 == 6 && (bar9 t).port == [.again]) ∧
    yields (.barrierReevaluate 0 9) ((s { barrier 2 1 with contribs := [⟨1, .sum, .n64, 5⟩], port := [.arrive 0 (.reg 7) 1 false (some ⟨0, .sum, .n64, 7⟩)] }).modThread 1 fun t =>
      { t with wait := .group (.reg 7) 9 6 .sum .n64 }) (fun t => (t.thread 0).greg 7 == 12 && (t.thread 1).greg 7 == 12 && (t.thread 1).ip == thenIp) := by
  decide +kernel

/-- R346, R125, R162 and R356: a maximum of −0, +0 and a NaN is +0; an advance with an edge arrival invalidates before the grpred goes
on; BAR_OVER enters its handler. -/
theorem witness_BarrierEvaluation_more :
    let s (b : Barrier) (wait : Wait) (view : List Region) : State := ((barred b []).setThread 1 { (bench []).thread 0 with
      uid := 9, wait := wait, resume := thenIp, view := some view, trapvec := 0x10001 }).modThread 0 fun t => { t with wait := .port (.reg 7), resume := thenIp }
    let red (op : GrpOp) (xs : List W64) (edge : Bool) (view : List Region) : State :=
      s { barrier 1 0 with contribs := xs.zipIdx.map fun x => ⟨x.2, op, .f32, x.1⟩, port := [.arrive 0 (.reg 7) 1 edge none] }
        (.group (.reg 7) 9 6 op .f32) view
    let over_ : State := s { barrier 2 2 with bytes := 8, port := [.arrive 1 (.reg 7) 1 false none] } (.port (.reg 7)) []
    yields (.barrierReevaluate 0 9) (red .max [0x80000000, 0, 0x7FC00000] false []) (fun t => (t.thread 1).greg 7 == 0 && (t.thread 1).ip == thenIp) ∧
    yields (.barrierReevaluate 0 9) (red .min [0x80000000, 0, 0x7FC00000] false []) (fun t => (t.thread 1).greg 7 == 0x80000000) ∧
    yields (.barrierReevaluate 0 9) (red .max [0x7FC00001] false []) (fun t => (t.thread 1).greg 7 == 0x7FC00000) ∧
    yields (.barrierReevaluate 0 9) (red .max [5] true [mkRegion 3 0x100 0x2000]) (fun t => (t.thread 1).greg 7 == 5 && (t.thread 1).wait == .skimmer &&
      (t.cluster 0).skims.map (fun k => (k.kind, k.uid, k.after)) == [(.invalidate, 9, .finish)]) ∧
    yields (.barrierReevaluate 0 9) over_ (fun t => (t.thread 1).ip == 0x10001 && (t.thread 1).handler && (t.thread 1).priv &&
      (t.thread 1).trapcause == causeWord false ((bench []).thread 0).priv 0x20 && (t.thread 1).trapaux == 9 && (t.thread 1).wait == .run) := by decide +kernel

/-- R341 and R165: bar.wait waits for an unacknowledged posted store (log 89); a remote arrival without permission is gone with cause 1
(log 90). -/
theorem witness_BarrierInstructions_more :
    let s := barred (barrier 2 1) [0, 0, 0, 6, 5]
    let j (k : JKind) : JEntry := ⟨5, 1, 0, s.me.uid, 0, 1, 0, k, [], 0, .sent⟩
    let with_ (k : JKind) : State := s.modCore 0 fun c => { c with journal := [j k] }
    yields (.barWait 4 9) (with_ .store) (fun t => t.me.wait == .retry .journal && t.me.ip == 0x10001) ∧
    yields (.remoteBarrierArrival 0 5) ((with_ (.arrive 9 1 false)).modCluster 1 fun c => { c with perm := 0 }) (fun t =>
      (t.core 0).journal.map JEntry.state == [.gone 1]) := by decide +kernel

/-! ### Control registers, exceptions, locks and contexts -/

/-- bench in handler or user code. -/
def mode (priv : Bool) (xs : List W64) : State := (bench xs).modThread 0 fun t => { t with priv := priv, trapvec := 0x10001 }

/-- R53 and the field maps: values kept, ignored and refused. -/
theorem witness_ControlRegisters :
    let s := (mode true [0, 0, 0, 0, 0xFFFFFFFFFFFFFFFF, 0x22, 0x20, 1025]).modThread 0 fun t => { t with tid := 5, team := 9, savedip := 7, trapaux := 8 }
    let user := mode false [0, 0, 0, 0, 0xFFFFFFFFFFFFFFFF]
    let reads (i : BitVec 16) (x : W64) : Bool := yields (.rdc 3 i) s fun t => t.me.greg 3 == x && t.me.ip == thenIp
    let writes (r : GReg) (i : BitVec 16) (p : State → Bool) : Bool := yields (.wrc r i) s fun t => p t && t.me.ip == thenIp
    s.plain [.g 4] [.g 3] ∧
    reads 0x000 5 ∧ reads 0x001 1 ∧ reads 0x002 9 ∧ reads 0x004 0 ∧ reads 0x006 1 ∧ reads 0x020 0x10 ∧ reads 0x022 0 ∧ reads 0x028 1024 ∧ reads 0x029 0 ∧
    reads 0x040 0x10001 ∧ reads 0x044 8 ∧ reads 0x046 14 ∧ reads 0x06F 0 ∧ yields (.rdc 3 0x040) user (fun t => t.me.trapcause.extractLsb' 0 8 == 0x04#8) ∧
    yields (.rdc 3 0x041) user (fun t => t.me.ip == thenIp) ∧ yields (.wrc 4 0x045) user (fun t => t.me.trapcause.extractLsb' 0 8 == 0x04#8) ∧
    writes 4 0x000 (fun t => t.me.tid == 5) ∧ writes 4 0x010 (fun t => t.me.meetwin == 0xFFFFFFFF) ∧ writes 4 0x011 (fun t => t.me.meetst == 0x3FFFFFFFF) ∧
    writes 4 0x01A (fun t => t.me.vstat == 63) ∧ writes 4 0x020 (fun t => t.me.tfmt == 0x11) ∧ writes 6 0x020 (fun t => t.me.tfmt == 0x20) ∧
    writes 5 0x020 (fun t => t.me.tfmt == 0x10) ∧ writes 7 0x028 (fun t => t.me.tkw == 1024) ∧ writes 6 0x028 (fun t => t.me.tkw == 32) ∧
    writes 4 0x022 (fun t => t.myCore.tile.accsat && t.myCore.tile.trapen) ∧ writes 4 0x030 (fun t => (t.part 0).detm == 0x7FFFFF) ∧
    writes 4 0x031 (fun t => (t.part 0).detspill == BitVec.allOnes 51) ∧ writes 4 0x032 (fun t => (t.part 0).cap == 0xFFFFFFFF) ∧
    writes 4 0x038 (fun t => t.me.qmap == 0xFF) ∧ writes 4 0x042 (fun t => t.me.trapip == BitVec.allOnes 57) ∧
    writes 4 0x046 (fun t => t.me.notifyEn && t.me.savedip == 7) ∧ writes 4 0x068 (fun t => t.myCore.pmc[0].count == BitVec.allOnes 48) ∧
    writes 5 0x060 (fun t => t.myCore.pmc[0].sel == 0) ∧ writes 6 0x021 (fun t => t.myCore.tile.queue == []) ∧
    yields (.registerWrite (.control 0 0x058) 77) s (fun t => t.me.framep == 77 && t.me.ip == 0x10001) ∧
    yields (.wrc 0 0x046) (s.modThread 0 fun t => { t with notifyActive := true }) (fun t => t.me.ip == 7 && t.me.notifyActive == false) := by
  refine ⟨⟨?_, ?_⟩, ?_⟩ <;> decide +kernel

/-- R259: a wrc that flushes stands behind the tile instructions issued before it, and its thread waits for it. -/
theorem witness_ControlRegisters_flush :
    let o (r : Option Nat) : TileOp := ⟨1, 1, 9, r, .tscale 0 7⟩
    let s := (mode true [0, 0, 0, 0, 0x100000000]).modCore 0 fun c => { c with tile := { c.tile with queue := [o none, o (some 7)], tokens := 4 } }
    yields (.wrc 4 0x021) s (fun t => t.me.wait == .tileStart 4 none && t.me.ip == 0x10001 && t.me.resume == thenIp &&
      t.myCore.tile.queue == [o none, ⟨4, 0, t.me.uid, none, .flush⟩, o (some 7)] && t.myCore.tile.tokens == 5) := by decide +kernel

/-- R313 and R364: a notification is delivered to user code, not to a handler, and its return goes back. -/
theorem test_notifications :
    let s := (mode false []).modThread 0 fun t => { t with notes := [⟨0x52, 0x4001⟩] }
    yields (.notifyDelivery 0) (s.modThread 0 fun t => { t with wait := .exiting }) (fun t => t.me.ip == 0x4001 && t.me.wait == .run && t.me.savedip == 0x10001 && t.me.notifyActive && t.me.trapaux == 0x52 && t.me.notes == []) ∧
    yields (.notifyDelivery 0) (s.modThread 0 fun t => { t with priv := true }) (fun t => t.me.ip == 0x10001) ∧
    yields (.notifyReturn 0) (s.modThread 0 fun t => { t with notifyActive := true, savedip := 9 }) (fun t => t.me.ip == 9 && t.me.notifyActive == false) ∧
    yields (.notifyEnable 0 true) s (fun t => t.me.notifyEn) := by decide +kernel

/-- R356 to R359 and R367: entry to the vector, a fault in a handler, a vector of 0, and the return with an entry withdrawn. -/
theorem witness_Exceptions :
    let s := mode false []
    let h := (mode true []).modThread 0 fun t => { t with trapip := 0x20001, trapcause := 0x13F, handler := true }
    let j : JEntry := ⟨5, 1, 0, s.me.uid, 0, 1, 0, .store, [], 0, .refused 2⟩
    let named := (h.modThread 0 fun t => { t with named := some ⟨0x28, 0, 0, 0, some 5, none⟩, trapaux := 0x8000000000000000 }).modCore 0 fun c => { c with journal := [j] }
    yields (.trap 0x12) s (fun t => t.me.ip == 0x10001 && t.me.priv && t.me.handler && t.me.trapcause == 0x3F && t.me.trapip == 0x10041 && t.me.trapaux == 0x12) ∧
    yields (.trap 0x12) h (fun t => t.me.wait == .stopped 0 && ((t.page 0).pair 0).backlog.map (List.take 1) == [[4]] && t.me.trapcause == 0x13F) ∧
    yields (.trap 0) (bench []) (fun t => t.me.wait == .stopped 0 && t.me.ip == 0x10001) ∧
    yields (.trap 0) (s.modThread 0 fun t => { t with trapvec := 0x10002 }) (fun t => t.me.wait == .stopped 3) ∧
    yields .rett s (fun t => t.me.trapcause == 0x04 && t.me.ip == 0x10001 && t.me.priv) ∧
    yields .rett h (fun t => t.me.ip == 0x20001 && t.me.priv && t.me.handler == false) ∧
    yields .rett named (fun t => t.myCore.journal == [] && t.me.named == none && t.me.ip == 0x20001) ∧
    yields .rett (named.modThread 0 fun t => { t with trapaux := 0 }) (fun t => t.myCore.journal.map JEntry.state == [.sent]) ∧
    yields (.asyncTrapDelivery 0) (s.modThread 0 fun t => { t with pend := [⟨0x28, 0, 3, 4, some 5, none⟩] }) (fun t => t.me.trapcause == 0x228 &&
      t.me.trapva == 3 && t.me.trapaux == 4 && t.me.pend == [] && t.me.pjent == 37 && t.me.named == some ⟨0x28, 0, 3, 4, some 5, none⟩) ∧
    yields (.asyncTrapDelivery 0) (h.modThread 0 fun t => { t with pend := [⟨0x28, 0, 3, 4, some 5, none⟩] }) (fun t => t.me.ip == 0x10001 && t.me.pend.length == 1) := by
  decide +kernel

/-- A privileged thread with a block at byte 0x1400 of its scratchpad; slot 1 holds another thread of its team. -/
def saver : State :=
  let s := (mode true [0, 0, 0, 0, 0xFF20000000001400, 1, 0xFF2000000003FFC0, 0x2000]).modCore 0 fun c => { c with
    tlb := [⟨0, 0x200000, 0x400000, true, true, false, false, 0, 0, 0x200000⟩] }
  s.setThread 1 { s.thread 0 with g := regs [0, 31], uid := 9, tid := 1, idset := 2, ip := 0x20001 }

/-- R371 to R374: the last range of the scratchpad, one past its end, a lock of another slot, the limit, and a TLB entry. -/
theorem witness_LocksAndContexts_locks :
    let locked := saver.modCore 0 fun c => { c with lock := some ⟨1, 0x40, 2, 5⟩ }
    saver.plain [.g 4, .g 5] [.g 3] ∧ saver.me.priv = true ∧
    yields (.splock 6 1) saver (fun t => t.myCore.lock == some ⟨0, 0x3FFC0, 1, 0⟩ && t.me.ip == thenIp) ∧ yields (.splock 6 2) saver (trapped 0x06 0xFF20000000040000 0) ∧
    yields (.splock 7 1) saver (trapped 0x07 0x2000 0) ∧ yields (.splock 6 1) locked (fun t => t.me.wait == .retry .lock) ∧
    yields (.spunlock 3) locked (fun t => t.me.greg 3 == 0 && t.myCore.lock.isSome) ∧
    yields (.spunlock 3) (saver.modCore 0 fun c => { c with lock := some ⟨0, 0, 1, 0⟩ }) (fun t => t.me.greg 3 == 1 && t.myCore.lock.isNone) ∧
    yields (.splockHold 0) (locked.modCore 0 fun c => { c with cycle := 4101 }) (fun t => (t.core 0).lock.isNone && (t.thread 1).pend == [⟨0x38, 0, 0xFF20000000000040, 2, none, none⟩]) ∧
    yields (.splockHold 0) (locked.modCore 0 fun c => { c with cycle := 4100 }) (fun t => (t.core 0).lock.isSome) ∧
    yields (.tlbinvPage 7) saver (fun t => (t.core 0).tlb == [] && t.me.ip == thenIp) ∧ yields .tlbinvAll saver (fun t => (t.core 0).tlb == []) ∧
    yields (.tlbinvRange 7 0) saver (fun t => (t.core 0).tlb.length == 1) ∧ yields (.tlbinvRange 7 5) saver (fun t => (t.core 0).tlb == []) ∧
    yields (.tlbinvPage 7) (saver.modThread 1 fun t => { t with outs := [⟨.store, true, [⟨0, 0x2000, .global 0x402000, 1, [true], 0⟩], [], [], []⟩] })
      (fun t => t.me.wait == .retry .access) := by
  refine ⟨⟨?_, ?_⟩, ?_⟩ <;> decide +kernel

/-- R375 to R377: slot 1 is saved and free, an empty slot and the thread's own answer 0, a mapped one 3; an empty block is
unsound, and the block saved comes back. -/
theorem witness_LocksAndContexts_contexts :
    let word (t : State) (i : Nat) : Nat := t.myCore.scratch.word (0x1400 + i) 8
    (match blockLanes needW 0xFF20000000001400 (List.range 80) saver with
      | .ok x => x.1.length == 80
      | .error _ => false) = true ∧
    yields (.cxsave 3 4 5) saver (fun t => t.me.greg 3 == 1 && (t.thread 1).occ == false && t.me.ip == thenIp && word t 8 == 31 && word t 0x1120 == 0x20001 &&
      word t 0x1128 == 1 && word t 0x1138 == 2 && yields (.cxload 3 4) t fun u => u.me.greg 3 == 1 && (u.thread 1).greg 1 == 31 &&
        (u.thread 1).ip == 0x20001 && (u.thread 1).priv) ∧
    yields (.cxsave 3 4 0) saver (fun t => t.me.greg 3 == 0 && t.myCore.scratch == []) ∧
    yields (.cxsave 3 4 5) (saver.modThread 1 fun t => { t with occ := false }) (fun t => t.me.greg 3 == 0) ∧
    yields (.cxsave 3 4 5) (saver.modThread 1 fun t => { t with qmap := 1 }) (fun t => t.me.greg 3 == 3 && (t.thread 1).occ) ∧
    yields (.cxload 3 4) saver (fun t => t.me.greg 3 == 0x8000000000000002 && t.me.ip == thenIp) ∧
    yields (.cxload 3 4) (saver.modCluster 0 fun c => { c with draining := true }) (fun t => t.me.greg 3 == 0x8000000000000001) := by decide +kernel

/-- R376 and R344: the home that a block names is a cluster of the partition, or, where that has none of the number, one outside. -/
theorem witness_LocksAndContexts_home :
    let block (home : Byte) : List Byte := List.replicate 0x1137 0 ++ [home] ++ List.replicate 712 0
    let s := State.reset.modCluster 3 fun c => { c with part := some 0 }
    s.away = [] ∧ s.blockHome (block 0) 0 = 3 ∧ s.blockHome (block 5) 0 = 0 ∧ (s.cluster 0).part ≠ some 0 := by decide +kernel

/-! ### The host interface -/

/-- Consecutive 8-byte words from an address. -/
def words (m : Memory) (a : Nat) (xs : List Nat) : Memory := (xs.foldl (fun (p : Nat × Memory) x => (p.1 + 8, p.2.write p.1 (natBytes 8 x))) (a, m)).2

/-- Function 0 with a command at the head of queue 0 and room on its completion queue, in device memory; partition 0 of
cluster 0 has its node at 0x1080 below the root at 0x1000, with a budget of 4 slots. -/
def hosted (s : State) (cmd : List Nat) : State := { (s.modPart 0 fun p => { p with live := true, node := 0x1080 }).modPage 0 fun x =>
    x.modPair 0 fun q => { q with cqbase := 0x8000, cqsize := 64, cqtail := 1, cpbase := 0xA000, cpsize := 64 } with
  mem := words (words (words [] 0x1000 [0x0000FFFF0000 * 2 ^ 16, 0, 0xFFFFFFFFFFFFFFFF, 0]) 0x1080 [0x000200000301, 0x1000, 0xFFFFFFFF00000004, 0]) 0x8000 cmd }

def empty : State := (((bench []).modThread 0 fun _ => Thread.reset).modCluster 0 fun c => { c with teams := [] })

/-- A launch of n threads of team 7 at 0x20001 with 55 in g2. -/
def launching (n : Nat) (flags : Nat) : List Nat := [2 ^ 32 + flags + 1, 0x1080, 0x20001, n * 2 ^ 32 + 7, 55, 0, 0, 0, 0, 0, 0, 0, 0, 0, 0, 0]

/-- The first word of the record at the head of the completion queue. -/
def record0 (t : State) : Nat := t.mem.word 0xA000 8

/-- R19 to R21, R394, R395 and R406: two threads in cores 0 and 1 with a KIND 1 record, and each status of a refusal. -/
theorem witness_Launches :
    let refused (cmd : List Nat) (status : Nat) : Bool := yields (.launch 0 0) (hosted empty cmd) fun t =>
      record0 t == 2 ^ 32 + status * 256 + 2 && ((t.page 0).pair 0).cqhead == 1 && (t.thread 0).occ == false
    yields (.launch 0 0) (hosted empty (launching 2 0)) (fun t => record0 t == 2 ^ 32 + 1 && (t.thread 0).occ && (t.thread 0).ip == 0x20001 &&
      (t.thread 0).greg 2 == 55 && (t.thread 0).tid == 0 && (t.thread 16).tid == 1 && (t.thread 16).teamn == 2 && (t.thread 1).occ == false &&
      (t.cluster 0).teams.map (fun tm => (tm.team, tm.weight)) == [(7, 2)]) ∧
    refused (launching 2 (2 ^ 11)) 1 ∧ refused ((launching 2 0).set 1 0x1100) 1 ∧ refused (launching 2 (2 ^ 9)) 2 ∧ refused (launching 1 (2 ^ 10)) 3 ∧
    refused (launching 0 0) 4 ∧ refused (launching 5 0) 4 ∧
    yields (.launchPlacement 0 0) (hosted empty (launching 2 0)) (fun t => (t.thread 0).occ == false && record0 t == 0) := by decide +kernel

/-- R20, R21, R208 and R301: a launch that finds no room is held; a skimmer with 1,024 tasks has none (log 81); a change of XEN
refuses a held launch. -/
theorem witness_Launches_held :
    let s := hosted empty (launching 2 0)
    let drained := s.modCluster 0 fun c => { c with draining := true }
    let crowded := s.modCluster 0 fun c => { c with teams := [{ (launchTeam 0 0 0 ⟨[], [], 0, 0⟩ [] 0) with
      team := 5, tasks := List.replicate 1024 (otherTask 1 []) }] }
    let held (s : State) : Bool := yields (.launch 0 0) s fun t => ((t.page 0).pair 0).held.isSome && ((t.page 0).pair 0).cqhead == 1 && record0 t == 0 &&
      (t.thread 0).occ == false
    let waiting (n flags : Nat) : State := (hosted empty []).modPage 0 fun x => x.modPair 0 fun q => { q with held := some ⟨(launching n flags).flatMap (natBytes 8), [⟨0x1080, 0xFFFFFFFF, 0xFFFFFFFF⟩, ⟨0x1000, 0xFFFFFFFF, 0xFFFFFFFF⟩], 0, 0⟩ }
    held drained ∧ (crowded.cluster 0).taskCount = 1024 ∧
    yields (.launchPlacement 0 0) (waiting 1 (2 ^ 10)) (fun t => record0 t == 2 ^ 32 + 3 * 256 + 2 && ((t.page 0).pair 0).held == none) := by decide +kernel

/-- R404 to R409 and R425: a doorbell, a command out of sequence, an unknown kind, and the other four commands. -/
theorem witness_HostCommands :
    let s := bench []
    let cmd (kind a : Nat) : List Nat := [2 ^ 32 + kind, a, 0, 0]
    let stopped := s.modThread 0 fun t => { t with wait := .stopped 0, trapip := 0x20001, trapcause := 0x13F }
    let later (s : State) : State := s.modPage 0 fun x => x.modPair 0 fun q => { q with anyCmd := true, lastcmd := 5 }
    let answers (i : Instr) (s : State) (low : Nat) : Bool := yields i s fun t => record0 t % 2 ^ 32 == low
    yields (.doorbell 0 0 9) s (fun t => ((t.page 0).pair 0).cqtail == 9) ∧
    answers (.launch 0 0) (later (hosted s (launching 1 0))) (7 * 256 + 2) ∧ answers (.launch 0 0) (hosted s (cmd 6 0)) (9 * 256 + 2) ∧
    yields (.resume 0 0) (hosted stopped (cmd 2 0)) (fun t => record0 t % 2 ^ 32 == 5 && t.me.wait == .run && t.me.ip == 0x20001 && t.me.priv) ∧
    answers (.resume 0 0) (hosted s (cmd 2 0)) (6 * 256 + 2) ∧ answers (.resume 0 0) (hosted stopped (cmd 2 1)) (6 * 256 + 2) ∧
    yields (.kill 0 0) (hosted stopped (cmd 3 0)) (fun t => t.me.occ == false && record0 t % 2 ^ 32 == 5) ∧
    yields (.kill 0 0) (hosted (s.modThread 0 fun t => { t with wait := .det none none }) (cmd 3 0)) (fun t => t.me.wait == .det none none && record0 t == 0) ∧
    yields (.hinval 0 0) (hosted (s.modCore 0 fun c => { c with tlb := [⟨0, 4096, 0, true, true, true, false, 0x5000, 0, 4096⟩] }) [2 ^ 32 + 4, 0x5FFF, 1, 0])
      (fun t => (t.core 0).tlb == [] && record0 t % 2 ^ 32 == 5) ∧
    yields (.resolve 0 0) (hosted (s.modThread 0 fun t => { t with wait := .hostStage 0x7000 }) [2 ^ 32 + 5, 0x7000, 1, 0]) (fun t => t.me.wait == .declined 0x7000) ∧
    yields (.resolve 0 0) (hosted (s.modThread 0 fun t => { t with wait := .hostStage 0x7000 }) [2 ^ 32 + 5, 0x8000, 0, 0]) (fun t => t.me.wait == .hostStage 0x7000) ∧
    yields (.functionReset 0) (hosted s []) (fun t => ((t.page 0).pair 0).cqbase == 0x8000 && (t.page 0).status == 0) ∧
    yields .deviceReset (hosted s []) (fun t => t.me.occ == false && t.mem.word 0x1088 8 == 0x1000) := by decide +kernel

/-- R384 to R386: a busy core begins to stop; a quiet one is saved with its registers and the CHECK in its area; a core of no
partition is left. -/
theorem witness_CoreContexts :
    let s := bench [0, 1, 2, 3]
    let busy := s.modThread 0 fun t => { t with outs := [⟨.store, true, [⟨0, 0, .global 0, 1, [true], 0⟩], [], [], []⟩] }
    (s.cluster 0).part = some 0 ∧ s.coreFree 1 = true ∧ s.flightsOf 0 = [] ∧
    yields (.preempt 0) busy (fun t => (t.core 0).stopping && t.saved == [] && t.me.occ) ∧ yields (.preempt 8) s (fun t => t.saved == []) ∧
    yields (.liveMigration 0 1) s (fun t => t.me.occ == false && (t.thread 16).occ && (t.thread 16).greg 3 == 3 && (t.thread 16).migr &&
      (t.core 0).forward.map (fun f => (f.old, f.new)) == [(0, 16)]) ∧
    yields (.liveMigration 0 8) s (fun t => t.me.occ) ∧ yields (.coreRestore 0 0) s (fun t => t.saved == [] && t.me.occ) := by decide +kernel

/-- R338 and R387: the forwarding entries of a core's slots stay with it when its context is saved or moves. -/
theorem witness_CoreContexts_forward :
    let s := (bench [0, 1, 2, 3]).modCore 0 fun c => { c with forward := [⟨5, 144, 77, 0⟩] }
    yields (.liveMigration 0 1) s (fun t => (t.core 0).forward.map (fun f => (f.old, f.new)) == [(5, 144), (0, 16)] && (t.core 1).forward == []) = true := by
  decide +kernel

/-- R393, R396 to R398 and R401: a partition of clusters 2 and 4 is created from its node and grows by cluster 5, not by a
lower one; a drain frees the highest cluster only; a band is written as a whole or not at all. -/
theorem witness_Partitions :
    let s := { State.reset with mem := words [] 0x1000 [0x00070000 * 1 + 1, 0x2000, 0, 1, 0, 0, 0, 0, 0, 0, 0, 0] }
    let set : BitVec 128 := 0x14
    let banded := State.reset.modPart 0 fun p => { p with live := true }
    yields (.partitionCreate 1 0x1000 set) s (fun t => (t.part 1).live && (t.part 1).partid == 7 && (t.part 1).xen && t.clustersOf 1 == [2, 4] &&
      t.mem.word 0x1030 8 == 0x14) ∧
    (let two := (s.modCluster 2 fun c => { c with part := some 1 }).modCluster 4 fun c => { c with part := some 1, perm := 3 }
     let two := two.modPart 1 fun p => { p with live := true, node := 0x1000 }
     yields (.partitionGrow 1 0x20) two (fun t => t.clustersOf 1 == [2, 4, 5]) ∧ yields (.partitionGrow 1 0x8) two (fun t => t.clustersOf 1 == [2, 4]) ∧
     let kept : List SavedCore := (List.finRange 8).map fun n => ⟨1, 0, n, 0, Core.reset, Vector.replicate 16 { Thread.reset with occ := true }, [], 0⟩
     let last := { (s.modCluster 0 fun c => { c with part := some 1 }).modPart 1 fun p => { p with live := true } with saved := kept }
     yields (.clusterDrain 0) last (fun t => (t.cluster 0).part == none && t.saved.length == 8) ∧
     yields (.clusterDrain 2) two (fun t => t.clustersOf 1 == [2, 4]) ∧ yields (.partitionShrink 1 2) two (fun t => t.clustersOf 1 == [2, 4])) ∧
    yields (.partitionDestroy 1) State.reset (fun t => (t.part 1).live == false) ∧
    yields (.partitionCreate 1 0x1000 0) s (fun t => (t.part 1).live == false) ∧
    yields (.qosWrite (.mem 0) 0x0510000005) banded (fun t => (t.page 0).qosmem.floor == 5 && (t.page 0).qosmem.ceil == 0x1000 && (t.page 0).qosmem.weight == 5) ∧
    yields (.qosWrite (.mem 0) 0x0510010005) banded (fun t => (t.page 0).qosmem == Band.reset && (t.page 0).status == 2) ∧
    yields (.bandWindow (.link 0 3)) State.reset (fun t => (t.page 0).qoslink[3].used == 0) := by
  refine ⟨?_, ⟨?_, ?_, ?_, ?_⟩, ?_, ?_, ?_⟩ <;> decide +kernel

/-- R399, R416, R418 and R421: the counter window, the capability table, a landing write in the aperture, and versions of a stage. -/
theorem witness_Surroundings_more :
    let s := State.reset.modCluster 3 fun c => { c with pmc := c.pmc.set 2 { c.pmc[2] with sel := 0x10005, count := 77 } }
    let read (off n : Nat) : Nat := bytesNat ((List.range n).map fun i => s.hostRead 64 (s.capbase.toNat + off + i))
    let landing (leaf : Nat) : State := { State.reset.modPart 0 fun p => { p with lztab := 0x4000, hroot := 0x1000 } with
      mem := ((words [] 0x4000 [0x2000, 16, 5, 0]).write 0x1000 (natBytes 8 0x2003)).write 0x2000 (natBytes 8 0x3003) |>.write 0x3000 (natBytes 8 leaf) }
    let staged : State := { State.reset with mgmt := { State.reset.mgmt with stageRollback := [(1, 5)], stage := 1 } }
    s.readWindow 0x320 = 0x10005 ∧ s.readWindow 0x328 = 77 ∧ s.readWindow 0x330 = 0 ∧
    read 0 2 = 1 ∧ read 8 8 = 128 ∧ read (32 * 9) 2 = 0 ∧ s.hostRead 0 (s.capbase.toNat) = 0 ∧
    yields (.landingZoneWrite 0 0 5 0 [9]) (landing 0x1D) (fun t => t.mem.get 0x2000 == 9 && t.mem.word 0x4018 8 == 1) ∧
    yields (.landingZoneWrite 0 0 5 0 [9]) (landing (0xF00000000001D)) (fun t => t.mem.word 0x4018 8 == 0) ∧
    staged.mgmt.stageVersion 1 = 5 ∧ staged.mgmt.stageVersion 2 = 0 := by decide +kernel

/-- R403 to R423: the registers of a page, a link's answers, a landing write and the clocks. -/
theorem witness_Surroundings :
    let s := State.reset
    let reg (off : Nat) (x : W64) (p : Page → Bool) : Bool := yields (.registerWrite (.page 0 off) x) s fun t => p (t.page 0)
    let flit (seq : Nat) (ok : Bool) (payload : List Byte) : Flit := ⟨seq, ok, payload⟩
    let sent : State := { s with ports := s.ports.set 2 ⟨true, 1, 0, 63, [⟨0, true, [1, 2]⟩], [], []⟩ }
    let zone := { (s.modPart 0 fun p => { p with lztab := 0x1000 }) with mem := words [] 0x1000 [0x2000, 16, 5, 0] }
    (reg 0x048 64 (fun x => (x.pair 1).cqsize == 64 && x.status == 0) ∧ reg 0x048 65 (fun x => (x.pair 1).cqsize == 0 && x.status == 2) ∧
      reg 0x048 0x20000 (fun x => x.status == 2) ∧ reg 0x408 9 (fun x => (x.pair 1).hsb == 9) ∧ reg 0x808 4096 (fun x => x.ladle.lsize == 4096) ∧
      reg 0x808 4097 (fun x => x.status == 2) ∧ reg 0x908 512 (fun x => x.log.size == 512) ∧ reg 0x908 256 (fun x => x.status == 2) ∧
      reg 0x920 3 (fun x => x.log.final && !x.log.arm) ∧ reg 0x500 5 (fun x => x.status == 2) ∧ reg 0x820 3 (fun x => x.ladle.lcount == 3) ∧
      yields (.registerWrite (.page 0 0x820) 2) (s.modPage 0 fun x => { x with ladle := { x.ladle with unsignalled := 2 } }) (fun t =>
        (t.page 0).ladle.interrupts == 1 && (t.page 0).ladle.unsignalled == 0)) ∧
    ((s.modPage 0 fun x => x.modPair 3 fun q => { q with cqhead := 7, lastcmd := 9 }).readPage 0 0xD8 == 0x900000007 && s.readPage 0 0x490 == 0) ∧
    (yields (.logArm 0 true) s (fun t => !(t.page 0).log.arm && (t.page 0).status == 2) ∧ yields (.logFinal 0 true) s (fun t => (t.page 0).log.final) ∧
      yields (.lheadWrite 0 7) s (fun t => (t.page 0).ladle.lhead == 7) ∧ yields (.logheadWrite 0 7) s (fun t => (t.page 0).log.head == 7) ∧
      yields (.loglostClear 0 true) s (fun t => !(t.page 0).log.lost)) ∧
    (yields (.carranFlit 2 (flit 0 true [1, 2])) s (fun t => t.ports[2].received == [1, 2] && t.ports[2].expect == 1) ∧
      yields (.carranFlit 2 (flit 1 true [1, 2])) s (fun t => t.ports[2].expect == 0) ∧
      yields (.carranFlit 2 (flit 0 true [])) sent (fun t => t.ports[2].unacked == [] && t.ports[2].replays == 0) ∧
      yields (.carranFlit 2 (flit 0 true [9])) sent (fun t => t.ports[2].refused == [0]) ∧
      yields (.carranReplay 2) sent (fun t => t.ports[2].up == false && t.mgmt.linksDown == [2]) ∧
      yields (.carranReplay 2) s (fun t => t.ports[2].up)) ∧
    (yields (.landingZoneWrite 0 0 4 0 [9]) zone (fun t => t.mem.word 0x1018 8 == 0) ∧ yields (.landingZoneWrite 0 0 5 16 [9]) zone (fun t => t.mem.word 0x1018 8 == 0) ∧
      yields (.hostMemWrite 0 0x1000 [9]) s (fun t => t.mem == [(0x1000, 9)]) ∧
      yields (.hostMemWrite 0 0xC000000000 [9]) s (fun t => t.mem == [] && t.hostMem == [(0xC000000000, 9)])) ∧
    (yields (.clockBoost 0 2800) s (fun t => (t.core 0).mhz == 2800) ∧ yields (.clockBoost 0 2801) s (fun t => (t.core 0).mhz == 2400) ∧
      yields (.thermalThrottle 0 2399) s (fun t => (t.core 0).mhz == 2399) ∧ yields (.thermalThrottle 0 2400) s (fun t => (t.core 0).mhz == 2400) ∧
      yields .thermalShutdown s (fun t => t.off && t.mgmt.shutdowns == 1) ∧ yields (.ladleTimer 0) s (fun t => (t.page 0).ladle.interrupts == 0) ∧
      yields (.ladleTake 0) s (fun t => (t.page 0).ladle.tokens == [])) ∧
    (match step { s with off := true } with
      | .fault r => r == .moduleShutDown
      | _ => false) = true := by
  refine ⟨?_, ?_, ?_, ?_, ?_, ?_, ?_⟩ <;> decide +kernel

end Sys2Proof.Tests
end

section
/-! PROOFS. The state after reset: what the accessors of State read there, and the statement of it. -/

namespace Sys2Proof.Machine

/-- Reading a vector all of whose entries are one value, by index. -/
theorem vector_get_replicate {α : Type} {n : Nat} (x : α) (i : Fin n) : (Vector.replicate n x)[i] = x :=
  Vector.getElem_replicate i.isLt

/-! ### What each part of the device is -/

@[simp] theorem State.reset_thread (w : SlotIx) : State.reset.thread w = Thread.reset := vector_get_replicate _ w
@[simp] theorem State.reset_core (c : CoreIx) : State.reset.core c = Core.reset := vector_get_replicate _ c
@[simp] theorem State.reset_cluster (cl : ClusterIx) : State.reset.cluster cl = Cluster.reset := vector_get_replicate _ cl
@[simp] theorem State.reset_part (p : PartIx) : State.reset.part p = Partition.reset := vector_get_replicate _ p
@[simp] theorem State.reset_page (f : FuncIx) : State.reset.page f = Page.reset := vector_get_replicate _ f

/-! ### The register files of a thread -/

@[simp] theorem Thread.reset_greg (r : GReg) : Thread.reset.greg r = 0 := by
  have read : Thread.reset.g[r] = 0 := vector_get_replicate 0 r
  simp [Thread.greg, read]

/-- k0 is wired to all ones (R133). -/
@[simp] theorem Thread.reset_kreg_zero : Thread.reset.kreg 0 = 0xFFFFFFFF := rfl

@[simp] theorem Thread.reset_kreg (k : KReg) (h : k ≠ 0) : Thread.reset.kreg k = 0 := by
  have read : Thread.reset.k[k] = 0 := vector_get_replicate 0 k
  have nonzero : k.val ≠ 0 := Fin.val_ne_zero_iff.mpr h
  simp [Thread.kreg, read, nonzero]

@[simp] theorem Thread.reset_lane (r : VReg) (n : Fin 32) : Thread.reset.v[r][n] = 0 := by
  have read : Thread.reset.v[r] = Vector.replicate 32 0 := vector_get_replicate _ r
  rw [read, vector_get_replicate]

/-! ### The arrays of a core, a cluster and a page -/

@[simp] theorem Tile.reset_key (i : Fin 8) : Tile.reset.keys[i] = ⟨false, 0, 0⟩ := vector_get_replicate _ i
@[simp] theorem Core.reset_mailbox (n : Fin 4) : Core.reset.mailbox[n] = ⟨false, 0, [], []⟩ := vector_get_replicate _ n
@[simp] theorem Core.reset_pmc (n : Fin 8) : Core.reset.pmc[n] = Pmc.reset := vector_get_replicate _ n
@[simp] theorem Cluster.reset_barrier (id : Fin 64) : Cluster.reset.barrier[id] = Barrier.reset := vector_get_replicate _ id
@[simp] theorem Cluster.reset_pmc (n : Fin 16) : Cluster.reset.pmc[n] = Pmc.reset := vector_get_replicate _ n
@[simp] theorem Page.reset_pair (q : Fin 16) : Page.reset.pairs[q] = QueuePair.reset := vector_get_replicate _ q
@[simp] theorem Page.reset_qoslink (r : Fin 16) : Page.reset.qoslink[r] = Band.reset := vector_get_replicate _ r

/-- Where nothing is listed every byte reads 0. -/
@[simp] theorem Memory.get_nil (a : Nat) : Memory.get [] a = 0 := rfl

/-- No word of a cluster's local memory is full (R136). -/
@[simp] theorem Cluster.reset_isFull (i : Nat) : Cluster.reset.isFull i = false := rfl

/-- Every memory of the device is empty. -/
theorem State.reset_memoryOk : State.reset.MemoryOk where
  hbm := Memory.wf_nil
  host := Memory.wf_nil
  cluster cl := by rw [State.reset_cluster]; exact Memory.wf_nil
  scratch c := by rw [State.reset_core]; exact Memory.wf_nil
  saved _ h := nomatch h

end Sys2Proof.Machine

namespace Sys2Proof

open Sys2Proof.Machine

/-- Settles O3: each accessor of the state gives the record of its part at reset, whose fields have the values stated. -/
theorem resetState : Obligations.ResetState := by
  unfold Obligations.ResetState
  refine ⟨State.reset_memoryOk, fun w => ?thread, fun c => ?core, fun cl => ?cluster, fun p => ?part, fun f => ?page,
    rfl, fun w => ?free, fun p => ?absent, rfl, rfl⟩
  case thread =>
    rw [State.reset_thread]
    exact ⟨rfl, rfl, rfl, rfl, rfl, rfl, rfl, rfl, rfl, rfl, rfl, rfl, rfl, rfl, rfl, rfl,
      Thread.reset_greg, Thread.reset_kreg_zero, Thread.reset_kreg, Thread.reset_lane⟩
  case core =>
    rw [State.reset_core]
    refine ⟨rfl, rfl, rfl, rfl, rfl, rfl, fun i => ?key, rfl, rfl, rfl, rfl, rfl, fun n => ?mailbox, fun n => ?counter,
      Memory.get_nil⟩
    case key => exact congrArg (·.valid) (Tile.reset_key i)
    case mailbox => rw [Core.reset_mailbox]
    case counter => rw [Core.reset_pmc]; exact ⟨rfl, rfl⟩
  case cluster =>
    rw [State.reset_cluster]
    refine ⟨Memory.get_nil, Cluster.reset_isFull, rfl, rfl, fun id => ?barrier, fun n => ?counter⟩
    case barrier => rw [Cluster.reset_barrier]; exact ⟨rfl, rfl, rfl⟩
    case counter => rw [Cluster.reset_pmc]; exact ⟨rfl, rfl⟩
  case part => rw [State.reset_part]; exact ⟨rfl, rfl, rfl⟩
  case page =>
    rw [State.reset_page]
    refine ⟨fun q => ?pair, rfl, fun r => ?band, rfl, rfl, rfl, rfl, rfl, rfl, rfl⟩
    case pair => rw [Page.reset_pair]; exact ⟨rfl, rfl, rfl⟩
    case band => rw [Page.reset_qoslink]; exact ⟨rfl, rfl, rfl⟩
  case free => rw [State.reset_thread]; rfl
  case absent => rw [State.reset_part]; rfl

end Sys2Proof
end

section
/-! PROOFS. Refutations of the statements about core contexts, partitions, launches and the surroundings: for each, a state
that meets every premise of one clause and that the model takes elsewhere. -/

namespace Sys2Proof.Machine

/-! ### What the refuting states share -/

/-- The device after reset with cluster 0 in partition 0. -/
def State.oneCluster : State :=
  (State.reset.modCluster 0 fun c => { c with part := some 0 }).modPart 0 fun p => { p with live := true, node := 0x1080 }

/-- A property of the state that an instruction leaves. -/
def Leaves (i : Instr) (s : State) (p : State → Bool) : Bool :=
  match exec i s with
  | .next y => p y
  | _ => false

theorem of_leaves {i : Instr} {s y : State} {p : State → Bool} (h : Leaves i s p = true) (hy : exec i s = .next y) :
    p y = true := by
  simpa [Leaves, hy] using h

theorem State.oneCluster_thread (w : SlotIx) : State.oneCluster.thread w = Thread.reset := by simp [State.oneCluster]

theorem State.oneCluster_core (c : CoreIx) : State.oneCluster.core c = Core.reset := by simp [State.oneCluster]

theorem State.oneCluster_inst (q : ClusterIx) : (State.oneCluster.cluster q).inst = [] := by
  simp only [State.oneCluster, State.modPart_cluster, State.modCluster_cluster, State.reset_cluster]
  split <;> rfl

/-! ### A det update whose spill write waits for the host -/

/-- A thread in slot 0 whose only access is a det update, not accepted, that waits for the host at the page of its spill
record (R192, R382). Its wait is one that R154 withdraws, and with it goes the access. -/
def State.spillWaiting : State := State.oneCluster.modThread 0 fun t => { t with
  occ := true
  uid := 1
  wait := .det (some 0x7000) none
  outs := [⟨.det .add (.reg 0) 1, false, [⟨0, 0x4000, .global 0x4000, 4, List.replicate 4 true, 1⟩], [], [(0, 0)], []⟩] }

theorem State.spillWaiting_thread (w : SlotIx) :
    State.spillWaiting.thread w = if 0 = w then State.spillWaiting.thread 0 else Thread.reset := by
  by_cases h : 0 = w
  · subst h; simp
  · rw [if_neg h, State.spillWaiting, State.modThread_thread_ne _ _ _ _ h, State.oneCluster_thread]

theorem State.spillWaiting_barWait (w : SlotIx) (id : Fin 64) (p : BitVec 16) (d : GReg) :
    (State.spillWaiting.thread w).wait ≠ .retry (.barWait id p d) := by
  rw [State.spillWaiting_thread]
  split
  · simp [State.spillWaiting]
  · simp [Thread.reset]

theorem State.spillWaiting_outs : (State.spillWaiting.thread 0).outs ≠ [] := by simp [State.spillWaiting]

theorem State.spillWaiting_occ : (State.spillWaiting.thread 0).occ = true := by simp [State.spillWaiting]

/-- No team has an open operation, so no window is over. -/
theorem State.spillWaiting_inst (q : ClusterIx) : ∀ i ∈ (State.spillWaiting.cluster q).inst,
    State.spillWaiting.windowOver i = false ∧ State.spillWaiting.instMet q i = false := by
  rw [show (State.spillWaiting.cluster q).inst = [] from State.oneCluster_inst q]
  exact fun _ h => nomatch h

/-- A pre-emption withdraws the wait, and the quiet core is saved in the same step. -/
theorem State.spillWaiting_preempt : Leaves (.preempt 0) State.spillWaiting (fun y => y.saved.length == 1) = true := by
  decide +kernel

/-- So does a drain, which then clears the cluster. -/
theorem State.spillWaiting_drain : Leaves (.clusterDrain 0) State.spillWaiting (fun y => !(y.cluster 0).draining) = true := by
  decide +kernel

/-! ### A memory that lists an address twice -/

/-- The byte 0 at an address, listed in front of another entry of the same address: no canonical form (R136, log 4), so that
it reads 0, and after a write of 0, which takes the first entry away, 5. -/
def Memory.twice (a : Nat) : Memory := [(a, 0), (a, 5)]

/-- Landing zone 0 of partition 0, of size 0, whose word BYTES lies in such a memory. -/
def State.zoneTwice : State := { State.reset.modPart 0 fun p => { p with lztab := 0x1000 } with mem := Memory.twice 0x1018 }

theorem State.zoneTwice_landing :
    Leaves (.landingZoneWrite 0 0 0 0 []) State.zoneTwice (fun y => y.mem.word 0x1018 8 == 5) = true := by decide +kernel

/-- A launch of one thread with an image of one byte 0 for the local memory, whose image block is at 0x2000. -/
def imageLaunch : HeldLaunch where
  cmd := ([2 ^ 32 + 1, 0x1080, 0x20001, 2 ^ 32 + 7, 0, 0, 0, 0, 0, 0, 0, 0, 0, 0x2000, 0, 0] : List Nat).flatMap (natBytes 8)
  budgets := [⟨0x1080, 0xFFFFFFFF, 0xFFFFFFFF⟩, ⟨0x1000, 0xFFFFFFFF, 0xFFFFFFFF⟩]
  prio := 0
  fdom := 0

/-- That launch held for partition 0, whose cluster has such a local memory. -/
def State.launchTwice : State :=
  ({ State.oneCluster with mem := [(0x2008, 1)] }.modCluster 0 fun c => { c with mem := Memory.twice 0 }).modPair 0 0 fun x =>
    { x with held := some imageLaunch }

theorem State.launchTwice_placement :
    Leaves (.launchPlacement 0 0) State.launchTwice (fun y => (y.cluster 0).mem.get 0 == 5) = true := by decide +kernel

/-- An update of one queue pair leaves every other. -/
theorem State.modPair_pair_ne (s : State) (f e : FuncIx) (q r : Fin 16) (g : QueuePair → QueuePair) (h : (e, r) ≠ (f, q)) :
    ((s.modPair f q g).page e).pair r = (s.page e).pair r := by
  by_cases he : f = e
  · subst he
    have hr : q ≠ r := fun hr => h (by rw [hr])
    rw [State.modPair, State.modPage_page_same]
    exact (vector_get_set _ q r _).trans (if_neg hr)
  · rw [State.modPair, State.modPage_page_ne _ _ _ _ he]

/-- No other queue holds a launch. -/
theorem State.launchTwice_held (e : FuncIx) (r : Fin 16) (h : (e, r) ≠ (0, 0)) : ((State.launchTwice.page e).pair r).held = none := by
  rw [State.launchTwice, State.modPair_pair_ne _ _ _ _ _ _ h, State.modCluster_page]
  exact congrArg QueuePair.held ((congrArg (Page.pair · r) (State.reset_page e)).trans (Page.reset_pair r))

end Sys2Proof.Machine

namespace Sys2Proof

open Sys2Proof.Machine

/-- Refutes O58: the clause that a busy core only begins to stop. A thread whose one outstanding access is a det update that
waits for the host has that access withdrawn with its wait (R154, R192), so that PREEMPT finds the core quiet and saves it. -/
theorem not_coreContexts : ¬ Obligations.CoreContexts := by
  unfold Obligations.CoreContexts
  rintro ⟨preempts, -⟩
  obtain ⟨y, hy, -, saved, -⟩ := (preempts State.spillWaiting 0 0).2 (by decide +kernel) (fun _ h => nomatch h) |>.1
    ⟨.inl ⟨0, State.spillWaiting_occ, State.spillWaiting_outs⟩, fun n => State.spillWaiting_barWait _⟩
    State.spillWaiting_inst
  have one := of_leaves State.spillWaiting_preempt hy
  rw [saved] at one
  exact absurd one (by decide)

/-- Refutes O59: the clause that a cluster whose core has an access outstanding goes on draining. The access of the thread is a
det update that waits for the host; the drain's pre-emption withdraws it (R154, R192), and the cluster is cleared at once. -/
theorem not_partitions : ¬ Obligations.Partitions := by
  unfold Obligations.Partitions
  rintro ⟨-, drains, -⟩
  obtain ⟨y, hy, draining, -⟩ := ((drains State.spillWaiting 0 0 0).2.2.1 (by decide +kernel) (by decide +kernel)).2.1 0
    (by decide) 0 (by decide) State.spillWaiting_occ State.spillWaiting_outs State.spillWaiting_inst (fun _ h => nomatch h)
  have cleared := of_leaves State.spillWaiting_drain hy
  rw [draining] at cleared
  exact absurd cleared (by decide)

/-- Refutes O56: the clause that the bytes of a launch's image stand in the local memory afterwards. Nothing in it asks for the
canonical form of that memory (State.MemoryOk): where address 0 is listed twice, the byte 0 of an image does not. -/
theorem not_launches : ¬ Obligations.Launches := by
  unfold Obligations.Launches
  rintro ⟨-, -, places⟩
  have rest := (places State.launchTwice 0 0 imageLaunch 0).2 (by decide +kernel) State.launchTwice_held (by decide)
    (by decide +kernel) (by decide +kernel) (by decide +kernel) (by decide +kernel) (by decide +kernel)
  have ordinary := (rest.2.2 (by decide +kernel) (by decide +kernel)).2.1 (by decide +kernel)
  obtain ⟨ws, -, -, -, -, -, lands⟩ := ordinary.2 (by decide +kernel) 0 (by decide +kernel) (by decide +kernel)
    fun l _ below => absurd below (Nat.not_lt_zero _)
  obtain ⟨y, hy, -, -, -, -, -, image, -⟩ := lands (by decide +kernel) (by decide +kernel) (by decide +kernel)
  have zero : (y.cluster 0).mem.get 0 = 0 := (image 0 0 (by decide +kernel)).1
  have hidden := of_leaves State.launchTwice_placement hy
  rw [zero] at hidden
  exact absurd hidden (by decide)

/-- Refutes O60: the clause that a landing write advances the word BYTES of its zone. Nothing in it asks for the canonical form
of the memory (State.MemoryOk): where an address of that word is listed twice, a write of 0 leaves the hidden byte. -/
theorem not_surroundings : ¬ Obligations.Surroundings := by
  unfold Obligations.Surroundings
  rintro ⟨-, -, -, lands, -⟩
  obtain ⟨y, hy, -, -, bytes, -⟩ := (lands State.zoneTwice State.zoneTwice 0 0 0 0 []).2.1 (by decide +kernel) (by decide +kernel)
    (by decide +kernel) rfl
  have zero : y.mem.word 0x1018 8 = 0 := bytes.trans (by decide +kernel)
  have hidden := of_leaves State.zoneTwice_landing hy
  rw [zero] at hidden
  exact absurd hidden (by decide)

end Sys2Proof
end

section
/-! PROOFS. A core's issue turn: the slots of a core, which of them tries, what a fetch from the instruction cache runs, and
what follows an attempt. -/

namespace Sys2Proof.Machine

/-! ### Slots and cores -/

@[simp] theorem SlotIx.core_slotOf (c : CoreIx) (n : Fin 16) : SlotIx.core (slotOf c n) = c :=
  Fin.ext (by simp only [SlotIx.core, slotOf]; omega)

@[simp] theorem SlotIx.num_slotOf (c : CoreIx) (n : Fin 16) : SlotIx.num (slotOf c n) = n :=
  Fin.ext (by simp only [SlotIx.num, slotOf]; omega)

@[simp] theorem slotOf_core_num (w : SlotIx) : slotOf (SlotIx.core w) (SlotIx.num w) = w :=
  Fin.ext (by simp only [SlotIx.core, SlotIx.num, slotOf]; omega)

theorem mem_slotsOf {c : CoreIx} {w : SlotIx} : w ∈ slotsOf c ↔ SlotIx.core w = c := by
  constructor
  · intro h
    obtain ⟨n, -, rfl⟩ := List.mem_map.1 h
    exact SlotIx.core_slotOf c n
  · rintro rfl
    exact List.mem_map.2 ⟨SlotIx.num w, List.mem_finRange _, slotOf_core_num w⟩

/-- Every slot of a core has its turn in the rotation (R25). -/
theorem mem_rotation (w : SlotIx) (last : Fin 16) : w ∈ rotation (SlotIx.core w) last := by
  refine List.mem_map.2 ⟨((SlotIx.num w).val + 15 - last.val) % 16, List.mem_range.2 (Nat.mod_lt _ (by decide)), ?_⟩
  refine Eq.trans ?_ (slotOf_core_num w)
  congr 1
  exact Fin.ext (by have := (SlotIx.num w).isLt; have := last.isLt; simp only; omega)

/-! ### What a fold of updates leaves -/

/-- What every step of a fold keeps, the fold keeps. -/
theorem foldl_keeps {α β : Type} {f : State → α → State} (g : State → β) (h : ∀ s x, g (f s x) = g s) (xs : List α) (s : State) :
    g (xs.foldl f s) = g s := by
  induction xs generalizing s with
  | nil => rfl
  | cons x xs ih => rw [List.foldl_cons, ih, h]

/-! ### The state in which a core issues -/

@[simp] theorem State.issuing_thread (s : State) (c : CoreIx) (w : SlotIx) : (s.issuing c).thread w = s.thread w := rfl
@[simp] theorem State.issuing_cluster (s : State) (c : CoreIx) (cl : ClusterIx) : (s.issuing c).cluster cl = s.cluster cl := rfl
@[simp] theorem State.issuing_ue (s : State) (c : CoreIx) : (s.issuing c).ue = s.ue := rfl

theorem State.issuing_core (s : State) (c d : CoreIx) :
    (s.issuing c).core d = if c = d then { s.core d with turned := true } else s.core d :=
  State.modCore_core s c d fun k => { k with turned := true }

@[simp] theorem State.issuing_stopping (s : State) (c d : CoreIx) : ((s.issuing c).core d).stopping = (s.core d).stopping := by
  rw [State.issuing_core]; split <;> rfl

@[simp] theorem State.issuing_cycle (s : State) (c d : CoreIx) : ((s.issuing c).core d).cycle = (s.core d).cycle := by
  rw [State.issuing_core]; split <;> rfl

@[simp] theorem State.issuing_icache (s : State) (c d : CoreIx) : ((s.issuing c).core d).icache = (s.core d).icache := by
  rw [State.issuing_core]; split <;> rfl

@[simp] theorem State.mayIssue_issuing (s : State) (c : CoreIx) (w : SlotIx) : (s.issuing c).mayIssue w = s.mayIssue w := by
  simp [State.mayIssue]

@[simp] theorem State.mayTry_issuing (s : State) (c : CoreIx) (w : SlotIx) : (s.issuing c).mayTry w = s.mayTry w := by
  simp [State.mayTry]

/-! ### Which slot tries -/

/-- Slots that may not try are passed over. -/
theorem State.coreTurn_skip (s : State) (pre ws : List SlotIx) (h : ∀ y ∈ pre, s.mayTry y = false) :
    s.coreTurn (pre ++ ws) = s.coreTurn ws := by
  induction pre with
  | nil => rfl
  | cons y pre ih =>
    rw [List.cons_append, State.coreTurn, h y List.mem_cons_self, Bool.not_false, if_pos rfl]
    exact ih fun z hz => h z (List.mem_cons_of_mem _ hz)

/-- The turn of a core is that of the first slot in rotation that may try; the later ones follow where it has not issued. -/
theorem State.coreTurn_first (s : State) (w : SlotIx) (ws : List SlotIx) (hw : w ∈ ws)
    (first : ∀ y ∈ ws.takeWhile (· != w), s.mayTry y = false) (may : s.mayTry w = true) :
    s.coreTurn ws = match s.turn w with
      | .next y => if y.unissued w then y.coreTurn ((ws.dropWhile (· != w)).drop 1) else .next y
      | o => o := by
  obtain ⟨rest, hrest⟩ : ∃ rest, ws.dropWhile (· != w) = w :: rest := by
    have some_ : ∃ x ∈ ws, ¬(x != w) = true := ⟨w, hw, by simp⟩
    cases hd : ws.dropWhile (· != w) with
    | nil => exact absurd (List.dropWhile_eq_nil_iff.1 hd w hw) (by simp)
    | cons x xs =>
      have hx := List.head?_dropWhile_not (· != w) ws
      rw [hd] at hx
      exact ⟨xs, by simpa using hx⟩
  conv_lhs => rw [← List.takeWhile_append_dropWhile (p := (· != w)) (l := ws)]
  rw [State.coreTurn_skip s _ _ first, hrest, State.coreTurn, may]
  cases s.turn w <;> simp only [Bool.not_true, Bool.false_eq_true, if_false, List.drop_succ_cons, List.drop_zero]

/-- A slot with nothing to deliver, whose task may begin, tries its instruction (R24, R358). -/
theorem State.turn_attempt {s : State} {w : SlotIx} (may : s.mayTry w = true) (begun : s.mayBegin w = true)
    (pend : (s.thread w).pend = []) (notes : (s.thread w).notes = []) :
    s.turn w = afterTry w (s.thread w) (s.fetchAndRun w) := by
  simp [State.turn, may, State.asyncReady, pend, State.noteReady, notes, State.attempt, begun]

/-! ### A fetch that the instruction cache serves -/

theorem State.fetchLine_cached {s : State} {c : CoreIx} {va : W64} {bytes : List Byte}
    (line : (s.core c).icache.find? (fun l => l.va == va) = some ⟨va, bytes, none⟩) (sound : UePlace.icache c va ∉ s.ue) :
    s.fetchLine c va = (s, .line bytes) := by
  simp [State.fetchLine, line, sound]

section
variable {s : State} {w : SlotIx} {bytes : List Byte}
  (line : (s.core (SlotIx.core w)).icache.find? (fun l => l.va == lineBase (s.thread w).ip) =
    some ⟨lineBase (s.thread w).ip, bytes, none⟩)
  (sound : UePlace.icache (SlotIx.core w) (lineBase (s.thread w).ip) ∉ s.ue)
include line sound

theorem State.enter_cached : { s with cur := w }.enter (SlotIx.core w) (s.thread w).ip = ({ s with cur := w },
    let ps := lineParcels bytes
    if !lineOk ps then .fault 0x02 ((ps.getD 0 0).setWidth 64)
    else if headIx (s.thread w).ip == 0 || headIx (s.thread w).ip > lineNh ps then .fault 0x03 (BitVec.ofNat 64 (lineNh ps))
    else .ok ps) := by
  have fetched : { s with cur := w }.fetchLine (SlotIx.core w) (lineBase (s.thread w).ip) = ({ s with cur := w }, .line bytes) :=
    State.fetchLine_cached line sound
  simp only [State.enter, fetched]
  split
  · rfl
  · split <;> rfl

/-- A line that breaks its form is ILLEGAL_LINE (R40). -/
theorem State.fetchAndRun_badLine (bad : lineOk (lineParcels bytes) = false) : s.fetchAndRun w =
    .next ({ s with cur := w }.takeTrap w false 0x02 (s.thread w).ip (s.thread w).ip (((lineParcels bytes).getD 0 0).setWidth 64)) := by
  simp [State.fetchAndRun, State.me, State.enter_cached line sound, bad, show { s with cur := w }.thread w = s.thread w from rfl]

/-- An IP that names no head of its line is BAD_TARGET (R39, R40). -/
theorem State.fetchAndRun_badTarget (good : lineOk (lineParcels bytes) = true)
    (bad : headIx (s.thread w).ip = 0 ∨ lineNh (lineParcels bytes) < headIx (s.thread w).ip) : s.fetchAndRun w =
    .next ({ s with cur := w }.takeTrap w false 0x03 (s.thread w).ip (s.thread w).ip
      (BitVec.ofNat 64 (lineNh (lineParcels bytes)))) := by
  simp [State.fetchAndRun, State.me, State.enter_cached line sound, good, bad, show { s with cur := w }.thread w = s.thread w from rfl]

theorem State.fetchAndRun_line (good : lineOk (lineParcels bytes) = true) (low : 1 ≤ headIx (s.thread w).ip)
    (high : headIx (s.thread w).ip ≤ lineNh (lineParcels bytes)) :
    (∀ i, decodeAt (lineParcels bytes) (s.thread w).ip = .ok i → s.fetchAndRun w = exec i { s with cur := w }) ∧
    ∀ aux, decodeAt (lineParcels bytes) (s.thread w).ip = .error aux →
      s.fetchAndRun w = .next ({ s with cur := w }.takeTrap w false 0x01 (s.thread w).ip 0 aux) := by
  have inside : ¬(headIx (s.thread w).ip = 0 ∨ lineNh (lineParcels bytes) < headIx (s.thread w).ip) := by omega
  have entered := State.enter_cached line sound
  constructor <;> intro x decoded <;>
    simp [State.fetchAndRun, State.me, entered, good, inside, decoded, show { s with cur := w }.thread w = s.thread w from rfl]

end

/-- A head that decodes is the instruction at its IP. -/
theorem decodeAt_ok {ps : List Parcel} {ip : W64} {i : Instr}
    (h : decode (lineHead ps (headIx ip)) (lineTail ps (headIx ip)) = .ok i) : decodeAt ps ip = .ok i := by
  simp [decodeAt, h]

section
variable {ps : List Parcel} {ip : W64} {e : DecodeErr} (illegal : decode (lineHead ps (headIx ip)) (lineTail ps (headIx ip)) = .error e)
include illegal

/-- TRAPAUX of a head that does not decode has its parcels (R52). -/
theorem decodeAt_illegal (other : headOp (lineHead ps (headIx ip)) ≠ 0x01) :
    decodeAt ps ip = .error (headAux (lineHead ps (headIx ip)) (lineTail ps (headIx ip))) := by
  simp only [decodeAt, illegal, beq_iff_eq, other, if_false]

/-- That of an rlx head has the head after it (R52). -/
theorem decodeAt_rlx (rlx : headOp (lineHead ps (headIx ip)) = 0x01) (inside : headIx ip < lineNh ps) :
    decodeAt ps ip = .error ((lineHead ps (headIx ip + 1) ++ lineHead ps (headIx ip)).setWidth 64) := by
  simp [decodeAt, illegal, rlx, rlxAux, Nat.not_lt.2 inside]

/-- An rlx head that is the last of its line stands alone (R52). -/
theorem decodeAt_rlx_last (rlx : headOp (lineHead ps (headIx ip)) = 0x01) (last : headIx ip = lineNh ps) :
    decodeAt ps ip = .error ((lineHead ps (headIx ip)).setWidth 64) := by
  have alone : headIx ip + 1 > lineNh ps := by omega
  simp [decodeAt, illegal, rlx, rlxAux, alone]

end

/-! ### What follows an attempt -/

/-- A thread waits no longer for a slot of its core that has issued (R107). -/
def Thread.unyield (n : Fin 16) (t : Thread) : Thread := { t with yielded := t.yielded &&& ~~~BitVec.ofNat 16 (2 ^ n.val) }

theorem slotBit_getLsbD (n i : Nat) : (BitVec.ofNat 16 (2 ^ n)).getLsbD i = decide (i < 16 ∧ n = i) := by
  rw [BitVec.getLsbD_ofNat, Nat.testBit_two_pow]
  simp

theorem Thread.unyield_getLsbD (n : Fin 16) (t : Thread) : (t.unyield n).yielded.getLsbD n.val = false := by
  simp only [Thread.unyield, BitVec.getLsbD_and, BitVec.getLsbD_not, slotBit_getLsbD]
  simp

/-- It leaves a thread that does not wait for the slot. -/
theorem Thread.unyield_of_not {n : Fin 16} {t : Thread} (h : t.yielded.getLsbD n.val = false) : t.unyield n = t := by
  have same : t.yielded &&& ~~~BitVec.ofNat 16 (2 ^ n.val) = t.yielded := by
    apply BitVec.eq_of_getLsbD_eq
    intro i hi
    simp only [BitVec.getLsbD_and, BitVec.getLsbD_not, slotBit_getLsbD, hi]
    by_cases hn : n.val = i
    · rw [← hn, h]; rfl
    · simp [hn]
  rw [Thread.unyield, same]

/-- An update that leaves its thread leaves the state. -/
theorem State.modThread_of_eq {s : State} {w : SlotIx} {f : Thread → Thread} (h : f (s.thread w) = s.thread w) : s.modThread w f = s := by
  rw [State.modThread, h, State.setThread, State.thread]
  congr 1
  exact Vector.set_getElem_self w.isLt

/-- One update of the thread of each slot of a list. -/
theorem State.foldl_modThread_thread {f : Thread → Thread} (idem : ∀ t, f (f t) = f t) (ws : List SlotIx) (s : State) (v : SlotIx) :
    (ws.foldl (fun s x => s.modThread x f) s).thread v = if v ∈ ws then f (s.thread v) else s.thread v := by
  induction ws generalizing s with
  | nil => rfl
  | cons w ws ih =>
    rw [List.foldl_cons, ih, State.modThread_thread]
    by_cases hw : w = v
    · subst hw; simp [idem]
    · simp [hw, Ne.symm hw]

theorem State.tried_eq (s : State) (w : SlotIx) :
    s.tried w = (slotsOf (SlotIx.core w)).foldl (fun s x => s.modThread x (Thread.unyield (SlotIx.num w))) s := by
  unfold State.tried
  congr 1
  funext s x
  split
  · rfl
  · next h => exact (State.modThread_of_eq (Thread.unyield_of_not (Bool.eq_false_iff.2 h))).symm

/-- The threads of the slot's core wait for it no longer, the others stay. -/
theorem State.tried_thread (s : State) (w v : SlotIx) :
    (s.tried w).thread v = if SlotIx.core v = SlotIx.core w then (s.thread v).unyield (SlotIx.num w) else s.thread v := by
  have idem (t : Thread) : (t.unyield (SlotIx.num w)).unyield (SlotIx.num w) = t.unyield (SlotIx.num w) :=
    Thread.unyield_of_not (Thread.unyield_getLsbD _ t)
  simp only [State.tried_eq, State.foldl_modThread_thread idem, mem_slotsOf]

/-- Nothing but threads changes. -/
theorem State.tried_keeps {β : Type} (g : State → β) (h : ∀ (s : State) x f, g (s.modThread x f) = g s) (s : State) (w : SlotIx) :
    g (s.tried w) = g s := by
  rw [State.tried_eq]
  exact foldl_keeps g (fun s x => h s x _) _ s

@[simp] theorem State.tried_mem (s : State) (w : SlotIx) : (s.tried w).mem = s.mem := State.tried_keeps State.mem (fun _ _ _ => rfl) s w
@[simp] theorem State.tried_cores (s : State) (w : SlotIx) : (s.tried w).cores = s.cores :=
  State.tried_keeps State.cores (fun _ _ _ => rfl) s w
@[simp] theorem State.tried_clusters (s : State) (w : SlotIx) : (s.tried w).clusters = s.clusters :=
  State.tried_keeps State.clusters (fun _ _ _ => rfl) s w

/-! ### Counting an event -/

@[simp] theorem State.count_thread (s : State) (c : CoreIx) (code n : Nat) (w : SlotIx) : (s.count c code n).thread w = s.thread w := rfl
@[simp] theorem State.count_mem (s : State) (c : CoreIx) (code n : Nat) : (s.count c code n).mem = s.mem := rfl

@[simp] theorem State.count_cluster_mem (s : State) (c : CoreIx) (code n : Nat) (cl : ClusterIx) :
    ((s.count c code n).cluster cl).mem = (s.cluster cl).mem := by
  rw [State.count, State.modCluster_cluster]
  split <;> simp

@[simp] theorem State.modTeam_cluster_mem (s : State) (c cl : ClusterIx) (p : PartIx) (team : W32) (f : Team → Team) :
    ((s.modTeam c p team f).cluster cl).mem = (s.cluster cl).mem := by
  rw [State.modTeam, State.modCluster_cluster]
  split <;> rfl

@[simp] theorem State.begun_thread (s : State) (t : Thread) (w : SlotIx) : (s.begun t).thread w = s.thread w := rfl
@[simp] theorem State.begun_core (s : State) (t : Thread) (c : CoreIx) : (s.begun t).core c = s.core c := rfl
@[simp] theorem State.begun_mem (s : State) (t : Thread) : (s.begun t).mem = s.mem := rfl
@[simp] theorem State.begun_cluster_mem (s : State) (t : Thread) (cl : ClusterIx) : ((s.begun t).cluster cl).mem = (s.cluster cl).mem :=
  State.modTeam_cluster_mem ..

/-- An issue changes of the threads what the slot's attempt changes, and the last slot to issue. -/
@[simp] theorem State.issued_thread (s : State) (w v : SlotIx) : (s.issued w).thread v = (s.tried w).thread v := rfl

@[simp] theorem State.issued_mem (s : State) (w : SlotIx) : (s.issued w).mem = s.mem := by simp [State.issued]

@[simp] theorem State.issued_cluster_mem (s : State) (w : SlotIx) (cl : ClusterIx) : ((s.issued w).cluster cl).mem = (s.cluster cl).mem := by
  have tried : (s.tried w).cluster cl = s.cluster cl := congrArg (·[cl]) (State.tried_clusters s w)
  rw [State.issued, State.modCore_cluster, State.count_cluster_mem, tried]

@[simp] theorem State.issued_lastSlot (s : State) (w : SlotIx) : ((s.issued w).core (SlotIx.core w)).lastSlot = SlotIx.num w := by
  simp [State.issued, Core.stealAfresh]

/-- What an attempt has done for those that yielded to the slot: their yields alone may change, and none of its core waits for it. -/
theorem State.tried_thread_same (s : State) (w v : SlotIx) :
    (s.tried w).thread v = { s.thread v with yielded := ((s.tried w).thread v).yielded } := by
  rw [State.tried_thread]; split <;> rfl

theorem State.tried_freed (s : State) {w v : SlotIx} (h : SlotIx.core v = SlotIx.core w) :
    ((s.tried w).thread v).yielded.getLsbD (SlotIx.num w).val = false := by
  rw [State.tried_thread, if_pos h]; exact Thread.unyield_getLsbD _ _

/-! ### The step that gives a core its turn -/

/-- An agenda that names a core which has not had its turn gives it, in this cycle. -/
theorem step_core {s : State} {c : CoreIx} {rest : List Act} (on : s.off = false) (agenda : s.agenda = ⟨0, .core c⟩ :: rest)
    (phase : s.phase ≤ issueRank) (turned : (s.core c).turned = false) :
    step s = (({ s with agenda := rest } : State).issuing c).coreTurn (rotation c (s.core c).lastSlot) := by
  have now : s.later ⟨0, .core c⟩ = false := by
    simp [State.later, Turn.rank, Turn.issuer, turned, Nat.not_lt.2 phase]
  have taken : step s = s.take ⟨0, .core c⟩ rest := by simp [step, on, agenda]
  rw [taken, State.take]
  simp only [Bool.false_eq_true, if_false, now, Turn.rank, Option.any_some, Nat.lt_irrefl, decide_false, Bool.or_self, Bool.not_false,
    if_true]
  rfl

/-- In a core's turn the first slot of the rotation that may try does, with nothing to deliver. -/
theorem State.issuing_coreTurn {s : State} {w : SlotIx} {last : Fin 16}
    (first : ∀ y ∈ (rotation (SlotIx.core w) last).takeWhile (· != w), s.mayTry y = false)
    (may : s.mayTry w = true) (begun : s.mayBegin w = true) (pend : (s.thread w).pend = []) (notes : (s.thread w).notes = []) :
    (s.issuing (SlotIx.core w)).coreTurn (rotation (SlotIx.core w) last) =
      match afterTry w (s.thread w) ((s.issuing (SlotIx.core w)).fetchAndRun w) with
      | .next y => if y.unissued w then y.coreTurn (((rotation (SlotIx.core w) last).dropWhile (· != w)).drop 1) else .next y
      | o => o := by
  have tries : (s.issuing (SlotIx.core w)).turn w = afterTry w (s.thread w) ((s.issuing (SlotIx.core w)).fetchAndRun w) :=
    State.turn_attempt ((State.mayTry_issuing _ _ w).trans may) begun pend notes
  rw [State.coreTurn_first _ w _ (mem_rotation w _) (fun y hy => (State.mayTry_issuing _ _ y).trans (first y hy))
    ((State.mayTry_issuing _ _ w).trans may), tries]

/-- A thread that runs or waits to execute afresh, and that nothing keeps from issuing, may try. -/
theorem State.mayTry_of {s : State} {w : SlotIx} (occ : (s.thread w).occ = true) (going : (s.core (SlotIx.core w)).stopping = false)
    (frozen : (s.thread w).frozenBy = none) (flight : (s.thread w).flightTo = 0) (yielded : (s.thread w).yielded = 0)
    (wait : (s.thread w).wait = .run ∨ ∃ why, (s.thread w).wait = .retry why) : s.mayTry w = true := by
  have arrived (x : W64) : x.ult 0 = false := by simp [BitVec.ult]
  obtain wait | ⟨why, wait⟩ := wait <;>
    simp only [State.mayTry, State.mayIssue, occ, going, frozen, flight, yielded, wait, arrived] <;> rfl

end Sys2Proof.Machine

namespace Sys2Proof

open Sys2Proof.Machine

/-- Settles O4: the step is the attempt of the first slot of the rotation, whose fetch the instruction cache answers. -/
theorem stepRunsDecoded : Obligations.StepRunsDecoded := by
  unfold Obligations.StepRunsDecoded
  refine ⟨fun s w rest bytes => ?turn, fun y w t => ?after, fun s off => ?off⟩
  case turn =>
    intro c x t ps i ready first cached later ends on agenda ⟨occ, stopping, frozen, pend, notes, flight, yielded, wait, task⟩
      ⟨phase, turned, others⟩ ⟨line, sound⟩
    have may : s.mayTry w = true := State.mayTry_of occ stopping frozen flight yielded wait
    have begun : s.mayBegin w = true := by
      obtain none_ | ⟨k, some_, begun⟩ := task
      · simp [State.mayBegin, none_, t]
      · simp [State.mayBegin, some_, begun, t]
    let u : State := ({ s with agenda := rest } : State).issuing c
    have attempt {o : Out} (h : u.fetchAndRun w = o) : ends o := by
      subst h
      exact (step_core on agenda phase turned).trans
        (State.issuing_coreTurn (s := { s with agenda := rest }) others may begun pend notes)
    have cached : (u.core c).icache.find? (fun l => l.va == lineBase t.ip) = some ⟨lineBase t.ip, bytes, none⟩ :=
      (congrArg _ (State.issuing_icache _ c c)).trans line
    refine ⟨fun good low high => ⟨fun instr decoded => ?run, fun e illegal => ⟨fun other => ?illegal, fun rlx inside => ?rlx,
      fun rlx last => ?rlxLast⟩⟩, fun bad => ?badLine, fun good bad => ?badTarget⟩
    case run => exact attempt ((State.fetchAndRun_line (s := u) cached sound good low high).1 _ (decodeAt_ok decoded))
    case illegal => exact attempt ((State.fetchAndRun_line (s := u) cached sound good low high).2 _ (decodeAt_illegal illegal other))
    case rlx => exact attempt ((State.fetchAndRun_line (s := u) cached sound good low high).2 _ (decodeAt_rlx illegal rlx inside))
    case rlxLast => exact attempt ((State.fetchAndRun_line (s := u) cached sound good low high).2 _ (decodeAt_rlx_last illegal rlx last))
    case badLine => exact attempt (State.fetchAndRun_badLine (s := u) cached sound bad)
    case badTarget => exact attempt (State.fetchAndRun_badTarget (s := u) cached sound good bad)
  case after =>
    refine ⟨fun run => ?issued, fun why retry => ?waits⟩
    case issued =>
      have issued : y.unissued w = false := by simp [State.unissued, run]
      refine ⟨(y.issued w).begun t, by simp [afterTry, issued], ?_, fun v => ⟨State.tried_thread_same y w v, State.tried_freed y⟩,
        by simp, by simp, by simp⟩
      simp only [State.unissued, State.begun_thread, State.issued_thread, congrArg Thread.wait (State.tried_thread_same y w w), run]
    case waits =>
      have unissued : y.unissued w = true := by simp [State.unissued, retry]
      cases parked : (y.thread w).parked with
      | true =>
        refine ⟨y.tried w, by simp [afterTry, unissued, parked], ?_,
          fun v => ⟨State.tried_thread_same y w v, fun _ => State.tried_freed y⟩, nofun, by simp, by simp, by simp⟩
        simp only [State.unissued, congrArg Thread.wait (State.tried_thread_same y w w), retry]
      | false =>
        exact ⟨y, by simp [afterTry, unissued, parked], unissued, fun v => ⟨rfl, nofun⟩, fun _ => rfl, rfl, rfl, rfl⟩
  case off => simp [step, off]

end Sys2Proof
end


section
/-! PROOFS. The skimmer and the deques: which task a thread runs and what holds it, the arrival of a thread at its core, and a
continuation that resumes from a deque entry. -/

namespace Sys2Proof.Machine

/-! ### The task that a thread runs -/

theorem covering_eq (rs : List Region) : covering rs = liveRegions rs := rfl

/-- The task of a thread stands at one place of its team's list. -/
theorem State.runs_unique {s : State} {t : Thread} {tm tm' : Team} {b b' a a' : List Task} {k k' : Task} (h : s.runs t tm b k a)
    (h' : s.runs t tm' b' k' a') : tm = tm' ∧ b = b' ∧ k = k' ∧ a = a' := by
  obtain ⟨team, tasks, id, others⟩ := h
  obtain ⟨team', tasks', id', others'⟩ := h'
  obtain rfl : tm = tm' := Option.some.inj (team.symm.trans team')
  have split : ∀ (b b' : List Task), b ++ k :: a = b' ++ k' :: a' → (∀ x ∈ b, x.id ≠ t.task) → (∀ x ∈ b', x.id ≠ t.task) →
      b = b' ∧ k = k' ∧ a = a' := by
    intro b
    induction b with
    | nil =>
      intro b' e _ h'
      cases b' with
      | nil => simpa using e
      | cons x b' =>
        obtain ⟨rfl, -⟩ := List.cons.inj e
        exact absurd id (h' k List.mem_cons_self)
    | cons x b ih =>
      intro b' e h h'
      cases b' with
      | nil =>
        obtain ⟨rfl, -⟩ := List.cons.inj e
        exact absurd id' (h x List.mem_cons_self)
      | cons x' b' =>
        obtain ⟨rfl, tails⟩ := List.cons.inj e
        obtain ⟨rfl, rest⟩ := ih b' tails (fun y hy => h y (List.mem_cons_of_mem _ hy)) fun y hy => h' y (List.mem_cons_of_mem _ hy)
        exact ⟨rfl, rest⟩
  exact ⟨rfl, split b b' (tasks.symm.trans tasks') (fun x hx => others x (List.mem_append_left _ hx))
    fun x hx => others' x (List.mem_append_left _ hx)⟩

section
variable {tasks before after : List Task} {k : Task} {id : Nat} (split : tasks = before ++ k :: after) (own : k.id = id)
  (others : ∀ x ∈ before ++ after, x.id ≠ id)
include split own others

theorem tasks_find : (tasks.find? fun k => k.id == id) = some k := by
  have earlier : (before.find? fun k => k.id == id) = none :=
    List.find?_eq_none.2 fun x hx => by simpa using others x (List.mem_append_left _ hx)
  rw [split, List.find?_append, earlier]
  simp [own]

theorem tasks_before : (tasks.takeWhile fun k => k.id != id) = before := by
  rw [split, List.takeWhile_append_of_pos fun x hx => by simpa using others x (List.mem_append_left _ hx)]
  simp [own]

theorem tasks_update (f : Task → Task) : updateAll tasks (fun k => k.id == id) f = before ++ f k :: after := by
  have keeps (xs : List Task) (h : ∀ x ∈ xs, x.id ≠ id) : (xs.map fun x => if x.id == id then f x else x) = xs := by
    refine (List.map_congr_left fun x hx => ?_).trans (List.map_id xs)
    simp [h x hx]
  rw [updateAll, split, List.map_append, List.map_cons, keeps before fun x hx => others x (List.mem_append_left _ hx),
    keeps after fun x hx => others x (List.mem_append_right _ hx)]
  simp [own]

end

/-- Whether the task that a thread runs is held (R207): by an earlier one that conflicts with it. -/
theorem State.held_iff {s : State} {t : Thread} {tm : Team} {before after : List Task} {k : Task} (h : s.runs t tm before k after) :
    s.held t = true ↔ ∃ tm before k after, s.runs t tm before k after ∧
      ∃ e ∈ before, ∃ x ∈ e.regions, ∃ y ∈ k.regions, regionsConflict x y = true := by
  have known : s.held t = before.any fun e => recordsConflict e.regions k.regions := by
    obtain ⟨team, split, own, others⟩ := h
    simp [State.held, team, Team.holds, tasks_find split own others, tasks_before split own others]
  rw [known]
  constructor
  · intro held
    refine ⟨tm, before, k, after, h, ?_⟩
    simpa [recordsConflict] using held
  · rintro ⟨tm', before', k', after', h', held⟩
    obtain ⟨rfl, rfl, rfl, rfl⟩ := State.runs_unique h h'
    simpa [recordsConflict] using held

/-! ### What an arrival changes -/

/-- A state differs from another in what the thread of a slot waits for, and in the skimmer actions in progress. -/
structure State.OnlyWaits (s y : State) (w : SlotIx) : Prop where
  thread : ∃ x e p, y.thread w = { s.thread w with wait := x, edgeDone := e, parks := p }
  mem : y.mem = s.mem
  cores : y.cores = s.cores
  teams : ∀ cl, (y.cluster cl).teams = (s.cluster cl).teams

/-- A skimmer action that begins is in progress (R225). -/
theorem State.startSkim_skims (s : State) (c : CoreIx) (kind : SkimKind) (rs : List Region) (w : SlotIx) (after : SkimThen) :
    (s.startSkim c kind rs w after).skims c kind rs (s.thread w).uid after := by
  refine ⟨⟨(s.cluster (CoreIx.cluster c)).tokens, c, kind, rs, w, (s.thread w).uid, after⟩, ?_, rfl, rfl, rfl, rfl, rfl⟩
  simp [State.startSkim]

theorem State.skims_modThread {s : State} {c : CoreIx} {kind : SkimKind} {rs : List Region} {uid : Nat} {after : SkimThen}
    (h : s.skims c kind rs uid after) (w : SlotIx) (f : Thread → Thread) : (s.modThread w f).skims c kind rs uid after := h

@[simp] theorem State.startSkim_teams (s : State) (c : CoreIx) (kind : SkimKind) (rs : List Region) (w : SlotIx) (after : SkimThen)
    (cl : ClusterIx) : ((s.startSkim c kind rs w after).cluster cl).teams = (s.cluster cl).teams := by
  rw [State.startSkim, State.modCluster_cluster]
  split <;> rfl

/-- A thread waits in a skimmer action of its own. -/
theorem State.startSkim_onlyWaits (s : State) (c : CoreIx) (kind : SkimKind) (rs : List Region) (w : SlotIx) (after : SkimThen)
    (f : Thread → Thread) (hf : ∀ t, ∃ x e p, f t = { t with wait := x, edgeDone := e, parks := p }) :
    s.OnlyWaits ((s.startSkim c kind rs w after).modThread w f) w where
  thread := by rw [State.modThread_thread_same]; exact hf _
  mem := rfl
  cores := rfl
  teams cl := State.startSkim_teams s c kind rs w after cl

theorem State.modThread_onlyWaits (s : State) (w : SlotIx) (f : Thread → Thread)
    (hf : ∀ t, ∃ x e p, f t = { t with wait := x, edgeDone := e, parks := p }) : s.OnlyWaits (s.modThread w f) w where
  thread := by rw [State.modThread_thread_same]; exact hf _
  mem := rfl
  cores := rfl
  teams _ := rfl

theorem State.enterCore_onlyWaits (s : State) (w : SlotIx) : s.OnlyWaits (s.enterCore w) w := by
  rw [State.enterCore]
  split
  · exact State.modThread_onlyWaits s w _ fun t => ⟨.run, false, false, rfl⟩
  · exact State.startSkim_onlyWaits s _ _ _ w _ _ fun t => ⟨.skimmer, false, t.parks, rfl⟩

theorem State.arrive_onlyWaits (s : State) (w : SlotIx) : s.OnlyWaits (s.arrive w) w := by
  rw [State.arrive]
  split
  · exact State.modThread_onlyWaits s w _ fun t => ⟨.held, false, false, rfl⟩
  · exact State.enterCore_onlyWaits s w

section
variable {s y : State} {w : SlotIx} (h : s.OnlyWaits y w)
include h

theorem State.OnlyWaits.teamAt (cl : ClusterIx) (p : PartIx) (team : W32) : y.teamAt cl p team = s.teamAt cl p team := by
  rw [State.teamAt, h.teams, State.teamAt]

theorem State.OnlyWaits.teamOf : y.teamOf (y.thread w) = s.teamOf (s.thread w) := by
  obtain ⟨x, e, p, same⟩ := h.thread
  rw [State.teamOf, h.teamAt, same, State.teamOf]

theorem State.OnlyWaits.records : y.records (y.thread w) = s.records (s.thread w) := by
  obtain ⟨x, e, p, same⟩ := h.thread
  rw [State.records, State.taskRecords, State.taskOf, h.teamOf, same]
  rfl

theorem State.OnlyWaits.edgeRecords : y.edgeRecords (y.thread w) = s.edgeRecords (s.thread w) := by
  obtain ⟨x, e, p, same⟩ := h.thread
  rw [State.edgeRecords, h.records, State.teamRecords, h.teamOf, same]
  rfl

theorem State.OnlyWaits.runs {tm : Team} {before after : List Task} {k : Task} :
    y.runs (y.thread w) tm before k after ↔ s.runs (s.thread w) tm before k after := by
  obtain ⟨x, e, p, same⟩ := h.thread
  rw [State.runs, h.teamOf, same]
  rfl

theorem State.OnlyWaits.core (c : CoreIx) : y.core c = s.core c := by rw [State.core, h.cores, State.core]

end

/-- A thread that enters its core waits for the invalidation of the core's lines, or issues (R224). -/
theorem State.enterCore_enteredAt (s : State) (w : SlotIx) : (s.enterCore w).enteredAt w := by
  have records := (State.enterCore_onlyWaits s w).records
  rw [State.enteredAt]
  simp only [records, covering_eq]
  refine ⟨fun none_ => ?_, fun some_ => ?_⟩
  · simp [State.enterCore, none_]
  · have entering : s.enterCore w = (s.startSkim (SlotIx.core w) .invalidate (liveRegions (s.records (s.thread w))) w .go).modThread w
        fun t => { t with wait := .skimmer, edgeDone := false } := by
      simp [State.enterCore, some_]
    rw [entering, State.modThread_thread_same]
    exact ⟨rfl, State.skims_modThread (State.startSkim_skims ..) _ _⟩

/-- A thread whose task starts or resumes has arrived at its core (R207, R224). -/
theorem State.arrive_arrivedAt {s : State} {w : SlotIx} {tm : Team} {before after : List Task} {k : Task}
    (h : s.runs (s.thread w) tm before k after) : (s.arrive w).arrivedAt w := by
  have runs := State.arrive_onlyWaits s w |>.runs (tm := tm) (before := before) (k := k) (after := after) |>.2 h
  have held := (State.held_iff h).trans (exists₄_congr fun _ _ _ _ => and_congr_left' (State.arrive_onlyWaits s w).runs.symm)
  refine ⟨fun hold => ?_, fun free => ?_⟩
  · simp [State.arrive, held.2 hold]
  · rw [State.arrive, if_neg fun hold => free (held.1 hold)]
    exact State.enterCore_enteredAt s w

/-! ### Teams and slots -/

/-- What an update of the elements that a test selects makes of the first of them. -/
theorem updateAll_find {α : Type} (xs : List α) (p : α → Bool) (f : α → α) (keeps : ∀ x, p (f x) = p x) :
    (updateAll xs p f).find? p = (xs.find? p).map f := by
  induction xs with
  | nil => rfl
  | cons x xs ih =>
    rw [updateAll] at ih
    cases hx : p x <;> simp [updateAll, hx, keeps, ih]

theorem State.modTeam_teamAt_same (s : State) (cl : ClusterIx) (p : PartIx) (team : W32) (f : Team → Team)
    (keeps : ∀ tm, (f tm).part = tm.part ∧ (f tm).team = tm.team) :
    (s.modTeam cl p team f).teamAt cl p team = (s.teamAt cl p team).map f := by
  rw [State.teamAt, State.modTeam, State.modCluster_cluster_same]
  exact updateAll_find _ _ _ fun tm => by rw [(keeps tm).1, (keeps tm).2]

@[simp] theorem State.place_thread_same (s : State) (w : SlotIx) (t : Thread) :
    (s.place w t).thread w = { t with occ := true, uid := s.uids } :=
  State.setThread_thread_same s w _

@[simp] theorem State.place_cluster (s : State) (w : SlotIx) (t : Thread) (cl : ClusterIx) : (s.place w t).cluster cl = s.cluster cl := rfl
@[simp] theorem State.place_teamAt (s : State) (w : SlotIx) (t : Thread) (cl : ClusterIx) (p : PartIx) (team : W32) :
    (s.place w t).teamAt cl p team = s.teamAt cl p team := rfl
@[simp] theorem State.place_mem (s : State) (w : SlotIx) (t : Thread) : (s.place w t).mem = s.mem := rfl

theorem State.place_core (s : State) (w : SlotIx) (t : Thread) (c : CoreIx) :
    (s.place w t).core c = if SlotIx.core w = c then (s.core c).stealAfresh else s.core c :=
  State.modCore_core (s.setThread w { t with occ := true, uid := s.uids }) (SlotIx.core w) c Core.stealAfresh

/-- A free candidate slot of a core is one of its slots. -/
theorem State.core_of_candidates {s : State} {c : CoreIx} {w : SlotIx} {free : List SlotIx} (h : s.candidates c = w :: free) :
    SlotIx.core w = c :=
  mem_slotsOf.1 (List.mem_of_mem_filter (show w ∈ s.candidates c by rw [h]; exact List.mem_cons_self))

/-! ### A continuation that resumes (R209) -/

/-- The thread that a deque entry resumes as. -/
def DequeEntry.thread (e : DequeEntry) (tm : Team) : Thread :=
  { tm.thread e.home e.task with
    view := (tm.tasks.find? fun k => k.id == e.task).bind (Task.viewOf e.regions)
    ip := e.ip
    g := Vector.ofFn fun i => if h : 1 ≤ i.val ∧ i.val ≤ 7 then e.g[i.val]'(by omega) else 0
    framep := e.framep
    idset := e.idset
    tid := e.tid
    teamn := e.teamn
    mul := e.mul
    vstat := e.vstat
    rngkey := e.rngkey
    rngctr := e.rngctr
    meetwin := e.meetwin
    bartmo := e.bartmo }

theorem DequeEntry.thread_greg (e : DequeEntry) (tm : Team) (i : GReg) :
    (e.thread tm).greg i = if h : 1 ≤ i.val ∧ i.val ≤ 7 then e.g[i.val]'(by omega) else 0 := by
  by_cases zero : i.val = 0 <;> simp [Thread.greg, DequeEntry.thread, zero]

/-- The task of a continuation once it has resumed (R204, R209). -/
def DequeEntry.resumedTask (e : DequeEntry) (k : Task) : Task := { k with
  regions := if k.threads = 0 ∧ k.conts ≤ 1 then e.regions else k.regions
  threads := k.threads + 1
  conts := k.conts - 1 }

/-- A continuation has resumed in a slot: with what its entry holds, the launch values of its team and every other register 0; with
the records of its entry; and memory is as it was. -/
def DequeEntry.ResumesIn (e : DequeEntry) (tm : Team) (mem : Memory) (before after : List Task) (k : Task) (y : State) (w : SlotIx) :
    Prop :=
  let t := y.thread w
  t.ip = e.ip ∧ (∀ i : GReg, t.greg i = if h : 1 ≤ i.val ∧ i.val ≤ 7 then e.g[i.val]'(by omega) else 0) ∧
  t.framep = e.framep ∧ t.idset = e.idset ∧ t.tid = e.tid ∧ t.teamn = e.teamn ∧ t.mul = e.mul ∧ t.vstat = e.vstat ∧
  t.rngkey = e.rngkey ∧ t.rngctr = e.rngctr ∧ t.meetwin = e.meetwin ∧ t.bartmo = e.bartmo ∧ t.team = e.team ∧
  t.v = Vector.replicate 32 (Vector.replicate 32 0) ∧ t.k = Vector.replicate 8 0 ∧ t.qmap = 0 ∧ t.staged = [] ∧
  t.trapvec = tm.vector ∧ t.tfmt = 0x10 ∧ t.tkw = 1024 ∧ t.occ = true ∧ t.task = e.task ∧ y.mem = mem ∧ y.records t = e.regions ∧
  ∃ tm', y.runs t tm' before (e.resumedTask k) after

theorem DequeEntry.resumedTask_eq (e : DequeEntry) (k : Task) : Task.resume e.regions true k = e.resumedTask k := by
  simp [Task.resume, DequeEntry.resumedTask, Task.alone, boolNat]

section
variable {s : State} {w : SlotIx} {e : DequeEntry} {tm : Team} {before after : List Task} {k : Task}
  (team : s.teamAt e.home e.part e.team = some tm) (split : tm.tasks = before ++ k :: after) (own : k.id = e.task)
  (part : tm.part = e.part) (number : tm.team = e.team) (others : ∀ x ∈ before ++ after, x.id ≠ e.task)
include team

theorem State.resumeEntry_core (c : CoreIx) :
    (s.resumeEntry w e).core c = if SlotIx.core w = c then (s.core c).stealAfresh else s.core c := by
  rw [State.resumeEntry, team]
  exact State.place_core ..

theorem State.resumeEntry_mem : (s.resumeEntry w e).mem = s.mem := by
  rw [State.resumeEntry, team]
  rfl

theorem State.resumeEntry_thread : (s.resumeEntry w e).thread w = { e.thread tm with occ := true, uid := s.uids } := by
  rw [State.resumeEntry, team]
  exact State.place_thread_same ..

include split own part number others

theorem State.resumeEntry_runs : (s.resumeEntry w e).runs ((s.resumeEntry w e).thread w) (tm.modTask e.task (Task.resume e.regions true))
    before (e.resumedTask k) after := by
  have thread : ((s.resumeEntry w e).thread w).home = e.home ∧ ((s.resumeEntry w e).thread w).part = e.part ∧
      ((s.resumeEntry w e).thread w).team = e.team ∧ ((s.resumeEntry w e).thread w).task = e.task := by
    rw [State.resumeEntry_thread team]
    exact ⟨rfl, part, number, rfl⟩
  obtain ⟨home', part', team', task'⟩ := thread
  refine ⟨?_, ?_, own.trans task'.symm, fun x hx => by rw [task']; exact others x hx⟩
  · rw [State.teamOf, home', part', team', State.resumeEntry, team]
    simp only [State.place_teamAt]
    have updated := State.modTeam_teamAt_same s e.home e.part e.team (fun tm => tm.modTask e.task (Task.resume e.regions true))
      fun _ => ⟨rfl, rfl⟩
    rw [updated, team]
    rfl
  · rw [← DequeEntry.resumedTask_eq]
    exact tasks_update split own others _

/-- The resumed thread runs with the records of its entry (log 11). -/
theorem State.resumeEntry_records : (s.resumeEntry w e).records ((s.resumeEntry w e).thread w) = e.regions := by
  have runs := State.resumeEntry_runs (w := w) team split own part number others
  have view : ((s.resumeEntry w e).thread w).view = k.viewOf e.regions := by
    rw [State.resumeEntry_thread team]
    simp only [DequeEntry.thread, tasks_find split own others]
    rfl
  have task : (s.resumeEntry w e).taskRecords ((s.resumeEntry w e).thread w) = (e.resumedTask k).regions := by
    obtain ⟨team', split', own', others'⟩ := runs
    rw [State.taskRecords, State.taskOf, team']
    simp [tasks_find split' own' others']
  rw [State.records, view, task, Task.viewOf, DequeEntry.resumedTask, Task.alone]
  by_cases alone : k.threads = 0 ∧ k.conts ≤ 1 <;> simp [alone]

/-- What a resumed continuation finds, whatever its thread waits for first. -/
theorem DequeEntry.resumesIn_of {y : State} (h : (s.resumeEntry w e).OnlyWaits y w) : e.ResumesIn tm s.mem before after k y w := by
  have runs := h.runs.2 (State.resumeEntry_runs team split own part number others)
  have records := h.records.trans (State.resumeEntry_records team split own part number others)
  have mem := h.mem.trans (State.resumeEntry_mem team)
  obtain ⟨x, d, p, same⟩ := h.thread
  rw [State.resumeEntry_thread team] at same
  exact ⟨congrArg Thread.ip same, fun i => (congrArg (Thread.greg · i) same).trans (e.thread_greg tm i),
    congrArg Thread.framep same, congrArg Thread.idset same, congrArg Thread.tid same, congrArg Thread.teamn same,
    congrArg Thread.mul same, congrArg Thread.vstat same, congrArg Thread.rngkey same, congrArg Thread.rngctr same,
    congrArg Thread.meetwin same, congrArg Thread.bartmo same, (congrArg Thread.team same).trans number,
    congrArg Thread.v same, congrArg Thread.k same, congrArg Thread.qmap same, congrArg Thread.staged same, congrArg Thread.trapvec same,
    congrArg Thread.tfmt same, congrArg Thread.tkw same, congrArg Thread.occ same, congrArg Thread.task same, mem, records, _, runs⟩

end

/-! ### Pops and steals (R22, R209, R210) -/

/-- A core whose pop of the cycle has gone, or that has no free candidate slot, pops nothing. -/
theorem State.pop_none {s : State} {c : CoreIx} (h : (s.core c).deque = [] ∨ s.candidates c = [] ∨ (s.core c).popped = true) :
    s.pop c = s := by
  rw [State.pop]
  obtain empty | full | popped := h
  · simp [empty]
  · simp only [full]
    split <;> simp_all
  · split <;> simp [popped]

/-- The state in which an entry has left a deque of a core. -/
def State.taken (s : State) (v : CoreIx) (rest : List DequeEntry) (popped : Bool) : State :=
  ({ s with filled := true } : State).modCore v fun x => { x with deque := rest, popped := popped }

theorem State.pop_some {s : State} {c : CoreIx} {w : SlotIx} {e : DequeEntry} {rest : List DequeEntry} {free : List SlotIx}
    (cands : s.candidates c = w :: free) (deque : (s.core c).deque = rest ++ [e]) (popped : (s.core c).popped = false) :
    s.pop c = ((s.taken c rest true).resumeEntry w e).arrive w := by
  have taken : ({ s with filled := true } : State).modCore c (fun x => { x with deque := x.deque.dropLast, popped := true }) =
      s.taken c rest true := by
    have same : (({ s with filled := true } : State).core c).deque.dropLast = rest := by
      rw [show (({ s with filled := true } : State).core c).deque = rest ++ [e] from deque]; simp
    simp only [State.taken, State.modCore, same]
  simp only [State.pop, deque, List.getLast?_concat, cands, popped, Bool.false_eq_true, if_false, taken]

/-- The state in which a steal has taken the far end of a victim's deque (R22, R421). -/
def State.stolen (s : State) (c v : CoreIx) (rest : List DequeEntry) : State :=
  (((({ s with filled := true } : State).modCore v fun x => { x with deque := rest }).modCore c fun x =>
    { x with victim := none, stealFrom := 0, stealLate := false }).count c 8 1)

@[simp] theorem State.count_teams (s : State) (c : CoreIx) (code n : Nat) (cl : ClusterIx) :
    ((s.count c code n).cluster cl).teams = (s.cluster cl).teams := by
  rw [State.count, State.modCluster_cluster]
  split <;> simp

theorem State.count_core (s : State) (c d : CoreIx) (code n : Nat) :
    (s.count c code n).core d = if c = d then { s.core d with pmc := mapVector (s.core d).pmc (Pmc.bump code n) } else s.core d :=
  State.modCore_core s c d fun x => { x with pmc := mapVector x.pmc (Pmc.bump code n) }

theorem State.stolen_teamAt (s : State) (c v : CoreIx) (rest : List DequeEntry) (cl : ClusterIx) (p : PartIx) (team : W32) :
    (s.stolen c v rest).teamAt cl p team = s.teamAt cl p team := by
  rw [State.teamAt, State.stolen, State.count_teams, State.teamAt]
  rfl

theorem State.stolen_deque (s : State) {c v : CoreIx} (other : v ≠ c) (rest : List DequeEntry) : ((s.stolen c v rest).core v).deque = rest := by
  rw [State.stolen, State.count_core, if_neg other.symm, State.modCore_core_ne _ _ _ _ other.symm, State.modCore_core_same]

theorem State.stolen_victim (s : State) (c v : CoreIx) (rest : List DequeEntry) : ((s.stolen c v rest).core c).victim = none := by
  rw [State.stolen, State.count_core, if_pos rfl, State.modCore_core_same]

/-- A request that finds an entry and a slot: the entry resumes, after the leave of the victim's core where it wrote (R22, R223). -/
theorem execStealAnswer_some {s : State} {c v : CoreIx} {w : SlotIx} {e : DequeEntry} {rest : List DequeEntry} {free : List SlotIx}
    (victim : (s.core c).victim = some v) (still : s.pop v = s) (deque : (s.core v).deque = e :: rest)
    (cands : s.candidates c = w :: free) : execStealAnswer c s =
      let z := (s.stolen c v rest).resumeEntry w e
      .next (if (z.edgeRecords (z.thread w)).isEmpty then z.arrive w
        else (z.startSkim v .writeBack (z.edgeRecords (z.thread w)) w .arrive).modThread w fun t => { t with wait := .skimmer }) := by
  rw [execStealAnswer, victim]
  simp only [still, deque, cands]
  exact (apply_ite Host.Outcome.next _ _ _).symm

/-- An answer that moves nothing on (R22, log 82). -/
theorem execStealAnswer_empty {s : State} {c v : CoreIx} (victim : (s.core c).victim = some v) (still : s.pop v = s)
    (none_ : (s.core v).deque = [] ∨ s.candidates c = []) : execStealAnswer c s = .next (s.modCore c fun x =>
      { x with victim := none, stealFrom := if x.stealLate || !s.maySteal c then 0 else x.stealFrom + 1, stealLate := false }) := by
  rw [execStealAnswer, victim]
  simp only [still]
  obtain empty | full := none_
  · simp [empty]
  · simp only [full]
    split <;> simp_all

/-- An idle core asks the victim that its turn names (R22). -/
theorem execStealRequest_some {s : State} {c v : CoreIx} (victim : (s.core c).victim = none) (may : s.maySteal c = true)
    (next : (s.victims c)[(s.core c).stealFrom % (s.victims c).length]? = some v) :
    execStealRequest c s = .next (s.modCore c fun x =>
      { x with victim := (s.victims c)[(s.core c).stealFrom % (s.victims c).length]? }) := by
  rw [execStealRequest, victim, may]
  simp only [next]
  rfl

end Sys2Proof.Machine

namespace Sys2Proof

open Sys2Proof.Machine

/-- Settles O34: a pop and a steal both let the entry resume in the core's first free candidate slot, where it arrives, or first
waits for the leave of the victim's core. -/
theorem deques : Obligations.Deques := by
  unfold Obligations.Deques
  intro s c v w e rest free tm before after k resumed cands team split own part number others
  have here := State.core_of_candidates cands
  refine ⟨fun deque popped => ?pop, fun victim other deque still => ?steal, fun z victim still => ?empty,
    fun victim deque part_ waiting some_ => ?request⟩
  case pop =>
    let u := s.taken c rest true
    have team' : u.teamAt e.home e.part e.team = some tm := team
    have arrived := State.arrive_onlyWaits (u.resumeEntry w e) w
    refine ⟨(u.resumeEntry w e).arrive w, congrArg Host.Outcome.next (State.pop_some cands deque popped),
      DequeEntry.resumesIn_of team' split own part number others arrived,
      State.arrive_arrivedAt (State.resumeEntry_runs team' split own part number others), ?_⟩
    rw [arrived.core, State.resumeEntry_core team', if_pos here]
    exact congrArg Core.deque (State.modCore_core_same ..)
  case steal =>
    let u := s.stolen c v rest
    have team' : u.teamAt e.home e.part e.team = some tm := (State.stolen_teamAt ..).trans team
    have runs := State.resumeEntry_runs (w := w) team' split own part number others
    let rs := (u.resumeEntry w e).edgeRecords ((u.resumeEntry w e).thread w)
    have answer := execStealAnswer_some victim (State.pop_none (.inr still)) deque cands
    have leaves : ∃ y, execStealAnswer c s = .next y ∧ (u.resumeEntry w e).OnlyWaits y w ∧
        (rs = [] → y.arrivedAt w) ∧ (rs ≠ [] → (y.thread w).wait = .skimmer ∧ y.skims v .writeBack rs s.uids .arrive) := by
      by_cases none_ : rs = []
      · exact ⟨_, answer.trans (congrArg Host.Outcome.next (if_pos (List.isEmpty_iff.2 none_))), State.arrive_onlyWaits _ w,
          fun _ => State.arrive_arrivedAt runs, fun some_ => absurd none_ some_⟩
      · have skims := State.startSkim_skims (u.resumeEntry w e) v .writeBack rs w .arrive
        rw [show ((u.resumeEntry w e).thread w).uid = s.uids from congrArg Thread.uid (State.resumeEntry_thread team')] at skims
        exact ⟨_, answer.trans (congrArg Host.Outcome.next (if_neg fun none' => none_ (List.isEmpty_iff.1 none'))),
          State.startSkim_onlyWaits _ _ _ _ w _ _ fun t => ⟨.skimmer, t.edgeDone, t.parks, rfl⟩, fun none' => absurd none' none_,
          fun _ => ⟨congrArg Thread.wait (State.modThread_thread_same ..), State.skims_modThread skims _ _⟩⟩
    obtain ⟨y, next, waits, arrives⟩ := leaves
    refine ⟨y, next, DequeEntry.resumesIn_of team' split own part number others waits, ?deque, ?victim, ?leave⟩
    case deque => rw [waits.core, State.resumeEntry_core team', here, if_neg other.symm, State.stolen_deque s other]
    case victim =>
      rw [waits.core, State.resumeEntry_core team', here, if_pos rfl]
      exact State.stolen_victim s c v rest
    case leave =>
      rw [waits.edgeRecords]
      exact arrives
  case empty =>
    obtain none_ | ⟨full, own_ | idle⟩ := still
    · exact execStealAnswer_empty victim (State.pop_none (.inl none_)) (.inl none_)
    · exact execStealAnswer_empty victim (State.pop_none (.inr (.inl (own_ ▸ full)))) (.inr full)
    · exact execStealAnswer_empty victim (State.pop_none (.inr idle)) (.inr full)
  case request =>
    have free_ : (slotsOf c).any (fun w => (s.thread w).occ && (s.thread w).wait == .run &&
        !(s.core c).cycle.ult (s.thread w).flightTo) = false := by
      simp only [List.any_eq_false, Bool.and_eq_true, beq_iff_eq]
      exact fun q hq ⟨⟨occ, run⟩, _⟩ => waiting q hq occ run
    have may : s.maySteal c = true := by
      rw [State.maySteal, free_, deque, cands, Option.isSome_iff_ne_none.2 part_]
      rfl
    have inside : (s.core c).stealFrom % (s.victims c).length < (s.victims c).length :=
      Nat.mod_lt _ (List.length_pos_iff.2 some_)
    exact execStealRequest_some victim may (List.getElem?_eq_getElem inside)

end Sys2Proof
end

section
/-! PROOFS. What a barrier instruction asks for before it reaches the update port of a barrier (R24, R162, R341 to R344). -/

namespace Sys2Proof.Machine

/-! ### What comes before -/

theorem quiet_ok {s : State} (h : s.me.outs = []) : quiet s = .ok ((), s) := by simp [quiet, h]

theorem quiet_waits {s : State} (h : s.me.outs ≠ []) : quiet s = .error (.wait .access) := by simp [quiet, h]

theorem State.posted_eq_false {s : State} (h : ∀ j ∈ s.myCore.journal, j.w ≠ s.cur) : s.posted s.cur = false := by
  simpa [State.posted, State.myCore] using h

theorem synchronised_ok {s : State} (h : s.settledIn) : synchronised s = .ok ((), s) := by
  obtain ⟨outs, tile, journal, sends⟩ := h
  simp [synchronised, outs, tile, State.posted_eq_false journal, sends]

theorem synchronised_access {s : State} (h : s.me.outs ≠ []) : synchronised s = .error (.wait .access) := by
  simp [synchronised, h]

theorem synchronised_journal {s : State} (outs : s.me.outs = []) (tile : s.tileStores s.cur = false)
    (h : ∃ j ∈ s.myCore.journal, j.w = s.cur) : synchronised s = .error (.wait .journal) := by
  have posted : s.posted s.cur = true := by simpa [State.posted, State.myCore] using h
  simp [synchronised, outs, tile, posted]

theorem State.homeAlive_iff {s : State} {t : Thread} {tm : Team} (h : s.teamOf t = some tm) :
    s.homeAlive t = true ↔ (s.cluster t.home).part = some t.part ∧ tm.epoch = (s.cluster t.home).epoch := by
  simp [State.homeAlive, h]

theorem atHome_alive {s : State} (h : s.homeAlive s.me = true) (body : Op Unit) : atHome body s = body s := by
  simp [atHome, h]

/-- A thread with the TARGET_GONE of a home cluster that is gone, pending once at most (R344, log 76). -/
def State.told (s : State) (t : Thread) : Thread :=
  if t.pend.any fun a => a.code == 0x22 && a.journal.isNone && a.retry.isNone then t
  else { t with pend := insertAsync s.homeGone t.pend }

/-- Where the home cluster is gone an instruction raises that event and the thread goes on (R344). -/
theorem atHome_gone {s : State} (h : s.homeAlive s.me = false) (body : Op Unit) : atHome body s = .ok ((),
    (s.modMe s.told).modMe fun t => { t with ip := s.following }) := by
  have following : (s.modMe s.told).following = s.following :=
    State.following_modMe s s.told (by rw [State.told]; split <;> rfl)
  have told : (if s.me.pend.any fun a => a.code == 0x22 && a.journal.isNone && a.retry.isNone then s
      else s.modMe fun t => { t with pend := insertAsync s.homeGone t.pend }) = s.modMe s.told := by
    split
    · next same => exact (State.modThread_of_eq (by rw [State.told]; exact if_pos same)).symm
    · next none_ => exact State.modMe_congr (by rw [State.told, if_neg none_])
  simp only [atHome, h, Bool.false_eq_true, if_false, advance_eq, told, following]

/-- An event joins the pending ones in the order they arose, those of one cycle in ascending code (R358). -/
theorem insertAsync_split (a : Async) (l : List Async) : ∃ xs ys, l = xs ++ ys ∧ insertAsync a l = xs ++ [a] ++ ys ∧
    (∀ x ∈ xs, x.arose = a.arose → x.code.toNat ≤ a.code.toNat) ∧
    ∀ y ∈ ys.head?, y.arose = a.arose ∧ a.code.toNat < y.code.toNat := by
  induction l with
  | nil => exact ⟨[], [], rfl, rfl, nofun, nofun⟩
  | cons x l ih =>
    rw [insertAsync]
    split
    · next first =>
      simp only [Bool.and_eq_true, beq_iff_eq, BitVec.ult, decide_eq_true_eq] at first
      exact ⟨[], x :: l, rfl, rfl, nofun, fun y hy => by
        obtain rfl : x = y := by simpa using hy
        exact first⟩
    · next later =>
      obtain ⟨xs, ys, split, inserted, earlier, next⟩ := ih
      refine ⟨x :: xs, ys, by rw [split]; rfl, by rw [inserted]; rfl, fun y hy same => ?_, next⟩
      simp only [Bool.and_eq_true, beq_iff_eq, BitVec.ult, decide_eq_true_eq, not_and, Nat.not_lt] at later
      obtain rfl | hy := List.mem_cons.1 hy
      · exact later same
      · exact earlier y hy same

/-! ### A leave or an arrival that the skimmer serves first -/

theorem edgeFirst_ok {s : State} {edge : Bool} (h : edge = false ∨ s.me.edgeDone = true ∨ s.edgeRecords s.me = []) :
    edgeFirst edge s = .ok ((), s) := by
  rw [edgeFirst, op_bind_ok (op_get s), if_neg]
  · rfl
  · obtain h | h | h := h <;> simp [h]

theorem edgeFirst_stops {s : State} {edge : Bool} (h : ¬(edge = false ∨ s.me.edgeDone = true ∨ s.edgeRecords s.me = [])) :
    edgeFirst edge s = .error (.edge .writeBack (s.edgeRecords s.me)) := by
  simp only [not_or] at h
  rw [edgeFirst, op_bind_ok (op_get s), if_pos]
  · rfl
  · simp [h]

/-- A meaning that a skimmer action precedes: the thread waits for it and then executes afresh (R220, R341). -/
theorem State.run_edge {s : State} {body : Op Unit} {kind : SkimKind} {rs : List Region} (h : body s = .error (.edge kind rs)) :
    ∃ y, s.run body = .next y ∧ y.me.wait = .skimmer ∧ y.me.ip = s.me.ip ∧ y.skims (SlotIx.core s.cur) kind rs s.me.uid .again := by
  exact ⟨(s.startSkim (SlotIx.core s.cur) kind rs s.cur .again).modMe fun t => { t with wait := .skimmer }, by simp only [State.run, h],
    congrArg Thread.wait (State.modMe_me ..), by rw [State.modMe_me]; rfl, State.startSkim_skims s _ kind rs s.cur .again⟩

/-! ### The update port -/

theorem dropMark_eq (s : State) : dropMark s = .ok ((), s.modMe fun t => { t with mark := none }) := rfl

/-- An event of the current thread stands at the update port of a barrier of its home cluster, where it waits while the events of
the cycle are gathered. -/
def State.asks (s : State) (d : GReg) (id : Fin 64) (ev : BarEvent) (waits : Bool) : State :=
  (s.modMe fun t => { t with
    mark := none
    resume := s.following
    wait := if waits then .port (.reg d) else t.wait
    parkedAt := if waits then s.myCore.cycle else t.parkedAt }).modCluster s.me.home fun c =>
    { c with barrier := c.barrier.set id { c.barrier[id] with port := c.barrier[id].port ++ [ev] } }

@[simp] theorem State.modMe_barrier (s : State) (f : Thread → Thread) (cl : ClusterIx) (id : Fin 64) :
    (s.modMe f).barrier cl id = s.barrier cl id := rfl

theorem State.setBarrier_setBarrier (s : State) (cl : ClusterIx) (id : Fin 64) (b c : Barrier) :
    (s.setBarrier cl id b).setBarrier cl id c = s.setBarrier cl id c := by
  simp [State.setBarrier, State.modCluster_modCluster]

@[simp] theorem State.setBarrier_barrier (s : State) (cl : ClusterIx) (id : Fin 64) (b : Barrier) : (s.setBarrier cl id b).barrier cl id = b := by
  rw [State.barrier, State.setBarrier, State.modCluster_cluster_same]
  exact (vector_get_set _ id id b).trans (if_pos rfl)

theorem State.asks_eq (s : State) (d : GReg) (id : Fin 64) (ev : BarEvent) (waits : Bool) : s.asks d id ev waits =
    (s.modMe fun t => { t with
      mark := none
      resume := s.following
      wait := if waits then .port (.reg d) else t.wait
      parkedAt := if waits then s.myCore.cycle else t.parkedAt }).setBarrier s.me.home id
        { s.barrier s.me.home id with port := (s.barrier s.me.home id).port ++ [ev] } := rfl

/-- While the events of a cycle are gathered, an instruction's event joins them and its thread waits (R340). -/
theorem atPort_gathering {s : State} {d : GReg} {id : Fin 64} {ev : BarEvent} (h : (s.barrier s.me.home id).gathering = true) :
    atPort id (.reg d) ev (s.modMe fun t => { t with mark := none }) = .ok ((), s.asks d id ev true) := by
  have next : nextIp (s.modMe fun t => { t with mark := none }) = .ok (s.following, s.modMe fun t => { t with mark := none }) := by
    simp [nextIp, State.following]
  rw [atPort, op_bind_ok next, op_modify]
  simp only [State.modMe_modMe, State.modMe_me, State.modMe_barrier, h, if_true, State.barrierEvent, State.asks_eq, State.modMe_myCore]

/-- Otherwise it is a cycle of its own. -/
theorem atPort_alone {s : State} {d : GReg} {id : Fin 64} {ev : BarEvent} (h : (s.barrier s.me.home id).gathering = false) :
    atPort id (.reg d) ev (s.modMe fun t => { t with mark := none }) = .ok ((),
      (s.modMe fun t => { t with mark := none, resume := s.following }).barrierEvents s.me.home id ((s.barrier s.me.home id).port ++ [ev])) := by
  have next : nextIp (s.modMe fun t => { t with mark := none }) = .ok (s.following, s.modMe fun t => { t with mark := none }) := by
    simp [nextIp, State.following]
  rw [atPort, op_bind_ok next, op_modify]
  simp only [State.modMe_modMe, State.modMe_me, State.modMe_barrier, h, Bool.false_eq_true, if_false, State.barrierEvent]

/-! ### An evaluation reads no port -/

section
variable (b : Barrier) (p : List BarEvent)

theorem Barrier.configure_port (x : BarEvent) : { b with port := p }.configure x = { b.configure x with port := p } := by
  cases x <;> rfl

theorem Barrier.take_port (x : BarEvent) : { b with port := p }.take x = ({ (b.take x).1 with port := p }, (b.take x).2) := by
  simp only [Barrier.take]
  split
  · rfl
  · split <;> rfl

theorem Barrier.takeAll_port (xs : List BarEvent) (b : Barrier) :
    { b with port := p }.takeAll xs = ({ (b.takeAll xs).1 with port := p }, (b.takeAll xs).2) := by
  induction xs generalizing b with
  | nil => rfl
  | cons x xs ih => simp only [Barrier.takeAll, Barrier.take_port, ih]

theorem Barrier.configureAll_port (xs : List BarEvent) (b : Barrier) :
    xs.foldl Barrier.configure { b with port := p } = { xs.foldl Barrier.configure b with port := p } := by
  induction xs generalizing b with
  | nil => rfl
  | cons x xs ih => rw [List.foldl_cons, Barrier.configure_port, ih, List.foldl_cons]

/-- What stands at the port of a barrier is not read by its evaluation, which is given the events (R340). -/
theorem Barrier.evaluate_port (key : BarEvent → Nat) (evs : List BarEvent) :
    { b with port := p }.evaluate key evs = b.evaluate key evs := by
  simp only [Barrier.evaluate, Barrier.configureAll_port, Barrier.takeAll_port]

end

theorem State.setBarrier_globalSlot (s : State) (cl : ClusterIx) (id : Fin 64) (b : Barrier) :
    (s.setBarrier cl id b).globalSlot = s.globalSlot := by
  have parts (d : ClusterIx) : ((s.setBarrier cl id b).cluster d).part = (s.cluster d).part := by
    rw [State.setBarrier, State.modCluster_cluster]
    split <;> rfl
  funext w
  simp only [State.globalSlot, State.vcluster, State.clustersOf, State.partOf, parts]

/-- Events are evaluated as if none stood at the port. -/
theorem State.barrierEvents_setBarrier (s : State) (cl : ClusterIx) (id : Fin 64) (p evs : List BarEvent) :
    (s.setBarrier cl id { s.barrier cl id with port := p }).barrierEvents cl id evs = s.barrierEvents cl id evs := by
  have key : BarEvent.slot (s.setBarrier cl id { s.barrier cl id with port := p }) = BarEvent.slot s := by
    funext x
    cases x <;> simp only [BarEvent.slot, State.setBarrier_globalSlot]
  simp only [State.barrierEvents, State.setBarrier_barrier, key, Barrier.evaluate_port, State.setBarrier_setBarrier]

/-! ### What a trap leaves -/

@[simp] theorem State.busWrite_threads (s : State) (f : FuncIx) (a : Nat) (bs : List Byte) : (s.busWrite f a bs).threads = s.threads := by
  rw [State.busWrite]
  split <;> rfl

@[simp] theorem State.complete_threads (s : State) (f : FuncIx) (q : Fin 16) (r : Completion) : (s.complete f q r).threads = s.threads := by
  simp only [State.complete, State.putRecord]
  split
  · rfl
  · exact State.busWrite_threads ..

@[simp] theorem State.faultRecord_threads (s : State) (w : SlotIx) (r : Completion) : (s.faultRecord w r).threads = s.threads := by
  simp only [State.faultRecord]
  split
  · rfl
  · exact State.complete_threads ..

/-- A state differs from another, of its threads, only in that of a slot. -/
def State.OnlyAt (s y : State) (w : SlotIx) : Prop := ∀ v, w ≠ v → y.thread v = s.thread v

theorem State.onlyAt_modThread {s y : State} {w : SlotIx} (h : s.threads = y.threads) (f : Thread → Thread) : s.OnlyAt (y.modThread w f) w := by
  intro v other
  rw [State.modThread_thread_ne _ _ _ _ other, State.thread, ← h, State.thread]

/-- A thread stops in place of its handler. -/
theorem State.stopThread_spec (s : State) (w : SlotIx) (entry : BitVec 8) :
    s.OnlyAt (s.stopThread w entry) w ∧ ((s.stopThread w entry).thread w).settled = (s.stopThread w entry).thread w := by
  refine ⟨State.onlyAt_modThread (State.faultRecord_threads ..).symm _, ?_⟩
  rw [State.stopThread, State.modThread_thread_same]
  rfl

theorem State.OnlyAt.trans {s y z : State} {w : SlotIx} (h : s.OnlyAt y w) (h' : y.OnlyAt z w) : s.OnlyAt z w :=
  fun v other => (h' v other).trans (h v other)

/-- A trap leaves its thread in the handler, stopped, or waiting for the host (R356, R359, R382), and every other as it was. -/
theorem State.takeTrap_spec (s : State) (w : SlotIx) (async : Bool) (code : BitVec 8) (ip va aux : W64) (popped : (s.thread w).popped = []) :
    s.OnlyAt (s.takeTrap w async code ip va aux) w ∧
    ((s.takeTrap w async code ip va aux).thread w).settled = (s.takeTrap w async code ip va aux).thread w := by
  have kept (f : Thread → Thread) (entry : BitVec 8) : s.OnlyAt ((s.modThread w f).stopThread w entry) w ∧
      (((s.modThread w f).stopThread w entry).thread w).settled = ((s.modThread w f).stopThread w entry).thread w :=
    ⟨(State.onlyAt_modThread rfl f).trans (State.stopThread_spec _ w entry).1, (State.stopThread_spec _ w entry).2⟩
  simp only [State.takeTrap]
  split
  · exact kept _ 0
  split
  · exact kept _ 0
  have threads := (s.enter_keeps (SlotIx.core w) ((s.thread w).trapvec.setWidth 64)).2
  split <;> rename_i entered <;> rw [entered] at threads
  · refine ⟨State.onlyAt_modThread threads.symm _, ?_⟩
    rw [State.modThread_thread_same]
    have same : State.thread _ w = s.thread w := congrArg (·[w]) threads
    simp only [Thread.settled, Thread.trapRegs, same, popped]
  · exact kept _ _
  · split
    · exact kept _ _
    · refine ⟨State.onlyAt_modThread (State.faultRecord_threads ..).symm _, ?_⟩
      rw [State.hostWait, State.modThread_thread_same]
      rfl

@[simp] theorem State.setKey_threads (s : State) (key : Nat) (st : SendState) : (s.setKey key st).threads = s.threads := by
  rw [State.setKey]

/-! ### What an evaluation does to the thread of a slot -/

/-- The thread of a slot has nothing left of a wait that is over. -/
def State.SettledAt (s : State) (w : SlotIx) : Prop := (s.thread w).settled = s.thread w

/-- One update of another state of the device leaves the thread of a slot settled: it leaves the thread, or settles it. -/
theorem State.SettledAt.step {s y : State} {w x : SlotIx} (h : s.SettledAt w) (only : s.OnlyAt y x) (at_ : y.SettledAt x) : y.SettledAt w := by
  by_cases same : x = w
  · exact same ▸ at_
  · rw [State.SettledAt, only w same]
    exact h

theorem State.SettledAt.of_threads {s y : State} {w : SlotIx} (h : s.SettledAt w) (same : y.threads = s.threads) : y.SettledAt w := by
  rw [State.SettledAt, State.thread, same]
  exact h

theorem State.modThread_settledAt (s : State) {w : SlotIx} {f : Thread → Thread} (h : ∀ t, (f t).settled = f t) :
    (s.modThread w f).SettledAt w := by
  rw [State.SettledAt, State.modThread_thread_same]
  exact h _

theorem Thread.done_settled (t : Thread) : t.done.settled = t.done := by cases t; rfl

theorem State.deliver_onlyAt (s : State) (w : SlotIx) (d : Dst) (x : W64) : s.OnlyAt (s.deliver w d x) w := by
  cases d with
  | reg r => exact State.onlyAt_modThread rfl _
  | queue k => exact fun _ _ => rfl

theorem State.undo_onlyAt (s : State) (w : SlotIx) (d : Option Dst) : s.OnlyAt (s.undo w d) w := State.onlyAt_modThread rfl _

theorem State.undo_popped (s : State) (w : SlotIx) (d : Option Dst) : ((s.undo w d).thread w).popped = [] := by
  rw [State.undo, State.modThread_thread_same]

/-- The answer of a bar.exp, a bar.cfg or an arrival: a value is delivered and the thread goes on. -/
theorem State.deliver_done_spec (s : State) (w : SlotIx) (d : Dst) (x : W64) :
    s.OnlyAt ((s.deliver w d x).modThread w Thread.done) w ∧ ((s.deliver w d x).modThread w Thread.done).SettledAt w :=
  ⟨(State.deliver_onlyAt s w d x).trans (State.onlyAt_modThread rfl _), State.modThread_settledAt _ Thread.done_settled⟩

/-- An arrival settles its thread, however it ends. -/
theorem State.arrivalOutcome_spec (s : State) (id : Fin 64) (w : SlotIx) (d : Dst) (mul : Nat) (edge : Bool) (g : Option Contrib)
    (v : Verdict) : s.OnlyAt (s.arrivalOutcome id (.arrive w d mul edge g, v)) w ∧
      (s.arrivalOutcome id (.arrive w d mul edge g, v)).SettledAt w := by
  have refused (aux : W64) : s.OnlyAt ((s.undo w (some d)).takeTrap w false 0x20 (s.thread w).ip 0 aux) w ∧
      ((s.undo w (some d)).takeTrap w false 0x20 (s.thread w).ip 0 aux).SettledAt w :=
    have trap := State.takeTrap_spec (s.undo w (some d)) w false 0x20 (s.thread w).ip 0 aux (State.undo_popped ..)
    ⟨(State.undo_onlyAt s w (some d)).trans trap.1, trap.2⟩
  cases v with
  | counted phase =>
    cases g with
    | none => exact State.deliver_done_spec s w d _
    | some k => exact ⟨State.onlyAt_modThread rfl _, State.modThread_settledAt s fun _ => rfl⟩
  | late => cases g <;> exact refused _
  | crowded => cases g <;> exact refused _

theorem State.arrivalOutcome_settledAt {s : State} {w : SlotIx} (h : s.SettledAt w) (id : Fin 64) (r : BarEvent × Verdict) :
    (s.arrivalOutcome id r).SettledAt w := by
  obtain ⟨ev, v⟩ := r
  cases ev with
  | arrive x d mul edge g => exact h.step (State.arrivalOutcome_spec s id x d mul edge g v).1 (State.arrivalOutcome_spec s id x d mul edge g v).2
  | remote key mul edge =>
    obtain ⟨st, sent⟩ : ∃ st, s.arrivalOutcome id (.remote key mul edge, v) = s.setKey key st := ⟨_, rfl⟩
    rw [sent]
    exact h.of_threads (State.setKey_threads s key st)
  | _ => exact h

theorem State.changeOutcome_settledAt {s : State} {w : SlotIx} (h : s.SettledAt w) (phase : BitVec 16) (ev : BarEvent) :
    (s.changeOutcome phase ev).SettledAt w := by
  cases ev with
  | expect x d _ => exact h.step (State.deliver_done_spec s x d _).1 (State.deliver_done_spec s x d _).2
  | config x d _ _ => exact h.step (State.deliver_done_spec s x d _).1 (State.deliver_done_spec s x d _).2
  | _ => exact h

@[simp] theorem State.groupResult_threads (s : State) (cs : List Contrib) (op : GrpOp) (ty : GrpTy) :
    (s.groupResult cs op ty).1.threads = s.threads := by
  simp only [State.groupResult]
  split <;> rfl

theorem State.afterBarrier_spec (s : State) (w : SlotIx) (edged : Bool) :
    s.OnlyAt (s.afterBarrier w edged) w ∧ (s.afterBarrier w edged).SettledAt w := by
  simp only [State.afterBarrier]
  split
  · exact ⟨State.onlyAt_modThread rfl _, State.modThread_settledAt s Thread.done_settled⟩
  · exact ⟨State.onlyAt_modThread rfl _, State.modThread_settledAt _ fun _ => rfl⟩

/-- The release of a grpred touches no thread but that of its slot, which it settles, and none that waits for no phase (R346). -/
theorem State.releaseGroup_spec (cl : ClusterIx) (id : Fin 64) (phase : BitVec 16) (cs : List Contrib) (edged : Bool) (s : State) (w : SlotIx) :
    s.releaseGroup cl id phase cs edged w = s ∨
      (∃ d p op ty, (s.thread w).wait = .group d id p op ty) ∧
      s.OnlyAt (s.releaseGroup cl id phase cs edged w) w ∧ (s.releaseGroup cl id phase cs edged w).SettledAt w := by
  simp only [State.releaseGroup]
  split
  · next d i p op ty waits =>
    split
    · exact .inl rfl
    · next mine =>
      simp only [Bool.or_eq_true, bne_iff_ne, not_or, not_not] at mine
      obtain ⟨⟨rfl, -⟩, -⟩ := mine
      have result : s.OnlyAt (s.groupResult cs op ty).1 w := fun v _ => congrArg (·[v]) (State.groupResult_threads ..)
      exact .inr ⟨⟨d, p, op, ty, waits⟩, (result.trans (State.deliver_onlyAt _ w d _)).trans (State.afterBarrier_spec _ w edged).1,
        (State.afterBarrier_spec _ w edged).2⟩
  · exact .inl rfl

theorem Thread.mark_eta (t : Thread) : { t with mark := t.mark } = t := rfl

/-- A pending mark of the phase takes its result: nothing else of a thread changes, nor a thread without a mark (R346). -/
theorem State.resolveMark_thread (cl : ClusterIx) (id : Fin 64) (phase : BitVec 16) (cs : List Contrib) (s : State) (t : Thread) (w : SlotIx) :
    ∃ m, (s.resolveMark cl id phase cs t).thread w = { s.thread w with mark := m } ∧ ((s.thread w).mark = none → m = none) := by
  have kept : ∃ m, s.thread w = { s.thread w with mark := m } ∧ ((s.thread w).mark = none → m = none) :=
    ⟨(s.thread w).mark, (Thread.mark_eta _).symm, fun h => h⟩
  simp only [State.resolveMark]
  split
  · exact kept
  split
  · exact kept
  · next m _ _ =>
    have same : (s.groupResult cs m.op m.ty).1.threads[w] = s.thread w := congrArg (·[w]) (State.groupResult_threads ..)
    let f (y : Thread) : Thread := if y.uid == t.uid then { y with mark := y.mark.map (GrpMark.resolve (s.groupResult cs m.op m.ty).2) } else y
    have read : (mapVector (s.groupResult cs m.op m.ty).1.threads f)[w] = f (s.thread w) := by
      rw [← same]
      simp [mapVector]
    rw [State.thread]
    by_cases own : (s.thread w).uid == t.uid
    · exact ⟨(s.thread w).mark.map (GrpMark.resolve (s.groupResult cs m.op m.ty).2), read.trans (if_pos own), congrArg (Option.map _)⟩
    · exact ⟨(s.thread w).mark, (read.trans (if_neg own)).trans (Thread.mark_eta _).symm, fun h => h⟩

theorem Thread.settled_mark {t : Thread} (h : t.settled = t) (m : Option GrpMark) : { t with mark := m }.settled = { t with mark := m } := by
  have commutes : { t with mark := m }.settled = { t.settled with mark := m } := by
    simp only [Thread.settled]
    split <;> rfl
  rw [commutes, h]

/-- What every step of a fold keeps of a state, the fold keeps. -/
theorem foldl_holds {α : Type} {f : State → α → State} {P : State → Prop} (keeps : ∀ s x, P s → P (f s x)) (xs : List α) {s : State}
    (h : P s) : P (xs.foldl f s) := by
  induction xs generalizing s with
  | nil => exact h
  | cons x xs ih => exact ih (keeps s x h)

/-- What one step of a fold establishes and every step keeps, the fold establishes. -/
theorem foldl_establishes {α : Type} {f : State → α → State} {P : State → Prop} (keeps : ∀ s x, P s → P (f s x)) {xs : List α} {x : α}
    (mem : x ∈ xs) (once : ∀ s, P (f s x)) (s : State) : P (xs.foldl f s) := by
  induction xs generalizing s with
  | nil => exact nomatch mem
  | cons y xs ih =>
    obtain rfl | mem := List.mem_cons.1 mem
    · exact foldl_holds keeps xs (once s)
    · exact ih mem _

theorem State.barrierAdvance_settledAt {s : State} {w : SlotIx} (h : s.SettledAt w) (cl : ClusterIx) (id : Fin 64) (phase : BitVec 16)
    (cs : List Contrib) (edged : Bool) : (s.barrierAdvance cl id phase cs edged).SettledAt w := by
  simp only [State.barrierAdvance]
  split
  · exact h
  refine foldl_holds (P := (State.SettledAt · w)) (fun s t h => ?_) _ (foldl_holds (P := (State.SettledAt · w)) (fun s x h => ?_) _ h)
  · obtain ⟨m, same, -⟩ := State.resolveMark_thread cl id phase cs s t w
    rw [State.SettledAt, same]
    exact Thread.settled_mark h m
  · obtain same | ⟨-, only, settled⟩ := State.releaseGroup_spec cl id phase cs edged s x
    · rw [same]; exact h
    · exact h.step only settled

/-- An advance leaves a thread that waits for no phase and has no mark. -/
theorem State.barrierAdvance_thread {s : State} {w : SlotIx} (waits : ∀ d i p op ty, (s.thread w).wait ≠ .group d i p op ty)
    (mark : (s.thread w).mark = none) (cl : ClusterIx) (id : Fin 64) (phase : BitVec 16) (cs : List Contrib) (edged : Bool) :
    (s.barrierAdvance cl id phase cs edged).thread w = s.thread w := by
  simp only [State.barrierAdvance]
  split
  · rfl
  refine foldl_holds (P := fun y => y.thread w = s.thread w) (fun y t h => ?_) _
    (foldl_holds (P := fun y => y.thread w = s.thread w) (fun y x h => ?_) _ rfl)
  · obtain ⟨m, same, none_⟩ := State.resolveMark_thread cl id phase cs y t w
    have m_none := none_ (by rw [h]; exact mark)
    rw [same, h, m_none, ← mark]
  · obtain same | ⟨⟨d, p, op, ty, group⟩, only, -⟩ := State.releaseGroup_spec cl id phase cs edged y x
    · rw [same]; exact h
    · by_cases own : x = w
      · subst own
        exact absurd (h ▸ group) (waits d id p op ty)
      · exact (only w own).trans h

end Sys2Proof.Machine
end

section
/-! PROOFS. The evaluation of events at a barrier, as the slot they come from sees it (R340, R341, R343). -/

namespace Sys2Proof.Machine

/-! ### Each event is evaluated -/

theorem mem_insertBy {α : Type} (key : α → Nat) (x z : α) (ys : List α) : z ∈ insertBy key x ys ↔ z = x ∨ z ∈ ys := by
  induction ys with
  | nil => simp [insertBy]
  | cons y ys ih =>
    rw [insertBy]
    split
    · simp
    · simp only [List.mem_cons, ih, or_left_comm]

theorem mem_sortBy {α : Type} (key : α → Nat) (z : α) (xs : List α) : z ∈ sortBy key xs ↔ z ∈ xs := by
  have gathered (acc : List α) : z ∈ xs.foldl (fun acc x => insertBy key x acc) acc ↔ z ∈ acc ∨ z ∈ xs := by
    induction xs generalizing acc with
    | nil => simp
    | cons x xs ih => rw [List.foldl_cons, ih, mem_insertBy]; simp only [List.mem_cons, or_assoc, or_left_comm]
  simpa [sortBy] using gathered []

theorem Barrier.takeAll_mem (b : Barrier) {xs : List BarEvent} {x : BarEvent} (h : x ∈ xs) : ∃ v, (x, v) ∈ (b.takeAll xs).2 := by
  induction xs generalizing b with
  | nil => exact nomatch h
  | cons y xs ih =>
    obtain rfl | h := List.mem_cons.1 h
    · exact ⟨_, List.mem_cons_self⟩
    · obtain ⟨v, mem⟩ := ih (b.take y).1 h
      exact ⟨v, List.mem_cons_of_mem _ mem⟩

/-- A local arrival gets a verdict: in the phase, or, where that phase advances before it counts, in the next one. -/
theorem Barrier.evaluate_arrival (b : Barrier) (key : BarEvent → Nat) {evs : List BarEvent} {x : BarEvent} (mem : x ∈ evs)
    (local_ : x.isLocal = true) : ∃ v, (x, v) ∈ (b.evaluate key evs).first ∨
      (b.evaluate key evs).advanced = true ∧ (x, v) ∈ (b.evaluate key evs).second := by
  have arrives : x ∈ sortBy key (evs.filter BarEvent.isLocal) ++ evs.filter BarEvent.isRemote :=
    List.mem_append_left _ ((mem_sortBy ..).2 (List.mem_filter.2 ⟨mem, local_⟩))
  obtain ⟨v, taken⟩ := Barrier.takeAll_mem ((sortBy key (evs.filter BarEvent.isConfig)).foldl Barrier.configure b) arrives
  simp only [Barrier.evaluate]
  split
  · by_cases late : v = .late
    · obtain ⟨v', mem'⟩ := Barrier.takeAll_mem _ (List.mem_map.2
        ⟨_, List.mem_filter (p := fun r => r.2 == Verdict.late).2 ⟨taken, by simpa using late⟩, rfl⟩)
      exact ⟨v', .inr ⟨rfl, mem'⟩⟩
    · exact ⟨v, .inl (List.mem_filter.2 ⟨taken, bne_iff_ne.2 late⟩)⟩
  · exact ⟨v, .inl taken⟩

/-- The thread of a slot that an event comes from has been answered: nothing is left of its wait (R341, R343). -/
theorem State.barrierEvents_settledAt (s : State) (cl : ClusterIx) (id : Fin 64) {evs : List BarEvent} {ev : BarEvent} {w : SlotIx}
    (mem : ev ∈ evs) (mine : ev.from_ w = true) : (s.barrierEvents cl id evs).SettledAt w := by
  have keepsChange (phase : BitVec 16) (s : State) (x : BarEvent) (h : s.SettledAt w) : (s.changeOutcome phase x).SettledAt w :=
    State.changeOutcome_settledAt h phase x
  have keepsArrival (s : State) (x : BarEvent × Verdict) (h : s.SettledAt w) : (s.arrivalOutcome id x).SettledAt w :=
    State.arrivalOutcome_settledAt h id x
  simp only [State.barrierEvents]
  generalize hb : s.barrier cl id = b
  generalize hr : b.evaluate (BarEvent.slot s) evs = r
  generalize s.setBarrier cl id { r.after with gathering := false } = s1
  generalize hs2 : evs.foldl (State.changeOutcome b.phase) s1 = s2
  generalize hs3 : r.first.foldl (State.arrivalOutcome id) s2 = s3
  have rest (h : s3.SettledAt w) (cs : List Contrib) : (if !r.advanced then s3 else
      r.second.foldl (State.arrivalOutcome id) (s3.barrierAdvance cl id b.phase cs r.after.edged)).SettledAt w := by
    split
    · exact h
    · exact foldl_holds (P := (State.SettledAt · w)) keepsArrival _ (State.barrierAdvance_settledAt h cl id b.phase cs r.after.edged)
  have changed (h : ∀ s, (State.changeOutcome b.phase s ev).SettledAt w) : s3.SettledAt w :=
    hs3 ▸ foldl_holds (P := (State.SettledAt · w)) keepsArrival _
      (hs2 ▸ foldl_establishes (P := (State.SettledAt · w)) (keepsChange b.phase) mem h s1)
  cases ev with
  | expect x d n =>
    obtain rfl : x = w := beq_iff_eq.1 mine
    exact rest (changed fun s => (State.deliver_done_spec s x d _).2) _
  | config x d n reload =>
    obtain rfl : x = w := beq_iff_eq.1 mine
    exact rest (changed fun s => (State.deliver_done_spec s x d _).2) _
  | arrive x d mul edge g =>
    obtain rfl : x = w := beq_iff_eq.1 mine
    obtain ⟨v, first | ⟨advanced, second⟩⟩ := hr ▸ Barrier.evaluate_arrival b (BarEvent.slot s) mem rfl
    · exact rest (hs3 ▸ foldl_establishes (P := (State.SettledAt · x)) keepsArrival first
        (fun s => (State.arrivalOutcome_spec s id x d mul edge g v).2) s2) _
    · rw [if_neg (by simp [advanced])]
      exact foldl_establishes (P := (State.SettledAt · x)) keepsArrival second
        (fun s => (State.arrivalOutcome_spec s id x d mul edge g v).2) _
  | remote => exact nomatch mine
  | bytes => exact nomatch mine
  | again => exact nomatch mine

end Sys2Proof.Machine
end

section
/-! PROOFS. An instruction at the update port of a barrier of its home cluster (R340, R341, R343). -/

namespace Sys2Proof.Machine

/-! ### An instruction at the port -/

theorem exec_barrierReevaluate (cl : ClusterIx) (id : Fin 64) (s : State) : exec (.barrierReevaluate cl id) s = execBarrierReevaluate cl id s := rfl

theorem execBarrierReevaluate_of_port {cl : ClusterIx} {id : Fin 64} {s : State} (h : (s.barrier cl id).port ≠ []) :
    execBarrierReevaluate cl id s = .next (s.barrierEvents cl id (s.barrier cl id).port) := by
  simp [execBarrierReevaluate, h]

section
variable {s : State} {d : GReg} {id : Fin 64} {ev : BarEvent} {body : Op Unit}
  (ends : body s = atPort id (.reg d) ev (s.modMe fun t => { t with mark := none }))
include ends

theorem State.run_atPort_gathering (gathering : (s.barrier s.me.home id).gathering = true) : s.run body = .next (s.asks d id ev true) := by
  rw [State.run_ok (ends.trans (atPort_gathering gathering)), State.modThread_of_eq]
  have waits : ((s.asks d id ev true).thread s.cur).wait = .port (.reg d) := by
    rw [State.asks, State.modCluster_thread, State.modMe, State.modThread_thread_same, if_pos rfl]
  rw [Thread.settled, waits]

/-- An instruction whose event is a cycle of its own has its thread answered when it ends. -/
theorem State.run_atPort_alone (mine : ev.from_ s.cur = true) (alone : (s.barrier s.me.home id).gathering = false) :
    s.run body = .next ((s.modMe fun t => { t with mark := none, resume := s.following }).barrierEvents s.me.home id
      ((s.barrier s.me.home id).port ++ [ev])) := by
  rw [State.run_ok (ends.trans (atPort_alone alone)), State.modThread_of_eq]
  exact State.barrierEvents_settledAt _ _ _ (List.mem_append_right _ (List.mem_singleton_self ev)) mine

/-- So its cycle is the evaluation of what stands at the port, its event last (R340). -/
theorem State.run_atPort_reevaluates (mine : ev.from_ s.cur = true) (alone : (s.barrier s.me.home id).gathering = false) :
    s.run body = exec (.barrierReevaluate s.me.home id) (s.asks d id ev false) := by
  have port : ((s.asks d id ev false).barrier s.me.home id).port = (s.barrier s.me.home id).port ++ [ev] := by
    rw [State.asks_eq, State.setBarrier_barrier]
  rw [State.run_atPort_alone ends mine alone, exec_barrierReevaluate,
    execBarrierReevaluate_of_port (by rw [port]; exact List.append_ne_nil_of_right_ne_nil _ nofun), port, State.asks_eq]
  exact congrArg Host.Outcome.next (State.barrierEvents_setBarrier (s.modMe fun t => { t with mark := none, resume := s.following }) ..).symm

end

/-! ### A cycle of one event -/

theorem Barrier.evaluate_expect (b : Barrier) (key : BarEvent → Nat) (w : SlotIx) (d : Dst) (x : BitVec 40) :
    (b.evaluate key [.expect w d x]).first = [] ∧ (b.evaluate key [.expect w d x]).second = [] := by
  simp only [Barrier.evaluate]
  split <;> exact ⟨rfl, rfl⟩

theorem Barrier.evaluate_config (b : Barrier) (key : BarEvent → Nat) (w : SlotIx) (d : Dst) (n : BitVec 16) (x : BitVec 40) :
    (b.evaluate key [.config w d n x]).first = [] ∧ (b.evaluate key [.config w d n x]).second = [] := by
  simp only [Barrier.evaluate]
  split <;> exact ⟨rfl, rfl⟩

/-- An arrival that fits counts into the phase (R340). -/
theorem Barrier.evaluate_fits {b : Barrier} {mul : Nat} (fits : b.arr.toNat + mul ≤ b.exp.toNat) (key : BarEvent → Nat) (w : SlotIx)
    (d : Dst) (edge : Bool) : (b.evaluate key [.arrive w d mul edge none]).first = [(.arrive w d mul edge none, .counted b.phase)] ∧
      (b.evaluate key [.arrive w d mul edge none]).second = [] := by
  have taken : (b.takeAll [.arrive w d mul edge none]).2 = [(.arrive w d mul edge none, .counted b.phase)] := by
    simp [Barrier.takeAll, Barrier.take, BarEvent.weight, BarEvent.contrib, Nat.not_lt.2 fits]
  have only : sortBy key (List.filter BarEvent.isLocal [.arrive w d mul edge none]) ++
      List.filter BarEvent.isRemote [.arrive w d mul edge none] = [.arrive w d mul edge none] := rfl
  have none_ : (sortBy key (List.filter BarEvent.isConfig [.arrive w d mul edge none])).foldl Barrier.configure b = b := rfl
  simp only [Barrier.evaluate, only, none_, taken]
  split <;> exact ⟨rfl, rfl⟩

@[simp] theorem Thread.setG_mark (t : Thread) (r : GReg) (x : W64) : (t.setG r x).mark = t.mark := by
  rw [Thread.setG]
  split <;> rfl

/-! ### What the current slot is answered -/

@[simp] theorem State.groupResult_cur (s : State) (cs : List Contrib) (op : GrpOp) (ty : GrpTy) : (s.groupResult cs op ty).1.cur = s.cur := by
  simp only [State.groupResult]
  split <;> rfl

@[simp] theorem State.deliver_cur (s : State) (w : SlotIx) (d : Dst) (x : W64) : (s.deliver w d x).cur = s.cur := by cases d <;> rfl

@[simp] theorem State.afterBarrier_cur (s : State) (w : SlotIx) (edged : Bool) : (s.afterBarrier w edged).cur = s.cur := by
  simp only [State.afterBarrier]
  split
  · exact State.modThread_cur ..
  · rw [State.modThread_cur, State.startSkim, State.modCluster_cur]

theorem State.releaseGroup_cur (cl : ClusterIx) (id : Fin 64) (phase : BitVec 16) (cs : List Contrib) (edged : Bool) (s : State) (w : SlotIx) :
    (s.releaseGroup cl id phase cs edged w).cur = s.cur := by
  simp only [State.releaseGroup]
  split
  · split
    · rfl
    · simp
  · rfl

theorem State.resolveMark_cur (cl : ClusterIx) (id : Fin 64) (phase : BitVec 16) (cs : List Contrib) (s : State) (t : Thread) :
    (s.resolveMark cl id phase cs t).cur = s.cur := by
  simp only [State.resolveMark]
  split
  · rfl
  split
  · rfl
  · simp only [State.groupResult_cur]

@[simp] theorem State.barrierAdvance_cur (s : State) (cl : ClusterIx) (id : Fin 64) (phase : BitVec 16) (cs : List Contrib) (edged : Bool) :
    (s.barrierAdvance cl id phase cs edged).cur = s.cur := by
  simp only [State.barrierAdvance]
  split
  · rfl
  · rw [foldl_keeps State.cur (State.resolveMark_cur cl id phase cs), foldl_keeps State.cur (State.releaseGroup_cur cl id phase cs edged)]

/-- The thread of a slot has been answered with the phase of a barrier. -/
def State.Answered (s y : State) (w : SlotIx) (d : GReg) (phase : BitVec 16) : Prop :=
  y.cur = s.cur ∧ y.thread w = ((s.thread w).setG d (phase.setWidth 64)).done

theorem State.answered_deliver {s s1 : State} {w : SlotIx} (cur : s1.cur = s.cur) (threads : s1.threads = s.threads) (d : GReg)
    (phase : BitVec 16) : s.Answered ((s1.deliver w (.reg d) (phase.setWidth 64)).modThread w Thread.done) w d phase := by
  have same : s1.thread w = s.thread w := congrArg (·[w]) threads
  refine ⟨cur, ?_⟩
  rw [State.modThread_thread_same, State.deliver, State.modThread_thread_same, same]

/-- An advance takes nothing from what has been answered. -/
theorem State.Answered.advance {s y : State} {w : SlotIx} {d : GReg} {phase : BitVec 16} (h : s.Answered y w d phase)
    (mark : (s.thread w).mark = none) (cl : ClusterIx) (id : Fin 64) (cs : List Contrib) (edged : Bool) :
    s.Answered (y.barrierAdvance cl id phase cs edged) w d phase := by
  obtain ⟨cur, thread⟩ := h
  refine ⟨(State.barrierAdvance_cur ..).trans cur, (State.barrierAdvance_thread ?_ ?_ cl id phase cs edged).trans thread⟩
  · intro d i p op ty
    rw [thread]
    exact nofun
  · rw [thread]
    exact (Thread.setG_mark ..).trans mark

/-- An event that is the only one of its cycle is answered with the phase, whether or not that phase advances with it. -/
theorem State.barrierEvents_answered {s : State} {w : SlotIx} {d : GReg} {cl : ClusterIx} {id : Fin 64} {ev : BarEvent}
    (mark : (s.thread w).mark = none)
    (answers : ∀ s1 : State, s1.cur = s.cur → s1.threads = s.threads →
      s.Answered (((s.barrier cl id).evaluate (BarEvent.slot s) [ev]).first.foldl (State.arrivalOutcome id)
        (s1.changeOutcome (s.barrier cl id).phase ev)) w d (s.barrier cl id).phase)
    (second : ((s.barrier cl id).evaluate (BarEvent.slot s) [ev]).second = []) :
    s.Answered (s.barrierEvents cl id [ev]) w d (s.barrier cl id).phase := by
  have answered := answers (s.setBarrier cl id
    { ((s.barrier cl id).evaluate (BarEvent.slot s) [ev]).after with gathering := false }) rfl rfl
  simp only [State.barrierEvents, List.foldl_cons, List.foldl_nil, second]
  split
  · exact answered
  · exact answered.advance mark ..

theorem State.barrierEvents_expect {s : State} {w : SlotIx} (mark : (s.thread w).mark = none) (d : GReg) (cl : ClusterIx) (id : Fin 64)
    (x : BitVec 40) : s.Answered (s.barrierEvents cl id [.expect w (.reg d) x]) w d (s.barrier cl id).phase := by
  obtain ⟨first, second⟩ := Barrier.evaluate_expect (s.barrier cl id) (BarEvent.slot s) w (.reg d) x
  refine State.barrierEvents_answered mark (fun s1 cur threads => ?_) second
  rw [first]
  exact State.answered_deliver cur threads d _

theorem State.barrierEvents_config {s : State} {w : SlotIx} (mark : (s.thread w).mark = none) (d : GReg) (cl : ClusterIx) (id : Fin 64)
    (n : BitVec 16) (x : BitVec 40) : s.Answered (s.barrierEvents cl id [.config w (.reg d) n x]) w d (s.barrier cl id).phase := by
  obtain ⟨first, second⟩ := Barrier.evaluate_config (s.barrier cl id) (BarEvent.slot s) w (.reg d) n x
  refine State.barrierEvents_answered mark (fun s1 cur threads => ?_) second
  rw [first]
  exact State.answered_deliver cur threads d _

theorem State.barrierEvents_arrive {s : State} {w : SlotIx} (mark : (s.thread w).mark = none) (d : GReg) {cl : ClusterIx} {id : Fin 64}
    {mul : Nat} (fits : (s.barrier cl id).arr.toNat + mul ≤ (s.barrier cl id).exp.toNat) (edge : Bool) :
    s.Answered (s.barrierEvents cl id [.arrive w (.reg d) mul edge none]) w d (s.barrier cl id).phase := by
  obtain ⟨first, second⟩ := Barrier.evaluate_fits fits (BarEvent.slot s) w (.reg d) edge
  refine State.barrierEvents_answered mark (fun s1 cur threads => ?_) second
  rw [first]
  exact State.answered_deliver cur threads d _

/-! ### The forms of the statement -/

/-- The event of an instruction reaches the update port of a barrier of the home cluster: it waits there while the events of the cycle
are gathered, and is evaluated otherwise. -/
def State.reaches (s : State) (i : Instr) (d : GReg) (id : Fin 64) (ev : BarEvent) : Prop :=
  ((s.barrier s.me.home id).gathering = true → exec i s = .next (s.asks d id ev true)) ∧
  ((s.barrier s.me.home id).gathering = false → exec i s = exec (.barrierReevaluate s.me.home id) (s.asks d id ev false))

/-- A thread that goes on with the phase of a barrier of its home cluster. -/
def State.goesOnWith (s : State) (d : GReg) (id : Fin 64) : Thread :=
  { s.me.setG d ((s.barrier s.me.home id).phase.setWidth 64) with
    mark := none
    wait := .run
    popped := []
    edgeDone := false
    parks := false
    resume := s.following
    ip := s.following }

theorem State.goesOnWith_eq (s : State) (d : GReg) (id : Fin 64) :
    (Thread.setG { s.me with mark := none, resume := s.following } d ((s.barrier s.me.home id).phase.setWidth 64)).done =
      s.goesOnWith d id := by
  simp only [Thread.setG, State.goesOnWith]
  split <;> rfl

section
variable {s : State} {i : Instr} {d : GReg} {id : Fin 64} {ev : BarEvent} {body : Op Unit} (runs : exec i s = s.run body)
  (ends : body s = atPort id (.reg d) ev (s.modMe fun t => { t with mark := none })) (mine : ev.from_ s.cur = true)
include runs ends mine

theorem State.reaches_of_ends : s.reaches i d id ev :=
  ⟨fun gathering => runs.trans (State.run_atPort_gathering ends gathering),
    fun alone => runs.trans (State.run_atPort_reevaluates ends mine alone)⟩

/-- An instruction whose event is alone at the port and is answered with the phase goes on with it (R341, R343). -/
theorem State.goesOn_of_answered (alone : (s.barrier s.me.home id).gathering = false) (port : (s.barrier s.me.home id).port = [])
    (answered : ∀ s' : State, (s'.thread s.cur).mark = none → s'.barrier s.me.home id = s.barrier s.me.home id →
      s'.Answered (s'.barrierEvents s.me.home id [ev]) s.cur d (s'.barrier s.me.home id).phase) :
    ∃ y, exec i s = .next y ∧ y.me = s.goesOnWith d id := by
  obtain ⟨cur, thread⟩ := answered (s.modMe fun t => { t with mark := none, resume := s.following })
    (by rw [State.modMe, State.modThread_thread_same]) rfl
  refine ⟨_, runs.trans (State.run_atPort_alone ends mine alone), ?_⟩
  rw [port, List.nil_append, State.me, cur]
  refine thread.trans (Eq.trans ?_ (s.goesOnWith_eq d id))
  rw [State.modMe, State.modThread_thread_same]
  rfl

end

end Sys2Proof.Machine
end

section
/-! PROOFS. The barrier instructions at issue (R162, R341 to R344, R346). -/

namespace Sys2Proof.Machine

/-! ### A home cluster that is gone -/

theorem State.retire_congr {s : State} {f g : Thread → Thread} (h : f s.me = g s.me) : s.retire f = s.retire g := by
  simp only [State.retire, State.goTo]
  exact State.modMe_congr (by simp only [h])

/-- An event that says the home cluster is gone, and nothing else of it (R344). -/
def Async.saysGone (z : Async) : Prop := z.code = 0x22 ∧ z.journal = none ∧ z.retry = none

theorem State.told_iff (t : Thread) : (t.pend.any fun a => a.code == 0x22 && a.journal.isNone && a.retry.isNone) = true ↔
    ∃ z ∈ t.pend, z.saysGone := by
  simp only [List.any_eq_true, Bool.and_eq_true, beq_iff_eq, Option.isNone_iff_eq_none, Async.saysGone, and_assoc]

/-- What an instruction of a thread whose home cluster is gone does (R344, log 76). -/
theorem State.run_gone {s : State} {i : Instr} {pre : Op Unit} {body : Op Unit} (runs : exec i s = s.run (do pre; atHome body))
    (passes : pre s = .ok ((), s)) (gone : s.homeAlive s.me = false) :
    ((∃ z ∈ s.me.pend, z.saysGone) → exec i s = .next (s.retire fun u => u)) ∧
    ((∀ z ∈ s.me.pend, ¬z.saysGone) → ∃ xs ys, s.pends s.cur 0x22 xs ys ∧ exec i s = .next (s.retire fun t =>
      { t with pend := xs ++ ([⟨0x22, s.now, 0, 1, none, none⟩] : List Async) ++ ys })) := by
  have told : exec i s = .next (s.retire s.told) :=
    runs.trans (State.run_advance ((op_bind_ok passes).trans (atHome_gone gone body)))
  constructor
  · intro known
    rw [told, State.retire_congr (g := fun u => u)]
    exact if_pos ((State.told_iff _).2 known)
  · intro unknown
    obtain ⟨xs, ys, split, inserted, earlier, next⟩ := insertAsync_split s.homeGone s.me.pend
    refine ⟨xs, ys, ⟨split, earlier, next⟩, ?_⟩
    rw [told, State.retire_congr]
    have none_ : ¬(s.me.pend.any fun a => a.code == 0x22 && a.journal.isNone && a.retry.isNone) = true := by
      rw [State.told_iff]
      exact fun ⟨z, mem, tells⟩ => unknown z mem tells
    rw [State.told, if_neg none_, inserted]
    rfl

/-! ### bar.arv, bar.exp and bar.cfg -/

section
variable {s : State} {edge : Bool} {d a b : GReg} {id : Fin 64}

theorem reserve_unmarked (h : s.me.maps (.g d) = false) :
    reserve d (s.modMe fun t => { t with mark := none }) = .ok (.reg d, s.modMe fun t => { t with mark := none }) :=
  reserve_plain (by rw [State.modMe_me]; exact h)

theorem execBarArv_ends (settled : s.settledIn) (alive : s.homeAlive s.me = true) (plain : s.plain [] [.g d])
    (first : edge = false ∨ s.me.edgeDone = true ∨ s.edgeRecords s.me = []) :
    ∃ body, exec (.barArv edge d id) s = s.run body ∧
      body s = atPort id (.reg d) (.arrive s.cur (.reg d) s.me.mul.toNat edge none) (s.modMe fun t => { t with mark := none }) := by
  refine ⟨_, rfl, ?_⟩
  rw [op_bind_ok (synchronised_ok settled), atHome_alive alive, op_bind_ok (ready_plain plain), op_bind_ok (edgeFirst_ok first),
    op_bind_ok (dropMark_eq s), op_bind_ok (reserve_unmarked (State.plain_dst plain (List.mem_singleton_self (GV.g d)))), op_bind_ok (op_get _)]
  simp only [State.modMe_cur, State.modMe_me]

theorem execBarArv_edge (settled : s.settledIn) (alive : s.homeAlive s.me = true) (plain : s.plain [] [.g d])
    (first : ¬(edge = false ∨ s.me.edgeDone = true ∨ s.edgeRecords s.me = [])) :
    ∃ y, exec (.barArv edge d id) s = .next y ∧ y.me.wait = .skimmer ∧ y.me.ip = s.me.ip ∧
      y.skims (SlotIx.core s.cur) .writeBack (s.edgeRecords s.me) s.me.uid .again := by
  refine State.run_edge (body := _) ?_
  rw [op_bind_ok (synchronised_ok settled), atHome_alive alive, op_bind_ok (ready_plain plain), op_bind_error (edgeFirst_stops first)]

theorem execBarExp_ends (quiet_ : s.me.outs = []) (alive : s.homeAlive s.me = true) (plain : s.plain [.g a] [.g d]) :
    ∃ body, exec (.barExp d a id) s = s.run body ∧
      body s = atPort id (.reg d) (.expect s.cur (.reg d) ((s.me.greg a).setWidth 40)) (s.modMe fun t => { t with mark := none }) := by
  refine ⟨_, rfl, ?_⟩
  rw [op_bind_ok (quiet_ok quiet_), atHome_alive alive, op_bind_ok (ready_plain plain),
    op_bind_ok (srcG_plain (State.plain_src plain (by simp))),
    op_bind_ok (dropMark_eq s), op_bind_ok (reserve_unmarked (State.plain_dst plain (List.mem_singleton_self (GV.g d)))), op_bind_ok (op_get _)]
  rfl

theorem execBarCfg_ends (quiet_ : s.me.outs = []) (alive : s.homeAlive s.me = true) (plain : s.plain [.g a, .g b] [.g d]) :
    ∃ body, exec (.barCfg d a b id) s = s.run body ∧
      body s = atPort id (.reg d) (.config s.cur (.reg d) ((s.me.greg a).setWidth 16) ((s.me.greg b).setWidth 40))
        (s.modMe fun t => { t with mark := none }) := by
  refine ⟨_, rfl, ?_⟩
  rw [op_bind_ok (quiet_ok quiet_), atHome_alive alive, op_bind_ok (ready_plain plain),
    op_bind_ok (srcG_plain (State.plain_src plain (by simp))), op_bind_ok (srcG_plain (State.plain_src plain (by simp))),
    op_bind_ok (dropMark_eq s), op_bind_ok (reserve_unmarked (State.plain_dst plain (List.mem_singleton_self (GV.g d)))), op_bind_ok (op_get _)]
  rfl

/-! ### bar.wait -/

theorem execBarWait_waits (settled : s.settledIn) (alive : s.homeAlive s.me = true) (plain : s.plain [.g d] [.g d])
    (same : (s.barrier s.me.home id).phase = (s.me.greg d).setWidth 16) :
    s.waits (.barWait d id) (.barWait id ((s.me.greg d).setWidth 16) d) := by
  refine State.run_wait (body := _) ?_
  rw [op_bind_ok (synchronised_ok settled), atHome_alive alive, op_bind_ok (ready_plain plain),
    op_bind_ok (srcG_plain (State.plain_src plain (by simp))), op_bind_ok (op_get _)]
  exact op_bind_error (by rw [waitIf, if_pos (beq_iff_eq.2 same)]; rfl)

theorem execBarWait_edge (settled : s.settledIn) (alive : s.homeAlive s.me = true) (plain : s.plain [.g d] [.g d])
    (moved : (s.barrier s.me.home id).phase ≠ (s.me.greg d).setWidth 16)
    (edged : (s.barrier s.me.home id).edged = true) (undone : s.me.edgeDone = false) (live : liveRegions (s.records s.me) ≠ []) :
    ∃ y, exec (.barWait d id) s = .next y ∧ y.me.wait = .skimmer ∧ y.me.ip = s.me.ip ∧
      y.skims (SlotIx.core s.cur) .invalidate (liveRegions (s.records s.me)) s.me.uid .again := by
  refine State.run_edge (body := _) ?_
  rw [op_bind_ok (synchronised_ok settled), atHome_alive alive, op_bind_ok (ready_plain plain),
    op_bind_ok (srcG_plain (State.plain_src plain (by simp))), op_bind_ok (op_get _),
    op_bind_ok (t := s) (by rw [waitIf, if_neg (by simpa using moved)]; rfl), if_pos (by simp [edged, undone, live])]
  rfl

theorem dropMark_dstG_advance (x : W64) (h : s.me.maps (.g d) = false) : (do dropMark; dstG d x; advance : Op Unit) s =
    .ok ((), (s.modMe fun t => { t with mark := none }.setG d x).modMe fun t => { t with ip := s.following }) := by
  rw [op_bind_ok (dropMark_eq s), dstG_advance x (by rw [State.modMe_me]; exact h), State.following_modMe _ _ rfl]
  simp only [State.modMe_modMe]

theorem execBarWait_retires (settled : s.settledIn) (alive : s.homeAlive s.me = true) (plain : s.plain [.g d] [.g d])
    (moved : (s.barrier s.me.home id).phase ≠ (s.me.greg d).setWidth 16)
    (served : (s.barrier s.me.home id).edged = false ∨ s.me.edgeDone = true ∨ liveRegions (s.records s.me) = []) :
    exec (.barWait d id) s = .next (s.retire fun t => { t with mark := none }.setG d ((s.barrier s.me.home id).phase.setWidth 64)) := by
  refine State.run_advance (body := _) ?_
  rw [op_bind_ok (synchronised_ok settled), atHome_alive alive, op_bind_ok (ready_plain plain),
    op_bind_ok (srcG_plain (State.plain_src plain (by simp))), op_bind_ok (op_get _),
    op_bind_ok (t := s) (by rw [waitIf, if_neg (by simpa using moved)]; rfl),
    if_neg (by rcases served with h | h | h <;> simp [h])]
  exact dropMark_dstG_advance _ (State.plain_dst plain (List.mem_singleton_self _))

end

end Sys2Proof.Machine
end

section
/-! PROOFS. grpred at issue (R346). -/

namespace Sys2Proof.Machine

/-! ### Its operands -/

/-- The barrier that a grpred names: bits [5:0] of g[B]. -/
def groupId (y : W64) : Fin 64 := ⟨y.toNat % 64, Nat.mod_lt _ (by decide)⟩

theorem extract_eq_groupId (y : W64) : (y.extractLsb' 0 6).toFin = groupId y := by
  apply Fin.ext
  simp [groupId]

/-- What a thread of MUL members contributes for an operand (R346). -/
def Thread.groupValue (t : Thread) (op : GrpOp) (ty : GrpTy) (x : W64) : W64 :=
  match op, ty with
  | .fsum, _ => BitVec.ofNat 64 (finish fmtF32 .rne false ((fmtF32.val (x.toNat % 2 ^ 32)).mul (.fin false t.mul.toNat 0))).1
  | .sum, _ => BitVec.ofNat 64 (x.toNat * t.mul.toNat)
  | _, .f32 => BitVec.ofNat 64 (x.toNat % 2 ^ 32)
  | _, _ => x

theorem Thread.contribution_eq (t : Thread) (op : GrpOp) (ty : GrpTy) (x : W64) :
    t.contribution op ty x = ⟨t.team.toNat * 128 + t.tid.toNat, op, ty, t.groupValue op ty x⟩ := by
  have product : x * t.mul.setWidth 64 = BitVec.ofNat 64 (x.toNat * t.mul.toNat) := by
    apply BitVec.eq_of_toNat_eq
    simp [BitVec.toNat_mul, Nat.mul_mod]
  cases op with
  | fsum => rfl
  | sum => exact congrArg (Contrib.mk _ _ _) product
  | min => cases ty <;> rfl
  | max => cases ty <;> rfl

section
variable {s : State} {op : GrpOp} {ty : GrpTy} {edge : Bool} {d a b : GReg}

/-- What a grpred does after its checks: it arrives, or takes up its pending mark. -/
def groupMeaning (op : GrpOp) (ty : GrpTy) (edge : Bool) (d : GReg) (id : Fin 64) (x : W64) (mark : Option GrpMark) : Op Unit :=
  match mark with
  | some m => if m.id == id then groupAgain d id m else groupArrive op ty edge d id x
  | none => groupArrive op ty edge d id x

theorem execGrpred_ends (settled : s.settledIn) (alive : s.homeAlive s.me = true) (plain : s.plain [.g a, .g b] [.g d]) :
    ∃ body, exec (.grpred op ty edge d a b) s = s.run body ∧
      body s = groupMeaning op ty edge d (groupId (s.me.greg b)) (s.me.greg a) s.me.mark s := by
  refine ⟨_, rfl, ?_⟩
  rw [op_bind_ok (synchronised_ok settled), atHome_alive alive, op_bind_ok (ready_plain plain),
    op_bind_ok (srcG_plain (State.plain_src plain (by simp))), op_bind_ok (srcG_plain (State.plain_src plain (by simp))),
    op_bind_ok (op_get _), extract_eq_groupId]
  cases s.me.mark <;> rfl

theorem groupMeaning_arrives {id : Fin 64} {x : W64} {mark : Option GrpMark} (fresh : mark = none ∨ ∃ m, mark = some m ∧ m.id ≠ id) :
    groupMeaning op ty edge d id x mark = groupArrive op ty edge d id x := by
  obtain rfl | ⟨m, rfl, other⟩ := fresh
  · rfl
  · exact if_neg (by simpa using other)

theorem groupMeaning_again {x : W64} (m : GrpMark) : groupMeaning op ty edge d m.id x (some m) = groupAgain d m.id m :=
  if_pos (beq_self_eq_true m.id)

/-! ### Its arrival -/

theorem groupArrive_atPort (dst : s.me.maps (.g d) = false) (id : Fin 64) (x : W64)
    (first : edge = false ∨ s.me.edgeDone = true ∨ s.edgeRecords s.me = []) :
    groupArrive op ty edge d id x s = atPort id (.reg d)
      (.arrive s.cur (.reg d) s.me.mul.toNat edge (some (s.me.contribution op ty x))) (s.modMe fun t => { t with mark := none }) := by
  rw [groupArrive, op_bind_ok (edgeFirst_ok first), op_bind_ok (dropMark_eq s), op_bind_ok (reserve_unmarked dst), op_bind_ok (op_get _)]
  simp only [State.modMe_cur, State.modMe_me]
  rfl

theorem groupArrive_stops (id : Fin 64) (x : W64) (first : ¬(edge = false ∨ s.me.edgeDone = true ∨ s.edgeRecords s.me = [])) :
    groupArrive op ty edge d id x s = .error (.edge .writeBack (s.edgeRecords s.me)) := by
  rw [groupArrive, op_bind_error (edgeFirst_stops first)]

/-! ### Its pending mark -/

theorem parkAs_eq (x : Wait) (s : State) : parkAs x s = .ok ((), s.modMe fun t =>
    { t with wait := x, resume := s.following, parkedAt := s.myCore.cycle }) := rfl

/-- A pending mark whose phase has advanced gives its result to the grpred that names it again. -/
theorem groupAgain_some {m : GrpMark} {r : W64} (result : m.result = some r) {id : Fin 64}
    (unedged : (s.barrier s.me.home id).edged = false) : groupAgain d id m s = (do dropMark; dstG d r; advance : Op Unit) s := by
  simp only [groupAgain, result]
  rw [op_bind_ok (op_get _), if_neg (by simp [unedged])]

theorem groupAgain_none {m : GrpMark} (result : m.result = none) (id : Fin 64) : groupAgain d id m = (do
    dropMark
    let dst ← reserve d
    parkAs (.group dst id m.phase m.op m.ty)
    modify fun s => s.modMe fun t => { t with parkedAt := t.parkedAt - m.waited }) := by
  simp only [groupAgain, result]

theorem groupAgain_result {m : GrpMark} {r : W64} (result : m.result = some r) (dst : s.me.maps (.g d) = false) {id : Fin 64}
    (unedged : (s.barrier s.me.home id).edged = false) :
    groupAgain d id m s = .ok ((), (s.modMe fun t => { t with mark := none }.setG d r).modMe fun t => { t with ip := s.following }) := by
  rw [groupAgain_some result unedged, dropMark_dstG_advance r dst]

theorem groupAgain_waits {m : GrpMark} (result : m.result = none) (dst : s.me.maps (.g d) = false) (id : Fin 64) :
    groupAgain d id m s = .ok ((), s.modMe fun t => { t with
      mark := none
      wait := .group (.reg d) id m.phase m.op m.ty
      resume := s.following
      parkedAt := s.myCore.cycle - m.waited }) := by
  rw [groupAgain_none result, op_bind_ok (dropMark_eq s), op_bind_ok (reserve_unmarked dst), op_bind_ok (parkAs_eq _ _), op_modify,
    State.following_modMe _ _ rfl]
  simp only [State.modMe_modMe, State.modMe_myCore]

/-- A meaning that leaves its thread waiting for an answer changes nothing else of it when it ends. -/
theorem State.run_parks {body : Op Unit} {f : Thread → Thread} (ends : body s = .ok ((), s.modMe f))
    (waits : (f s.me).settled = f s.me) : s.run body = .next (s.modMe f) := by
  rw [State.run_ok ends, State.modThread_of_eq]
  rw [State.modMe, State.modThread_thread_same]
  exact waits

end

end Sys2Proof.Machine
end

section
/-! PROOFS. What the fetches of a core are answered from (R37, R41, R381). -/

namespace Sys2Proof.Machine

/-- What the fetches of a core are answered from is in another state as it is in this one. -/
structure State.FetchesAs (s t : State) (c : CoreIx) : Prop where
  icache : (t.core c).icache = (s.core c).icache
  tlb : (t.core c).tlb = (s.core c).tlb
  clusters : t.clusters = s.clusters
  parts : t.parts = s.parts
  pages : t.pages = s.pages
  mem : t.mem = s.mem
  ue : t.ue = s.ue

section
variable {s t : State} {c : CoreIx} (h : s.FetchesAs t c)
include h

theorem State.FetchesAs.cluster (cl : ClusterIx) : t.cluster cl = s.cluster cl := congrArg (·[cl]) h.clusters
theorem State.FetchesAs.page (f : FuncIx) : t.page f = s.page f := congrArg (·[f]) h.pages
theorem State.FetchesAs.part (p : PartIx) : t.part p = s.part p := congrArg (·[p]) h.parts
theorem State.FetchesAs.logArmed (p : PartIx) : t.logArmed p = s.logArmed p := by rw [State.logArmed, h.page, State.logArmed]

theorem State.FetchesAs.count (code n : Nat) : (s.count c code n).FetchesAs (t.count c code n) c where
  icache := by simp only [State.count, State.modCluster_core, State.modCore_core_same, h.icache]
  tlb := by simp only [State.count, State.modCluster_core, State.modCore_core_same, h.tlb]
  clusters := by
    simp only [State.count, State.modCluster, State.setCluster, State.modCore_cluster, State.modCore_clusters, h.cluster, h.clusters]
  parts := h.parts
  pages := h.pages
  mem := h.mem
  ue := h.ue

theorem State.FetchesAs.walkNow (p : PartIx) (va : Nat) (want : Need) : (t.walkNow c p va want).2 = (s.walkNow c p va want).2 := by
  simp only [State.walkNow, h.mem, h.part, h.logArmed, h.page]
  rcases walk s.mem (s.part p) va want with stop | r
  · cases stop <;> rfl
  · dsimp only
    split
    · split <;> rfl
    · rfl

theorem State.FetchesAs.translate (p : PartIx) (va : Nat) (want : Need) : (t.translate c p va want).2 = (s.translate c p va want).2 := by
  simp only [State.translate, h.logArmed, h.tlb, (h.count 5 1).cluster]
  cases (s.core c).tlb.find? (TlbEntry.serves (s.logArmed p) want va) with
  | some e => rfl
  | none =>
    dsimp only
    cases ((s.count c 5 1).cluster (CoreIx.cluster c)).tlb.find? (TlbEntry.serves (s.logArmed p) want va) with
    | some e => rfl
    | none => exact (h.count 5 1).walkNow p va want

end

/-- A translation for a fetch logs nothing: it leaves memory and the uncorrectable errors. -/
theorem State.walkNow_fetch (s : State) (c : CoreIx) (p : PartIx) (va : Nat) :
    (s.walkNow c p va needX).1.mem = s.mem ∧ (s.walkNow c p va needX).1.ue = s.ue := by
  simp only [State.walkNow]
  rcases walk s.mem (s.part p) va needX with stop | r
  · cases stop <;> exact ⟨rfl, rfl⟩
  · exact ⟨rfl, rfl⟩

theorem State.translate_fetch (s : State) (c : CoreIx) (p : PartIx) (va : Nat) :
    (s.translate c p va needX).1.mem = s.mem ∧ (s.translate c p va needX).1.ue = s.ue := by
  simp only [State.translate]
  cases (s.core c).tlb.find? (TlbEntry.serves (s.logArmed p) needX va) with
  | some e => exact ⟨rfl, rfl⟩
  | none =>
    dsimp only
    cases ((s.count c 5 1).cluster (CoreIx.cluster c)).tlb.find? (TlbEntry.serves (s.logArmed p) needX va) with
    | some e => exact ⟨rfl, rfl⟩
    | none => exact State.walkNow_fetch (s.count c 5 1) c p va

theorem State.readLine_ue (s : State) (c : CoreIx) (p : PartIx) (va : W64) : (s.readLine c p va).1.ue = s.ue := by
  have ue := (State.translate_fetch s c p va.toNat).2
  rw [State.readLine]
  split
  · rfl
  · rcases translated : s.translate c p va.toNat needX with ⟨y, r⟩
    rw [translated] at ue
    cases r with
    | ok pa =>
      dsimp only
      split <;> exact ue
    | _ => exact ue

/-- What the read of a line answers for a translation, with what memory holds. -/
def lineAnswer (m : Memory) : Translation → Fetched
  | .ok pa => if inAperture pa then .fault 0x0A else .line (m.read pa 64)
  | .host ipa => .host ipa
  | _ => .fault 0x0A

theorem State.readLine_answer (s : State) (c : CoreIx) (p : PartIx) (va : W64) : (s.readLine c p va).2 =
    if !inGlobal va then .fault 0x0A else lineAnswer s.mem (s.translate c p va.toNat needX).2 := by
  have mem := (State.translate_fetch s c p va.toNat).1
  rw [State.readLine]
  split
  · rfl
  · rcases translated : s.translate c p va.toNat needX with ⟨y, r⟩
    rw [translated] at mem
    cases r with
    | ok pa =>
      dsimp only at mem ⊢
      rw [lineAnswer, ← mem]
      split <;> rfl
    | _ => rfl

/-- What a fetch answers does not depend on what the fetch is not answered from. -/
theorem State.FetchesAs.fetchLine {s t : State} {c : CoreIx} (h : s.FetchesAs t c) (va : W64) :
    (t.fetchLine c va).2 = (s.fetchLine c va).2 := by
  have line : (t.readLine c (t.partOf (CoreIx.cluster c)) va).2 = (s.readLine c (s.partOf (CoreIx.cluster c)) va).2 := by
    rw [State.readLine_answer, State.readLine_answer, h.mem, State.partOf, h.cluster, h.translate, State.partOf]
  simp only [State.fetchLine, h.icache, h.ue]
  cases (s.core c).icache.find? fun l => l.va == va with
  | some l =>
    dsimp only
    cases s.ue.contains (UePlace.icache c va)
    · cases l.poison <;> rfl
    · rfl
  | none =>
    dsimp only
    have ue_t := State.readLine_ue t c (t.partOf (CoreIx.cluster c)) va
    have ue_s := State.readLine_ue s c (s.partOf (CoreIx.cluster c)) va
    rcases at_t : t.readLine c (t.partOf (CoreIx.cluster c)) va with ⟨y, r⟩
    rcases at_s : s.readLine c (s.partOf (CoreIx.cluster c)) va with ⟨y', r'⟩
    rw [at_t, at_s] at line
    rw [at_t] at ue_t
    rw [at_s] at ue_s
    obtain rfl : r = r' := line
    cases r with
    | line bs =>
      have same : y.ue = y'.ue := ue_t.trans (h.ue.trans ue_s.symm)
      dsimp only
      rw [same]
    | _ => rfl

theorem State.FetchesAs.parcelsAt {s t : State} {c : CoreIx} (h : s.FetchesAs t c) (ip : W64) : t.parcelsAt c ip = s.parcelsAt c ip := by
  rw [State.parcelsAt, h.fetchLine, State.parcelsAt]

theorem State.FetchesAs.after {s t : State} {c : CoreIx} (h : s.FetchesAs t c) (ip : W64) : t.after c ip = s.after c ip := by
  rw [State.after, h.parcelsAt, State.after]

end Sys2Proof.Machine
end

section
/-! PROOFS. bar.arv.rem at issue (R325, R339, R341). -/

namespace Sys2Proof.Machine

/-! ### The cluster it names -/

theorem remoteHome_gone {s : State} {x : W64} (h : s.physical (s.partOf (SlotIx.cluster s.cur)) (x.toNat % 128) = none) :
    remoteHome x s = .error (.trap 0x06 x 0) := by
  simp only [remoteHome, h]

theorem remoteHome_forbidden {s : State} {x : W64} {far : ClusterIx}
    (h : s.physical (s.partOf (SlotIx.cluster s.cur)) (x.toNat % 128) = some far)
    (no : s.permitted (SlotIx.cluster s.cur) (x.toNat % 128) far = false) : remoteHome x s = .error (.trap 0x07 x 0) := by
  simp [remoteHome, h, no]

theorem remoteHome_ok {s : State} {x : W64} {far : ClusterIx}
    (h : s.physical (s.partOf (SlotIx.cluster s.cur)) (x.toNat % 128) = some far)
    (yes : s.permitted (SlotIx.cluster s.cur) (x.toNat % 128) far = true) : remoteHome x s = .ok (far, s) := by
  simp [remoteHome, h, yes]

/-! ### The journal entry it takes -/

/-- A place that no entry of a journal has. -/
def Core.FreeEntry (c : Core) (e : Nat) : Prop := e < 32 ∧ ∀ j ∈ c.journal, j.entry ≠ e

theorem Core.mem_freeEntries (c : Core) (e : Nat) : e ∈ c.freeEntries ↔ c.FreeEntry e := by
  simp [Core.freeEntries, Core.FreeEntry, indices]

theorem Core.freeEntries_nil {c : Core} (h : ∀ e, ¬c.FreeEntry e) : c.freeEntries = [] :=
  List.eq_nil_iff_forall_not_mem.2 fun e mem => h e ((c.mem_freeEntries e).1 mem)

/-- The lowest free place is the first. -/
theorem Core.freeEntries_cons {c : Core} {e : Nat} (free : c.FreeEntry e) (lowest : ∀ i < e, ¬c.FreeEntry i) :
    ∃ es, c.freeEntries = e :: es := by
  have ascending : c.freeEntries.Pairwise (· < ·) := List.pairwise_lt_range.filter _
  have mem := (c.mem_freeEntries e).2 free
  cases entries : c.freeEntries with
  | nil => exact absurd mem (by simp [entries])
  | cons x es =>
    rw [entries] at ascending mem
    have isFree : c.FreeEntry x := (c.mem_freeEntries x).1 (by simp [entries])
    obtain rfl | later := List.mem_cons.1 mem
    · exact ⟨es, rfl⟩
    · exact absurd isFree (lowest x ((List.pairwise_cons.1 ascending).1 e later))

/-- The journal entry of a remote arrival (R151, R341). -/
def State.arrivalEntry (s : State) (edge : Bool) (id : Fin 64) (far : ClusterIx) (va : W64) (e : Nat) : JEntry :=
  ⟨e, s.uids, s.cur, s.me.uid, s.me.part, far, (s.cluster far).epoch, .arrive id s.me.mul.toNat edge, [], va, .sent⟩

/-- A remote arrival has been posted. -/
def State.postedArrival (s : State) (edge : Bool) (id : Fin 64) (far : ClusterIx) (va : W64) (e : Nat) : State :=
  { s with uids := s.uids + 1 }.modMyCore fun c => { c with journal := c.journal ++ [s.arrivalEntry edge id far va e] }

section
variable (s : State) (edge : Bool) (id : Fin 64) (far : ClusterIx) (va : W64) (e : Nat)

theorem State.postedArrival_cur : (s.postedArrival edge id far va e).cur = s.cur := rfl
theorem State.postedArrival_threads : (s.postedArrival edge id far va e).threads = s.threads := rfl
theorem State.postedArrival_me : (s.postedArrival edge id far va e).me = s.me := rfl

theorem State.postedArrival_following : (s.postedArrival edge id far va e).following = s.following := by
  have fetches : s.FetchesAs (s.postedArrival edge id far va e) (SlotIx.core s.cur) :=
    { icache := by rw [State.postedArrival, State.modMyCore, State.modCore_core_same]; rfl
      tlb := by rw [State.postedArrival, State.modMyCore, State.modCore_core_same]; rfl
      clusters := rfl, parts := rfl, pages := rfl, mem := rfl, ue := rfl }
  exact fetches.after s.me.ip

theorem State.postedArrival_journal : ((s.postedArrival edge id far va e).core (SlotIx.core s.cur)).journal =
    s.myCore.journal ++ [s.arrivalEntry edge id far va e] := by
  rw [State.postedArrival, State.modMyCore, State.modCore_core_same]
  rfl

end

theorem postArrival_ok {s : State} {e : Nat} (free : s.myCore.FreeEntry e) (lowest : ∀ i < e, ¬s.myCore.FreeEntry i) (edge : Bool)
    (id : Fin 64) (far : ClusterIx) (va : W64) : postArrival edge id far va s = .ok ((), s.postedArrival edge id far va e) := by
  obtain ⟨es, entries⟩ := Core.freeEntries_cons free lowest
  rw [postArrival, op_bind_ok (op_get s)]
  simp only [entries]
  rfl

theorem postArrival_waits {s : State} (full : ∀ e, ¬s.myCore.FreeEntry e) (edge : Bool) (id : Fin 64) (far : ClusterIx) (va : W64) :
    postArrival edge id far va s = .error (.wait .journal) := by
  rw [postArrival, op_bind_ok (op_get s)]
  simp only [Core.freeEntries_nil full]
  rfl

/-! ### The instruction -/

/-- A meaning that acts on the device, then updates its thread and advances. -/
theorem State.run_advance_after {s s' : State} {body : Op Unit} {f : Thread → Thread}
    (h : body s = .ok ((), (s'.modMe f).modMe fun t => { t with ip := s'.following })) (cur : s'.cur = s.cur) :
    s.run body = .next (s'.retire f) := by
  rw [State.run_ok h, ← cur]
  simp only [State.modMe_modMe, State.modMe_modThread, State.retire, State.goTo]

theorem State.retire_threads {s s' : State} (cur : s'.cur = s.cur) (threads : s'.threads = s.threads)
    (following : s'.following = s.following) (f : Thread → Thread) : (s'.retire f).threads = (s.retire f).threads := by
  simp only [State.retire, State.goTo, State.modMe, State.modThread, State.setThread, State.thread, cur, threads, following]

section
variable {s : State} {edge : Bool} {d a : GReg} {id : Fin 64} {far : ClusterIx} (settled : s.settledIn) (alive : s.homeAlive s.me = true)
  (plain : s.plain [.g a] [.g d])
include settled alive plain

/-- What bar.arv.rem does after its checks of the thread. -/
theorem execBarArvRem_meaning : ∃ body, exec (.barArvRem edge d a id) s = s.run body ∧ body s = (do
    let far ← remoteHome (s.me.greg a)
    edgeFirst edge
    postArrival edge id far (s.me.greg a)
    dropMark
    dstG d 0xFFFFFFFFFFFFFFFF
    advance : Op Unit) s := by
  refine ⟨_, rfl, ?_⟩
  rw [op_bind_ok (synchronised_ok settled), atHome_alive alive, op_bind_ok (ready_plain plain),
    op_bind_ok (srcG_plain (State.plain_src plain (by simp)))]

theorem execBarArvRem_gone (h : s.physical (s.partOf (SlotIx.cluster s.cur)) ((s.me.greg a).toNat % 128) = none) :
    s.traps (.barArvRem edge d a id) 0x06 (s.me.greg a) 0 := by
  obtain ⟨body, runs, meaning⟩ := execBarArvRem_meaning (edge := edge) (id := id) settled alive plain
  exact runs.trans (State.run_trap (meaning.trans (op_bind_error (remoteHome_gone h))))

theorem execBarArvRem_forbidden (h : s.physical (s.partOf (SlotIx.cluster s.cur)) ((s.me.greg a).toNat % 128) = some far)
    (no : s.permitted (SlotIx.cluster s.cur) ((s.me.greg a).toNat % 128) far = false) :
    s.traps (.barArvRem edge d a id) 0x07 (s.me.greg a) 0 := by
  obtain ⟨body, runs, meaning⟩ := execBarArvRem_meaning (edge := edge) (id := id) settled alive plain
  exact runs.trans (State.run_trap (meaning.trans (op_bind_error (remoteHome_forbidden h no))))

variable (h : s.physical (s.partOf (SlotIx.cluster s.cur)) ((s.me.greg a).toNat % 128) = some far)
  (yes : s.permitted (SlotIx.cluster s.cur) ((s.me.greg a).toNat % 128) far = true)
include h yes

theorem execBarArvRem_edge (first : ¬(edge = false ∨ s.me.edgeDone = true ∨ s.edgeRecords s.me = [])) :
    ∃ y, exec (.barArvRem edge d a id) s = .next y ∧ y.me.wait = .skimmer ∧ y.me.ip = s.me.ip ∧
      y.skims (SlotIx.core s.cur) .writeBack (s.edgeRecords s.me) s.me.uid .again := by
  obtain ⟨body, runs, meaning⟩ := execBarArvRem_meaning (edge := edge) (id := id) settled alive plain
  obtain ⟨y, next, rest⟩ := State.run_edge (meaning.trans
    ((op_bind_ok (remoteHome_ok h yes)).trans (op_bind_error (edgeFirst_stops first))))
  exact ⟨y, runs.trans next, rest⟩

variable (first : edge = false ∨ s.me.edgeDone = true ∨ s.edgeRecords s.me = [])
include first

theorem execBarArvRem_full (full : ∀ e, ¬s.myCore.FreeEntry e) : s.waits (.barArvRem edge d a id) .journal := by
  obtain ⟨body, runs, meaning⟩ := execBarArvRem_meaning (edge := edge) (id := id) settled alive plain
  refine runs.trans (State.run_wait (meaning.trans ((op_bind_ok (remoteHome_ok h yes)).trans ?_)))
  rw [op_bind_ok (edgeFirst_ok first), op_bind_error (postArrival_waits full ..)]

/-- A remote arrival is posted: its thread goes on, and its entry stands last in the journal. -/
theorem execBarArvRem_posts {e : Nat} (free : s.myCore.FreeEntry e) (lowest : ∀ i < e, ¬s.myCore.FreeEntry i) :
    ∃ y, exec (.barArvRem edge d a id) s = .next y ∧
      y.threads = (s.retire fun t => { t with mark := none }.setG d 0xFFFFFFFFFFFFFFFF).threads ∧
      (y.core (SlotIx.core s.cur)).journal = s.myCore.journal ++ [s.arrivalEntry edge id far (s.me.greg a) e] := by
  obtain ⟨body, runs, meaning⟩ := execBarArvRem_meaning (edge := edge) (id := id) settled alive plain
  refine ⟨_, runs.trans (State.run_advance_after (meaning.trans ?_) (s.postedArrival_cur edge id far (s.me.greg a) e)),
    State.retire_threads (State.postedArrival_cur ..) (State.postedArrival_threads ..) (State.postedArrival_following ..) _,
    s.postedArrival_journal edge id far (s.me.greg a) e⟩
  rw [op_bind_ok (remoteHome_ok h yes), op_bind_ok (edgeFirst_ok first), op_bind_ok (postArrival_ok free lowest edge id far _)]
  exact dropMark_dstG_advance _ (by
    rw [State.postedArrival_me]
    exact State.plain_dst plain (List.mem_singleton_self _))

end

end Sys2Proof.Machine
end

section
/-! PROOFS. A remote arrival at its barrier (R339, R341, R344), and a wait that outlasts its limit (R342, R346). -/

namespace Sys2Proof.Machine

/-! ### An entry of a journal -/

section
variable {k : Core} {j : JEntry} {before after : List JEntry} (journal : k.journal = before ++ j :: after)
  (unique : ∀ r ∈ before ++ after, r.entry ≠ j.entry)
include journal unique

theorem Core.journalEntry_split : k.journalEntry j.entry = some j := by
  rw [Core.journalEntry, journal, List.find?_append, List.find?_eq_none.2]
  · simp
  · intro r mem
    simpa using unique r (List.mem_append_left _ mem)

theorem Core.setJournal_split (st : SendState) :
    k.setJournal j.entry st = { k with journal := before ++ { j with state := st } :: after } := by
  have kept {rs : List JEntry} (others : ∀ r ∈ rs, r.entry ≠ j.entry) :
      rs.map (fun r => if r.entry == j.entry then { r with state := st } else r) = rs :=
    (List.map_congr_left fun r mem => if_neg (by simpa using others r mem)).trans (List.map_id rs)
  rw [Core.setJournal, journal, updateAll, List.map_append, List.map_cons, if_pos (beq_self_eq_true _),
    kept fun r mem => unique r (List.mem_append_left _ mem), kept fun r mem => unique r (List.mem_append_right _ mem)]

/-- An entry waits behind the unperformed ones of its thread before it for its cluster, and behind the queued tile stores of its thread
that go there and are no younger (R151, log 65). -/
theorem Core.mayPerform_split (sent : j.state = .sent) : k.mayPerform j.entry = true ↔
    ¬((∃ r ∈ before, r.w = j.w ∧ r.cl = j.cl ∧ r.state ≠ .performed) ∨
      ∃ g ∈ k.tile.segments, g.key ≤ j.key ∧ g.goesTo j.uid j.cl = true) := by
  have first : k.journal.takeWhile (fun x => x.entry != j.entry) = before := by
    rw [journal, List.takeWhile_append_of_pos fun r mem => by simpa using unique r (List.mem_append_left _ mem)]
    simp
  simp only [Core.mayPerform, Core.journalEntry_split journal unique, sent, first]
  simp only [beq_self_eq_true, Bool.true_and, Bool.and_eq_true, List.all_eq_true, not_or, not_exists, not_and,
    Bool.or_eq_true, bne_iff_ne, beq_iff_eq, decide_eq_true_eq, Bool.not_eq_true', gt_iff_lt, ← Nat.not_le]
  exact and_congr (forall₂_congr fun r _ => by tauto) (forall₂_congr fun g _ => by rw [Bool.not_eq_true]; tauto)

end

/-! ### A remote arrival -/

/-- The cluster that a posted operation goes to has been reset, drained or reassigned, or its issuer's has, or the permission has gone
(R153, R344, log 90). -/
def State.leftBehind (s : State) (j : JEntry) : Prop :=
  (s.cluster j.cl).epoch ≠ j.epoch ∨ (s.cluster j.cl).part ≠ some j.part ∨ (s.cluster (SlotIx.cluster j.w)).part ≠ some j.part ∨
    s.permitted j.cl (s.vcluster (SlotIx.cluster j.w)) (SlotIx.cluster j.w) = false

theorem State.refusal_of_leftBehind {s : State} {j : JEntry} (h : s.leftBehind j) : (s.refusal j).isSome = true := by
  simp only [State.refusal]
  split
  · rfl
  · split
    · rfl
    · next here there =>
      simp only [State.leftBehind] at h
      simp_all

theorem State.refusal_none {s : State} {j : JEntry} (h : ¬s.leftBehind j) (lanes : j.lanes = []) : (s.refusal j).isSome = false := by
  simp only [State.leftBehind, not_or, not_not, Bool.not_eq_false] at h
  obtain ⟨epoch, part, near, permitted⟩ := h
  simp [State.refusal, epoch, part, near, permitted, lanes]

section
variable {s : State} {c : CoreIx} {j : JEntry} {before after : List JEntry} {id : Fin 64} {mul : Nat} {edge : Bool}
  (journal : (s.core c).journal = before ++ j :: after) (low : j.entry < 32) (unique : ∀ r ∈ before ++ after, r.entry ≠ j.entry)
include journal low unique

theorem State.journalAt_split : s.journalAt c j.entry = some (s.core c, j) := by
  rw [State.journalAt, Nat.div_eq_of_lt low, Nat.mod_eq_of_lt low, State.view, Option.bind_some, Core.journalEntry_split journal unique]
  rfl

theorem State.setEntry_split (st : SendState) :
    s.setEntry c j.entry st = s.modCore c fun k => { k with journal := before ++ { j with state := st } :: after } := by
  rw [State.setEntry, Nat.div_eq_of_lt low, Nat.mod_eq_of_lt low, State.modView, State.modCore, Core.setJournal_split journal unique]
  rfl

variable (kind : j.kind = .arrive id mul edge) (sent : j.state = .sent)
include kind sent

theorem execRemoteBarrierArrival_split : execRemoteBarrierArrival c j.entry s =
    if (s.refusal j).isSome && (s.core c).mayPerform j.entry then .next (s.setEntry c j.entry (.gone 1))
    else if !(s.core c).mayPerform j.entry then .next s
    else .next ((s.setEntry c j.entry .queued).barrierEvent j.cl id (.remote j.key mul edge)) := by
  have queued : (SendState.sent == SendState.queued) = false := rfl
  simp only [execRemoteBarrierArrival, State.journalAt_split journal low unique, kind, sent, queued, Bool.false_or, Nat.mod_eq_of_lt low]

theorem remoteBarrierArrival_waits (waits : (s.core c).mayPerform j.entry = false) :
    exec (.remoteBarrierArrival c j.entry) s = .next s := by
  refine (execRemoteBarrierArrival_split journal low unique kind sent).trans ?_
  rw [waits, Bool.and_false]
  rfl

theorem remoteBarrierArrival_gone (performs : (s.core c).mayPerform j.entry = true) (gone : s.leftBehind j) :
    exec (.remoteBarrierArrival c j.entry) s = .next (s.modCore c fun k =>
      { k with journal := before ++ { j with state := .gone 1 } :: after }) := by
  refine (execRemoteBarrierArrival_split journal low unique kind sent).trans ?_
  rw [performs, State.refusal_of_leftBehind gone, State.setEntry_split journal low unique]
  rfl

theorem remoteBarrierArrival_joins (performs : (s.core c).mayPerform j.entry = true) (there : ¬s.leftBehind j) (lanes : j.lanes = [])
    (gathering : (s.barrier j.cl id).gathering = true) : exec (.remoteBarrierArrival c j.entry) s =
      .next ((s.modCore c fun k => { k with journal := before ++ { j with state := .queued } :: after }).setBarrier j.cl id
        { s.barrier j.cl id with port := (s.barrier j.cl id).port ++ [.remote j.key mul edge] }) := by
  refine (execRemoteBarrierArrival_split journal low unique kind sent).trans ?_
  rw [performs, State.refusal_none there lanes, State.setEntry_split journal low unique .queued]
  have same : (s.modCore c fun k => { k with journal := before ++ { j with state := .queued } :: after }).barrier j.cl id =
      s.barrier j.cl id := rfl
  rw [State.barrierEvent, same, if_pos gathering]
  rfl

end

/-! ### BAR_TIMEOUT -/

/-- A thread has waited as long as its limit allows. -/
def State.waited (s : State) (w : SlotIx) : Prop :=
  (s.thread w).bartmo ≠ 0 ∧ (s.thread w).bartmo.toNat ≤
    (BitVec.ofInt 64 ((s.core (SlotIx.core w)).cycle.toNat - (s.thread w).parkedAt.toNat)).toNat

theorem ofInt_toNat_sub (x y : W64) : BitVec.ofInt 64 ((x.toNat : Int) - y.toNat) = x - y := by
  apply BitVec.eq_of_toNat_eq
  rw [BitVec.toNat_ofInt, BitVec.toNat_sub]
  omega

theorem State.barTimedOut_iff (s : State) (w : SlotIx) : s.barTimedOut w = true ↔ s.waited w := by
  rw [State.waited, ofInt_toNat_sub]
  simp [State.barTimedOut]

section
variable {s : State} {w : SlotIx} {id : Fin 64} {p : BitVec 16}

theorem barTimeout_early (h : ¬s.waited w) : exec (.barTimeout w) s = .next s := by
  rw [← State.barTimedOut_iff, Bool.not_eq_true] at h
  exact if_pos (by rw [h]; rfl)

variable (late : s.waited w)
include late

theorem barTimeout_wait {d : GReg} (wait : (s.thread w).wait = .retry (.barWait id p d)) : exec (.barTimeout w) s =
    if (s.barrier (s.thread w).home id).phase == p then .next (s.takeTrap w false 0x21 (s.thread w).ip 0 (BitVec.ofNat 64 id.val))
    else .next s := by
  refine (if_neg (by rw [(State.barTimedOut_iff s w).2 late]; exact nofun)).trans ?_
  simp only [wait]

/-- A grpred that waits too long takes back its other effects, and leaves its mark (R346). -/
def State.groupGivesUp (s : State) (w : SlotIx) (d : Dst) (m : GrpMark) : State :=
  (s.undo w (some d)).modThread w fun t => { t with mark := some m }

theorem barTimeout_group {d : Dst} {op : GrpOp} {ty : GrpTy} (wait : (s.thread w).wait = .group d id p op ty) :
    exec (.barTimeout w) s = .next ((s.groupGivesUp w d ⟨id, p, op, ty, none, 0⟩).takeTrap w false 0x21 (s.thread w).ip 0
      (BitVec.ofNat 64 id.val)) := by
  refine (if_neg (by rw [(State.barTimedOut_iff s w).2 late]; exact nofun)).trans ?_
  simp only [wait]
  rfl

end

theorem State.groupGivesUp_spec (s : State) (w : SlotIx) (d : Dst) (m : GrpMark) :
    (s.groupGivesUp w d m).clusters = s.clusters ∧ (s.groupGivesUp w d m).mem = s.mem ∧
    (s.groupGivesUp w d m).thread w = { s.thread w with mark := some m, popped := [] } := by
  refine ⟨rfl, rfl, ?_⟩
  rw [State.groupGivesUp, State.modThread_thread_same, State.undo, State.modThread_thread_same, State.modCore_thread]

end Sys2Proof.Machine
end

section
/-! PROOFS. The barrier instructions (O51). -/

namespace Sys2Proof.Machine

section
variable {s : State}

/-! ### Before and without the home cluster -/

theorem barrier_waits_access (h : s.me.outs ≠ []) (edge : Bool) (d a b : GReg) (id : Fin 64) (op : GrpOp) (ty : GrpTy) :
    s.waits (.barArv edge d id) .access ∧ s.waits (.barArvRem edge d a id) .access ∧ s.waits (.grpred op ty edge d a b) .access ∧
      s.waits (.barWait d id) .access ∧ s.waits (.barExp d a id) .access ∧ s.waits (.barCfg d a b id) .access :=
  ⟨State.run_wait (op_bind_error (synchronised_access h)), State.run_wait (op_bind_error (synchronised_access h)),
    State.run_wait (op_bind_error (synchronised_access h)), State.run_wait (op_bind_error (synchronised_access h)),
    State.run_wait (op_bind_error (quiet_waits h)), State.run_wait (op_bind_error (quiet_waits h))⟩

theorem barrier_waits_journal (outs : s.me.outs = []) (tile : s.tileStores s.cur = false) (posted : ∃ j ∈ s.myCore.journal, j.w = s.cur)
    (edge : Bool) (d a b : GReg) (id : Fin 64) (op : GrpOp) (ty : GrpTy) :
    s.waits (.barArv edge d id) .journal ∧ s.waits (.barArvRem edge d a id) .journal ∧ s.waits (.grpred op ty edge d a b) .journal ∧
      s.waits (.barWait d id) .journal :=
  have held := synchronised_journal outs tile posted
  ⟨State.run_wait (op_bind_error held), State.run_wait (op_bind_error held), State.run_wait (op_bind_error held),
    State.run_wait (op_bind_error held)⟩

/-- An instruction does nothing but raise the TARGET_GONE of its home cluster, once (R344, log 76). -/
def State.goesPast (s : State) (i : Instr) : Prop :=
  ((∃ z ∈ s.me.pend, z.saysGone) → exec i s = .next (s.retire fun u => u)) ∧
  ((∀ z ∈ s.me.pend, ¬z.saysGone) → ∃ xs ys, s.pends s.cur 0x22 xs ys ∧ exec i s = .next (s.retire fun t =>
    { t with pend := xs ++ ([⟨0x22, s.now, 0, 1, none, none⟩] : List Async) ++ ys }))

theorem barrier_goesPast (settled : s.settledIn) (gone : s.homeAlive s.me = false) (edge : Bool) (d a b : GReg) (id : Fin 64)
    (op : GrpOp) (ty : GrpTy) : ∀ i ∈ ([.barArv edge d id, .barArvRem edge d a id, .grpred op ty edge d a b, .barWait d id, .barExp d a id,
      .barCfg d a b id] : List Instr), s.goesPast i := by
  have held := synchronised_ok settled
  have quiet_ := quiet_ok settled.1
  refine List.forall_mem_cons.2 ⟨State.run_gone rfl held gone, List.forall_mem_cons.2 ⟨State.run_gone rfl held gone,
    List.forall_mem_cons.2 ⟨State.run_gone rfl held gone, List.forall_mem_cons.2 ⟨State.run_gone rfl held gone,
    List.forall_mem_cons.2 ⟨State.run_gone rfl quiet_ gone, List.forall_mem_singleton.2 (State.run_gone rfl quiet_ gone)⟩⟩⟩⟩⟩

/-! ### At the port -/

variable {edge : Bool} {d a b : GReg} {id : Fin 64}

theorem barArv_reaches (settled : s.settledIn) (alive : s.homeAlive s.me = true) (plain : s.plain [] [.g d])
    (first : edge = false ∨ s.me.edgeDone = true ∨ s.edgeRecords s.me = []) :
    s.reaches (.barArv edge d id) d id (.arrive s.cur (.reg d) s.me.mul.toNat edge none) ∧
    ((s.barrier s.me.home id).gathering = false → (s.barrier s.me.home id).port = [] →
      (s.barrier s.me.home id).arr.toNat + s.me.mul.toNat ≤ (s.barrier s.me.home id).exp.toNat →
      ∃ y, exec (.barArv edge d id) s = .next y ∧ y.me = s.goesOnWith d id) := by
  obtain ⟨body, runs, ends⟩ := execBarArv_ends (id := id) settled alive plain first
  refine ⟨State.reaches_of_ends runs ends (beq_self_eq_true s.cur), fun alone port fits =>
    State.goesOn_of_answered runs ends (beq_self_eq_true s.cur) alone port fun s' mark same => ?_⟩
  exact State.barrierEvents_arrive mark d (by rw [same]; exact fits) edge

theorem barExp_reaches (quiet_ : s.me.outs = []) (alive : s.homeAlive s.me = true) (plain : s.plain [.g a] [.g d]) :
    s.reaches (.barExp d a id) d id (.expect s.cur (.reg d) ((s.me.greg a).setWidth 40)) ∧
    ((s.barrier s.me.home id).gathering = false → (s.barrier s.me.home id).port = [] →
      ∃ y, exec (.barExp d a id) s = .next y ∧ y.me = s.goesOnWith d id) := by
  obtain ⟨body, runs, ends⟩ := execBarExp_ends (id := id) quiet_ alive plain
  exact ⟨State.reaches_of_ends runs ends (beq_self_eq_true s.cur), fun alone port =>
    State.goesOn_of_answered runs ends (beq_self_eq_true s.cur) alone port fun s' mark _ => State.barrierEvents_expect mark d _ _ _⟩

theorem barCfg_reaches (quiet_ : s.me.outs = []) (alive : s.homeAlive s.me = true) (plain : s.plain [.g a, .g b] [.g d]) :
    s.reaches (.barCfg d a b id) d id (.config s.cur (.reg d) ((s.me.greg a).setWidth 16) ((s.me.greg b).setWidth 40)) ∧
    ((s.barrier s.me.home id).gathering = false → (s.barrier s.me.home id).port = [] →
      ∃ y, exec (.barCfg d a b id) s = .next y ∧ y.me = s.goesOnWith d id) := by
  obtain ⟨body, runs, ends⟩ := execBarCfg_ends (id := id) quiet_ alive plain
  exact ⟨State.reaches_of_ends runs ends (beq_self_eq_true s.cur), fun alone port =>
    State.goesOn_of_answered runs ends (beq_self_eq_true s.cur) alone port fun s' mark _ => State.barrierEvents_config mark d _ _ _ _⟩

/-! ### grpred -/

section
variable {op : GrpOp} {ty : GrpTy} (settled : s.settledIn) (alive : s.homeAlive s.me = true) (plain : s.plain [.g a, .g b] [.g d])
include settled alive plain

theorem grpred_edge (fresh : s.me.mark = none ∨ ∃ m, s.me.mark = some m ∧ m.id ≠ groupId (s.me.greg b))
    (first : ¬(edge = false ∨ s.me.edgeDone = true ∨ s.edgeRecords s.me = [])) :
    ∃ y, exec (.grpred op ty edge d a b) s = .next y ∧ y.me.wait = .skimmer ∧ y.me.ip = s.me.ip ∧
      y.skims (SlotIx.core s.cur) .writeBack (s.edgeRecords s.me) s.me.uid .again := by
  obtain ⟨body, runs, ends⟩ := execGrpred_ends (op := op) (ty := ty) (edge := edge) settled alive plain
  rw [groupMeaning_arrives fresh, groupArrive_stops _ _ first] at ends
  obtain ⟨y, next, rest⟩ := State.run_edge ends
  exact ⟨y, runs.trans next, rest⟩

theorem grpred_reaches (fresh : s.me.mark = none ∨ ∃ m, s.me.mark = some m ∧ m.id ≠ groupId (s.me.greg b))
    (first : edge = false ∨ s.me.edgeDone = true ∨ s.edgeRecords s.me = []) : s.reaches (.grpred op ty edge d a b) d (groupId (s.me.greg b))
      (.arrive s.cur (.reg d) s.me.mul.toNat edge (some (s.me.contribution op ty (s.me.greg a)))) := by
  obtain ⟨body, runs, ends⟩ := execGrpred_ends (op := op) (ty := ty) (edge := edge) settled alive plain
  rw [groupMeaning_arrives fresh, groupArrive_atPort (State.plain_dst plain (List.mem_singleton_self _)) _ _ first] at ends
  exact State.reaches_of_ends runs ends (beq_self_eq_true s.cur)

theorem grpred_result {m : GrpMark} (mark : s.me.mark = some m) (same : m.id = groupId (s.me.greg b)) {r : W64} (result : m.result = some r)
    (unedged : (s.barrier s.me.home (groupId (s.me.greg b))).edged = false) :
    exec (.grpred op ty edge d a b) s = .next (s.retire fun t => { t with mark := none }.setG d r) := by
  obtain ⟨body, runs, ends⟩ := execGrpred_ends (op := op) (ty := ty) (edge := edge) settled alive plain
  rw [mark, ← same, groupMeaning_again] at ends
  exact runs.trans (State.run_advance (ends.trans
    (groupAgain_result result (State.plain_dst plain (List.mem_singleton_self _)) (same ▸ unedged))))

theorem grpred_waitsOn {m : GrpMark} (mark : s.me.mark = some m) (same : m.id = groupId (s.me.greg b)) (result : m.result = none) :
    exec (.grpred op ty edge d a b) s = .next (s.modMe fun t => { t with
      mark := none
      wait := .group (.reg d) m.id m.phase m.op m.ty
      resume := s.following
      parkedAt := s.myCore.cycle - m.waited }) := by
  obtain ⟨body, runs, ends⟩ := execGrpred_ends (op := op) (ty := ty) (edge := edge) settled alive plain
  rw [mark, ← same, groupMeaning_again, groupAgain_waits result (State.plain_dst plain (List.mem_singleton_self _))] at ends
  exact runs.trans (State.run_parks ends rfl)

end

end

end Sys2Proof.Machine

namespace Sys2Proof
open Machine

/-- Settles O51: each instruction is followed through its checks to the update port, where its event joins those of the cycle or is
evaluated at once, and an evaluation leaves nothing of the wait of the thread that its events come from. -/
theorem barrierInstructions : Obligations.BarrierInstructions := by
  unfold Obligations.BarrierInstructions
  refine ⟨?_, ?_, ?_⟩
  · intro s edge d a b id op ty tm t here near home alive bar gid rs next edges asks reaches answered value arv rem_ red team
    have isAlive : s.homeAlive s.me = true ↔ alive := State.homeAlive_iff team
    have contributes : s.me.contribution op ty (s.me.greg a) = ⟨s.me.team.toNat * 128 + s.me.tid.toNat, op, ty, value⟩ :=
      Thread.contribution_eq s.me op ty (s.me.greg a)
    refine ⟨fun h => barrier_waits_access h edge d a b id op ty, ?_, ?_, ?_, ?_, ?_, ?_, ?_, ?_⟩
    · intro settled gone
      exact barrier_goesPast settled (Bool.eq_false_iff.2 (gone ∘ isAlive.1)) edge d a b id op ty
    · exact fun outs tile posted => barrier_waits_journal outs tile posted edge d a b id op ty
    · intro settled live plain
      exact ⟨execBarArv_edge settled (isAlive.2 live) plain, barArv_reaches settled (isAlive.2 live) plain⟩
    · intro outs live plain
      rw [BitVec.ofNat_toNat]
      exact barExp_reaches outs (isAlive.2 live) plain
    · intro outs live plain
      rw [BitVec.ofNat_toNat, BitVec.ofNat_toNat]
      exact barCfg_reaches outs (isAlive.2 live) plain
    · intro settled live plain p records
      have read : p = (s.me.greg d).setWidth 16 := BitVec.ofNat_toNat ..
      rw [read]
      exact ⟨execBarWait_waits settled (isAlive.2 live) plain, execBarWait_retires settled (isAlive.2 live) plain,
        execBarWait_edge settled (isAlive.2 live) plain⟩
    · intro settled live plain
      refine ⟨fun fresh => ⟨grpred_edge settled (isAlive.2 live) plain fresh, ?_⟩, fun m mark same => ⟨?_, ?_⟩⟩
      · rw [← contributes]
        exact grpred_reaches settled (isAlive.2 live) plain fresh
      · exact fun r result unedged => grpred_result settled (isAlive.2 live) plain mark same result unedged
      · exact grpred_waitsOn settled (isAlive.2 live) plain mark same
    · intro settled live plain v free
      refine ⟨execBarArvRem_gone settled (isAlive.2 live) plain, fun far names =>
        ⟨execBarArvRem_forbidden settled (isAlive.2 live) plain names, fun yes =>
          ⟨execBarArvRem_edge settled (isAlive.2 live) plain names yes, execBarArvRem_full settled (isAlive.2 live) plain names yes, ?_⟩⟩⟩
      intro first e isFree lowest
      obtain ⟨y, posted⟩ := execBarArvRem_posts settled (isAlive.2 live) plain names yes first isFree lowest
      exact ⟨y, s.uids, posted⟩
  · intro s c j before after id mul edge near gone bar set waits journal low unique kind sent
    have performs : (s.core c).mayPerform j.entry = true ↔ ¬waits := Core.mayPerform_split journal unique sent
    refine ⟨fun waiting => remoteBarrierArrival_waits journal low unique kind sent
      (Bool.eq_false_iff.2 fun may => performs.1 may waiting), fun ready_ => ⟨?_, ?_⟩⟩
    · exact remoteBarrierArrival_gone journal low unique kind sent (performs.2 ready_)
    · exact remoteBarrierArrival_joins journal low unique kind sent (performs.2 ready_)
  · intro s w id p d op ty t waited phase
    refine ⟨barTimeout_early, fun late wait => ⟨fun same => ?_, fun moved => ?_⟩, fun late wait => ?_⟩
    · exact (barTimeout_wait late wait).trans (if_pos (beq_iff_eq.2 same))
    · exact (barTimeout_wait late wait).trans (if_neg (moved ∘ beq_iff_eq.1))
    · exact ⟨_, barTimeout_group late wait, State.groupGivesUp_spec s w (.reg d) _⟩

end Sys2Proof
end

section
/-! PROOFS. The encoder and the decoder (R42 to R49, R52): what a parcel says of the fields packed in it, what each field says of the
operand written in it, and the instruction that the fields of an instruction name. -/

namespace Sys2Proof

/-! ### Fields side by side -/

section
variable {m n p q : Nat}

theorem cut_three (x : BitVec m) (y : BitVec n) (z : BitVec p) : (x ++ y ++ z).extractLsb' (n + p) m = x ∧
    (x ++ y ++ z).extractLsb' p n = y ∧ (x ++ y ++ z).extractLsb' 0 p = z := by
  refine ⟨?_, ?_, BitVec.extractLsb'_append_eq_right⟩
  · rw [BitVec.extractLsb'_append_eq_of_le (Nat.le_add_left p n), Nat.add_sub_cancel, BitVec.extractLsb'_append_eq_left]
  · rw [BitVec.extractLsb'_append_eq_of_le (Nat.le_refl p), Nat.sub_self, BitVec.extractLsb'_append_eq_right]

theorem cut_four (x : BitVec m) (y : BitVec n) (z : BitVec p) (w : BitVec q) : (x ++ y ++ z ++ w).extractLsb' (n + p + q) m = x ∧
    (x ++ y ++ z ++ w).extractLsb' (p + q) n = y ∧ (x ++ y ++ z ++ w).extractLsb' q p = z ∧ (x ++ y ++ z ++ w).extractLsb' 0 q = w := by
  obtain ⟨hx, hy, hz⟩ := cut_three x y z
  refine ⟨?_, ?_, ?_, BitVec.extractLsb'_append_eq_right⟩
  · rw [BitVec.extractLsb'_append_eq_of_le (Nat.le_add_left q _), Nat.add_sub_cancel, hx]
  · rw [BitVec.extractLsb'_append_eq_of_le (Nat.le_add_left q _), Nat.add_sub_cancel, hy]
  · rw [BitVec.extractLsb'_append_eq_of_le (Nat.le_refl q), Nat.sub_self, hz]

theorem join_three (x : BitVec (m + n + p)) : x.extractLsb' (n + p) m ++ x.extractLsb' p n ++ x.extractLsb' 0 p = x := by
  rw [BitVec.extractLsb'_append_extractLsb'_eq_extractLsb' (Nat.add_comm n p), BitVec.extractLsb'_append_extractLsb'_eq_extractLsb'
    (Nat.zero_add p).symm, BitVec.extractLsb'_eq_self]

theorem join_four (x : BitVec (m + n + p + q)) :
    x.extractLsb' (n + p + q) m ++ x.extractLsb' (p + q) n ++ x.extractLsb' q p ++ x.extractLsb' 0 q = x := by
  rw [BitVec.extractLsb'_append_extractLsb'_eq_extractLsb' (by omega), BitVec.extractLsb'_append_extractLsb'_eq_extractLsb'
    (Nat.add_comm p q), BitVec.extractLsb'_append_extractLsb'_eq_extractLsb' (Nat.zero_add q).symm, BitVec.extractLsb'_eq_self]

end

section
variable (x : Fields)

@[simp] theorem headTl_packHead : headTl (packHead x) = x.form.tl := (cut_three x.form.tl x.op x.d).1
@[simp] theorem headOp_packHead : headOp (packHead x) = x.op := (cut_three x.form.tl x.op x.d).2.1
@[simp] theorem headD_packHead : headD (packHead x) = x.d := (cut_three x.form.tl x.op x.d).2.2

theorem packRRK_fields : (packRRK x).extractLsb' 10 6 = x.a ∧ (packRRK x).extractLsb' 4 6 = x.b ∧
    (packRRK x).extractLsb' 1 3 = x.k ∧ (packRRK x).extractLsb' 0 1 = x.z := cut_four x.a x.b x.k x.z

theorem packRRF_fields : (packRRF x).extractLsb' 10 6 = x.a ∧ (packRRF x).extractLsb' 4 6 = x.b ∧
    (packRRF x).extractLsb' 0 4 = x.f := cut_three x.a x.b x.f

theorem packMOD_fields : (packMOD x).extractLsb' 13 3 = x.ty ∧ (packMOD x).extractLsb' 11 2 = x.rm ∧
    (packMOD x).extractLsb' 6 5 = x.fn ∧ (packMOD x).extractLsb' 0 6 = x.c := cut_four x.ty x.rm x.fn x.c

end

/-- The fields that the form of a head has; the others are 0. -/
def Fields.trim (x : Fields) : Fields :=
  match x.form with
  | .f0 => { form := x.form, op := x.op, d := x.d }
  | .f1 => { form := x.form, op := x.op, d := x.d, a := x.a, b := x.b, k := x.k, z := x.z }
  | .f2 => { form := x.form, op := x.op, d := x.d, a := x.a, b := x.b, k := x.k, z := x.z, ty := x.ty, rm := x.rm, fn := x.fn, c := x.c }
  | .f3 => { form := x.form, op := x.op, d := x.d, a := x.a, b := x.b, f := x.f, i16 := x.i16 }
  | .f4 => { form := x.form, op := x.op, d := x.d, a := x.a, b := x.b, f := x.f, i32 := x.i32 }
  | .f5 => { form := x.form, op := x.op, d := x.d, a := x.a, b := x.b, k := x.k, z := x.z, ty := x.ty, rm := x.rm, fn := x.fn, c := x.c, i16 := x.i16 }

theorem readFields_parcels {x : Fields} {h : Parcel} {tail : List Parcel} (form : formOf x.op = some x.form)
    (parcels : x.parcels = h :: tail) : tail.length = (headTl h).toNat ∧ readFields h tail = .ok x.trim := by
  obtain ⟨rfl, rfl⟩ := List.cons.inj parcels
  rw [headTl_packHead]
  have op : formOf (headOp (packHead x)) = some x.form := by rw [headOp_packHead, form]
  cases fm : x.form 
  all_goals
    refine ⟨rfl, ?_⟩
    simp [readFields, form, Fields.trim, fm, packRRK_fields, packRRF_fields, packMOD_fields]
  exact BitVec.extractLsb'_append_extractLsb'_eq_extractLsb' rfl |>.trans BitVec.extractLsb'_eq_self

theorem parcels_of_readFields {x : Fields} {h : Parcel} {tail : List Parcel} (read : readFields h tail = .ok x)
    (length : tail.length = (headTl h).toNat) : x.parcels = h :: tail := by
  unfold readFields at read
  split at read
  · cases read
  next fm form =>
  split at read
  · cases read
  next tl =>
  have tl : headTl h = fm.tl := not_not.1 tl
  have head : fm.tl ++ headOp h ++ headD h = h := tl ▸ join_three (m := 2) (n := 8) (p := 6) h
  have rrk (p : Parcel) : p.extractLsb' 10 6 ++ p.extractLsb' 4 6 ++ p.extractLsb' 1 3 ++ p.extractLsb' 0 1 = p := 
    join_four (m := 6) (n := 6) (p := 3) (q := 1) p
  have rrf (p : Parcel) : p.extractLsb' 10 6 ++ p.extractLsb' 4 6 ++ p.extractLsb' 0 4 = p := 
    join_three (m := 6) (n := 6) (p := 4) p
  have mod (p : Parcel) : p.extractLsb' 13 3 ++ p.extractLsb' 11 2 ++ p.extractLsb' 6 5 ++ p.extractLsb' 0 6 = p := 
    join_four (m := 3) (n := 2) (p := 5) (q := 6) p
  rw [tl] at length
  cases fm
  all_goals cases read
  case f0 => 
    obtain rfl := List.length_eq_zero_iff.1 length
    simp [Fields.parcels, packHead, head]
  case f1 =>
    obtain ⟨p, rfl⟩ := List.length_eq_one_iff.1 length
    simp [Fields.parcels, packHead, packRRK, head, rrk]
  case f2 =>
    obtain ⟨p, q, rfl⟩ := List.length_eq_two.1 length
    simp [Fields.parcels, packHead, packRRK, packMOD, head, rrk, mod]
  case f3 =>
    obtain ⟨p, q, rfl⟩ := List.length_eq_two.1 length
    simp [Fields.parcels, packHead, packRRF, head, rrf]
  case f4 =>
    obtain ⟨p, q, r, rfl⟩ := List.length_eq_three.1 length
    simp [Fields.parcels, packHead, packRRF, head, rrf]
    exact ⟨BitVec.extractLsb'_append_eq_right, BitVec.extractLsb'_append_eq_left⟩
  case f5 => 
    obtain ⟨p, q, r, rfl⟩ := List.length_eq_three.1 length
    simp [Fields.parcels, packHead, packRRK, packMOD, head, rrk, mod]

theorem fieldsOf_form {i : Instr} {x : Fields} (h : fieldsOf i = some x) : formOf x.op = some x.form ∧ x.trim = x := by
  cases i
  case vld d a v n m => cases v <;> cases h <;> exact ⟨rfl, rfl⟩
  case vst d a v n k => cases v <;> cases h <;> exact ⟨rfl, rfl⟩
  case tepi ty act rm d a b n => cases act <;> cases h <;> exact ⟨rfl, rfl⟩
  case ringget d a b n => cases b <;> cases h <;> exact ⟨rfl, rfl⟩
  all_goals cases h
  all_goals exact ⟨rfl, rfl⟩

/-! ### Operands in their fields -/

@[simp] theorem gBits_toNat (r : GReg) : (gBits r).toNat = r.val := by simp only [gBits, BitVec.toNat_ofNat]; omega
@[simp] theorem vBits_toNat (r : VReg) : (vBits r).toNat = 32 + r.val := by simp only [vBits, BitVec.toNat_ofNat]; omega
@[simp] theorem kBits_toNat (r : KReg) : (kBits r).toNat = r.val := by simp only [kBits, BitVec.toNat_ofNat]; omega
@[simp] theorem kBits3_toNat (r : KReg) : (kBits3 r).toNat = r.val := by simp only [kBits3, BitVec.toNat_ofNat]; omega

@[simp] theorem gOf_gBits (r : GReg) : gOf (gBits r) = .ok r := by simp [gOf]
@[simp] theorem vOf_vBits (r : VReg) : vOf (vBits r) = .ok r := by simp [vOf, Nat.mod_eq_of_lt r.isLt]
@[simp] theorem kOf_kBits (r : KReg) : kOf (kBits r) = .ok r := by simp [kOf]
@[simp] theorem gvOf_gvBits (r : GV) : gvOf (gvBits r) = r := by
  cases r with
  | g r => simp [gvOf, gvBits]
  | v r => simp [gvOf, gvBits, Nat.mod_eq_of_lt r.isLt]

@[simp] theorem bit1_eq_one (b : Bool) : (bit1 b == 1#1) = b := by cases b <;> rfl

@[simp] theorem condOf_code (c : Cond) : condOf c.code = .ok c := by cases c <;> rfl
@[simp] theorem etyOf_code (ty : ETy) : etyOf ty.code = .ok ty := by cases ty <;> rfl
@[simp] theorem ldwOf_code (w : LdW) : ldwOf w.code = .ok w := by cases w <;> rfl
@[simp] theorem extwOf_code (w : ExtW) : extwOf w.code = .ok w := by cases w <;> rfl
@[simp] theorem amoOpOf_code (op : AmoOp) : amoOpOf op.code = .ok op := by cases op <;> rfl
@[simp] theorem amoTyOf_code (ty : AmoTy) : amoTyOf ty.code = .ok ty := by cases ty <;> rfl
@[simp] theorem rgnOf_code (m : RgnMode) : rgnOf m.code = .ok m := by cases m <;> rfl
@[simp] theorem fenceOf_code (k : FenceKind) : fenceOf k.code = .ok k := by cases k <;> rfl
@[simp] theorem tzOf_code (k : TzKind) : tzOf k.code = .ok k := by cases k <;> rfl
@[simp] theorem rmOf_code (rm : RMode) : rmOf rm.code = .ok rm := by cases rm <;> rfl
@[simp] theorem grpTyOf_code (ty : GrpTy) : grpTyOf ty.code = .ok ty := by cases ty <;> rfl
@[simp] theorem tflagsOf_code (fl : TFlags) : tflagsOf fl.code = fl := by
  obtain ⟨promote, first, pop⟩ := fl
  cases promote <;> cases first <;> cases pop <;> rfl

/-- The source type of vcvt stands in FN5 (R119). -/
theorem vcvtFn_fields {ty : ETy} {fn : BitVec 5} (h : ty.code.setWidth 5 = fn) : fn.toNat < 8 ∧ etyOf (fn.setWidth 3) = .ok ty := by
  subst h
  cases ty <;> exact ⟨by decide, rfl⟩

/-- FN5 of grpred has its flag above two zeros and its operation (R346). -/
theorem grpFn_fields {edge : Bool} {op : GrpOp} {fn : BitVec 5} (h : bit1 edge ++ (0 : BitVec 2) ++ op.code = fn) :
    grpOpOf (fn.setWidth 2) = op ∧ fn.getLsbD 4 = edge := by
  subst h
  cases edge <;> cases op <;> exact ⟨rfl, rfl⟩

/-- FN5 of tacc has its direction above the group (R271). -/
theorem taccFn_fields {put : Bool} {g : Fin 4} {fn : BitVec 5} (h : BitVec.ofNat 5 ((if put then 16 else 0) + g.val) = fn) :
    fn.getLsbD 4 = put ∧ fn.toNat % 4 = g.val := by
  subst h
  revert put g
  decide

/-- I16 of bar.arv has its flags above the barrier's number (R324, R341). -/
theorem barArv_fields {remote edge : Bool} {i : Fin 64} {x : BitVec 16}
    (h : BitVec.ofNat 16 (i.val + (if remote then 128 else 0) + if edge then 64 else 0) = x) :
    x.toNat < 256 ∧ x.getLsbD 7 = remote ∧ x.getLsbD 6 = edge ∧ x.toNat % 64 = i.val := by
  subst h
  revert remote edge i
  decide

/-! ### The instruction that fields name -/

@[simp] theorem Except.ok_bind {ε α β : Type} (a : α) (f : α → Except ε β) : (Except.ok a >>= f) = f a := rfl
@[simp] theorem Except.pure_eq_ok {ε α : Type} (a : α) : (pure a : Except ε α) = .ok a := rfl
@[simp] theorem need_true : need true = .ok () := rfl
@[simp] theorem rmOf_zero : rmOf 0#2 = .ok .rne := rfl
@[simp] theorem etyOf_zero : etyOf 0#3 = .ok .s32 := rfl
@[simp] theorem etyOf_two : etyOf 2#3 = .ok .f32 := rfl

/-- The condition of vcmp is one of its type (R120). -/
theorem need_vcondOf {α : Type} (c : VCond) (ty : ETy) (f : VCond → Except DecodeErr α) :
    (do need ty.isWord; let v ← vcondOf ty c.code; f v) = (do
      need (match c with
        | .int _ => ty == .s32 || ty == .n32
        | .flt _ => ty == .f32)
      f c) := by
  cases c with
  | int c => cases ty <;> cases c <;> rfl
  | flt c => cases ty <;> cases c <;> rfl

/-- A number below a bound is its remainder by anything that the bound does not exceed. -/
theorem Fin.val_mod_of_le {n m : Nat} (h : n ≤ m) (i : Fin n) : i.val % m = i.val := Nat.mod_eq_of_lt (i.isLt.trans_le h)

/-- The fields of an instruction name it, when it is well formed, and are reserved otherwise (R46, R52): one opcode after the other,
each field read gives the operand that was written in it. -/
theorem parse_fieldsOf {i : Instr} {x : Fields} (h : fieldsOf i = some x) : parse x = (do need i.wf; return i) := by
  cases i
  case nop | rlx | trap | rett | yield | exit | tlbinvAll | b | rgnclr | spawn | edge | tsync | greset | grelease =>
    cases h
    rfl
  -- Registers, immediates and coded fields, each read by itself.
  case rdc | wrc | splock | spunlock | tlbinvPage | tlbinvRange | cxsave | cxload | add | sub | mul | mulhs | mulhn | divs | divn |
      rems | remn | and | or | xor | andn | shl | shr | sar | mins | minn | maxs | maxn | cmp | cmpi | sel | clz | ctz | popc | ext |
      addi | andi | ori | xori | shli | shri | sari | li | lih | bz | bnz | bcc | call | callr | jr | vsel | vext | vins | vredsum |
      vredmin | vredmax | vmaxi | vmini | kand | kor | kxor | knot | kmovKk | kmovKg | kmovGk | kpopc | rngadv | ld | st | fence |
      amo | amocas | vamo | amodrain | rgn | rgnadd | fork | join | frame | unmerge | tmac | tmacr | tzero | tplane | tscale | gclaim |
      gdelay | gdelayGet | gmode | xgo | xwait | xstat | xcancel | qmap | migrate =>
    cases h
    show (_ >>= _) = _
    simp [Instr.wf, parseRed, kField]
  -- A mask beside them (R111).
  case vadd | vsub | vmul | vfma | vmin | vmax | vabs | vneg | vand | vor | vxor | vshl | vshr | vsar | vperm | vrot | vrcp | vrsqrt |
      vsqrt | vdiv | vlog2 | vexp2 | vresid | vscan | vpopc | vclass | vmov | vidx =>
    cases h
    show (_ >>= _) = _
    simp [Instr.wf, parseV3, maskOf]
  -- A number in part of F or of I16.
  case mbput | mbget | tscaleKey | send | recv | barWait | barExp | barCfg =>
    cases h
    show (_ >>= _) = _
    simp [Instr.wf, idField, Fin.val_mod_of_le]
  case lea d a b s n =>
    have fits : (s.setWidth 4).toNat < 4 := by rw [BitVec.toNat_setWidth]; omega
    cases h
    show (_ >>= _) = _
    simp [Instr.wf, -BitVec.toNat_setWidth, fits]
  case meet d a n =>
    have fits : (n.setWidth 16).toNat < 256 := by rw [BitVec.toNat_setWidth]; omega
    cases h
    show (_ >>= _) = _
    simp [Instr.wf, -BitVec.toNat_setWidth, fits]
  -- A flag, or an operand of several forms.
  case glaunch d f | glaunchGo d f | ldsync f d a b n | stfill f d a b n | femark f a b n | pref f a b n | idset f d |
      ringput f d a b n =>
    cases f
    all_goals
      cases h
      show (_ >>= _) = _
      simp [Instr.wf, bit1]
  case vrng d f m =>
    cases f
    all_goals
      cases h
      show (_ >>= _) = _
      simp [Instr.wf, maskOf]
  case ringget d a b n =>
    cases b
    all_goals
      cases h
      show (_ >>= _) = _
      simp [Instr.wf]
  case vld d a v n m =>
    cases v
    all_goals
      cases h
      show (_ >>= _) = _
      simp [Instr.wf, vaddrOf, maskOf]
  case vst d a v n k =>
    cases v
    all_goals
      cases h
      show (_ >>= _) = _
      simp [Instr.wf, vaddrOf, kField]
  case tepi ty act rm d a b n =>
    cases act
    all_goals
      cases h
      show (_ >>= _) = _
      simp [Instr.wf, Except.map]
  -- One opcode for two instructions, told apart by a field.
  case gcapScalar d a =>
    cases h
    show (ite _ _ _) = _
    simp [Instr.wf]
  case gcap d g i =>
    cases g
    all_goals
      cases i
      all_goals
        cases h
        show (ite _ _ _) = _
        simp [Instr.wf, bit1]
  case taccGet o d a g m =>
    cases h
    show (_ >>= _) = _
    generalize fn : BitVec.ofNat 5 g.val = x
    obtain ⟨get, group⟩ := taccFn_fields (put := false) (by rw [if_neg nofun, Nat.zero_add, fn])
    cases o <;> simp [Instr.wf, maskOf, -BitVec.getLsbD_eq_getElem, get, group]
  case taccPut o d a g k =>
    cases h
    show (_ >>= _) = _
    generalize fn : BitVec.ofNat 5 (16 + g.val) = x
    obtain ⟨put, group⟩ := taccFn_fields (put := true) fn
    cases o <;> simp [Instr.wf, kField, -BitVec.getLsbD_eq_getElem, put, group]
  case barArv e d i =>
    cases h
    show (_ >>= _) = _
    generalize i16 : BitVec.ofNat 16 (i.val + if e then 64 else 0) = x
    obtain ⟨fits, local_, edge, id⟩ := barArv_fields (remote := false) i16
    simp [Instr.wf, idField, -BitVec.getLsbD_eq_getElem, fits, local_, edge, id]
  case barArvRem e d a i =>
    cases h
    show (_ >>= _) = _
    generalize i16 : BitVec.ofNat 16 (i.val + 128 + if e then 64 else 0) = x
    obtain ⟨fits, remote, edge, id⟩ := barArv_fields (remote := true) i16
    simp [Instr.wf, idField, -BitVec.getLsbD_eq_getElem, fits, remote, edge, id]
  case grpred op ty e d a b =>
    cases h
    show (_ >>= _) = _
    generalize fn : bit1 e ++ (0 : BitVec 2) ++ op.code = x
    obtain ⟨op, edge⟩ := grpFn_fields fn
    simp [Instr.wf, -BitVec.getLsbD_eq_getElem, op, edge]
  -- A field whose meaning the type in another decides.
  case vcvt d a dst src rm part m =>
    cases h
    show (_ >>= _) = _
    generalize fn : src.code.setWidth 5 = x
    obtain ⟨fits, type⟩ := vcvtFn_fields fn
    simp [Instr.wf, maskOf, fits, type]
  case vcmp c ty d a b m =>
    cases h
    show (_ >>= _) = _
    simp only [etyOf_code, Except.ok_bind]
    refine (need_vcondOf c ty _).trans ?_
    cases c <;> simp [Instr.wf, maskOf]
  all_goals cases h

/-! ### Encoding and decoding -/

theorem encode_eq_some {i : Instr} {ps : List Parcel} : encode i = some ps ↔ ∃ x, fieldsOf i = some x ∧ x.parcels = ps := by
  simp [encode]

theorem parse_ok_iff_wf {i : Instr} {x : Fields} (h : fieldsOf i = some x) : parse x = .ok i ↔ i.wf = true := by
  rw [parse_fieldsOf h]
  cases i.wf
  · exact ⟨nofun, nofun⟩
  · exact ⟨fun _ => rfl, fun _ => rfl⟩

/-- What decodes is what the fields of the parcels name and has those fields (R52). -/
theorem decode_ok_iff {i : Instr} {h : Parcel} {tail : List Parcel} :
    decode h tail = .ok i ↔ ∃ x, readFields h tail = .ok x ∧ parse x = .ok i ∧ fieldsOf i = some x := by
  unfold decode
  cases read : readFields h tail with
  | error e => simp
  | ok x =>
    cases named : parse x with
    | error e => simp [named]
    | ok j =>
      by_cases same : fieldsOf j = some x
      · have unique : j = i → fieldsOf i = some x := fun h => h ▸ same
        simpa [named, same] using unique
      · have other : j = i → ¬fieldsOf i = some x := fun h => h ▸ same
        simpa [named, same] using other

/-- The parcels of a well-formed instruction decode to it. -/
theorem decode_of_encode {i : Instr} {h : Parcel} {tail : List Parcel} (wf : i.wf = true) (parcels : encode i = some (h :: tail)) :
    decode h tail = .ok i := by
  obtain ⟨x, fields, parcels⟩ := encode_eq_some.1 parcels
  obtain ⟨form, trim⟩ := fieldsOf_form fields
  exact decode_ok_iff.2 ⟨x, trim ▸ (readFields_parcels form parcels).2, (parse_ok_iff_wf fields).2 wf, fields⟩

/-- The opcodes of the table of R48 that no form uses are the reserved ones (R49). -/
theorem formOf_eq_none_iff (op : BitVec 8) : formOf op = none ↔ (op.toNat = 0x06 ∨ op.toNat = 0x0E ∨ op.toNat = 0x0F ∨
    (0x33 ≤ op.toNat ∧ op.toNat ≤ 0x37) ∨ op.toNat = 0x3F ∨ op.toNat = 0x65 ∨ (0x6F ≤ op.toNat ∧ op.toNat ≤ 0x7F) ∨
    (0x8B ≤ op.toNat ∧ op.toNat ≤ 0x8F) ∨ (0x94 ≤ op.toNat ∧ op.toNat ≤ 0x9F) ∨ (0xA8 ≤ op.toNat ∧ op.toNat ≤ 0xAF) ∨
    (0xB3 ≤ op.toNat ∧ op.toNat ≤ 0xBF) ∨ (0xC8 ≤ op.toNat ∧ op.toNat ≤ 0xCF) ∨ op.toNat = 0xD7 ∨
    (0xDC ≤ op.toNat ∧ op.toNat ≤ 0xDF) ∨ 0xEB ≤ op.toNat) := by
  revert op
  decide +kernel

section
variable {h : Parcel} {tail : List Parcel}

theorem decode_reserved (reserved : formOf (headOp h) = none) : decode h tail = .error .reservedOp := by
  simp [decode, readFields, reserved]

theorem decode_tailLength {fm : Form} (form : formOf (headOp h) = some fm) (other : headTl h ≠ fm.tl) :
    decode h tail = .error .tailLength := by
  simp [decode, readFields, form, other]

end

/-- Settles O1: the fields of the parcels are those of the instruction, and they name it exactly when it is well formed. -/
theorem decodeEncode : Obligations.DecodeEncode := by
  unfold Obligations.DecodeEncode
  refine ⟨fun i h tail wf parcels => ⟨?length, decode_of_encode wf parcels⟩, fun i h tail decoded length => ?inverse⟩
  case length =>
    obtain ⟨x, fields, parcels⟩ := encode_eq_some.1 parcels
    exact (readFields_parcels (fieldsOf_form fields).1 parcels).1
  case inverse =>
    obtain ⟨x, read, named, fields⟩ := decode_ok_iff.1 decoded
    exact ⟨(parse_ok_iff_wf fields).1 named, encode_eq_some.2 ⟨x, fields, parcels_of_readFields read length⟩⟩

/-- Settles O2: the words are those that the encoder writes for the instructions, and the opcodes without a form are the reserved
ones. -/
theorem decodeWords : Obligations.DecodeWords := by
  unfold Obligations.DecodeWords
  refine ⟨decode_of_encode rfl rfl, decode_of_encode rfl rfl, decode_of_encode rfl rfl, decode_of_encode rfl rfl,
    decode_of_encode rfl rfl, decode_of_encode rfl rfl, decode_of_encode rfl rfl, decode_of_encode rfl rfl, decode_of_encode rfl rfl,
    decode_of_encode rfl rfl, decode_of_encode rfl rfl, decode_of_encode rfl rfl, decode_of_encode rfl rfl, decode_of_encode rfl rfl,
    fun h tail => ?_⟩
  intro op reserved
  have none_ : formOf (headOp h) = none ↔ reserved := formOf_eq_none_iff (headOp h)
  refine ⟨fun yes => decode_reserved (none_.2 yes), fun no => ?_⟩
  obtain ⟨fm, form⟩ := Option.ne_none_iff_exists'.1 (no ∘ none_.1)
  exact ⟨fm, form, decode_tailLength form⟩

end Sys2Proof
end

section
/-! PROOFS. Transfers of control: targets, branches, calls, jumps, nop and yield (R38 to R40, R103, R104, R106, R107). -/

namespace Sys2Proof.Machine

/-! ### The target of a transfer (R38 to R40) -/

/-- The base of a line is a multiple of 64 (R37). -/
theorem lineBase_eq (ip : W64) : lineBase ip = BitVec.ofNat 64 (ip.toNat / 64 * 64) := by
  apply BitVec.eq_of_getLsbD_eq
  intro i hi
  have low : (0x3F#64).getLsbD i = decide (i < 6) := Nat.testBit_two_pow_sub_one 6 i
  have high : (ip.toNat / 2 ^ 6 * 2 ^ 6).testBit i = (decide (6 ≤ i) && ip.toNat.testBit i) := by
    rw [Nat.testBit_mul_two_pow, Nat.testBit_div_two_pow]
    by_cases h : 6 ≤ i
    · rw [Nat.sub_add_cancel h]
    · simp [h]
  rw [BitVec.getLsbD_ofNat, show ip.toNat / 64 * 64 = ip.toNat / 2 ^ 6 * 2 ^ 6 from rfl, high, lineBase]
  simp only [BitVec.getLsbD_and, BitVec.getLsbD_not, low, hi, decide_true, Bool.true_and, BitVec.testBit_toNat]
  by_cases h : i < 6
  · simp [h, Nat.not_le.2 h]
  · simp [h, Nat.not_lt.1 h]

/-- A direct target lies in the line that the offset names, at its head index (R38). -/
theorem directTarget_eq (ip : W64) (i32 : BitVec 32) : directTarget ip i32 =
    BitVec.ofInt 64 ((ip.toNat / 64 * 64 : Nat) + 64 * (i32.toInt / 32) + (i32.toNat % 32 : Nat)) := by
  have lines : (i32.extractLsb' 5 27).toInt = i32.toInt / 32 := by
    rw [BitVec.toInt_eq_toNat_cond, BitVec.toInt_eq_toNat_cond, BitVec.extractLsb'_toNat, Nat.shiftRight_eq_div_pow]
    split <;> split <;> omega
  have head : (i32.extractLsb' 0 5).setWidth 64 = BitVec.ofNat 64 (i32.toNat % 32) := by
    apply BitVec.eq_of_toNat_eq
    simp [BitVec.extractLsb'_toNat]
  rw [directTarget, lineBase_eq, head, BitVec.signExtend, lines, BitVec.ofInt_add, BitVec.ofInt_add, BitVec.ofInt_mul,
    BitVec.ofInt_natCast, BitVec.ofInt_natCast, BitVec.mul_comm (BitVec.ofInt 64 64)]
  rfl

section
variable {s t : State} {target : W64}

theorem checkTarget_ok {ps : List Parcel} (h : s.enter (SlotIx.core s.cur) target = (t, .ok ps)) :
    checkTarget target s = .ok ((), t) := by
  simp [checkTarget, h]

theorem checkTarget_fault {code : BitVec 8} {aux : W64} (h : s.enter (SlotIx.core s.cur) target = (t, .fault code aux)) :
    checkTarget target s = .error (.trap code target aux) := by
  simp [checkTarget, h]

/-- A transfer that is taken continues at its target, or traps at the transfer (R38, R39). -/
def State.takes (s : State) (i : Instr) (target : W64) (f : Thread → Thread) : Prop :=
  (∀ t ps, s.enter (SlotIx.core s.cur) target = (t, .ok ps) → exec i s = .next (t.goTo target f)) ∧
  ∀ t code aux, s.enter (SlotIx.core s.cur) target = (t, .fault code aux) → s.traps i code target aux

theorem State.takes_of_body {i : Instr} {body : Op Unit} (runs : exec i s = s.run body)
    (ends : body s = (do checkTarget target; jumpTo target : Op Unit) s) : s.takes i target id := by
  refine ⟨fun t ps entered => ?_, fun t code aux refused => ?_⟩
  · rw [runs]
    exact State.run_goTo (f := id) (ends.trans (op_bind_ok (checkTarget_ok entered))) (State.enter_cur entered)
  · rw [State.traps, runs]
    exact State.run_trap (ends.trans (op_bind_error (checkTarget_fault refused)))

theorem State.takes_of_link {i : Instr} {body : Op Unit} {d : GReg} (plain : s.me.maps (.g d) = false) (runs : exec i s = s.run body)
    (ends : body s = (do checkTarget target; dstG d s.following; jumpTo target : Op Unit) s) :
    s.takes i target fun t => t.setG d s.following := by
  refine ⟨fun t ps entered => ?_, fun t code aux refused => ?_⟩
  · have own : t.me.maps (.g d) = false := by rw [State.enter_me entered, plain]
    have ends : body s = .ok ((), t.modMe fun x => { x.setG d s.following with ip := target }) := by
      rw [ends, op_bind_ok (checkTarget_ok entered), op_bind_ok (dstG_plain _ own), jumpTo, op_modify, State.modMe_modMe]
    rw [runs]
    exact State.run_goTo (f := fun x => x.setG d s.following) ends (State.enter_cur entered)
  · rw [State.traps, runs]
    exact State.run_trap (ends.trans (op_bind_error (checkTarget_fault refused)))

end

/-! ### The slots that a yield waits for (R107) -/

/-- A sum of distinct powers of two has the bits of its exponents. -/
theorem foldl_two_pow_testBit {n : Nat} (p : Fin n → Bool) (k : Fin n) :
    ((List.finRange n).foldl (fun acc i => if p i then acc + 2 ^ i.val else acc) 0).testBit k.val = p k := by
  have sums : ∀ n (p : Fin n → Bool), let x := (List.finRange n).foldl (fun acc i => if p i then acc + 2 ^ i.val else acc) 0
      x < 2 ^ n ∧ ∀ k : Fin n, x.testBit k.val = p k := by
    intro n
    induction n with
    | zero => exact fun p => ⟨by simp, fun k => k.elim0⟩
    | succ n ih =>
      intro p
      obtain ⟨below, bits⟩ := ih fun i => p i.castSucc
      simp only [List.finRange_succ_last, List.foldl_append, List.foldl_map, List.foldl_cons, List.foldl_nil, Fin.val_castSucc, Fin.val_last]
      generalize (List.finRange n).foldl _ 0 = x at below bits ⊢
      refine ⟨by split <;> omega, fun k => ?_⟩
      induction k using Fin.lastCases with
      | last => 
        split 
        · next h => rw [Fin.val_last, Nat.add_comm, Nat.testBit_two_pow_add_eq, Nat.testBit_lt_two_pow below, h]; rfl
        · next h => rw [Fin.val_last, Nat.testBit_lt_two_pow below, Bool.eq_false_iff.2 h]
      | cast k => 
        split
        · rw [Fin.val_castSucc, Nat.add_comm, Nat.testBit_two_pow_add_gt k.isLt, bits]
        · exact bits k
  exact (sums n p).2 k

/-- Another slot of the core that is ready (R107). -/
def State.readyBeside (s : State) (n : Fin 16) : Bool :=
  slotOf (SlotIx.core s.cur) n != s.cur && s.mayTry (slotOf (SlotIx.core s.cur) n) && (s.thread (slotOf (SlotIx.core s.cur) n)).wait == .run

theorem State.readyOthers_getLsbD (s : State) (n : Fin 16) : s.readyOthers.getLsbD n.val = s.readyBeside n := by
  simp only [State.readyOthers, slotsOf, List.foldl_map, SlotIx.num_slotOf, BitVec.getLsbD_ofNat, n.isLt, decide_true, Bool.true_and]
  exact foldl_two_pow_testBit s.readyBeside n

/-- The IP of the current thread makes no other slot ready. -/
theorem State.readyBeside_modMe (s : State) (ip : W64) (n : Fin 16) :
    (s.modMe fun t => { t with ip := ip }).readyBeside n = s.readyBeside n := by
  by_cases me : slotOf (SlotIx.core s.cur) n = s.cur
  · simp [State.readyBeside, me]
  · have other : (s.modMe fun t => { t with ip := ip }).thread (slotOf (SlotIx.core s.cur) n) = s.thread (slotOf (SlotIx.core s.cur) n) :=
      State.modThread_thread_ne _ _ _ _ (Ne.symm me)
    have live (x : SlotIx) : ((s.modMe fun t => { t with ip := ip }).thread x).occ = (s.thread x).occ ∧
        ((s.modMe fun t => { t with ip := ip }).thread x).uid = (s.thread x).uid := by
      rw [State.modMe, State.modThread_thread]
      split <;> exact ⟨rfl, rfl⟩
    simp only [State.readyBeside, State.mayTry, State.mayIssue, State.modMe_cur, other, State.modMe_core, live]

theorem execYield_eq (s : State) : exec .yield s = .next (s.retire fun t =>
    { t with yielded := (s.modMe fun t => { t with ip := s.following }).readyOthers, yieldTo := s.myCore.cycle + 16 }) := by
  have ends : (do advance; modify fun s => s.modMe fun t => { t with yielded := s.readyOthers, yieldTo := s.myCore.cycle + 16 } : Op Unit) s =
      .ok ((), (s.modMe fun t => { t with ip := s.following }).modMe fun t =>
        { t with yielded := (s.modMe fun t => { t with ip := s.following }).readyOthers, yieldTo := s.myCore.cycle + 16 }) := by
    rw [op_bind_ok (advance_eq s), op_modify]
    rfl
  rw [State.modMe_modMe] at ends
  exact State.run_goTo (f := fun t => 
    { t with yielded := (s.modMe fun t => { t with ip := s.following }).readyOthers, yieldTo := s.myCore.cycle + 16 }) ends rfl

/-- A slot that has yielded may not try while a ready slot has not issued and the 16 cycles last (R107). -/
theorem State.mayTry_yielded {s : State} {w : SlotIx} (yielded : (s.thread w).yielded ≠ 0)
    (early : (s.core (SlotIx.core w)).cycle.toNat < (s.thread w).yieldTo.toNat) : s.mayTry w = false := by
  have some_ : ((s.thread w).yielded == 0) = false := beq_eq_false_iff_ne.2 yielded
  have soon : (s.core (SlotIx.core w)).cycle.ult (s.thread w).yieldTo = true := by simpa [BitVec.ult] using early
  simp only [State.mayTry, some_, soon, Bool.not_true, Bool.or_self, Bool.and_false, Bool.false_and]

theorem Cond.holds_iff {w : Nat} (c : Cond) (x y : BitVec w) : c.holds x y = true ↔ Condition c x y := by
  cases c <;> simp [Cond.holds, Condition, BitVec.toNat_inj, BitVec.slt, BitVec.sle, BitVec.ult, BitVec.ule]

/-! ### The transfers -/

theorem directIf_taken (target : BitVec 32) (s : State) : directIf true target s =
    (do checkTarget (directTarget s.me.ip target); jumpTo (directTarget s.me.ip target) : Op Unit) s := rfl

section
variable {s : State} {d a b : GReg} {i32 : BitVec 32}

theorem execB_takes : s.takes (.b i32) (directTarget s.me.ip i32) id :=
  State.takes_of_body rfl (directIf_taken i32 s)

/-- A branch on one register reads it and decides (R103). -/
theorem branch_body (plain : s.plain [.g a] []) (cond : W64 → Bool) : (do
    ready [.g a] []
    let x ← srcG a
    directIf (cond x) i32 : Op Unit) s = directIf (cond (s.me.greg a)) i32 s := by
  rw [op_bind_ok (ready_plain plain), op_bind_ok (srcG_plain (State.plain_src plain (List.mem_singleton_self _)))]

theorem execBz_takes (plain : s.plain [.g a] []) (zero : s.me.greg a = 0) : s.takes (.bz a i32) (directTarget s.me.ip i32) id :=
  State.takes_of_body rfl ((branch_body plain (· == 0)).trans (by rw [zero]; exact directIf_taken i32 s))

theorem execBz_passes (plain : s.plain [.g a] []) (some_ : s.me.greg a ≠ 0) : exec (.bz a i32) s = .next (s.retire id) :=
  State.run_pass ((branch_body plain (· == 0)).trans (by rw [beq_eq_false_iff_ne.2 some_]; rfl))

theorem execBnz_takes (plain : s.plain [.g a] []) (some_ : s.me.greg a ≠ 0) : s.takes (.bnz a i32) (directTarget s.me.ip i32) id :=
  State.takes_of_body rfl ((branch_body plain (· != 0)).trans (by rw [bne_iff_ne.2 some_]; exact directIf_taken i32 s))

theorem execBnz_passes (plain : s.plain [.g a] []) (zero : s.me.greg a = 0) : exec (.bnz a i32) s = .next (s.retire id) :=
  State.run_pass ((branch_body plain (· != 0)).trans (by rw [zero]; rfl))

theorem execBcc_body (plain : s.plain [.g a, .g b] []) (c : Cond) : (do
    ready [.g a, .g b] []
    let x ← srcG a
    let y ← srcG b
    directIf (c.holds x y) i32 : Op Unit) s = directIf (c.holds (s.me.greg a) (s.me.greg b)) i32 s := by
  rw [op_bind_ok (ready_plain plain), op_bind_ok (srcG_plain (State.plain_src plain (by simp))),
    op_bind_ok (srcG_plain (State.plain_src plain (by simp)))]

theorem execJr_takes (plain : s.plain [.g a] []) : s.takes (.jr a) (s.me.greg a) id :=
  State.takes_of_body rfl (by
    rw [op_bind_ok (ready_plain plain), op_bind_ok (srcG_plain (State.plain_src plain (List.mem_singleton_self _)))])

theorem execCall_takes (plain : s.plain [] [.g d]) :
    s.takes (.call d i32) (directTarget s.me.ip i32) fun t => t.setG d s.following :=
  State.takes_of_link (State.plain_dst plain (List.mem_singleton_self _)) rfl (by
    rw [op_bind_ok (ready_plain plain)]
    rfl)

theorem execCallr_takes (plain : s.plain [.g a] [.g d]) : s.takes (.callr d a) (s.me.greg a) fun t => t.setG d s.following :=
  State.takes_of_link (State.plain_dst plain (List.mem_singleton_self _)) rfl (by
    rw [op_bind_ok (ready_plain plain), op_bind_ok (srcG_plain (State.plain_src plain (List.mem_singleton_self _)))]
    rfl)

end

end Sys2Proof.Machine

namespace Sys2Proof
open Machine

/-- Settles O9: each transfer reads its operands, then is one check of its target, whose two outcomes are those of the entry. -/
theorem transfersOfControl : Obligations.TransfersOfControl := by
  unfold Obligations.TransfersOfControl
  intro s d a b cc i32 here direct x y takes passes
  have target : direct = directTarget s.me.ip i32 := (directTarget_eq s.me.ip i32).symm
  have direct_takes {i : Instr} {f : Thread → Thread} (h : s.takes i (directTarget s.me.ip i32) f) : takes i direct f := target ▸ h
  refine ⟨State.run_pass (advance_eq s), ⟨_, execYield_eq s, fun n => ?_⟩, fun w => State.mayTry_yielded, direct_takes execB_takes,
    fun plain => ⟨fun zero => ⟨direct_takes (execBz_takes plain zero), execBnz_passes plain zero⟩,
      fun some_ => ⟨direct_takes (execBnz_takes plain some_), execBz_passes plain some_⟩, execJr_takes plain⟩,
    fun plain => ⟨fun holds => ?_, fun fails => ?_⟩, fun plain => direct_takes (execCall_takes plain), execCallr_takes⟩
  · rw [State.readyOthers_getLsbD, State.readyBeside_modMe]
    simp [State.readyBeside, here, and_assoc]
  · rw [← Cond.holds_iff] at holds
    exact direct_takes (State.takes_of_body rfl ((execBcc_body plain cc).trans (by rw [holds]; exact directIf_taken i32 s)))
  · rw [← Cond.holds_iff, Bool.not_eq_true] at fails
    exact State.run_pass ((execBcc_body plain cc).trans (by rw [fails]; rfl))

end Sys2Proof
end

section
/-! PROOFS. Refutation of the statement about caches and walks (R140): a state that meets the premises of its clause about an
eviction and that the model takes elsewhere. -/

namespace Sys2Proof.Machine

/-- A line of 64 bytes 0 at physical address 0, whose first byte is dirty. -/
def L1Line.zeros : L1Line := { pa := 0, vas := [0], bytes := List.replicate 64 0, dirty := 1 }

/-- That line in the first core's L1, over a memory that lists address 0 twice. -/
def State.evictTwice : State :=
  { State.reset.modCore 0 fun k => { k with l1 := [L1Line.zeros] } with mem := Memory.twice 0 }

theorem State.evictTwice_find :
    (State.evictTwice.core 0).l1.find? (fun l => l.pa == 0) = some L1Line.zeros := by decide +kernel

theorem State.evictTwice_eviction :
    Leaves (.l1Eviction 0 0) State.evictTwice (fun y => y.mem.get 0 == 5) = true := by decide +kernel

end Sys2Proof.Machine

namespace Sys2Proof

open Sys2Proof.Machine

/-- Refutes O27: the clause that an eviction leaves a line's dirty bytes in memory. Nothing in it asks for the canonical form
of the memory (State.MemoryOk): where address 0 is listed twice, a dirty byte 0 takes the first entry away, and the second is
read. -/
theorem not_cachesAndWalks : ¬ Obligations.CachesAndWalks := by
  unfold Obligations.CachesAndWalks
  rintro ⟨-, -, moves⟩
  obtain ⟨-, evicts, -⟩ := moves State.evictTwice 0
  obtain ⟨y, hy, -, -, -, -, written, -⟩ := evicts 0 L1Line.zeros State.evictTwice_find (List.length_replicate ..)
  have zero : y.mem.get 0 = 0 := written 0 (by decide)
  have hidden := of_leaves State.evictTwice_eviction hy
  rw [zero] at hidden
  exact absurd hidden (by decide)

end Sys2Proof
end

section
/-! PROOFS. Traps, stops, returns and the delivery of pending events (R356 to R359, R364 to R370). -/

namespace Sys2Proof.Machine

/-! ### What a completion record leaves -/

section
variable (s : State) (f : FuncIx) (q : Fin 16) (r : Completion)

theorem State.complete_clusters : (s.complete f q r).clusters = s.clusters := by
  simp only [State.complete, State.putRecord, State.busWrite]
  split
  · rfl
  · split <;> rfl

theorem State.complete_cores : (s.complete f q r).cores = s.cores := by
  simp only [State.complete, State.putRecord, State.busWrite]
  split
  · rfl
  · split <;> rfl

theorem State.busWrite_setThread (a : Nat) (bs : List Byte) (w : SlotIx) (t : Thread) :
    (s.setThread w t).busWrite f a bs = (s.busWrite f a bs).setThread w t := by
  rw [State.busWrite, State.busWrite, apply_ite (State.setThread · w t)]
  rfl

/-- A record does not depend on a thread. -/
theorem State.complete_setThread (w : SlotIx) (t : Thread) : (s.setThread w t).complete f q r = (s.complete f q r).setThread w t := by
  simp only [State.complete, State.putRecord, State.busWrite_setThread]
  rw [apply_ite (State.setThread · w t)]
  rfl

end

section
variable (s : State) (w : SlotIx) (r : Completion)

theorem State.faultRecord_clusters : (s.faultRecord w r).clusters = s.clusters := by
  simp only [State.faultRecord]
  split
  · rfl
  · exact State.complete_clusters ..

theorem State.faultRecord_cores : (s.faultRecord w r).cores = s.cores := by
  simp only [State.faultRecord]
  split
  · rfl
  · exact State.complete_cores ..

end

/-! ### The trap registers and the stop -/

/-- A thread with the four trap registers of a trap (R356). -/
def Thread.saving (t : Thread) (async ppriv : Bool) (code : BitVec 8) (ip va aux : W64) : Thread := { t with
  trapcause := BitVec.ofNat 10 (code.toNat + (if ppriv then 2 ^ 8 else 0) + if async then 2 ^ 9 else 0)
  trapip := BitVec.ofNat 57 ip.toNat
  trapva := va
  trapaux := aux }

theorem causeWord_eq (async ppriv : Bool) (code : BitVec 8) :
    causeWord async ppriv code = BitVec.ofNat 10 (code.toNat + (if ppriv then 2 ^ 8 else 0) + if async then 2 ^ 9 else 0) := by
  refine congrArg (BitVec.ofNat 10) ?_
  cases async <;> cases ppriv <;> simp [boolNat] <;> omega

theorem Thread.trapRegs_eq (t : Thread) (async ppriv : Bool) (code : BitVec 8) (ip va aux : W64) :
    t.trapRegs async ppriv code ip va aux = t.saving async ppriv code ip va aux := by
  simp only [Thread.trapRegs, Thread.saving, causeWord_eq, BitVec.ofNat_toNat]

/-- The code of a trap cause is the code that was saved. -/
theorem Thread.saving_code (t : Thread) (async ppriv : Bool) (code : BitVec 8) (ip va aux : W64) :
    ((t.saving async ppriv code ip va aux).trapcause.extractLsb' 0 8).toNat = code.toNat := by
  have := code.isLt
  simp only [Thread.saving, BitVec.extractLsb'_toNat, BitVec.toNat_ofNat, Nat.shiftRight_zero]
  cases async <;> cases ppriv <;> simp <;> omega

theorem Thread.saving_ip (t : Thread) (async ppriv : Bool) (code : BitVec 8) (ip va aux : W64) :
    (t.saving async ppriv code ip va aux).trapip.setWidth 64 = BitVec.ofNat 64 (ip.toNat % 2 ^ 57) := by
  refine BitVec.eq_of_toNat_eq ?_
  simp [Thread.saving]

/-- The record of a stop (R407). -/
def stopRecord (code entry : BitVec 8) (ip va aux : W64) : Completion :=
  { kind := 4, cause := code.toNat, entry := entry.toNat, ip := BitVec.ofNat 64 (ip.toNat % 2 ^ 57), va := va, aux := aux }

/-- In a state y, the thread of a slot of s has stopped in place of its handler, with its record, and nothing else of the device
is otherwise (R359). -/
def State.Stops (s y : State) (w : SlotIx) (async : Bool) (code : BitVec 8) (ip va aux : W64) (ppriv : Bool) (entry : BitVec 8) : Prop :=
  let t := s.thread w
  y.thread w = { t.saving async ppriv code ip va aux with wait := .stopped entry } ∧ (∀ q, q ≠ w → y.thread q = s.thread q) ∧
  y.clusters = s.clusters ∧ y.cores = s.cores ∧
  ∀ tm, s.teamOf t = some tm →
    let u := s.complete tm.fn (queueIx tm.fdom)
      { stopRecord code entry ip va aux with cseq := tm.cseq, team := t.team, slot := s.globalSlot w }
    y.pages = u.pages ∧ y.mem = u.mem ∧ y.hostMem = u.hostMem

theorem State.stopThread_stops (s : State) (w : SlotIx) (async ppriv : Bool) (code : BitVec 8) (ip va aux : W64) (entry : BitVec 8) :
    s.Stops ((s.setThread w ((s.thread w).trapRegs async ppriv code ip va aux)).stopThread w entry) w async code ip va aux ppriv entry := by
  rw [Thread.trapRegs_eq]
  change s.Stops ((s.modThread w fun t => t.saving async ppriv code ip va aux).stopThread w entry) w async code ip va aux ppriv entry
  have record : (s.modThread w fun t => t.saving async ppriv code ip va aux).stopThread w entry =
      ((s.modThread w fun t => t.saving async ppriv code ip va aux).faultRecord w (stopRecord code entry ip va aux)).modThread w
        fun t => { t with wait := .stopped entry } := by
    rw [State.stopThread, State.modThread_thread_same, Thread.saving_code, Thread.saving_ip]
    rfl
  rw [record]
  refine ⟨?_, fun q other => ?_, ?_, ?_, fun tm team => ?_⟩
  · rw [State.modThread_thread_same, State.thread, State.faultRecord_threads, ← State.thread, State.modThread_thread_same]
  · rw [State.modThread_thread_ne _ _ _ _ other.symm, State.thread, State.faultRecord_threads, ← State.thread,
      State.modThread_thread_ne _ _ _ _ other.symm]
  · exact State.faultRecord_clusters ..
  · exact State.faultRecord_cores ..
  · have same : (s.modThread w fun t => t.saving async ppriv code ip va aux).faultRecord w (stopRecord code entry ip va aux) =
        (s.complete tm.fn (queueIx tm.fdom) { stopRecord code entry ip va aux with
          cseq := tm.cseq, team := (s.thread w).team, slot := s.globalSlot w }).modThread w
            fun _ => (s.thread w).saving async ppriv code ip va aux := by
      rw [State.faultRecord, State.modThread_thread_same,
        show (s.modThread w fun t => t.saving async ppriv code ip va aux).teamOf ((s.thread w).saving async ppriv code ip va aux) =
          some tm from team]
      exact State.complete_setThread ..
    rw [same]
    exact ⟨rfl, rfl, rfl⟩

/-! ### Taking a trap (R356, R359) -/

section
variable {s : State} {w : SlotIx} {async : Bool} (code : BitVec 8) (ip va aux : W64)

theorem State.takeTrap_inHandler (h : ((s.thread w).handler && !async) = true) :
    s.Stops (s.takeTrap w async code ip va aux) w async code ip va aux true 0 := by
  obtain rfl : async = false := by
    cases async
    · rfl
    · simp at h
  rw [State.takeTrap, if_pos h]
  exact State.stopThread_stops s w false _ code ip va aux _

variable (h : ((s.thread w).handler && !async) = false)
include h

theorem State.takeTrap_noVector (none_ : (s.thread w).trapvec = 0) :
    s.Stops (s.takeTrap w async code ip va aux) w async code ip va aux (s.thread w).priv 0 := by
  rw [State.takeTrap, if_neg (Bool.eq_false_iff.1 h), if_pos (beq_iff_eq.2 none_)]
  exact State.stopThread_stops s w async _ code ip va aux _

variable (vector : (s.thread w).trapvec ≠ 0) {u : State}
include vector

/-- The handler is entered. -/
theorem State.takeTrap_enters {ps : List Parcel} (enter : s.enter (SlotIx.core w) ((s.thread w).trapvec.setWidth 64) = (u, .ok ps)) :
    s.takeTrap w async code ip va aux = u.modThread w fun _ => { (s.thread w).saving async (s.thread w).priv code ip va aux with
      priv := true, handler := true, ip := (s.thread w).trapvec.setWidth 64, wait := .run, pjent := 0, edgeDone := false,
      parks := false } := by
  have same : u.thread w = s.thread w := by
    have threads := (s.enter_keeps (SlotIx.core w) ((s.thread w).trapvec.setWidth 64)).2
    rw [enter] at threads
    exact congrArg (·[w]) threads
  rw [State.takeTrap, if_neg (Bool.eq_false_iff.1 h), if_neg fun e => vector (beq_iff_eq.1 e), enter]
  simp only [Thread.trapRegs_eq, State.modThread, same]

theorem State.takeTrap_faults {entry : BitVec 8} {x : W64}
    (enter : s.enter (SlotIx.core w) ((s.thread w).trapvec.setWidth 64) = (u, .fault entry x)) :
    s.Stops (s.takeTrap w async code ip va aux) w async code ip va aux (s.thread w).priv entry := by
  rw [State.takeTrap, if_neg (Bool.eq_false_iff.1 h), if_neg fun e => vector (beq_iff_eq.1 e), enter]
  exact State.stopThread_stops s w async _ code ip va aux _

variable {ipa : Nat} (enter : s.enter (SlotIx.core w) ((s.thread w).trapvec.setWidth 64) = (u, .host ipa))
include enter

theorem State.takeTrap_declined (declined : (s.thread w).wait = .declined ipa) :
    s.Stops (s.takeTrap w async code ip va aux) w async code ip va aux (s.thread w).priv 0x0A := by
  rw [State.takeTrap, if_neg (Bool.eq_false_iff.1 h), if_neg fun e => vector (beq_iff_eq.1 e), enter]
  simp only [declined, beq_self_eq_true, if_true]
  exact State.stopThread_stops s w async _ code ip va aux _

theorem State.takeTrap_asksHost (asks : (s.thread w).wait ≠ .declined ipa) :
    (s.takeTrap w async code ip va aux).thread w = { s.thread w with wait := .hostStage ipa } := by
  rw [State.takeTrap, if_neg (Bool.eq_false_iff.1 h), if_neg fun e => vector (beq_iff_eq.1 e), enter]
  simp only [beq_iff_eq, asks, if_false]
  rw [State.hostWait, State.modThread_thread_same, State.thread, State.faultRecord_threads, ← State.thread]

end

/-! ### Privileged instructions, and the return (R50, R367, R370) -/

theorem privileged_user {s : State} (h : s.me.priv = false) : privileged s = .error (.trap 0x04 0 s.headParcels) := by
  simp [privileged, h]

theorem privileged_ok {s : State} (h : s.me.priv = true) : privileged s = .ok ((), s) := by simp [privileged, h]

/-- An instruction that is privileged before all else raises PRIV in user mode. -/
theorem State.traps_user {s : State} {i : Instr} {body : Op Unit} (user : s.me.priv = false)
    (runs : exec i s = s.run (do privileged; body)) : s.traps i 0x04 0 s.headParcels :=
  runs.trans (State.run_trap (op_bind_error (privileged_user user)))

/-- The thread of a trap goes on where the trap registers say (R370). -/
def Thread.returned (t : Thread) : Thread := { t with
  ip := t.trapip.setWidth 64
  priv := t.trapcause.getLsbD 8
  handler := false
  wait := .run
  popped := []
  edgeDone := false
  parks := false }

theorem execRett_eq {s : State} (h : s.me.priv = true) : exec .rett s = .next ((s.resolveNamed s.cur).modThread s.cur Thread.returned) := by
  have runs : exec .rett s = .next ((s.returnTrap s.cur).modThread s.cur Thread.settled) :=
    State.run_ok (op_bind_ok (privileged_ok h))
  rw [runs, State.returnTrap, State.modThread_modThread]
  rfl

section
variable (s : State) (w : SlotIx)

/-- The entries that the latest delivered trap named, as its handler decided them. -/
def State.decides (a : Async) : State :=
  let drop := (s.thread w).trapaux.getLsbD 63
  (s.modThread w fun t => { t with named := none }).modCore (SlotIx.core w) fun c => { c with
    journal := match a.journal with
      | none => c.journal
      | some e => if drop then c.journal.filter fun j => j.entry != e
        else updateAll c.journal (fun j => j.entry == e) fun j => { j with state := .sent }
    retry := match a.retry with
      | none => c.retry
      | some e => if drop then c.retry.filter fun j => j.entry != e
        else updateAll c.retry (fun j => j.entry == e) fun j => { j with state := .sent, tries := 0 } }

theorem State.modCore_of_eq {s : State} {c : CoreIx} {f : Core → Core} (h : f (s.core c) = s.core c) : s.modCore c f = s := by
  simp only [State.modCore, h, State.setCore]
  exact congrArg (fun x => { s with cores := x }) (Vector.set_getElem_self ..)

theorem State.resolveNamed_none (h : (s.thread w).named = none) : s.resolveNamed w = s := by simp only [State.resolveNamed, h]

theorem State.resolveNamed_some {a : Async} (h : (s.thread w).named = some a) : s.resolveNamed w = s.decides w a := by
  simp only [State.resolveNamed, h, State.decides]
  cases a.journal <;> cases a.retry
  · exact (State.modCore_of_eq rfl).symm
  · rfl
  · rfl
  · exact State.modCore_modCore ..

/-- What a handler has decided about an entry of the journal. -/
theorem State.decides_journal {a : Async} {e : Nat} (h : a.journal = some e) : ((s.decides w a).core (SlotIx.core w)).journal =
    if (s.thread w).trapaux.getLsbD 63 then (s.core (SlotIx.core w)).journal.filter fun j => j.entry != e
    else (s.core (SlotIx.core w)).journal.map fun j => if j.entry = e then { j with state := .sent } else j := by
  simp only [State.decides, State.modCore_core_same, State.modThread_core, h, updateAll, beq_iff_eq]

/-- What a handler has decided about an entry of the retry buffer. -/
theorem State.decides_retry {a : Async} {e : Nat} (h : a.retry = some e) : ((s.decides w a).core (SlotIx.core w)).retry =
    if (s.thread w).trapaux.getLsbD 63 then (s.core (SlotIx.core w)).retry.filter fun j => j.entry != e
    else (s.core (SlotIx.core w)).retry.map fun j => if j.entry = e then { j with state := .sent, tries := 0 } else j := by
  simp only [State.decides, State.modCore_core_same, State.modThread_core, h, updateAll, beq_iff_eq]

end

/-- What a return from a trap that named an entry leaves. -/
theorem execRett_named {s : State} {e : Async} (priv : s.me.priv = true) (named : s.me.named = some e) :
    ∃ y, exec .rett s = .next y ∧ y.me = { (s.modMe Thread.returned).me with named := none } ∧ y.mem = s.mem ∧
      (∀ i, e.journal = some i → y.myCore.journal = if s.me.trapaux.getLsbD 63 then s.myCore.journal.filter fun j => j.entry != i
        else s.myCore.journal.map fun j => if j.entry = i then { j with state := .sent } else j) ∧
      (∀ i, e.retry = some i → y.myCore.retry = if s.me.trapaux.getLsbD 63 then s.myCore.retry.filter fun j => j.entry != i
        else s.myCore.retry.map fun j => if j.entry = i then { j with state := .sent, tries := 0 } else j) := by
  refine ⟨(s.decides s.cur e).modThread s.cur Thread.returned, ?_, ?_, rfl, fun i => State.decides_journal s s.cur,
    fun i => State.decides_retry s s.cur⟩
  · rw [execRett_eq priv, State.resolveNamed_some s s.cur named]
  · refine (State.modThread_thread_same ..).trans ?_
    rw [State.modMe_me, State.decides, State.modCore_thread, State.modThread_thread_same]
    rfl

/-! ### A wait is withdrawn (R154) -/

/-- The thread of a slot waits for nothing and stands in no list: its instruction is to execute afresh. -/
def State.afresh (s : State) (w : SlotIx) : State :=
  ((s.leaveQueues w).undo w none).modThread w fun t => { t with wait := .run, edgeDone := false, parks := false }

section
variable (s : State) (w : SlotIx)

theorem State.unreserve_unclaimed (h : (s.thread w).claimed = []) : s.unreserve w = s := by simp [State.unreserve, h]

/-- A wait that has taken nothing yet. -/
theorem State.withdraw_afresh (claimed : (s.thread w).claimed = [])
    (h : (s.thread w).wait = .run ∨ (∃ why, (s.thread w).wait = .retry why) ∨ (s.thread w).wait = .exiting) :
    s.withdraw w = s.afresh w := by
  obtain h | ⟨why, h⟩ | h := h <;> simp only [State.withdraw, h, State.unreserve_unclaimed s w claimed] <;> rfl

theorem State.afresh_thread : (s.afresh w).thread w =
    { s.thread w with wait := .run, edgeDone := false, parks := false, popped := [] } := by
  rw [State.afresh, State.modThread_thread_same, State.undo, State.modThread_thread_same]
  rfl

theorem State.afresh_onlyAt : s.OnlyAt (s.afresh w) w := fun q other => by
  rw [State.afresh, State.modThread_thread_ne _ _ _ _ other, State.undo, State.modThread_thread_ne _ _ _ _ other]
  rfl

theorem State.afresh_core : (s.afresh w).core (SlotIx.core w) =
    (((s.leaveQueues w).undo w none).core (SlotIx.core w)) := rfl

theorem State.undo_core (d : Option Dst) : ((s.undo w d).core (SlotIx.core w)).retry = (s.core (SlotIx.core w)).retry ∧
    ((s.undo w d).core (SlotIx.core w)).icache = (s.core (SlotIx.core w)).icache ∧
    ((s.undo w d).core (SlotIx.core w)).tlb = (s.core (SlotIx.core w)).tlb := by
  rw [State.undo, State.modThread_core, State.modCore_core_same]
  exact ⟨rfl, rfl, rfl⟩

theorem State.leaveQueues_core : ((s.leaveQueues w).core (SlotIx.core w)).retry = (s.core (SlotIx.core w)).retry ∧
    ((s.leaveQueues w).core (SlotIx.core w)).icache = (s.core (SlotIx.core w)).icache ∧
    ((s.leaveQueues w).core (SlotIx.core w)).tlb = (s.core (SlotIx.core w)).tlb := by
  rw [State.leaveQueues, State.modCore_core_same]
  exact ⟨rfl, rfl, rfl⟩

theorem State.afresh_retry : ((s.afresh w).core (SlotIx.core w)).retry = (s.core (SlotIx.core w)).retry :=
  (State.undo_core _ w none).1.trans (State.leaveQueues_core s w).1

/-- The fetches of its core are answered as before. -/
theorem State.afresh_fetchesAs : s.FetchesAs (s.afresh w) (SlotIx.core w) where
  icache := (State.undo_core _ w none).2.1.trans (State.leaveQueues_core s w).2.1
  tlb := (State.undo_core _ w none).2.2.trans (State.leaveQueues_core s w).2.2
  clusters := rfl
  parts := rfl
  pages := rfl
  mem := rfl
  ue := rfl

end

/-! ### What entering a line leaves of a core -/

/-- What entering a line answers does not depend on what its fetch is not answered from. -/
theorem State.FetchesAs.enter {s t : State} {c : CoreIx} (h : s.FetchesAs t c) (ip : W64) : (t.enter c ip).2 = (s.enter c ip).2 := by
  have same := h.fetchLine (lineBase ip)
  rw [State.enter, State.enter]
  rcases at_t : t.fetchLine c (lineBase ip) with ⟨t', r⟩
  rcases at_s : s.fetchLine c (lineBase ip) with ⟨s', r'⟩
  rw [at_t, at_s] at same
  obtain rfl : r = r' := same
  cases r with
  | line bs =>
    dsimp only
    cases !lineOk (lineParcels bs)
    · cases headIx ip == 0 || headIx ip > lineNh (lineParcels bs) <;> rfl
    · rfl
  | _ => rfl

/-- Two states whose cores hold the same messages for other cores. -/
structure State.SameRetry (s t : State) : Prop where
  core : ∀ d, (t.core d).retry = (s.core d).retry

theorem State.SameRetry.refl (s : State) : s.SameRetry s := ⟨fun _ => rfl⟩

theorem State.SameRetry.trans {s t u : State} (h : s.SameRetry t) (h' : t.SameRetry u) : s.SameRetry u :=
  ⟨fun d => (h'.core d).trans (h.core d)⟩

theorem State.sameRetry_modCore (s : State) (c : CoreIx) {f : Core → Core} (h : ∀ k, (f k).retry = k.retry) :
    s.SameRetry (s.modCore c f) := by
  refine ⟨fun d => ?_⟩
  rw [State.modCore_core]
  split
  · exact h _
  · rfl

theorem State.sameRetry_of_cores {s t : State} (h : t.cores = s.cores) : s.SameRetry t :=
  ⟨fun d => congrArg Core.retry (congrArg (·[d]) h)⟩

theorem State.count_sameRetry (s : State) (c : CoreIx) (code n : Nat) : s.SameRetry (s.count c code n) :=
  (State.sameRetry_modCore s c (f := fun x => { x with pmc := mapVector x.pmc (Pmc.bump code n) }) fun _ => rfl).trans
    (State.sameRetry_of_cores rfl)

theorem State.tlbInsert_sameRetry (s : State) (c : CoreIx) (e : TlbEntry) : s.SameRetry (s.tlbInsert c e) :=
  (State.sameRetry_modCore s c (f := fun x => { x with tlb := keepLast 64 (x.tlb ++ [e]) }) fun _ => rfl).trans
    (State.sameRetry_of_cores rfl)

theorem State.icachePut_sameRetry (s : State) (c : CoreIx) (l : ILine) : s.SameRetry (s.modCore c fun x => x.icachePut l) :=
  State.sameRetry_modCore s c fun k => by rw [Core.icachePut]

theorem State.walkNow_sameRetry (s : State) (c : CoreIx) (p : PartIx) (va : Nat) (need : Need) : s.SameRetry (s.walkNow c p va need).1 := by
  unfold State.walkNow
  cases walk s.mem (s.part p) va need with
  | error e => cases e <;> exact .refl _
  | ok r =>
    dsimp only
    split
    · split
      · exact .refl _
      · dsimp only
        have logged : s.SameRetry (s.logAppend p (r.entry.ipa + va % r.entry.size) r.host) := State.sameRetry_of_cores rfl
        exact logged.trans (State.tlbInsert_sameRetry ..)
    · exact s.tlbInsert_sameRetry c _

theorem State.translate_sameRetry (s : State) (c : CoreIx) (p : PartIx) (va : Nat) (need : Need) :
    s.SameRetry (s.translate c p va need).1 := by
  have counted := s.count_sameRetry c 5 1
  unfold State.translate
  dsimp only
  split
  · exact .refl _
  · split
    · next e _ => exact counted.trans (State.sameRetry_modCore _ c (f := fun x => { x with tlb := keepLast 64 (x.tlb ++ [e]) }) fun _ => rfl)
    · exact counted.trans ((s.count c 5 1).walkNow_sameRetry c p va need)

theorem State.readLine_sameRetry (s : State) (c : CoreIx) (p : PartIx) (va : W64) : s.SameRetry (s.readLine c p va).1 := by
  have h := s.translate_sameRetry c p va.toNat needX
  unfold State.readLine
  split
  · exact .refl _
  · split <;> rename_i translated <;> rw [translated] at h
    · split <;> exact h
    · exact h
    · exact h

theorem State.fetchLine_sameRetry (s : State) (c : CoreIx) (va : W64) : s.SameRetry (s.fetchLine c va).1 := by
  have h := s.readLine_sameRetry c (s.partOf (CoreIx.cluster c)) va
  unfold State.fetchLine
  split
  · split
    · exact .refl _
    · split <;> exact .refl _
  · split <;> rename_i read
    · rw [read] at h
      exact h.trans (State.icachePut_sameRetry ..)
    · exact h

/-- Entering a line changes no message. -/
theorem State.enter_sameRetry (s : State) (c : CoreIx) (ip : W64) : s.SameRetry (s.enter c ip).1 := by
  have h := s.fetchLine_sameRetry c (lineBase ip)
  unfold State.enter
  split <;> rename_i fetched <;> rw [fetched] at h
  · exact h
  · exact h
  · dsimp only
    split
    · exact h
    · split <;> exact h

/-! ### Delivery (R358) -/

section
variable (s : State) (w : SlotIx)

/-- Nothing is delivered to a thread without a pending event, in a handler, or in a wait that is no boundary. -/
theorem State.asyncReady_false (h : (s.thread w).pend = [] ∨ (s.thread w).handler = true ∨ (s.thread w).wait = .skimmer ∨
    (s.thread w).wait = .held ∨ ∃ x, (s.thread w).wait = .det none x) : s.asyncReady w = false := by
  obtain h | h | h | h | ⟨x, h⟩ := h <;> simp [State.asyncReady, State.interruptible, h]

theorem State.mayIssue_of (occ : (s.thread w).occ = true) (goes : (s.core (SlotIx.core w)).stopping = false)
    (here : (s.thread w).frozenBy = none) : s.mayIssue w = true := by simp [State.mayIssue, occ, goes, here]

end

/-- The thread of a slot in the handler of an event that was pending (R356, R358, R364). -/
def Thread.delivered (t : Thread) (a : Async) (rest : List Async) : Thread := { t with
  trapcause := BitVec.ofNat 10 (a.code.toNat + (if t.priv then 2 ^ 8 else 0) + 2 ^ 9)
  trapip := BitVec.ofNat 57 t.ip.toNat
  trapva := a.va
  trapaux := a.aux
  priv := true
  handler := true
  ip := t.trapvec.setWidth 64
  edgeDone := false
  parks := false
  popped := []
  pend := rest
  named := if a.code = 0x22 ∧ a.journal = none ∨ (a.journal = none ∧ a.retry = none) then none else some a
  pjent := match a.journal with
    | some e => BitVec.ofNat 6 (2 ^ 5 + e)
    | none => 0 }

/-- A thread between two instructions, in the handler of a pending event. -/
def Thread.interrupted (t : Thread) (a : Async) : Thread := { t.saving true t.priv a.code t.ip a.va a.aux with
  priv := true, handler := true, ip := t.trapvec.setWidth 64, wait := .run, pjent := 0, edgeDone := false, parks := false,
  popped := [] }

/-- An event has been delivered: it is no longer pending, and its entry is named (R364). -/
def Thread.noted (t : Thread) (a : Async) (rest : List Async) : Thread := { t with
  pend := rest
  named := if a.code == 0x22 && a.journal.isNone || (a.journal.isNone && a.retry.isNone) then none else some a
  pjent := match a.journal with
    | some e => BitVec.ofNat 6 (32 + e)
    | none => 0 }

theorem Thread.interrupted_delivered {t : Thread} (a : Async) (rest : List Async) (runs : t.wait = .run) :
    (t.interrupted a).noted a rest = t.delivered a rest := by
  simp only [Thread.noted, Thread.interrupted, Thread.delivered, Thread.saving, runs, if_true, Bool.or_eq_true, Bool.and_eq_true, beq_iff_eq,
    Option.isNone_iff_eq_none]
  rfl

/-- What the host need not resolve again leaves the retry buffer with its event (R364). -/
def Core.afterEvent (c : Core) (a : Async) : Core :=
  match a.retry with
  | some e => if a.code == 0x22 && a.journal.isNone then c.dropRetry e else c
  | none => c

section
variable {s : State} {w : SlotIx} {a : Async} {rest : List Async} (claimed : (s.thread w).claimed = [])
  (runs : (s.thread w).wait = .run) (vector : (s.thread w).trapvec ≠ 0) {u : State} {ps : List Parcel}
  (enter : s.enter (SlotIx.core w) ((s.thread w).trapvec.setWidth 64) = (u, .ok ps))
include claimed runs vector enter

/-- A thread between two instructions is interrupted: it enters its handler, and nothing else changes but what its fetch does. -/
theorem State.takeTrap_interrupts : ∃ v : State, v.threads = (s.afresh w).threads ∧ (s.afresh w).SameRetry v ∧
    (s.withdraw w).takeTrap w true a.code (s.thread w).ip a.va a.aux = v.modThread w fun _ =>
      (s.thread w).interrupted a := by
  have at_ := s.afresh_thread w
  have vec : ((s.afresh w).thread w).trapvec = (s.thread w).trapvec := by rw [at_]
  have entered : (s.afresh w).enter (SlotIx.core w) (((s.afresh w).thread w).trapvec.setWidth 64) =
      (((s.afresh w).enter (SlotIx.core w) ((s.thread w).trapvec.setWidth 64)).1, .ok ps) := by
    have same := (s.afresh_fetchesAs w).enter ((s.thread w).trapvec.setWidth 64)
    rw [enter] at same
    rw [vec]
    exact Prod.ext rfl same
  refine ⟨((s.afresh w).enter (SlotIx.core w) ((s.thread w).trapvec.setWidth 64)).1, (State.enter_keeps ..).2,
    State.enter_sameRetry .., ?_⟩
  rw [State.withdraw_afresh s w claimed (.inl runs),
    State.takeTrap_enters _ _ _ _ (by simp) (by rw [vec]; exact vector) entered, at_]
  rfl

theorem State.deliverAsync_eq (pend : (s.thread w).pend = a :: rest) : ∃ v : State, v.threads = (s.afresh w).threads ∧
    (s.afresh w).SameRetry v ∧ s.deliverAsync w =
      (v.modThread w fun _ => (s.thread w).delivered a rest).modCore (SlotIx.core w) fun c => c.afterEvent a := by
  obtain ⟨v, threads, retry, taken⟩ := State.takeTrap_interrupts (a := a) claimed runs vector enter
  refine ⟨v, threads, retry, ?_⟩
  have thread : (v.modThread w fun _ => (s.thread w).interrupted a).thread w = (s.thread w).interrupted a :=
    State.modThread_thread_same ..
  have ends : ((v.modThread w fun _ => (s.thread w).interrupted a).modThread w fun t => t.noted a rest) =
      v.modThread w fun _ => (s.thread w).delivered a rest :=
    (State.modThread_modThread ..).trans (congrArg (v.setThread w) (Thread.interrupted_delivered a rest runs))
  have waits : ((s.thread w).interrupted a).wait = .run := rfl
  simp only [State.deliverAsync, pend, taken, thread, waits]
  change (match a.retry with
    | some e => if (a.code == 0x22 && a.journal.isNone) = true then
        State.modCore (State.modThread (v.modThread w fun _ => (s.thread w).interrupted a) w fun t => t.noted a rest) (SlotIx.core w) fun c => c.dropRetry e
      else State.modThread (v.modThread w fun _ => (s.thread w).interrupted a) w fun t => t.noted a rest
    | none => State.modThread (v.modThread w fun _ => (s.thread w).interrupted a) w fun t => t.noted a rest) = _
  rw [ends]
  cases retries : a.retry with
  | none => exact (State.modCore_of_eq (by simp only [Core.afterEvent, retries])).symm
  | some e =>
    dsimp only
    split
    · next gone => simp only [Core.afterEvent, retries, gone, if_true]
    · next stays => exact (State.modCore_of_eq (by simp only [Core.afterEvent, retries, stays]; rfl)).symm

theorem State.deliverAsync_enters (pend : (s.thread w).pend = a :: rest) :
    (∀ q, q ≠ w → (s.deliverAsync w).thread q = s.thread q) ∧ (s.deliverAsync w).thread w = (s.thread w).delivered a rest ∧
      ∀ e, a.retry = some e → a.code = 0x22 → a.journal = none →
        ((s.deliverAsync w).core (SlotIx.core w)).retry = (s.core (SlotIx.core w)).retry.filter fun r => r.entry != e := by
  obtain ⟨v, threads, retry, delivers⟩ := State.deliverAsync_eq claimed runs vector enter pend
  rw [delivers]
  refine ⟨fun q other => ?_, (State.modCore_thread ..).trans (State.modThread_thread_same ..), fun e retries code journal => ?_⟩
  · rw [State.modCore_thread, State.modThread_thread_ne _ _ _ _ other.symm, State.thread, threads]
    exact s.afresh_onlyAt w q other.symm
  · rw [State.modCore_core_same, State.modThread_core, ← s.afresh_retry w, ← retry.core]
    simp only [Core.afterEvent, retries, code, journal]
    rfl

end

end Sys2Proof.Machine

namespace Sys2Proof

open Machine

/-- Settles O54, an equation for each way in which a trap is taken (a stop in a handler or without a vector, the handler, a
fault of its fetch, the host's word), for the return, and for the delivery, which withdraws the wait and then takes a trap. -/
theorem exceptions : Obligations.Exceptions := by
  unfold Obligations.Exceptions
  refine ⟨fun s w async code ip va aux => ⟨fun h => ?_, fun h vector => ?_, fun h vector u => ⟨fun ps enter => ?_, fun entry x enter => ?_,
    fun ipa enter => ⟨fun declined => ?_, fun asks => ?_⟩⟩⟩, fun s code d a b n => ⟨rfl, fun user => ?_, fun priv named => ?_,
    fun priv e named => execRett_named priv named⟩, fun s w a rest => ⟨fun h => ?_, fun pend handler occ goes here claimed runs vector ps u enter => ?_⟩⟩
  · exact State.takeTrap_inHandler code ip va aux (by rwa [Bool.not_eq_false'] at h)
  · exact State.takeTrap_noVector code ip va aux (by rwa [Bool.not_eq_true'] at h) vector
  · exact State.takeTrap_enters code ip va aux (by rwa [Bool.not_eq_true'] at h) vector enter
  · exact State.takeTrap_faults code ip va aux (by rwa [Bool.not_eq_true'] at h) vector enter
  · exact State.takeTrap_declined code ip va aux (by rwa [Bool.not_eq_true'] at h) vector enter declined
  · exact State.takeTrap_asksHost code ip va aux (by rwa [Bool.not_eq_true'] at h) vector enter asks
  · intro i mem
    simp only [List.mem_cons, List.not_mem_nil, or_false] at mem
    obtain rfl | rfl | rfl | rfl | rfl | rfl | rfl | rfl := mem <;> exact State.traps_user user rfl
  · rw [execRett_eq priv, State.resolveNamed_none s s.cur named]
    rfl
  · exact if_neg (Bool.eq_false_iff.1 (s.asyncReady_false w h))
  · have ready : s.asyncReady w = true := by
      simp [State.asyncReady, State.mayIssue_of s w occ goes here, pend, handler, State.interruptible, runs]
    exact ⟨s.deliverAsync w, if_pos ready, State.deliverAsync_enters claimed runs vector enter pend⟩

end Sys2Proof
end

section
/-! PROOFS. xgo (R301, R303, R304, R315). -/

namespace Sys2Proof.Machine

/-! ### Windows (R135) -/

section
variable {va : W64}

theorem window_eq (va : W64) : window va =
    if va.toNat < 2 ^ 57 then .global
    else if 0xFF00000000000000 ≤ va.toNat ∧ va.toNat < 0xFF00000000400000 then .own (va.toNat - 0xFF00000000000000)
    else if 0xFF10000000000000 ≤ va.toNat ∧ va.toNat < 0xFF20000000000000 then
      .remote ((va.toNat - 0xFF10000000000000) / 0x400000) ((va.toNat - 0xFF10000000000000) % 0x400000)
    else if 0xFF20000000000000 ≤ va.toNat ∧ va.toNat < 0xFF20000000040000 then .scratch (va.toNat - 0xFF20000000000000)
    else .none := by
  simp only [window, Bool.and_eq_true, decide_eq_true_eq]
  rfl

theorem window_global (h : va.toNat < 2 ^ 57) : window va = .global := if_pos h

theorem window_own {off : Nat} (h : va.toNat = 0xFF00000000000000 + off) (small : off < 0x400000) : window va = .own off := by
  rw [window_eq, if_neg (by omega), if_pos (by omega), h, Nat.add_sub_cancel_left]

theorem window_remote (lo : 0xFF10000000000000 ≤ va.toNat) (hi : va.toNat < 0xFF20000000000000) :
    window va = .remote ((va.toNat - 0xFF10000000000000) / 0x400000) ((va.toNat - 0xFF10000000000000) % 0x400000) := by
  rw [window_eq, if_neg (by omega), if_neg (by omega), if_pos ⟨lo, hi⟩]

theorem window_scratch {off : Nat} (h : va.toNat = 0xFF20000000000000 + off) (small : off < 0x40000) : window va = .scratch off := by
  rw [window_eq, if_neg (by omega), if_neg (by omega), if_neg (by omega), if_pos (by omega), h, Nat.add_sub_cancel_left]

theorem window_none (h : (2 ^ 57 ≤ va.toNat ∧ va.toNat < 0xFF00000000000000) ∨ 0xFF20000000040000 ≤ va.toNat) : window va = .none := by
  rw [window_eq, if_neg (by omega), if_neg (by omega), if_neg (by omega), if_neg (by omega)]

/-- The addresses of scratchpad. -/
theorem inScratch_iff : inScratch va = true ↔ 0xFF20000000000000 ≤ va.toNat ∧ va.toNat < 0xFF20000000040000 := by
  rw [inScratch, window_eq]
  split_ifs <;> simp only [true_iff, false_iff] <;> omega

/-- The addresses of local memory. -/
theorem inLocal_iff : inLocal va = true ↔ (0xFF00000000000000 ≤ va.toNat ∧ va.toNat < 0xFF00000000400000) ∨
    (0xFF10000000000000 ≤ va.toNat ∧ va.toNat < 0xFF20000000000000) := by
  rw [inLocal, window_eq]
  split_ifs <;> simp only [true_iff, false_iff] <;> omega

end

/-! ### The causes for which a block is refused (R315) -/

/-- The core stride's greatest common divisor with the number of cores (R306). -/
theorem strideGcd_eq {n : Nat} (h : n < 8) : strideGcd n = Nat.gcd n 8 := by
  interval_cases n <;> rfl

section
variable (w : Nat → W64)

/-- The bits from lo up to hi of a word of a block (R304). -/
def blockField (i hi lo : Nat) : Nat := (w i).toNat / 2 ^ lo % 2 ^ (hi + 1 - lo)

def LocalAddress (y : W64) : Prop := (0xFF00000000000000 ≤ y.toNat ∧ y.toNat < 0xFF00000000400000) ∨
  (0xFF10000000000000 ≤ y.toNat ∧ y.toNat < 0xFF20000000000000)

def ScratchAddress (y : W64) : Prop := 0xFF20000000000000 ≤ y.toNat ∧ y.toNat < 0xFF20000000040000

/-- The refusal codes whose cause a block has (R315), in the statement's terms. -/
def BlockBreaks : Nat → Prop
  | 1 => 2 < blockField w 5 2 0
  | 2 => blockField w 2 31 0 = 0 ∨ 65536 < blockField w 2 31 0 ∨ blockField w 2 63 32 = 0 ∨ 2 ^ 24 < blockField w 2 63 32 ∨
      ((w 5).getLsbD 5 = true ∧ blockField w 2 31 0 * blockField w 2 63 32 = 2 ^ 40)
  | 3 => (w 5).getLsbD 3 = true ∧ (blockField w 5 2 0 ≠ 0 ∨ (w 1).toNat % 8 ≠ 0 ∨ blockField w 2 63 32 % 8 ≠ 0 ∨ (w 4).toNat % 8 ≠ 0 ∨
      ∃ r < blockField w 2 31 0, ¬LocalAddress (BitVec.ofNat 64 ((w 1).toNat + r * (w 4).toNat)) ∨
        ¬LocalAddress (BitVec.ofNat 64 ((w 1).toNat + r * (w 4).toNat + (blockField w 2 63 32 - 1))))
  | 4 => blockField w 5 2 0 = 1 ∧ ((w 6).toNat % 2 ^ 32 = 0 ∨ (w 6).toNat % 2 ^ 32 % 64 ≠ 0 ∨ blockField w 5 21 19 = 0 ∨
      blockField w 5 25 22 = 0 ∨ 8 < blockField w 5 25 22 ∨ 8 / Nat.gcd (blockField w 5 21 19) 8 < blockField w 5 25 22 ∨
      w 4 ≠ 0 ∨ ¬ScratchAddress (w 1))
  | 5 => blockField w 5 2 0 = 2 ∧ (128 < blockField w 5 63 56 ∨ ((w 5).getLsbD 55 = true ∧ (w 6).toNat % 64 ≠ 0) ∨ ¬ScratchAddress (w 1))
  | 6 => (w 5).getLsbD 4 = true ∧ (2 ^ 57 ≤ (w 7).toNat ∨ (w 7).toNat % 64 = 0)
  | 7 => blockField w 5 31 26 ≠ 0 ∨ blockField w 5 15 12 ≠ 0 ∨ (blockField w 5 2 0 ≠ 2 ∧ blockField w 5 63 32 ≠ 0) ∨
      (blockField w 5 2 0 ≠ 1 ∧ blockField w 5 25 19 ≠ 0) ∨
      (blockField w 5 2 0 = 0 ∧ (blockField w 5 18 16 ≠ 0 ∨ w 6 ≠ 0)) ∨
      (blockField w 5 2 0 = 1 ∧ blockField w 6 63 32 ≠ 0) ∨ ((w 5).getLsbD 4 = false ∧ w 7 ≠ 0)
  | _ => False

end

/-- A transfer is as the words of a block describe it (R303). -/
structure Transfer.OfWords (t : Transfer) (w : Nat → W64) : Prop where
  dst : t.dst = w 1
  rowBytes : t.rowBytes = blockField w 2 63 32
  rows : t.rows = blockField w 2 31 0
  dstride : t.dstride = w 4
  ctl : t.ctl = w 5
  marg : t.marg = w 6
  handler : t.handler = w 7

theorem bits_eq_blockField (w : Nat → W64) (i hi lo : Nat) : bits (w i) hi lo = blockField w i hi lo := by
  rw [bits, Nat.shiftRight_eq_div_pow, blockField]

section
variable {t : Transfer} {w : Nat → W64} (h : t.OfWords w)
include h

theorem Transfer.OfWords.field (hi lo : Nat) : bits t.ctl hi lo = blockField w 5 hi lo := by rw [h.ctl, bits_eq_blockField]

/-- The rows of a plain transfer lie in local memory, or some row does not. -/
theorem Transfer.OfWords.dstLocal : t.dstLocal = false ↔ ∃ r < blockField w 2 31 0,
    ¬LocalAddress (BitVec.ofNat 64 ((w 1).toNat + r * (w 4).toNat)) ∨
    ¬LocalAddress (BitVec.ofNat 64 ((w 1).toNat + r * (w 4).toNat + (blockField w 2 63 32 - 1))) := by
  have first (r : Nat) : w 1 + BitVec.ofNat 64 r * w 4 = BitVec.ofNat 64 ((w 1).toNat + r * (w 4).toNat) := by
    rw [BitVec.ofNat_add, BitVec.ofNat_mul, BitVec.ofNat_toNat, BitVec.ofNat_toNat, BitVec.setWidth_eq, BitVec.setWidth_eq]
  rw [← Bool.not_eq_true, Transfer.dstLocal, h.rows, h.dst, h.dstride, h.rowBytes]
  simp only [List.all_eq_true, List.mem_range, Bool.and_eq_true, first, ← BitVec.ofNat_add, inLocal_iff, not_forall, not_and_or, exists_prop]
  rfl

theorem Transfer.OfWords.breaks_iff (n : Nat) : t.breaks n = true ↔ BlockBreaks w n := by
  have dstLocal := h.dstLocal
  have stride : strideGcd (blockField w 5 21 19) = Nat.gcd (blockField w 5 21 19) 8 := strideGcd_eq (Nat.mod_lt _ (by decide))
  have scratch : inScratch t.dst = true ↔ ScratchAddress (w 1) := by rw [h.dst]; exact inScratch_iff
  match n with
  | 0 | n + 8 => simp [Transfer.breaks, BlockBreaks]
  | 1 => simp [Transfer.breaks, BlockBreaks, Transfer.mode, h.field]
  | 2 => simp [Transfer.breaks, BlockBreaks, Transfer.barEn, Transfer.total, h.ctl, h.rows, h.rowBytes, or_assoc]
  | 3 =>
    simp only [Transfer.breaks, BlockBreaks, Transfer.mode, Transfer.fill, bits_eq_blockField, ← dstLocal, h.ctl, h.dst, h.rowBytes, h.dstride,
      Bool.and_eq_true, Bool.or_eq_true, bne_iff_ne, Bool.not_eq_true']
    tauto
  | 4 =>
    simp only [Transfer.breaks, BlockBreaks, Transfer.mode, Transfer.block, Transfer.ncore, stride, Transfer.cstride, h.field, h.marg, h.dstride,
      Bool.and_eq_true, Bool.or_eq_true, bne_iff_ne, beq_iff_eq, Bool.not_eq_true', decide_eq_true_eq, ← scratch, Bool.not_eq_true, or_assoc, gt_iff_lt]
  | 5 =>
    simp only [Transfer.breaks, BlockBreaks, Transfer.mode, Transfer.vcnt, Transfer.scalEn, bits_eq_blockField, h.marg, h.ctl,
      Bool.and_eq_true, Bool.or_eq_true, bne_iff_ne, beq_iff_eq, Bool.not_eq_true', decide_eq_true_eq, ← scratch, Bool.not_eq_true, or_assoc, gt_iff_lt]
  | 6 =>
    simp only [Transfer.breaks, BlockBreaks, Transfer.notify, inGlobal, h.ctl, h.handler, Bool.and_eq_true, Bool.or_eq_true, beq_iff_eq,
      Bool.not_eq_true', decide_eq_false_iff_not, Nat.not_lt]
  | 7 =>
    simp only [Transfer.breaks, BlockBreaks, Transfer.mode, Transfer.notify, h.marg, bits_eq_blockField, h.ctl, h.handler,
      Bool.and_eq_true, Bool.or_eq_true, bne_iff_ne, beq_iff_eq, Bool.not_eq_true', or_assoc, ne_eq]

end

section
variable {t : Transfer} {w : Nat → W64} (h : t.OfWords w)
include h

/-- A block that no code applies to is not refused. -/
theorem Transfer.refusalCode_none (sound : ∀ n, ¬BlockBreaks w n) : t.refusalCode = none :=
  List.find?_eq_none.2 fun n _ breaks => sound n ((h.breaks_iff n).1 breaks)

/-- A block is refused with the lowest code that applies. -/
theorem Transfer.refusalCode_some {n : Nat} (breaks : BlockBreaks w n) (lowest : ∀ i < n, ¬BlockBreaks w i) : t.refusalCode = some n := by
  have known : 1 ≤ n ∧ n ≤ 7 := by
    match n, breaks with
    | 1, _ | 2, _ | 3, _ | 4, _ | 5, _ | 6, _ | 7, _ => decide
    | 0, no | n + 8, no => exact no.elim
  refine (List.find?_range'_eq_some (s := 1) (n := 7)).2 ⟨(h.breaks_iff n).2 breaks, ?_, fun i _ below => ?_⟩
  · rw [List.mem_range'_1]
    omega
  · rw [Bool.not_eq_true']
    exact Bool.eq_false_iff.2 fun b => lowest i below ((h.breaks_iff i).1 b)

end

/-! ### The lowest free entry (R315) -/

/-- An entry holds a transfer in flight. -/
def Core.Busy (k : Core) (e : Fin 16) : Prop := ∃ y, k.score[e] = some y ∧ y.state = .flight

theorem Core.free_iff (k : Core) (e : Fin 16) : (match k.score[e] with
    | some t => t.state != .flight
    | none => true) = true ↔ ¬k.Busy e := by
  rw [Core.Busy]
  cases k.score[e] <;> simp

theorem Core.freeScore_none {k : Core} (h : ∀ e, k.Busy e) : k.freeScore = none := by
  rw [Core.freeScore, List.find?_eq_none]
  exact fun e _ free => (k.free_iff e).1 free (h e)

theorem Core.freeScore_some {k : Core} {e : Fin 16} (free : ¬k.Busy e) (lowest : ∀ i < e, k.Busy i) : k.freeScore = some e := by
  rw [Core.freeScore, List.find?_eq_some_iff_getElem]
  refine ⟨(k.free_iff e).2 free, e.val, by simp, by simp, fun i below => ?_⟩
  have busy := lowest ⟨i, by omega⟩ below
  rw [Bool.not_eq_true', List.getElem_finRange]
  exact Bool.eq_false_iff.2 fun b => (k.free_iff _).1 b busy

/-! ### The block (R315) -/

section
variable (s : State) (mine : Bool)

/-- Where a block lies: in the cluster's local memory, or in the core's scratchpad. -/
def State.blockPlace (off : Nat) : Place := if mine then .own (SlotIx.cluster s.cur) off else .scratch (SlotIx.core s.cur) off

/-- The memory it lies in. -/
def State.blockMemory : Memory := if mine then (s.cluster (SlotIx.cluster s.cur)).mem else s.myCore.scratch

end

/-- The access of a block. -/
def State.blockLane (s : State) (x : W64) (mine : Bool) (off : Nat) : Lane := ⟨0, x, s.blockPlace mine off, 64, [], 0⟩

section
variable {s : State} {x : W64}

theorem blockAt_outside (h : window x = .none) : blockAt x s = .error (.trap 0x06 x 0) := by
  have place : s.localPlace s.cur 0 x = .error (.trap 0x06 x (BitVec.ofNat 64 0)) := by simp only [State.localPlace, h]
  rw [blockAt, op_bind_ok (op_get s)]
  simp only [place]
  rfl

theorem blockAt_global (h : window x = .global) : blockAt x s = .error (.trap 0x07 x 0) := by
  have place : s.localPlace s.cur 0 x = .ok none := by simp only [State.localPlace, h]
  rw [blockAt, op_bind_ok (op_get s)]
  simp only [place]
  rfl

theorem blockAt_remote {v off : Nat} (h : window x = .remote v off) {far : ClusterIx}
    (there : s.physical (s.partOf (SlotIx.cluster s.cur)) v = some far) : blockAt x s = .error (.trap 0x07 x 0) := by
  rw [blockAt, op_bind_ok (op_get s)]
  by_cases permitted : s.permitted (SlotIx.cluster s.cur) v far = true
  · have place : s.localPlace s.cur 0 x = .ok (some (.remote far off)) := by simp only [State.localPlace, h, there, permitted, if_true]
    simp only [place]
    rfl
  · have place : s.localPlace s.cur 0 x = .error (.trap 0x07 x 0) := by simp [State.localPlace, h, there, permitted, permAux]
    simp only [place]
    rfl

/-- An access that nothing holds back passes (R150, R372, R251, R138, R419). -/
theorem notHeld_ok {l : Lane} {store : Bool} (h : s.unheld l store) : notHeld l store s = .ok ((), s) := by
  obtain ⟨⟨lock, score, tile, behind, -⟩, fabric⟩ := h
  have unlocked : (match l.place with
      | .scratch _ off => (s.core (SlotIx.core s.cur)).locksOut s.cur off l.size
      | _ => false) = false := by
    split
    · next c off place => exact lock c off place
    · rfl
  have way : (store && s.fabricFails s.cur l) = false := by
    cases store
    · rfl
    · exact fabric rfl
  exact (if_neg (Bool.eq_false_iff.1 unlocked)).trans ((if_neg (Bool.eq_false_iff.1 score)).trans ((if_neg (Bool.eq_false_iff.1 tile)).trans
    ((if_neg (Bool.eq_false_iff.1 behind)).trans (if_neg (Bool.eq_false_iff.1 way)))))

theorem raiseIf_true (code : BitVec 8) (va aux : W64) {c : Bool} (h : c = true) : raiseIf c code va aux s = .error (.trap code va aux) := by
  subst h
  rfl

theorem raiseIf_false (code : BitVec 8) (va aux : W64) {c : Bool} (h : c = false) : raiseIf c code va aux s = .ok ((), s) := by
  subst h
  rfl

theorem delivered_waits (h : s.sendOut s.cur = true) : delivered s = .error (.wait .retryBuffer) := if_pos h

theorem delivered_ok (h : s.sendOut s.cur = false) : delivered s = .ok ((), s) := if_neg (Bool.eq_false_iff.1 h)

variable {mine : Bool} {off : Nat}

theorem localPlace_block (at_ : x.toNat = (if mine then 0xFF00000000000000 else 0xFF20000000000000) + off)
    (small : off < if mine then 0x400000 else 0x40000) : s.localPlace s.cur 0 x = .ok (some (s.blockPlace mine off)) := by
  cases mine
  · simp only [State.localPlace, window_scratch at_ small]; rfl
  · simp only [State.localPlace, window_own at_ small]; rfl

theorem blockAt_eq (place : s.localPlace s.cur 0 x = .ok (some (s.blockPlace mine off))) : blockAt x s = (do
    raiseIf (x.toNat % 64 != 0) 0x05 x 0
    raiseIf (s.blockPlace mine off).inPool 0x07 x (permAux 5 0)
    notHeld (s.blockLane x mine off) false
    delivered
    noBad [s.blockLane x mine off]
    return (s.blockMemory mine, off) : Op (Memory × Nat)) s := by
  rw [blockAt, op_bind_ok (op_get s)]
  cases mine <;> simp only [place] <;> rfl

/-- No block crosses the fabric (R419). -/
theorem State.blockLane_fails (s : State) (x : W64) (mine : Bool) (off : Nat) :
    s.fails s.cur (s.blockLane x mine off) = s.bad (s.blockLane x mine off) := by
  cases mine <;> exact Bool.or_false _

section
variable (at_ : x.toNat = (if mine then 0xFF00000000000000 else 0xFF20000000000000) + off)
  (small : off < if mine then 0x400000 else 0x40000)
include at_ small

theorem aligned_iff : (x.toNat % 64 != 0) = decide (off % 64 ≠ 0) := by
  have : x.toNat % 64 = off % 64 := by rw [at_]; cases mine <;> simp <;> omega
  rw [this]
  exact Bool.eq_iff_iff.2 (by simp)

theorem blockAt_unaligned (h : off % 64 ≠ 0) : blockAt x s = .error (.trap 0x05 x 0) := by
  rw [blockAt_eq (localPlace_block at_ small), op_bind_error (raiseIf_true _ _ _ ((aligned_iff at_ small).trans (decide_eq_true h)))]

variable (aligned : off % 64 = 0)
include aligned

theorem aligned_false : (x.toNat % 64 != 0) = false := (aligned_iff at_ small).trans (decide_eq_false (not_not.2 aligned))

theorem blockAt_pool (m : mine = true) (h : 0x3FF000 ≤ off) : blockAt x s = .error (.trap 0x07 x 5) := by
  have pool : (s.blockPlace mine off).inPool = true := by subst m; exact decide_eq_true h
  rw [blockAt_eq (localPlace_block at_ small), op_bind_ok (raiseIf_false _ _ _ (aligned_false at_ small aligned)),
    op_bind_error (raiseIf_true _ _ _ pool)]
  rfl

variable (h : mine = true → off < 0x3FF000) (unheld : s.unheld (s.blockLane x mine off) false)
include h unheld

/-- What is left of the checks once nothing of the address itself and no other instruction holds the access back. -/
theorem blockAt_checked : blockAt x s = (do
    delivered
    noBad [s.blockLane x mine off]
    return (s.blockMemory mine, off) : Op (Memory × Nat)) s := by
  have pool : (s.blockPlace mine off).inPool = false := by
    cases mine
    · rfl
    · exact decide_eq_false (Nat.not_le.2 (h rfl))
  rw [blockAt_eq (localPlace_block at_ small), op_bind_ok (raiseIf_false _ _ _ (aligned_false at_ small aligned)),
    op_bind_ok (raiseIf_false _ _ _ pool), op_bind_ok (notHeld_ok unheld)]

theorem blockAt_sending (sends : s.sendOut s.cur = true) : blockAt x s = .error (.wait .retryBuffer) := by
  rw [blockAt_checked at_ small aligned h unheld, op_bind_error (delivered_waits sends)]

theorem blockAt_bad (sends : s.sendOut s.cur = false) (bad : s.bad (s.blockLane x mine off) = true) :
    blockAt x s = .error (.trap 0x0C x 0) := by
  have fails : noBad [s.blockLane x mine off] s = .error (.trap 0x0C x 0) := by
    simp only [noBad, List.find?_cons, State.blockLane_fails, bad]
    rfl
  rw [blockAt_checked at_ small aligned h unheld, op_bind_ok (delivered_ok sends), op_bind_error fails]

theorem blockAt_ok (sends : s.sendOut s.cur = false) (sound : s.bad (s.blockLane x mine off) = false) :
    blockAt x s = .ok ((s.blockMemory mine, off), s) := by
  have passes : noBad [s.blockLane x mine off] s = .ok ((), s) := by
    simp only [noBad, List.find?_cons, State.blockLane_fails, sound, List.find?_nil]
  rw [blockAt_checked at_ small aligned h unheld, op_bind_ok (delivered_ok sends), op_bind_ok passes, op_pure]

end

end

/-! ### The instruction (R315) -/

/-- The words of a block. -/
def blockWords (m : Memory) (off i : Nat) : W64 := BitVec.ofNat 64 (m.word (off + 8 * i) 8)

theorem Transfer.ofBlock_words (m : Memory) (off : Nat) (w : SlotIx) (t : Thread) : (Transfer.ofBlock m off w t).OfWords (blockWords m off) where
  dst := rfl
  rowBytes := bits_eq_blockField (blockWords m off) 2 63 32
  rows := bits_eq_blockField (blockWords m off) 2 31 0
  dstride := rfl
  ctl := rfl
  marg := rfl
  handler := rfl

/-- What a block asks for, under the next number of its core (R303, R311). -/
def State.described (s : State) (m : Memory) (off : Nat) : Transfer :=
  let w := blockWords m off
  ⟨s.myCore.xcount, s.cur, s.me.uid, s.me.part, s.me.home, s.me.team, w 0, w 1, blockField w 2 63 32, blockField w 2 31 0, w 3, w 4,
    w 5, w 6, w 7, .flight, [], 0, (s.clustersOf s.me.part).map fun cl => (cl, (s.cluster cl).epoch), none, none, none, false, [], s.uids⟩

theorem State.described_eq (s : State) (m : Memory) (off : Nat) : ({ Transfer.ofBlock m off s.cur s.me with
    num := s.myCore.xcount
    dests := (s.clustersOf s.me.part).map fun cl => (cl, (s.cluster cl).epoch)
    order := s.uids } : Transfer) = s.described m off := by
  have words : (Transfer.ofBlock m off s.cur s.me).OfWords (blockWords m off) := Transfer.ofBlock_words ..
  simp only [words.rowBytes, words.rows]
  rfl

/-- A transfer begins in an entry of the scoreboard. -/
def State.beginTransfer (s : State) (e : Fin 16) (t : Transfer) : State :=
  { s with uids := s.uids + 1 }.modMyCore fun c => { c with score := c.score.set e (some t), xcount := s.myCore.xcount + 1 }

theorem State.beginTransfer_fetches (s : State) (e : Fin 16) (t : Transfer) : s.FetchesAs (s.beginTransfer e t) (SlotIx.core s.cur) where
  icache := by rw [State.beginTransfer, State.modMyCore, State.modCore_core_same]; rfl
  tlb := by rw [State.beginTransfer, State.modMyCore, State.modCore_core_same]; rfl
  clusters := rfl
  parts := rfl
  pages := rfl
  mem := rfl
  ue := rfl

/-- What xgo does with the block that it has read. -/
def xgoOn (d : GReg) (m : Memory) (off : Nat) : Op Unit := do
  quiet
  let s ← get
  match s.myCore.freeScore with
  | none => waitFor .transfer
  | some e =>
    match (Transfer.ofBlock m off s.cur s.me).refusalCode with
    | some code => do
      dstG d (atBit 63 1 ||| BitVec.ofNat 64 code)
      advance
    | none => do
      modify fun y => { y with uids := y.uids + 1 }.modMyCore fun c =>
        { c with score := c.score.set e (some (s.described m off)), xcount := s.myCore.xcount + 1 }
      dstG d (BitVec.ofNat 64 (s.myCore.xcount.toNat * 16 + e.val))
      advance

/-- The answer of a refusal (R315). -/
theorem refusal_eq {w : Nat → W64} {n : Nat} (breaks : BlockBreaks w n) : atBit 63 1 ||| BitVec.ofNat 64 n = BitVec.ofNat 64 (2 ^ 63 + n) := by
  match n, breaks with
  | 1, _ | 2, _ | 3, _ | 4, _ | 5, _ | 6, _ | 7, _ => decide
  | 0, no | n + 8, no => exact no.elim

section
variable {s : State} {d a : GReg}

theorem execXgo_user (h : s.xslot s.cur = false) : s.traps (.xgo d a) 0x04 0 s.headParcels :=
  State.run_trap (op_bind_error (if_neg (Bool.eq_false_iff.1 h)))

variable (slot : s.xslot s.cur = true) (plain : s.plain [.g a] [.g d])
include slot plain

theorem execXgo_traps {code : BitVec 8} {va aux : W64} (h : blockAt (s.me.greg a) s = .error (.trap code va aux)) :
    s.traps (.xgo d a) code va aux := by
  refine State.run_trap ?_
  rw [op_bind_ok (show transferSlot s = .ok ((), s) from if_pos slot), op_bind_ok (ready_plain plain),
    op_bind_ok (srcG_plain (State.plain_src plain (List.mem_singleton_self _))), op_bind_error h]

theorem execXgo_waits {why : Why} (h : blockAt (s.me.greg a) s = .error (.wait why)) : s.waits (.xgo d a) why := by
  refine State.run_wait ?_
  rw [op_bind_ok (show transferSlot s = .ok ((), s) from if_pos slot), op_bind_ok (ready_plain plain),
    op_bind_ok (srcG_plain (State.plain_src plain (List.mem_singleton_self _))), op_bind_error h]

variable {m : Memory} {off : Nat} (block : blockAt (s.me.greg a) s = .ok ((m, off), s))
include block

/-- What xgo does once it has its block. -/
theorem execXgo_meaning : ∃ body, exec (.xgo d a) s = s.run body ∧ body s = xgoOn d m off s := by
  refine ⟨_, rfl, ?_⟩
  rw [op_bind_ok (show transferSlot s = .ok ((), s) from if_pos slot), op_bind_ok (ready_plain plain),
    op_bind_ok (srcG_plain (State.plain_src plain (List.mem_singleton_self _))), op_bind_ok block]
  dsimp only
  refine congrArg (fun f => (quiet >>= f) s) ?_
  funext _
  refine congrArg (fun f : State → Op Unit => (get : Op State) >>= f) ?_
  funext y
  cases y.myCore.freeScore with
  | none => rfl
  | some e =>
    simp only [← State.described_eq]
    cases (Transfer.ofBlock m off y.cur y.me).refusalCode <;> rfl

theorem execXgo_accesses (h : s.me.outs ≠ []) : s.waits (.xgo d a) .access := by
  obtain ⟨body, runs, meaning⟩ := execXgo_meaning slot plain block
  exact runs.trans (State.run_wait (meaning.trans (op_bind_error (quiet_waits h))))

variable (quiet_ : s.me.outs = [])
include quiet_

theorem execXgo_full (full : ∀ e, s.myCore.Busy e) : s.waits (.xgo d a) .transfer := by
  obtain ⟨body, runs, meaning⟩ := execXgo_meaning slot plain block
  refine runs.trans (State.run_wait (meaning.trans ((op_bind_ok (quiet_ok quiet_)).trans ?_)))
  rw [op_bind_ok (op_get s)]
  simp only [Core.freeScore_none full]
  rfl

variable {e : Fin 16} (free : ¬s.myCore.Busy e) (lowest : ∀ i < e, s.myCore.Busy i)
include free lowest

theorem execXgo_refuses {n : Nat} (breaks : BlockBreaks (blockWords m off) n) (first : ∀ i < n, ¬BlockBreaks (blockWords m off) i) :
    s.gives (.xgo d a) d (BitVec.ofNat 64 (2 ^ 63 + n)) := by
  obtain ⟨body, runs, meaning⟩ := execXgo_meaning slot plain block
  refine runs.trans (State.run_advance (meaning.trans ((op_bind_ok (quiet_ok quiet_)).trans ?_)))
  rw [op_bind_ok (op_get s)]
  simp only [Core.freeScore_some free lowest, Transfer.refusalCode_some (Transfer.ofBlock_words ..) breaks first]
  rw [refusal_eq breaks]
  exact dstG_advance _ (State.plain_dst plain (List.mem_singleton_self _))

theorem execXgo_begins (sound : ∀ n, ¬BlockBreaks (blockWords m off) n) : exec (.xgo d a) s =
    .next ((s.beginTransfer e (s.described m off)).retire fun t => t.setG d (BitVec.ofNat 64 (s.myCore.xcount.toNat * 16 + e.val))) := by
  obtain ⟨body, runs, meaning⟩ := execXgo_meaning slot plain block
  refine runs.trans (State.run_advance_after (meaning.trans ((op_bind_ok (quiet_ok quiet_)).trans ?_)) rfl)
  rw [op_bind_ok (op_get s)]
  simp only [Core.freeScore_some free lowest, Transfer.refusalCode_none (Transfer.ofBlock_words ..) sound]
  rw [op_bind_ok (op_modify _ s)]
  exact dstG_advance (s := s.beginTransfer e (s.described m off)) _ (State.plain_dst plain (List.mem_singleton_self _))

end

end Sys2Proof.Machine
end

section
/-! PROOFS. xwait, xstat and xcancel (R311, R312, R316 to R318, R323), and the statement of the transfer instructions. -/

namespace Sys2Proof.Machine

/-! ### What is on its way (R310, R312, R415) -/

/-- A flit is sent and not answered over a link that is up. -/
def State.FlitOut (s : State) (f : Fin 16 × Nat × Nat) : Prop :=
  (s.ports[f.1]).up = true ∧ f.2.1 ∉ (s.ports[f.1]).refused ∧ ∃ x ∈ (s.ports[f.1]).unacked, x.seq = f.2.1

/-- A flit is refused, or lost with its link. -/
def State.FlitLost (s : State) (f : Fin 16 × Nat × Nat) : Prop :=
  f.2.1 ∈ (s.ports[f.1]).refused ∨ ((s.ports[f.1]).up = false ∧ ∃ x ∈ (s.ports[f.1]).unacked, x.seq = f.2.1)

theorem State.flitOut_iff (s : State) (f : Fin 16 × Nat × Nat) : s.flitOut f = true ↔ s.FlitOut f := by
  simp [State.flitOut, State.FlitOut, and_assoc]

theorem State.flitFailed_iff (s : State) (f : Fin 16 × Nat × Nat) : s.flitFailed f = true ↔ s.FlitLost f := by
  simp [State.flitFailed, State.FlitLost]

theorem State.flitsOut_iff (s : State) (t : Transfer) : s.flitsOut t = true ↔ ∃ f ∈ t.flits, s.FlitOut f := by
  simp [State.flitsOut, State.flitOut_iff]

theorem State.flitsFailed_iff (s : State) (t : Transfer) : s.flitsFailed t = true ↔ ∃ f ∈ t.flits, s.FlitLost f := by
  simp [State.flitsFailed, State.flitFailed_iff]

/-- A transfer has nothing left to write (R309, R323). -/
def State.Due (s : State) (y : Transfer) : Prop := y.state = .flight ∧ y.halted = false ∧ y.bytes = y.rows * y.rowBytes ∧
  ∀ f ∈ y.flits, ¬s.FlitOut f ∧ ¬s.FlitLost f

/-- The lowest stream offset that is not written, in the statement's terms. -/
def State.Lowest (s : State) (y : Transfer) (n : Nat) : Prop := n ≤ y.bytes ∧ (∀ f ∈ y.flits, s.FlitOut f ∨ s.FlitLost f → n ≤ f.2.2) ∧
  (n = y.bytes ∨ ∃ f ∈ y.flits, (s.FlitOut f ∨ s.FlitLost f) ∧ n = f.2.2)

/-- The least of a number and of those of a list. -/
theorem foldl_min_spec {α : Type} (g : α → Nat) (l : List α) (b : Nat) : l.foldl (fun n f => min n (g f)) b ≤ b ∧
    (∀ f ∈ l, l.foldl (fun n f => min n (g f)) b ≤ g f) ∧
    (l.foldl (fun n f => min n (g f)) b = b ∨ ∃ f ∈ l, l.foldl (fun n f => min n (g f)) b = g f) := by
  induction l generalizing b with
  | nil => simp
  | cons x l ih =>
    obtain ⟨le, all, attained⟩ := ih (min b (g x))
    simp only [List.foldl_cons, List.mem_cons, forall_eq_or_imp, exists_eq_or_imp]
    refine ⟨by omega, ⟨by omega, all⟩, ?_⟩
    obtain attained | found := attained
    · omega
    · exact .inr (.inr found)

theorem State.lowest_eq {s : State} {y : Transfer} {n : Nat} (h : s.Lowest y n) : s.lowest y = n := by
  obtain ⟨le, all, attained⟩ := h
  obtain ⟨le', all', attained'⟩ := foldl_min_spec (fun f => f.2.2) (y.flits.filter fun f => s.flitOut f || s.flitFailed f) y.bytes
  simp only [List.mem_filter, Bool.or_eq_true, State.flitOut_iff, State.flitFailed_iff, and_imp] at all' attained'
  refine Nat.le_antisymm ?_ ?_
  · obtain rfl | ⟨f, mem, sent, rfl⟩ := attained
    · exact le'
    · exact all' f mem sent
  · obtain same | ⟨f, ⟨mem, sent⟩, same⟩ := attained'
    · exact le.trans_eq same.symm
    · exact (all f mem sent).trans_eq same.symm

/-! ### The entry that an id names (R311) -/

def scoreEntry (x : W64) : Fin 16 := ⟨x.toNat % 16, Nat.mod_lt _ (by decide)⟩

/-- An id names a transfer of a core. -/
def Core.Names (k : Core) (x : W64) (y : Transfer) : Prop :=
  x.toNat < 2 ^ 32 ∧ k.score[scoreEntry x] = some y ∧ y.num.toNat = x.toNat / 16

theorem Core.transfer_eq_some {k : Core} {x : W64} {e : Fin 16} {y : Transfer} :
    k.transfer x = some (e, y) ↔ e = scoreEntry x ∧ k.Names x y := by
  have entry : (x.extractLsb' 0 4).toFin = scoreEntry x := Fin.ext (by simp [scoreEntry])
  have num (y : Transfer) : (bits x 63 32 == 0 && y.num == x.extractLsb' 4 28) = true ↔ x.toNat < 2 ^ 32 ∧ y.num.toNat = x.toNat / 16 := by
    have := x.isLt
    simp only [bits, Bool.and_eq_true, beq_iff_eq, ← BitVec.toNat_inj, BitVec.extractLsb'_toNat, Nat.shiftRight_eq_div_pow]
    omega
  simp only [Core.transfer, entry, Core.Names]
  cases k.score[scoreEntry x] with
  | none => simp
  | some t =>
    dsimp only
    split
    · next h => 
      have := (num t).1 h
      simp only [Option.some.injEq, Prod.mk.injEq]
      constructor
      · rintro ⟨rfl, rfl⟩; exact ⟨rfl, this.1, rfl, this.2⟩
      · rintro ⟨rfl, -, rfl, -⟩; exact ⟨rfl, rfl⟩
    · next h =>
      simp only [reduceCtorEq, false_iff, not_and, Option.some.injEq]
      rintro - small rfl same
      exact h ((num _).2 ⟨small, same⟩)

theorem Core.transfer_named {k : Core} {x : W64} {y : Transfer} (h : k.Names x y) : k.transfer x = some (scoreEntry x, y) :=
  Core.transfer_eq_some.2 ⟨rfl, h⟩

theorem Core.transfer_stale {k : Core} {x : W64} (h : ∀ y, ¬k.Names x y) : k.transfer x = none := by
  cases named : k.transfer x with
  | none => rfl
  | some p => exact absurd (Core.transfer_eq_some.1 (show k.transfer x = some (p.1, p.2) from named)).2 (h p.2)

/-- An id is the number and the entry of what it names. -/
theorem Transfer.id_of_names {k : Core} {x : W64} {y : Transfer} (h : k.Names x y) : y.id (scoreEntry x).val = x := by
  obtain ⟨small, -, num⟩ := h
  refine BitVec.eq_of_toNat_eq ?_
  simp only [Transfer.id, scoreEntry, BitVec.toNat_ofNat, num]
  omega

/-! ### Those that wait for a transfer (R309, R316, R318) -/

/-- A thread that waits for a transfer goes on with its status. -/
def Thread.answered (t : Thread) (id st : W64) : Thread :=
  match t.wait with
  | .xwait d x | .xcancel d x =>
    if x == id then
      match d with
      | .reg r => (t.setG r st).done
      | .queue _ => t.done
    else t
  | _ => t

theorem Thread.answered_other {t : Thread} (id st : W64) (h : t.wait = .run ∨ (∃ why, t.wait = .retry why) ∨ ∃ ipa, t.wait = .declined ipa) :
    t.answered id st = t := by
  obtain h | ⟨_, h⟩ | ⟨_, h⟩ := h <;> simp only [Thread.answered, h]

theorem Thread.answered_done (t : Thread) (id st : W64) : t.done.answered id st = t.done := Thread.answered_other id st (.inl rfl)

theorem Thread.answered_answered (t : Thread) (id st : W64) : (t.answered id st).answered id st = t.answered id st := by
  cases waits : t.wait with
  | xwait d x | xcancel d x =>
    by_cases same : x = id
    · cases d <;> simp only [Thread.answered, waits, same, beq_self_eq_true, if_true] <;> rfl
    · have stays : t.answered id st = t := by simp [Thread.answered, waits, same]
      rw [stays, stays]
  | _ => rw [show t.answered id st = t by simp only [Thread.answered, waits], show t.answered id st = t by simp only [Thread.answered, waits]]

/-- A fold over slots whose step at a slot updates its thread, the same however often, and no other thread. -/
theorem foldl_thread {f : State → SlotIx → State} {g : Thread → Thread} {w : SlotIx} (idem : ∀ t, g (g t) = g t)
    (here : ∀ s, (f s w).thread w = g (s.thread w)) (other : ∀ s x, x ≠ w → (f s x).thread w = s.thread w) (xs : List SlotIx) (s : State)
    (mem : w ∈ xs ∨ g (s.thread w) = s.thread w) : (xs.foldl f s).thread w = g (s.thread w) := by
  induction xs generalizing s with
  | nil => exact (mem.resolve_left List.not_mem_nil).symm
  | cons x xs ih =>
    rw [List.foldl_cons]
    by_cases same : x = w
    · subst same
      rw [ih _ (.inr (by rw [here, idem])), here, idem]
    · rw [ih _ (by rw [other s x same]; exact mem.imp_left fun m => (List.mem_cons.1 m).resolve_left (Ne.symm same)), other s x same]

/-- The threads, the core queues and the notes apart, a state u is as s: in all that a core's fetches are answered from, and in its scoreboard. -/
structure State.AsideFrom (s u : State) (c : CoreIx) : Prop where
  fetches : s.FetchesAs u c
  cur : u.cur = s.cur
  score : (u.core c).score = (s.core c).score

theorem State.FetchesAs.trans {s t u : State} {c : CoreIx} (h : s.FetchesAs t c) (h' : t.FetchesAs u c) : s.FetchesAs u c where
  icache := h'.icache.trans h.icache
  tlb := h'.tlb.trans h.tlb
  clusters := h'.clusters.trans h.clusters
  parts := h'.parts.trans h.parts
  pages := h'.pages.trans h.pages
  mem := h'.mem.trans h.mem
  ue := h'.ue.trans h.ue

theorem State.AsideFrom.trans {s t u : State} {c : CoreIx} (h : s.AsideFrom t c) (h' : t.AsideFrom u c) : s.AsideFrom u c :=
  ⟨h.fetches.trans h'.fetches, h'.cur.trans h.cur, h'.score.trans h.score⟩

theorem State.asideFrom_refl (s : State) (c : CoreIx) : s.AsideFrom s c := ⟨⟨rfl, rfl, rfl, rfl, rfl, rfl, rfl⟩, rfl, rfl⟩

theorem State.asideFrom_modThread (s : State) (w : SlotIx) (f : Thread → Thread) (c : CoreIx) : s.AsideFrom (s.modThread w f) c :=
  ⟨⟨rfl, rfl, rfl, rfl, rfl, rfl, rfl⟩, rfl, rfl⟩

theorem State.asideFrom_modCore (s : State) (d : CoreIx) {f : Core → Core} (c : CoreIx)
    (h : ∀ k, (f k).icache = k.icache ∧ (f k).tlb = k.tlb ∧ (f k).score = k.score) : s.AsideFrom (s.modCore d f) c := by
  have core : ((s.modCore d f).core c).icache = (s.core c).icache ∧ ((s.modCore d f).core c).tlb = (s.core c).tlb ∧
      ((s.modCore d f).core c).score = (s.core c).score := by
    rw [State.modCore_core]
    split
    · exact h _
    · exact ⟨rfl, rfl, rfl⟩
  exact ⟨⟨core.1, core.2.1, rfl, rfl, rfl, rfl, rfl⟩, rfl, core.2.2⟩

theorem State.asideFrom_deliver (s : State) (w : SlotIx) (d : Dst) (x : W64) (c : CoreIx) : s.AsideFrom (s.deliver w d x) c := by
  cases d with
  | reg r => exact s.asideFrom_modThread w (fun t => t.setG r x) c
  | queue k => exact s.asideFrom_modCore (SlotIx.core w) (f := fun k' => { k' with
      queue := updateAll k'.queue (fun e => e.ticket == k) fun e => { e with val := some x } }) c fun _ => ⟨rfl, rfl, rfl⟩

/-- A slot's thread, if it waits for the transfer, takes its status. -/
def State.releaseXwait (id st : W64) (s : State) (w : SlotIx) : State :=
  match (s.thread w).wait with
  | .xwait d x | .xcancel d x => if x == id then (s.deliver w d st).modThread w Thread.done else s
  | _ => s

theorem State.releaseXwaits_eq (s : State) (c : CoreIx) (id st : W64) :
    s.releaseXwaits c id st = (slotsOf c).foldl (State.releaseXwait id st) s := rfl

theorem State.releaseXwait_aside (id st : W64) (s : State) (w : SlotIx) (c : CoreIx) : s.AsideFrom (State.releaseXwait id st s w) c := by
  have told (d : Dst) (x : W64) : s.AsideFrom (if x == id then (s.deliver w d st).modThread w Thread.done else s) c := by
    split
    · exact (s.asideFrom_deliver w d st c).trans (State.asideFrom_modThread ..)
    · exact s.asideFrom_refl c
  unfold State.releaseXwait
  split
  · exact told _ _
  · exact told _ _
  · exact s.asideFrom_refl c

theorem State.releaseXwait_other (id st : W64) (s : State) {w x : SlotIx} (h : x ≠ w) : (State.releaseXwait id st s x).thread w = s.thread w := by
  have told (d : Dst) (y : W64) : (if y == id then (s.deliver x d st).modThread x Thread.done else s).thread w = s.thread w := by
    split
    · rw [State.modThread_thread_ne _ _ _ _ h, State.deliver_onlyAt s x d st w h]
    · rfl
  unfold State.releaseXwait
  split
  · exact told _ _
  · exact told _ _
  · rfl

theorem State.deliver_thread (s : State) (w : SlotIx) (d : Dst) (x : W64) : (s.deliver w d x).thread w = match d with
    | .reg r => (s.thread w).setG r x
    | .queue _ => s.thread w := by
  cases d with
  | reg r => exact State.modThread_thread_same ..
  | queue k => rfl

theorem State.releaseXwait_here (id st : W64) (s : State) (w : SlotIx) : (State.releaseXwait id st s w).thread w = (s.thread w).answered id st := by
  cases waits : (s.thread w).wait with
  | xwait d x | xcancel d x =>
    simp only [State.releaseXwait, Thread.answered, waits]
    by_cases same : x = id
    · rw [if_pos (beq_iff_eq.2 same), if_pos (beq_iff_eq.2 same), State.modThread_thread_same, State.deliver_thread]
      cases d <;> rfl
    · rw [if_neg fun e => same (beq_iff_eq.1 e), if_neg fun e => same (beq_iff_eq.1 e)]
  | _ => simp only [State.releaseXwait, Thread.answered, waits]

theorem State.releaseXwaits_aside (s : State) (c : CoreIx) (id st : W64) : s.AsideFrom (s.releaseXwaits c id st) c :=
  foldl_holds (P := fun u => s.AsideFrom u c) (fun u w h => h.trans (State.releaseXwait_aside id st u w c)) _ (s.asideFrom_refl c)

theorem State.releaseXwaits_thread (s : State) {c : CoreIx} {w : SlotIx} (h : SlotIx.core w = c) (id st : W64) :
    (s.releaseXwaits c id st).thread w = (s.thread w).answered id st :=
  foldl_thread (g := fun t => t.answered id st) (Thread.answered_answered · id st) (State.releaseXwait_here id st · w) (fun s _ => State.releaseXwait_other id st s) _ s
    (.inl (mem_slotsOf.2 h))

/-! ### Notifications (R313) -/

section
variable (s : State) (ts : Vector Thread 16384) (saved : List SavedCore)

theorem State.asideFrom_threads (c : CoreIx) : s.AsideFrom { s with threads := ts, saved := saved } c :=
  ⟨⟨rfl, rfl, rfl, rfl, rfl, rfl, rfl⟩, rfl, rfl⟩

theorem State.withThreads_thread (x : SlotIx) : State.thread { s with threads := ts, saved := saved } x = ts[x] := rfl

end

theorem mapVector_getElem {α β : Type} {n : Nat} (v : Vector α n) (f : α → β) (i : Fin n) : (mapVector v f)[i] = f v[i] := by
  simp [mapVector]

theorem State.modOwner_aside (s : State) (w : SlotIx) (uid : Nat) (f : Thread → Thread) (c : CoreIx) : s.AsideFrom (s.modOwner w uid f) c := by
  unfold State.modOwner
  split
  · exact s.asideFrom_modThread w f c
  · exact s.asideFrom_threads _ _ c

/-- Of the threads in slots, an update of an owner changes some and leaves the rest. -/
theorem State.modOwner_thread (s : State) (w : SlotIx) (uid : Nat) (f : Thread → Thread) (x : SlotIx) :
    (s.modOwner w uid f).thread x = f (s.thread x) ∨ (s.modOwner w uid f).thread x = s.thread x := by
  unfold State.modOwner
  split
  · rw [State.modThread_thread]
    split
    · exact .inl rfl
    · exact .inr rfl
  · rw [State.withThreads_thread, mapVector_getElem]
    split
    · exact .inl rfl
    · exact .inr rfl

theorem State.notifyEnd_aside (s : State) (t : Transfer) (e : Nat) (c : CoreIx) : s.AsideFrom (s.notifyEnd t e) c := by
  unfold State.notifyEnd
  split
  · exact s.asideFrom_refl c
  · exact s.modOwner_aside ..

/-- A notification is queued, or nothing changes in a thread. -/
theorem State.notifyEnd_thread (s : State) (t : Transfer) (e : Nat) (w : SlotIx) :
    ∃ ns, (s.notifyEnd t e).thread w = { s.thread w with notes := ns } := by
  unfold State.notifyEnd
  split
  · exact ⟨(s.thread w).notes, rfl⟩
  · obtain told | told := s.modOwner_thread t.w t.uid _ w
    · rw [told]
      split
      · exact ⟨_, rfl⟩
      · exact ⟨(s.thread w).notes, rfl⟩
    · exact ⟨(s.thread w).notes, told⟩

/-! ### The end of a transfer (R309, R318) -/

theorem scoreIx_val (e : Fin 16) : scoreIx e.val = e := Fin.ext (Nat.mod_eq_of_lt e.isLt)

/-- The scoreboard of a core with an entry. -/
def State.setScore (s : State) (c : CoreIx) (e : Fin 16) (y : Transfer) : State :=
  s.modCore c fun k => { k with score := k.score.set e (some y) }

theorem State.modTransfer_own {s : State} {c : CoreIx} {e : Fin 16} {y : Transfer} (f : Transfer → Transfer)
    (h : (s.core c).score[e] = some y) : s.modTransfer c e.val f = s.setScore c e (f y) := by
  simp only [State.modTransfer, scoreIx_val, Nat.div_eq_of_lt e.isLt, State.modView, State.modCore, h]
  rfl

theorem State.setScore_score (s : State) (c : CoreIx) (e : Fin 16) (y : Transfer) :
    ((s.setScore c e y).core c).score = (s.core c).score.set e (some y) := by
  rw [State.setScore, State.modCore_core_same]

theorem State.setScore_fetches (s : State) (c : CoreIx) (e : Fin 16) (y : Transfer) : s.FetchesAs (s.setScore c e y) c where
  icache := by rw [State.setScore, State.modCore_core_same]
  tlb := by rw [State.setScore, State.modCore_core_same]
  clusters := rfl
  parts := rfl
  pages := rfl
  mem := rfl
  ue := rfl

/-- A transfer has ended: its entry holds it as it ended, and the threads of its core that waited for it go on with its status. -/
structure State.Ends (s u : State) (c : CoreIx) (e : Fin 16) (y : Transfer) (st : W64) : Prop where
  fetches : s.FetchesAs u c
  cur : u.cur = s.cur
  score : (u.core c).score = (s.core c).score.set e (some y)
  thread : ∀ w, SlotIx.core w = c → ∃ ns, u.thread w = { (s.thread w).answered (y.id e.val) st with notes := ns }

theorem State.Ends.aside {s u v : State} {c : CoreIx} {e : Fin 16} {y : Transfer} {st : W64} (h : s.Ends u c e y st)
    (aside : u.AsideFrom v c) (noted : ∀ w, ∃ ns, v.thread w = { u.thread w with notes := ns }) : s.Ends v c e y st where
  fetches := h.fetches.trans aside.fetches
  cur := aside.cur.trans h.cur
  score := aside.score.trans h.score
  thread w mine := by
    obtain ⟨_, told⟩ := h.thread w mine
    obtain ⟨ns, noted⟩ := noted w
    exact ⟨ns, by rw [noted, told]⟩

/-- The waiters of a transfer are told of its end. -/
theorem State.tellWaiters_ends (s : State) (c : CoreIx) (e : Fin 16) (y : Transfer) :
    s.Ends ((s.setScore c e y).tellWaiters c e.val y) c e y ((s.setScore c e y).xstatus y) := by
  have told : (s.setScore c e y).tellWaiters c e.val y =
      (s.setScore c e y).releaseXwaits c (y.id e.val) ((s.setScore c e y).xstatus y) := if_pos e.isLt
  have aside := (s.setScore c e y).releaseXwaits_aside c (y.id e.val) ((s.setScore c e y).xstatus y)
  rw [told]
  exact {
    fetches := (s.setScore_fetches c e y).trans aside.fetches
    cur := aside.cur
    score := aside.score.trans (s.setScore_score c e y)
    thread := fun w mine => ⟨_, State.releaseXwaits_thread _ mine ..⟩ }

/-- The status of a transfer that has ended (R312). -/
def Transfer.finalStatus (y : Transfer) : W64 := match y.state with
  | .flight => BitVec.ofNat 64 y.bytes
  | .complete => BitVec.ofNat 64 (2 ^ 62 + y.rows * y.rowBytes)
  | .error n => BitVec.ofNat 64 (2 * 2 ^ 62 + n * 2 ^ 56 + y.bytes)
  | .cancelled => BitVec.ofNat 64 (3 * 2 ^ 62 + y.bytes)

theorem State.xstatus_ended {s : State} {y : Transfer} (h : y.state ≠ .flight) : s.xstatus y = y.finalStatus := by
  cases ended : y.state with
  | flight => exact absurd ended h
  | complete => simp [State.xstatus, Transfer.finalStatus, ended, XState.code, XState.err, Transfer.total]
  | error n => simp [State.xstatus, Transfer.finalStatus, ended, XState.code, XState.err]
  | cancelled => simp [State.xstatus, Transfer.finalStatus, ended, XState.code, XState.err]

theorem State.xstatus_flight {s : State} {y : Transfer} (h : y.state = .flight) : s.xstatus y = BitVec.ofNat 64 (s.lowest y) := by
  simp [State.xstatus, h, XState.code, XState.err]

section
variable {s : State} {c : CoreIx} {e : Fin 16} {y : Transfer} (entry : (s.core c).score[e] = some y)
include entry

theorem State.finishTransfer_ends (noBarrier : y.barEn = false) :
    s.Ends (s.finishTransfer c e.val y) c e { y with state := .complete } (BitVec.ofNat 64 (2 ^ 62 + y.rows * y.rowBytes)) := by
  rw [State.finishTransfer, State.modTransfer_own _ entry]
  simp only [noBarrier, Bool.false_eq_true, if_false]
  have ends := s.tellWaiters_ends c e { y with state := .complete }
  rw [State.xstatus_ended (by simp)] at ends
  exact ends.aside (State.notifyEnd_aside ..) fun w => State.notifyEnd_thread ..

theorem State.cancelTransfer_ends {n : Nat} (lowest : s.lowest y = n) :
    s.Ends (s.cancelTransfer c e.val y) c e { y with state := .cancelled, bytes := n } (BitVec.ofNat 64 (3 * 2 ^ 62 + n)) := by
  rw [State.cancelTransfer, State.modTransfer_own _ entry, lowest]
  have ends := s.tellWaiters_ends c e { y with state := .cancelled, bytes := n }
  rw [State.xstatus_ended (by simp)] at ends
  exact ends

end

/-! ### A transfer that can complete, or be cancelled, is when it is asked for (R309, R318, R323) -/

section
variable {s : State} {c : CoreIx} {e : Nat} {y : Transfer}

theorem State.transferStep_out (h : ∃ f ∈ y.flits, s.FlitOut f) : s.transferStep c e y = s :=
  if_pos ((s.flitsOut_iff y).2 h)

theorem State.transferStep_halted (none_ : ∀ f ∈ y.flits, ¬s.FlitOut f) (halted : y.halted = true) :
    s.transferStep c e y = s.cancelTransfer c e y := by
  have noneOut : ¬s.flitsOut y = true := fun h => by
    obtain ⟨f, mem, out⟩ := (s.flitsOut_iff y).1 h
    exact none_ f mem out
  rw [State.transferStep, if_neg noneOut, if_pos halted]

theorem State.transferStep_flying (goes : y.halted = false) (flies : y.state = .flight) (notDue : ¬s.Due y) : s.transferStep c e y = s := by
  by_cases out : ∃ f ∈ y.flits, s.FlitOut f
  · exact State.transferStep_out out
  · have more : (y.bytes != y.total || s.flitsFailed y) = true := by
      by_contra done
      simp only [Bool.or_eq_true, bne_iff_ne, State.flitsFailed_iff, not_or, not_not] at done
      refine notDue ⟨flies, goes, done.1, fun f mem => ⟨fun h => out ⟨f, mem, h⟩, fun h => done.2 ⟨f, mem, h⟩⟩⟩
    rw [State.transferStep, if_neg (fun h => out ((s.flitsOut_iff y).1 h)), if_neg (by simp [goes]), if_pos more]

theorem State.transferStep_due (due : s.Due y) (mode : y.ctl.toNat % 8 ≠ 2) : s.transferStep c e y = s.finishTransfer c e y := by
  obtain ⟨-, goes, written, answered⟩ := due
  have noneOut : ¬s.flitsOut y = true := fun h => by
    obtain ⟨f, mem, out⟩ := (s.flitsOut_iff y).1 h
    exact (answered f mem).1 out
  have noneLost : ¬(y.bytes != y.total || s.flitsFailed y) = true := by
    simp only [Bool.or_eq_true, bne_iff_ne, State.flitsFailed_iff, not_or, not_not]
    exact ⟨written, fun ⟨f, mem, lost⟩ => (answered f mem).2 lost⟩
  have plainMode : (y.mode != 2) = true := by
    simp only [Transfer.mode, bits, bne_iff_ne]
    simpa using mode
  rw [State.transferStep, if_neg noneOut, if_neg (by simp [goes]), if_neg noneLost, if_pos plainMode]

end

section
variable {s : State} {x : W64} {y : Transfer}

theorem State.applyDue_stale (h : ∀ y, ¬s.myCore.Names x y) : s.applyDue x = s := by
  rw [State.applyDue, Core.transfer_stale h]

theorem State.applyDue_ended (h : s.myCore.Names x y) (ended : y.state ≠ .flight) : s.applyDue x = s := by
  simp [State.applyDue, Core.transfer_named h, ended]

theorem State.applyDue_flight (h : s.myCore.Names x y) (flies : y.state = .flight) :
    s.applyDue x = s.transferStep (SlotIx.core s.cur) (scoreEntry x).val y := by
  simp [State.applyDue, Core.transfer_named h, flies]

end

/-! ### xwait, xstat and xcancel (R311, R312, R316 to R318) -/

/-- The instructions that ask for a transfer. -/
def AsksTransfer (i : Instr) (d a : GReg) : Prop := i = .xwait d a ∨ i = .xstat d a ∨ i = .xcancel d a

/-- What an id names once every completion that is due has taken effect has a status without waiting: that of a stale id, or of
a transfer that is over. -/
def State.HasStatus (u : State) (x st : W64) : Prop :=
  (u.myCore.transfer x = none ∧ st = staleStatus) ∨ ∃ e y, u.myCore.transfer x = some (e, y) ∧ y.state ≠ .flight ∧ st = u.xstatus y

section
variable {s : State} {d a : GReg} (plain : s.plain [.g a] [.g d])
include plain

/-- An instruction that finds a status answers it and goes on. -/
theorem exec_answers {i : Instr} (asks : AsksTransfer i d a) {u : State} {st : W64} (due : s.applyDue (s.me.greg a) = u) (cur : u.cur = s.cur)
    (mine : u.me.maps (.g d) = false) (h : u.HasStatus (s.me.greg a) st) : exec i s = .next (u.retire fun t => t.setG d st) := by
  have reads := srcG_plain (State.plain_src plain (List.mem_singleton_self _))
  have writes := dstG_advance st mine
  have begins {body : W64 → Op Unit} : (do ready [.g a] [.g d]; let x ← srcG a; modify fun s => s.applyDue x; body x : Op Unit) s =
      body (s.me.greg a) u := by
    rw [op_bind_ok (ready_plain plain), op_bind_ok reads, op_bind_ok (op_modify _ s), due]
  obtain rfl | rfl | rfl := asks
  · refine State.run_advance_after (begins.trans ?_) cur
    rw [op_bind_ok (op_get u)]
    obtain ⟨gone, rfl⟩ | ⟨e, y, named, ended, rfl⟩ := h
    · simp only [gone]; exact writes
    · simp only [named, beq_iff_eq, ended, if_false]; exact writes
  · refine State.run_advance_after (begins.trans ?_) cur
    rw [op_bind_ok (op_get u)]
    obtain ⟨gone, rfl⟩ | ⟨e, y, named, ended, rfl⟩ := h
    · simp only [gone]; exact writes
    · simp only [named]; exact writes
  · refine State.run_advance_after (begins.trans ?_) cur
    rw [op_bind_ok (op_get u)]
    obtain ⟨gone, rfl⟩ | ⟨e, y, named, ended, rfl⟩ := h
    · simp only [gone]; exact writes
    · simp only [named, bne_iff_ne, ne_eq, ended, not_false_eq_true, if_true]; exact writes

theorem gives_stale {i : Instr} (asks : AsksTransfer i d a) (stale : ∀ y, ¬s.myCore.Names (s.me.greg a) y) :
    s.gives i d (BitVec.ofNat 64 (2 ^ 62 + 2 ^ 55)) :=
  exec_answers plain asks (State.applyDue_stale stale) rfl (State.plain_dst plain (List.mem_singleton_self _))
    (.inl ⟨Core.transfer_stale stale, by decide⟩)

variable {y : Transfer} (names : s.myCore.Names (s.me.greg a) y)
include names

theorem gives_ended {i : Instr} (asks : AsksTransfer i d a) (ended : y.state ≠ .flight) : s.gives i d y.finalStatus :=
  exec_answers plain asks (State.applyDue_ended names ended) rfl (State.plain_dst plain (List.mem_singleton_self _))
    (.inr ⟨_, y, Core.transfer_named names, ended, (State.xstatus_ended ended).symm⟩)

variable (flies : y.state = .flight)
include flies

/-- xstat of a transfer in flight answers how far it is. -/
theorem execXstat_flying (stays : s.applyDue (s.me.greg a) = s) : s.gives (.xstat d a) d (BitVec.ofNat 64 (s.lowest y)) := by
  refine State.run_advance ?_
  rw [op_bind_ok (ready_plain plain), op_bind_ok (srcG_plain (State.plain_src plain (List.mem_singleton_self _))),
    op_bind_ok (op_modify _ s), stays, op_bind_ok (op_get s)]
  simp only [Core.transfer_named names, State.xstatus_flight flies]
  exact dstG_advance _ (State.plain_dst plain (List.mem_singleton_self _))

/-- xwait of a transfer in flight parks. -/
theorem execXwait_parks (stays : s.applyDue (s.me.greg a) = s) : exec (.xwait d a) s = .next ((s.modMe fun t =>
    { t with wait := .xwait (.reg d) (s.me.greg a), resume := s.following, parkedAt := s.myCore.cycle }).modMe Thread.settled) := by
  refine State.run_ok ?_
  rw [op_bind_ok (ready_plain plain), op_bind_ok (srcG_plain (State.plain_src plain (List.mem_singleton_self _))),
    op_bind_ok (op_modify _ s), stays, op_bind_ok (op_get s)]
  simp only [Core.transfer_named names, flies, beq_self_eq_true, if_true]
  rw [op_bind_ok (reserve_plain (State.plain_dst plain (List.mem_singleton_self _)))]
  rfl

/-- The thread of an xcancel waits, and no further write of its transfer is issued (R318). -/
def State.cancelling (s : State) (d : GReg) (x : W64) (y : Transfer) : State :=
  (s.modMe fun t => { t with wait := .xcancel (.reg d) x, resume := s.following, parkedAt := s.myCore.cycle }).setScore
    (SlotIx.core s.cur) (scoreEntry x) { y with halted := true }

/-- xcancel of a transfer in flight halts it, and ends it if nothing is on its way. -/
theorem execXcancel_flying (stays : s.applyDue (s.me.greg a) = s) : exec (.xcancel d a) s =
    .next (((s.cancelling d (s.me.greg a) y).applyDue (s.me.greg a)).modThread s.cur Thread.settled) := by
  refine State.run_ok ?_
  rw [op_bind_ok (ready_plain plain), op_bind_ok (srcG_plain (State.plain_src plain (List.mem_singleton_self _))),
    op_bind_ok (op_modify _ s), stays, op_bind_ok (op_get s)]
  simp only [Core.transfer_named names, flies, bne_self_eq_false, Bool.false_eq_true, if_false]
  rw [op_bind_ok (reserve_plain (State.plain_dst plain (List.mem_singleton_self _)))]
  have parks : parkAs (.xcancel (.reg d) (s.me.greg a)) s = .ok ((), s.modMe fun t =>
    { t with wait := .xcancel (.reg d) (s.me.greg a), resume := s.following, parkedAt := s.myCore.cycle }) := rfl
  rw [op_bind_ok parks, op_modify]
  exact congrArg (fun t : State => Except.ok ((), t.applyDue (s.me.greg a))) (State.modTransfer_own _ names.2.1)

end

/-! ### The transfer ends with the instruction -/

theorem Thread.settled_trying {t : Thread} (h : t.wait = .run ∨ (∃ why, t.wait = .retry why) ∨ ∃ ipa, t.wait = .declined ipa) :
    t.settled = { t with wait := .run, popped := [], edgeDone := false, parks := false } := by
  obtain h | ⟨_, h⟩ | ⟨_, h⟩ := h <;> simp only [Thread.settled, h]

/-- An instruction answers a status to its thread, and leaves an entry of the scoreboard as it says. -/
def State.Answers (s : State) (i : Instr) (d : GReg) (e : Fin 16) (y : Transfer) (st : W64) : Prop :=
  ∃ z, exec i s = .next z ∧ z.me.ip = s.following ∧ z.me.greg d = (if d.val = 0 then 0 else st) ∧
    (∀ r, r ≠ d → z.me.greg r = s.me.greg r) ∧ z.me.v = s.me.v ∧ z.me.wait = .run ∧
    z.myCore.score = s.myCore.score.set e (some y) ∧ z.mem = s.mem

@[simp] theorem Thread.setG_v (t : Thread) (r : GReg) (x : W64) : (t.setG r x).v = t.v := by
  unfold Thread.setG
  split <;> rfl

@[simp] theorem Thread.setG_resume (t : Thread) (r : GReg) (x : W64) : (t.setG r x).resume = t.resume := by
  unfold Thread.setG
  split <;> rfl

theorem Thread.greg_of_g {t u : Thread} (h : t.g = u.g) (r : GReg) : t.greg r = u.greg r := by simp only [Thread.greg, h]

theorem Thread.setG_greg_same (t : Thread) (d : GReg) (x : W64) : (t.setG d x).greg d = if d.val = 0 then 0 else x := by
  rw [Thread.greg_setG]
  by_cases zero : d.val = 0
  · simp [zero, Thread.greg]
  · simp [zero]

theorem Thread.setG_greg_other (t : Thread) {d r : GReg} (x : W64) (h : r ≠ d) : (t.setG d x).greg r = t.greg r := by
  rw [Thread.greg_setG, if_neg fun same => h same.1.symm]

section
variable {s u : State} {d : GReg} {e : Fin 16} {y : Transfer} {st : W64} (ends : s.Ends u (SlotIx.core s.cur) e y st)
include ends

theorem State.Ends.me : ∃ ns, u.me = { s.me.answered (y.id e.val) st with notes := ns } := by
  rw [State.me, ends.cur]
  exact ends.thread s.cur rfl

theorem State.Ends.myCore : u.myCore.score = s.myCore.score.set e (some y) := by
  rw [State.myCore, ends.cur]
  exact ends.score

theorem State.Ends.me_trying (trying : s.trying) : ∃ ns, u.me = { s.me with notes := ns } := by
  obtain ⟨ns, me⟩ := ends.me
  exact ⟨ns, by rw [me, Thread.answered_other _ _ trying]⟩

theorem State.Ends.following (trying : s.trying) : u.following = s.following := by
  obtain ⟨ns, me⟩ := ends.me_trying trying
  rw [State.following, ends.cur, me]
  exact ends.fetches.after s.me.ip

/-- A transfer has ended, and then the instruction has answered its status. -/
theorem State.Ends.answers (trying : s.trying) {i : Instr} (runs : exec i s = .next (u.retire fun t => t.setG d st)) :
    s.Answers i d e y st := by
  obtain ⟨ns, me⟩ := ends.me_trying trying
  have thread : (u.retire fun t => t.setG d st).me = { ({ s.me with notes := ns } : Thread).setG d st with
      ip := s.following, wait := .run, popped := [], edgeDone := false, parks := false } := by
    rw [State.retire, State.goTo, State.modMe_me, me, ends.following trying, Thread.settled_trying]
    rw [Thread.setG_wait]
    exact trying
  refine ⟨_, runs, ?_, ?_, fun r other => ?_, ?_, ?_, ends.myCore, ends.fetches.mem⟩ <;> rw [thread]
  · exact Thread.setG_greg_same _ d st
  · exact Thread.setG_greg_other _ st other
  · exact Thread.setG_v _ d st

end

section
variable (s : State) (d : GReg) (x : W64) (y : Transfer)

theorem State.cancelling_score : ((s.cancelling d x y).core (SlotIx.core s.cur)).score =
    s.myCore.score.set (scoreEntry x) (some { y with halted := true }) := State.setScore_score ..

theorem State.cancelling_fetches : s.FetchesAs (s.cancelling d x y) (SlotIx.core s.cur) :=
  (s.asideFrom_modThread s.cur _ _).fetches.trans (State.setScore_fetches ..)

theorem State.cancelling_me : (s.cancelling d x y).thread s.cur = { s.me with
    wait := .xcancel (.reg d) x, resume := s.following, parkedAt := s.myCore.cycle } := by
  rw [State.cancelling, State.setScore, State.modCore_thread]
  exact State.modMe_me ..

theorem State.cancelling_names {s : State} {x : W64} {y : Transfer} (names : s.myCore.Names x y) :
    (s.cancelling d x y).myCore.Names x { y with halted := true } :=
  ⟨names.1, (congrArg (·[scoreEntry x]) (s.cancelling_score d x y)).trans ((vector_get_set ..).trans (if_pos rfl)), names.2.2⟩

/-- The entry of a transfer that is halted and then cancelled. -/
theorem State.Ends.of_cancelling {s u : State} {d : GReg} {x : W64} {y y' : Transfer} {st : W64}
    (ends : (s.cancelling d x y).Ends u (SlotIx.core s.cur) (scoreEntry x) y' st) (names : s.myCore.Names x y)
    (num : y'.num = y.num) :
    u.myCore.score = s.myCore.score.set (scoreEntry x) (some y') ∧
    ∃ ns, u.thread s.cur = { ({ s.me with resume := s.following, parkedAt := s.myCore.cycle, wait := .xcancel (.reg d) x }.setG d st).done with
      notes := ns } := by
  constructor
  · refine ends.myCore.trans ((congrArg (fun v => v.set (scoreEntry x) (some y')) (s.cancelling_score d x y)).trans ?_)
    exact Vector.set_set ..
  · obtain ⟨ns, thread⟩ := ends.thread s.cur rfl
    have id : y'.id (scoreEntry x).val = x := by
      rw [Transfer.id, num]
      exact Transfer.id_of_names names
    refine ⟨ns, ?_⟩
    rw [thread, id, State.cancelling_me]
    simp only [Thread.answered, beq_self_eq_true, if_true]

end

section
variable {s : State} {d a : GReg} (plain : s.plain [.g a] [.g d]) (trying : s.trying) {y : Transfer}
  (names : s.myCore.Names (s.me.greg a) y)
include plain trying names

/-- What ends a transfer when it is asked for gives its final status. -/
theorem answers_ending {i : Instr} (asks : AsksTransfer i d a) {y' : Transfer}
    (ends : s.Ends (s.applyDue (s.me.greg a)) (SlotIx.core s.cur) (scoreEntry (s.me.greg a)) y' y'.finalStatus)
    (num : y'.num = y.num) (ended : y'.state ≠ .flight) : s.Answers i d (scoreEntry (s.me.greg a)) y' y'.finalStatus := by
  have named : (s.applyDue (s.me.greg a)).myCore.Names (s.me.greg a) y' :=
    ⟨names.1, by rw [ends.myCore, vector_get_set, if_pos rfl], by rw [num]; exact names.2.2⟩
  have mine : (s.applyDue (s.me.greg a)).me.maps (.g d) = false := by
    obtain ⟨ns, me⟩ := ends.me_trying trying
    rw [me]
    exact State.plain_dst plain (List.mem_singleton_self _)
  exact ends.answers trying (exec_answers plain asks rfl ends.cur mine
    (.inr ⟨_, y', Core.transfer_named named, ended, (State.xstatus_ended ended).symm⟩))

/-- A transfer that has nothing left to write is complete (R309, R323). -/
theorem answers_due {i : Instr} (asks : AsksTransfer i d a) (due : s.Due y) (mode : y.ctl.toNat % 8 ≠ 2) (noBarrier : y.ctl.getLsbD 5 = false) :
    s.Answers i d (scoreEntry (s.me.greg a)) { y with state := .complete } (BitVec.ofNat 64 (2 ^ 62 + y.rows * y.rowBytes)) := by
  refine answers_ending plain trying names asks ?_ rfl (by simp)
  rw [State.applyDue_flight names due.1, State.transferStep_due due mode]
  exact State.finishTransfer_ends names.2.1 noBarrier

variable (flies : y.state = .flight) {n : Nat} (lowest : s.Lowest y n)
include flies

section
include lowest

/-- A halted transfer that has nothing on its way is cancelled (R318). -/
theorem answers_halted {i : Instr} (asks : AsksTransfer i d a) (halted : y.halted = true) (noneOut : ∀ f ∈ y.flits, ¬s.FlitOut f) :
    s.Answers i d (scoreEntry (s.me.greg a)) { y with state := .cancelled, bytes := n } (BitVec.ofNat 64 (3 * 2 ^ 62 + n)) := by
  refine answers_ending plain trying names asks ?_ rfl (by simp)
  rw [State.applyDue_flight names flies, State.transferStep_halted noneOut halted]
  exact State.cancelTransfer_ends names.2.1 (State.lowest_eq lowest)

end

omit trying in
/-- An xcancel whose transfer has a flit on its way waits (R318). -/
theorem execXcancel_waits (stays : s.applyDue (s.me.greg a) = s) (out : ∃ f ∈ y.flits, s.FlitOut f) :
    exec (.xcancel d a) s = .next ((s.cancelling d (s.me.greg a) y).modMe Thread.settled) := by
  rw [execXcancel_flying plain names flies stays, State.applyDue_flight (State.cancelling_names d names) flies,
    State.transferStep_out (y := { y with halted := true }) (show ∃ f ∈ y.flits, (s.cancelling d (s.me.greg a) y).FlitOut f from out)]
  rfl

include lowest

omit trying in
/-- An xcancel whose transfer has nothing on its way cancels it at once (R318). -/
theorem execXcancel_cancels (stays : s.applyDue (s.me.greg a) = s) (noneOut : ∀ f ∈ y.flits, ¬s.FlitOut f) :
    s.Answers (.xcancel d a) d (scoreEntry (s.me.greg a)) { y with halted := true, state := .cancelled, bytes := n }
      (BitVec.ofNat 64 (3 * 2 ^ 62 + n)) := by
  have named := State.cancelling_names d names
  have low : (s.cancelling d (s.me.greg a) y).Lowest { y with halted := true } n := lowest
  have ends := State.cancelTransfer_ends named.2.1 (State.lowest_eq low)
  have runs := execXcancel_flying plain names flies stays
  rw [State.applyDue_flight named flies, State.transferStep_halted (y := { y with halted := true })
    (show ∀ f ∈ y.flits, ¬(s.cancelling d (s.me.greg a) y).FlitOut f from noneOut) rfl] at runs
  obtain ⟨score, ns, thread⟩ := State.Ends.of_cancelling ends names rfl
  have cur : State.cur _ = s.cur := ends.cur
  have me : (State.modThread _ s.cur Thread.settled).me = _ := (congrArg (State.thread _) cur).trans ((State.modThread_thread_same ..).trans (congrArg Thread.settled thread))
  refine ⟨_, runs, ?_, ?_, fun r other => ?_, ?_, ?_, score, ends.fetches.mem⟩ <;> rw [me]
  · exact Thread.setG_resume _ d _
  · exact Thread.setG_greg_same _ d _
  · exact Thread.setG_greg_other _ _ other
  · exact Thread.setG_v _ d _
  · rfl

end

/-! ### The statement -/

/-- What begins a transfer in an entry leaves the rest of the instruction as it is. -/
theorem State.beginTransfer_retire (s : State) (e : Fin 16) (t : Transfer) (f : Thread → Thread) : (s.beginTransfer e t).retire f =
    ({ s with uids := s.uids + 1 }.retire f).modCore (SlotIx.core s.cur) fun c =>
      { c with score := c.score.set e (some t), xcount := s.myCore.xcount + 1 } := by
  have following : (s.beginTransfer e t).following = s.following := (s.beginTransfer_fetches e t).after s.me.ip
  have counted : State.following { s with uids := s.uids + 1 } = s.following :=
    State.FetchesAs.after (s := s) (t := { s with uids := s.uids + 1 }) (c := SlotIx.core s.cur) ⟨rfl, rfl, rfl, rfl, rfl, rfl, rfl⟩ s.me.ip
  rw [State.retire, State.retire, following, counted]
  rfl

end Sys2Proof.Machine

namespace Sys2Proof

open Machine

/-- Settles O46: of xgo, an equation for each outcome in the order of its checks; of the others, what a transfer that is asked for
becomes (none, over, complete, cancelled or still in flight), and what the instruction then answers. -/
theorem transferInstructions : Obligations.TransferInstructions := by
  unfold Obligations.TransferInstructions
  intro s d a off mine t here x ea base mem place lane w field mode fill notify rows size local_ scratch stride ncore block breaks
  have same (n : Nat) : breaks n ↔ BlockBreaks (blockWords (s.blockMemory mine) off) n := by
    match n with
    | 0 | n + 8 => exact Iff.rfl
    | 1 | 2 | 3 | 4 | 5 | 6 | 7 => exact Iff.rfl
  refine ⟨fun user => execXgo_user (Bool.not_eq_true _ ▸ user), fun slot plain => ⟨fun h => ?_, fun h => ?_, fun at_ small => ⟨fun h => ?_,
    fun aligned m h => ?_, fun aligned h unheld => ?_⟩⟩, fun plain => ⟨fun stale => ?_, fun y names => ⟨fun ended => ?_, fun trying due mode noBarrier => ?_,
    fun flies notDue trying goes => ?_, fun flies halted trying noneOut n lowest => ?_⟩⟩⟩
  · obtain h | ⟨lo, hi, far, there⟩ := h
    · exact execXgo_traps slot plain (blockAt_global (window_global h))
    · exact execXgo_traps slot plain (blockAt_remote (window_remote lo hi) there)
  · exact execXgo_traps slot plain (blockAt_outside (window_none h))
  · exact execXgo_traps slot plain (blockAt_unaligned at_ small h)
  · exact execXgo_traps slot plain (blockAt_pool at_ small aligned m h)
  · refine ⟨fun sends => ?_, fun sends bad => ?_, fun sends sound outs => ?_, fun sends sound quiet_ => ⟨fun full => ?_, fun e free lowest =>
      ⟨fun n breaks first => ?_, fun wellFormed => ?_⟩⟩⟩
    · exact execXgo_waits slot plain (blockAt_sending at_ small aligned h unheld sends)
    · exact execXgo_traps slot plain (blockAt_bad at_ small aligned h unheld sends bad)
    · exact execXgo_accesses slot plain (blockAt_ok at_ small aligned h unheld sends sound) outs
    · exact execXgo_full slot plain (blockAt_ok at_ small aligned h unheld sends sound) quiet_ full
    · exact execXgo_refuses slot plain (blockAt_ok at_ small aligned h unheld sends sound) quiet_ free lowest ((same n).1 breaks)
        fun i below => first i below ∘ (same i).2
    · rw [execXgo_begins slot plain (blockAt_ok at_ small aligned h unheld sends sound) quiet_ free lowest fun n => wellFormed n ∘ (same n).2, State.beginTransfer_retire]
      rfl
  · exact ⟨gives_stale plain (.inl rfl) stale, gives_stale plain (.inr (.inl rfl)) stale, gives_stale plain (.inr (.inr rfl)) stale⟩
  · exact ⟨gives_ended plain names (.inl rfl) ended, gives_ended plain names (.inr (.inr rfl)) ended, gives_ended plain names (.inr (.inl rfl)) ended⟩
  · exact ⟨answers_due plain trying names (.inl rfl) due mode noBarrier, answers_due plain trying names (.inr (.inl rfl)) due mode noBarrier,
      answers_due plain trying names (.inr (.inr rfl)) due mode noBarrier⟩
  · have stays : s.applyDue (s.me.greg a) = s := by
      rw [State.applyDue_flight names flies]
      by_cases out : ∃ f ∈ y.flits, s.FlitOut f
      · exact State.transferStep_out out
      · exact State.transferStep_flying (goes.resolve_right out) flies notDue
    refine ⟨execXwait_parks plain names flies stays, fun n lowest => ?_, fun n lowest noneOut => ?_, fun out => ?_⟩
    · rw [← State.lowest_eq lowest]
      exact execXstat_flying plain names flies stays
    · exact execXcancel_cancels plain names flies lowest stays noneOut
    · exact execXcancel_waits plain names flies stays out
  · exact ⟨answers_halted plain trying names flies lowest (.inl rfl) halted noneOut, answers_halted plain trying names flies lowest (.inr (.inl rfl)) halted noneOut,
      answers_halted plain trying names flies lowest (.inr (.inr rfl)) halted noneOut⟩

end Sys2Proof
end

section
/-! PROOFS. Control registers and notifications (R53, R101, R102, R237, R258 to R261, R283, R284, R302, R313, R364, R421). -/

namespace Sys2Proof.Machine

/-- A check that a condition asks for and that passes. -/
theorem op_ite_pass {c : Prop} [Decidable c] {x : Op PUnit} {f : PUnit → Op Unit} {s : State} (h : c → x s = .ok ((), s)) :
    (if c then x >>= f else f ()) s = f () s := by
  split
  · next holds => exact op_bind_ok (h holds)
  · rfl

/-! ### rdc (R101) -/

section
variable {s : State} {d : GReg} {index : BitVec 16}

theorem execRdc_user (user : s.me.priv = false) (trapvec : index = 0x040) : s.traps (.rdc d index) 0x04 0 s.headParcels := by
  subst trapvec
  exact State.run_trap (op_bind_error (privileged_user user))

/-- A read of a control register that the thread may read. -/
theorem execRdc_gives (plain : s.plain [] [.g d]) (may : index = 0x040 → ¬s.me.priv = false) :
    s.gives (.rdc d index) d (s.readControl s.cur index.toNat) := by
  refine State.run_advance ((op_ite_pass fun trapvec => privileged_ok (Bool.not_eq_false _ ▸ may (beq_iff_eq.1 trapvec))).trans ?_)
  exact (op_bind_ok (ready_plain plain)).trans ((op_bind_ok (op_get s)).trans
    (dstG_advance _ (State.plain_dst plain (List.mem_singleton_self _))))

theorem execRdc_reads (plain : s.plain [] [.g d]) (may : index = 0x040 → ¬s.me.priv = false) {i : BitVec 16} {v : W64}
    (value : s.readControl s.cur i.toNat = v) (which : index = i) : s.gives (.rdc d index) d v := by
  subst which
  exact value ▸ execRdc_gives plain may

end

/-! ### The registers as they read (R53) -/

theorem bits_eq_div (x : W64) (hi lo : Nat) : bits x hi lo = x.toNat / 2 ^ lo % 2 ^ (hi + 1 - lo) := by
  rw [bits, Nat.shiftRight_eq_div_pow]

theorem setWidth_eq_ofNat {n : Nat} (x : BitVec n) : x.setWidth 64 = BitVec.ofNat 64 x.toNat := (BitVec.ofNat_toNat 64 x).symm

/-- The bit of a flag. -/
def flagBit (x : Bool) (n : Nat) : Nat := if x then 2 ^ n else 0

theorem boolNat_mul (b : Bool) (n : Nat) : boolNat b * 2 ^ n = flagBit b n := by cases b <;> simp [boolNat, flagBit]

section
variable (s : State) (w : SlotIx)

/-- STATUS (R102). -/
theorem State.statusOf_eq : s.statusOf w = BitVec.ofNat 64 (flagBit (s.thread w).priv 0 + flagBit (s.thread w).handler 1 +
    flagBit (s.xslot w) 2 + flagBit ((s.core (SlotIx.core w)).griddle.holder == some (SlotIx.num w)) 3 + flagBit (s.thread w).migr 4) := by
  simp only [State.statusOf, ← boolNat_mul, Nat.reducePow, Nat.mul_one]

/-- TSEQ (R259). -/
theorem Tile.seqWord_eq (x : Tile) : x.seqWord = BitVec.ofNat 64 (x.fifo.length * 2 ^ 16 + match x.fifo with
    | [] => 0
    | e :: _ => e.tag.toNat) := by
  rw [Tile.seqWord, Nat.add_comm]
  cases x.fifo <;> rfl

/-- TSTAT (R260). -/
theorem Tile.statWord_eq (x : Tile) :
    x.statWord = BitVec.ofNat 64 (flagBit x.accsat 0 + flagBit x.trapen 1 + flagBit ((x.epi.filter fun g => g.held.isSome).length != 0) 2) := by
  simp only [Tile.statWord, ← boolNat_mul, Nat.reducePow, Nat.mul_one]
  rfl

/-- GSTAT (R284). -/
theorem Griddle.statWord_eq (g : Griddle) : g.statWord = BitVec.ofNat 64 (g.win.toNat + (match g.state with
      | .idle => 0
      | .running => 2 ^ 16
      | .done => 2 ^ 17) + match g.holder with
      | none => 0
      | some n => 2 ^ 36 + n.val * 2 ^ 32) := by
  rw [Griddle.statWord]
  cases g.state <;> cases g.holder <;> simp [GState.code, Nat.add_comm]

/-- MBST (R302). -/
theorem Core.mailboxWord_eq (c : Core) : c.mailboxWord = BitVec.ofNat 64 (flagBit c.mailbox[0].full 0 + flagBit c.mailbox[1].full 1 +
    flagBit c.mailbox[2].full 2 + flagBit c.mailbox[3].full 3) := by
  simp only [Core.mailboxWord, boolNat_mul]
  refine congrArg (BitVec.ofNat 64) ?_
  simp [List.finRange]

/-- NOTIFY (R313). -/
theorem Thread.notifyWord_eq (t : Thread) : t.notifyWord = BitVec.ofNat 64 (flagBit t.notifyEn 0 + t.savedip.toNat * 2 + flagBit t.notifyActive 63) := by
  simp only [Thread.notifyWord, ← boolNat_mul, Nat.pow_zero, Nat.mul_one]

/-- A counter pair (R421). -/
theorem State.readControl_sel (n : Fin 8) : s.readControl w (BitVec.ofNat 16 (0x060 + n)).toNat = BitVec.ofNat 64 ((s.core (SlotIx.core w)).pmc[n].sel.toNat) := by
  rw [← setWidth_eq_ofNat]
  fin_cases n <;> rfl

theorem State.readControl_count (n : Fin 8) : s.readControl w (BitVec.ofNat 16 (0x068 + n)).toNat = BitVec.ofNat 64 ((s.core (SlotIx.core w)).pmc[n].count.toNat) := by
  rw [← setWidth_eq_ofNat]
  fin_cases n <;> rfl

end

/-! ### wrc (R101) -/

/-- What wrc does with the value it has read. -/
def wrcOn (index : BitVec 16) (x : W64) : Op Unit := do
  let s ← get
  if index == 0x021 && x.getLsbD 32 && s.myCore.tile.unstarted then flushLater
  else if index == 0x023 && bits x 1 0 == 1 then set s.wrcReplay
  else
    modify fun y => y.writeControl y.cur index.toNat x
    if !(s.me.notifyActive && index == 0x046) then advance

/-- A write that acts at once, and after which its thread goes on at the next instruction. -/
structure State.WritesNow (s : State) (index : BitVec 16) (x : W64) : Prop where
  noFlush : (index == 0x021 && x.getLsbD 32 && s.myCore.tile.unstarted) = false
  noReplay : (index == 0x023 && bits x 1 0 == 1) = false
  noReturn : (s.me.notifyActive && index == 0x046) = false

/-- Most registers are written so whatever the value is. -/
theorem State.writesNow_of_not_mem {s : State} {index : BitVec 16} {x : W64} (h : index ∉ [0x021#16, 0x023#16, 0x046#16]) :
    s.WritesNow index x := by
  simp only [List.mem_cons, List.not_mem_nil, or_false, not_or] at h
  obtain ⟨flush, replay, note⟩ := h
  exact ⟨by simp [flush], by simp [replay], by simp [note]⟩

theorem State.modCore_congr {s : State} {c : CoreIx} {f g : Core → Core} (h : f (s.core c) = g (s.core c)) : s.modCore c f = s.modCore c g :=
  congrArg (s.setCore c) h

section
variable {s : State} {x : W64}

theorem State.WritesNow.flush (h : (x.getLsbD 32 && s.myCore.tile.unstarted) = false) : s.WritesNow 0x021 x := ⟨h, rfl, Bool.and_false _⟩

theorem State.WritesNow.epi (h : bits x 1 0 ≠ 1) : s.WritesNow 0x023 x := ⟨rfl, by simp [h], Bool.and_false _⟩

theorem State.WritesNow.note (inactive : s.me.notifyActive = false) : s.WritesNow 0x046 x := ⟨rfl, rfl, by rw [inactive]; rfl⟩

end

theorem State.FetchesAs.following {s u : State} (h : s.FetchesAs u (SlotIx.core s.cur)) (cur : u.cur = s.cur) (ip : u.me.ip = s.me.ip) :
    u.following = s.following := by
  rw [State.following, cur, ip]
  exact h.after s.me.ip

/-- The update of a thread that an instruction makes before it goes on. -/
theorem State.retire_modMe {s : State} {f : Thread → Thread} (h : (f s.me).ip = s.me.ip) : (s.modMe f).retire id = s.retire f := by
  rw [State.retire, State.goTo, State.following_modMe s f h, State.modMe_modMe]
  rfl

/-- The update of a core that an instruction makes before it goes on. -/
theorem State.retire_modCore (s : State) {g : Core → Core} (h : ∀ k, (g k).icache = k.icache ∧ (g k).tlb = k.tlb ∧ (g k).score = k.score)
    (f : Thread → Thread) : (s.modCore (SlotIx.core s.cur) g).retire f = (s.retire f).modCore (SlotIx.core s.cur) g := by
  have following := (s.asideFrom_modCore (SlotIx.core s.cur) (SlotIx.core s.cur) h).fetches.following rfl rfl
  rw [State.retire, following]
  rfl

section
variable {s : State} {d : GReg} {index : BitVec 16}

theorem execWrc_user (user : s.me.priv = false) (lo : 0x040 ≤ index.toNat) (hi : index.toNat ≤ 0x045) :
    s.traps (.wrc d index) 0x04 0 s.headParcels := by
  refine State.run_trap ((congrFun (if_pos ?_) s).trans (op_bind_error (privileged_user user)))
  rw [Bool.and_eq_true, decide_eq_true_eq, decide_eq_true_eq]
  exact ⟨lo, hi⟩

variable (plain : s.plain [.g d] []) (may : 0x040 ≤ index.toNat → index.toNat ≤ 0x045 → ¬s.me.priv = false)
include plain may

/-- A write of a register that the thread may write. -/
theorem execWrc_meaning : ∃ body, exec (.wrc d index) s = s.run body ∧ body s = wrcOn index (s.me.greg d) s := by
  refine ⟨_, rfl, (op_ite_pass fun trap => ?_).trans ?_⟩
  · rw [Bool.and_eq_true, decide_eq_true_eq, decide_eq_true_eq] at trap
    exact privileged_ok (Bool.not_eq_false _ ▸ may trap.1 trap.2)
  · exact (op_bind_ok (ready_plain plain)).trans (op_bind_ok (srcG_plain (State.plain_src plain (List.mem_singleton_self _))))

/-- A write that acts at once. -/
theorem execWrc_now (now : s.WritesNow index (s.me.greg d)) {u : State} (writes : s.writeControl s.cur index.toNat (s.me.greg d) = u)
    (cur : u.cur = s.cur) : exec (.wrc d index) s = .next (u.retire id) := by
  obtain ⟨body, runs, meaning⟩ := execWrc_meaning plain may
  obtain ⟨noFlush, noReplay, noReturn⟩ := now
  refine runs.trans (State.run_goTo (meaning.trans ?_) cur)
  rw [wrcOn, op_bind_ok (op_get s), if_neg (Bool.eq_false_iff.1 noFlush), if_neg (Bool.eq_false_iff.1 noReplay), op_bind_ok (op_modify _ s),
    writes, if_pos (by rw [noReturn]; rfl)]
  rfl

/-- A write that updates the thread's own registers, and the same from outside (R404). -/
theorem execWrc_thread {i : BitVec 16} {f : Thread → Thread} (now : s.WritesNow i (s.me.greg d))
    (writes : s.writeControl s.cur i.toNat (s.me.greg d) = s.modMe f) (ip : (f s.me).ip = s.me.ip) (which : index = i) :
    exec (.wrc d index) s = .next (s.retire f) ∧ exec (.registerWrite (.control s.cur index) (s.me.greg d)) s = .next (s.modMe f) := by
  subst which
  exact ⟨(execWrc_now plain may now writes rfl).trans (congrArg Host.Outcome.next (State.retire_modMe ip)), congrArg Host.Outcome.next writes⟩

/-- A write that acts as an instruction of its own does. -/
theorem execWrc_acts {i : BitVec 16} {e : Instr} {u : State} (now : s.WritesNow i (s.me.greg d))
    (writes : s.writeControl s.cur i.toNat (s.me.greg d) = u) (cur : u.cur = s.cur) (acts : exec e s = .next u) (which : index = i) :
    ∃ u : State, exec e s = .next u ∧ exec (.wrc d index) s = .next (u.retire id) := by
  subst which
  exact ⟨u, acts, execWrc_now plain may now writes cur⟩

/-- A write that updates the thread's core. -/
theorem execWrc_core {i : BitVec 16} {g : Core → Core} (now : s.WritesNow i (s.me.greg d))
    (writes : s.writeControl s.cur i.toNat (s.me.greg d) = s.modCore (SlotIx.core s.cur) g)
    (h : ∀ k, (g k).icache = k.icache ∧ (g k).tlb = k.tlb ∧ (g k).score = k.score) (which : index = i) :
    exec (.wrc d index) s = .next ((s.retire id).modCore (SlotIx.core s.cur) g) := by
  subst which
  exact (execWrc_now plain may now writes rfl).trans (congrArg Host.Outcome.next (s.retire_modCore h id))

end

/-! ### The writes of each register (R53) -/

section
variable (t : Thread) (x : W64)

/-- TFMT (R258). -/
theorem Thread.setTfmt_eq : t.setTfmt x = { t with tfmt := BitVec.ofNat 6 ((if x.toNat / 2 ^ 1 % 2 ^ 5 = 1 ∨ 16 < x.toNat / 2 ^ 1 % 2 ^ 5
    then t.tfmt.toNat / 2 else x.toNat / 2 ^ 1 % 2 ^ 5) * 2 + x.toNat / 2 ^ 0 % 2 ^ 1) } := by
  simp only [Thread.setTfmt, bits, Nat.shiftRight_eq_div_pow, Bool.or_eq_true, beq_iff_eq, decide_eq_true_eq, gt_iff_lt]

/-- TKW (R283). -/
theorem Thread.setTkw_eq : t.setTkw x = if 1 ≤ x.toNat / 2 ^ 0 % 2 ^ 11 ∧ x.toNat / 2 ^ 0 % 2 ^ 11 ≤ 1024 then
    { t with tkw := BitVec.ofNat 11 x.toNat } else t := by
  have same : BitVec.ofNat 11 (x.toNat / 2 ^ 0 % 2 ^ 11) = BitVec.ofNat 11 x.toNat := BitVec.eq_of_toNat_eq (by simp)
  simp only [Thread.setTkw, bits, Nat.shiftRight_eq_div_pow, Bool.and_eq_true, decide_eq_true_eq, ← same]

/-- A select of a counter pair (R421): a reserved code leaves EVENT as it is. -/
theorem Pmc.select_spec (p : Pmc) : ∃ sel : BitVec 17, p.select x = { p with sel := sel } ∧ sel.getLsbD 16 = x.getLsbD 16 ∧
    sel.toNat % 2 ^ 12 = if x.toNat / 2 ^ 0 % 2 ^ 12 < 14 then x.toNat / 2 ^ 0 % 2 ^ 12 else p.sel.toNat % 2 ^ 12 := by
  have small : (if bits x 11 0 < 14 then bits x 11 0 else bits (p.sel.setWidth 64) 11 0) < 2 ^ 12 := by
    split <;> exact Nat.mod_lt _ (by decide)
  have low : (if bits x 11 0 < 14 then bits x 11 0 else bits (p.sel.setWidth 64) 11 0) =
      if x.toNat / 2 ^ 0 % 2 ^ 12 < 14 then x.toNat / 2 ^ 0 % 2 ^ 12 else p.sel.toNat % 2 ^ 12 := by
    simp [bits]
  refine ⟨_, rfl, ?_, ?_⟩
  · simp only [BitVec.getLsbD, BitVec.toNat_ofNat, Nat.testBit_eq_decide_div_mod_eq]
    simp only [bits, Nat.shiftRight_eq_div_pow] at small ⊢
    exact decide_eq_decide.2 (by omega)
  · rw [← low, BitVec.toNat_ofNat]
    omega

end

/-! ### What a write leaves -/

section
variable (s : State)

/-- The registers of which no bit can be written (R53). -/
def readOnlyControls : List (BitVec 16) := [0x000, 0x001, 0x002, 0x003, 0x004, 0x005, 0x006, 0x029, 0x039, 0x045, 0x059]

/-- None of them is one whose write is a command. -/
theorem readOnlyControls_notCommand : ∀ i ∈ readOnlyControls, i ∉ [0x021#16, 0x023#16, 0x046#16] := by
  simp [readOnlyControls]

/-- A write of a read-only register changes nothing. -/
theorem State.writeControl_readOnly (w : SlotIx) (x : W64) {i : BitVec 16} (h : i ∈ readOnlyControls) :
    s.writeControl w i.toNat x = s.modThread w id := by
  rw [State.modThread_of_eq (f := id) rfl]
  simp only [readOnlyControls, List.mem_cons, List.not_mem_nil, or_false] at h
  obtain rfl | rfl | rfl | rfl | rfl | rfl | rfl | rfl | rfl | rfl | rfl := h <;> rfl

/-- The counter registers are no commands either. -/
theorem pmcControls_notCommand : ∀ n : Fin 8, BitVec.ofNat 16 (0x060 + n) ∉ [0x021#16, 0x023#16, 0x046#16] ∧
    BitVec.ofNat 16 (0x068 + n) ∉ [0x021#16, 0x023#16, 0x046#16] := by decide

/-- A write of a counter pair (R421). -/
theorem State.writeControl_sel (w : SlotIx) (x : W64) (n : Fin 8) : s.writeControl w (BitVec.ofNat 16 (0x060 + n)).toNat x =
    s.modCore (SlotIx.core w) fun k => { k with pmc := k.pmc.set n (k.pmc[n].select x) } := by
  fin_cases n <;> rfl

theorem State.writeControl_count (w : SlotIx) (x : W64) (n : Fin 8) : s.writeControl w (BitVec.ofNat 16 (0x068 + n)).toNat x =
    s.modCore (SlotIx.core w) fun k => { k with pmc := k.pmc.set n { k.pmc[n] with count := BitVec.ofNat 48 x.toNat } } := by
  fin_cases n <;> rfl

/-- A write of EPIREPLAY's command 2 (R270). -/
theorem State.writeControl_discard (w : SlotIx) {x : W64} (h : bits x 1 0 = 2) :
    s.writeControl w (0x023#16).toNat x = s.epiDiscard (SlotIx.core w) :=
  (if_neg (by rw [h]; decide)).trans (if_pos (by rw [h]; rfl))

/-- A write of EPIREPLAY that is no command (R270). -/
theorem State.writeControl_noCommand (w : SlotIx) {x : W64} (h : bits x 1 0 = 0 ∨ bits x 1 0 = 3) :
    s.writeControl w (0x023#16).toNat x = s.modThread w id := by
  rw [State.modThread_of_eq (f := id) rfl]
  obtain h | h := h
  all_goals exact (if_neg (by rw [h]; decide)).trans (if_neg (by rw [h]; decide))

/-- No tile instruction of the core's own threads has still to start where all are remote commands (R259). -/
theorem Tile.unstarted_eq_false {x : Tile} (h : ∀ o ∈ x.queue, o.remote ≠ none) : x.unstarted = false := by
  simpa [Tile.unstarted] using fun o mem => h o mem

variable (p : PartIx) (x : W64)

theorem State.setDetm_cur : (s.setDetm p x).cur = s.cur := by rw [State.setDetm]; split <;> rfl

theorem State.setDetspill_cur : (s.setDetspill p x).cur = s.cur := by rw [State.setDetspill]; split <;> rfl

theorem State.setDetspilln_cur : (s.setDetspilln p x).cur = s.cur := by rw [State.setDetspilln]; split <;> rfl

end

/-! ### The flush of the scale FIFO (R259) -/

/-- A flush stands behind the last instruction of the core's own threads. -/
theorem flushBehind_eq (e : TileOp) {xs ys : List TileOp} {o : TileOp} (own : o.remote = none) (remote : ∀ y ∈ ys, y.remote ≠ none) :
    flushBehind e (xs ++ o :: ys) = xs ++ o :: e :: ys := by
  have tail : (((xs ++ o :: ys).reverse.takeWhile fun o => o.remote.isSome).reverse) = ys := by
    rw [List.reverse_append, List.reverse_cons, List.append_assoc, List.takeWhile_append_of_pos]
    · simp [own]
    · intro y mem
      exact Option.isSome_iff_ne_none.2 (remote y (List.mem_reverse.1 mem))
  simp only [flushBehind, tail]
  have length : (xs ++ o :: ys).length - ys.length = xs.length + 1 := by simp; omega
  rw [length, List.take_length_add_append, List.append_assoc]
  rfl

/-! ### A replay keeps its core's turn (R270) -/

theorem State.l1Drop_cur (s : State) (c : CoreIx) (n : Nat) : (s.l1Drop c n).cur = s.cur := by
  rw [State.l1Drop, State.modCore_cur, State.l1Clean]
  split
  · rfl
  · split <;> rfl

theorem State.l1Fill_cur (s : State) (c : CoreIx) (n va : Nat) : (s.l1Fill c n va).cur = s.cur := by
  simp only [State.l1Fill]
  split
  · rfl
  · rw [State.modCore_cur]
    split
    · rfl
    · split
      · exact State.l1Drop_cur (s.count c 4 1) c _
      · rfl

theorem State.storeGlobal_cur (c : CoreIx) (bs : List (Option Bool × Byte)) (s : State) (pa va : Nat) :
    (s.storeGlobal c pa va bs).cur = s.cur := by
  induction bs generalizing s pa va with
  | nil => rfl
  | cons b bs ih =>
    obtain ⟨_ | slice, b⟩ := b
    · exact ih s _ _
    · rw [State.storeGlobal, ih]
      split
      · rfl
      · exact State.l1Fill_cur s c _ _

theorem State.storeLane_cur (s : State) (w : SlotIx) (l : Lane) : (s.storeLane w l).cur = s.cur := by
  rw [State.storeLane]
  split
  · exact State.storeGlobal_cur ..
  all_goals rfl

theorem State.holdSegment_cur (s : State) (c : CoreIx) (g : Segment) (reason : Nat) : (s.holdSegment c g reason).cur = s.cur :=
  (State.modOwner_aside _ _ _ _ c).cur

theorem State.storeAgain_cur (s : State) (c : CoreIx) (g : Segment) : (s.storeAgain c g).cur = s.cur := by
  rw [State.storeAgain]
  split
  · exact State.holdSegment_cur ..
  · exact foldl_keeps State.cur (fun s l => State.storeLane_cur s g.w l) g.lanes s

theorem State.step5_cur {s u : State} {w : SlotIx} {need : Need} {lane : Nat} {va : W64} {ap pa : Nat}
    (h : s.step5 w need lane va ap = .ok (pa, u)) : u.cur = s.cur := by
  have keeps := (s.translate_keeps (SlotIx.core w) (s.partOf (SlotIx.cluster w)) va.toNat need).1
  rw [State.step5] at h
  split at h <;> rename_i translated
  · rw [translated] at keeps
    split at h
    · exact nomatch h
    · simp only [Except.ok.injEq, Prod.mk.injEq] at h
      exact h.2 ▸ keeps
  all_goals exact nomatch h

theorem State.replayOne_cur {s u : State} {c : CoreIx} {declined : Option Nat} {g : Segment} (h : s.replayOne c declined g = .ok u) :
    u.cur = s.cur := by
  have again (y : State) (g : Segment) (cur : y.cur = s.cur) (h : Except.ok (ε := Stop) (y.storeAgain c g) = .ok u) : u.cur = s.cur := by
    rw [← Except.ok.inj h, State.storeAgain_cur, cur]
  have held (h : Except.ok (ε := Stop) (s.holdSegment c g 3) = .ok u) : u.cur = s.cur := by
    rw [← Except.ok.inj h, State.holdSegment_cur]
  rw [State.replayOne] at h
  split at h
  · exact nomatch h
  · split at h
    · exact again s _ rfl h
    · split at h
      · next found => exact again _ _ (State.step5_cur found) h
      · exact nomatch h
      · split at h
        · exact held h
        · exact nomatch h
      · exact held h

theorem State.replayAll_cur (c : CoreIx) (declined : Option Nat) (gs : List Segment) (s : State) : (s.replayAll c declined gs).1.cur = s.cur := by
  induction gs generalizing s with
  | nil => rfl
  | cons g gs ih =>
    rw [State.replayAll]
    split
    · next u one => rw [ih, State.replayOne_cur one]
    · rfl

theorem State.epiReplay_cur (s : State) (c : CoreIx) (declined : Option Nat) : (s.epiReplay c declined).1.cur = s.cur := by
  rw [State.epiReplay, State.replayAll_cur]
  split <;> rfl

/-! ### Writes that do not end at once (R101, R259, R270, R313) -/

section
variable {s : State} {d : GReg} {index : BitVec 16} (plain : s.plain [.g d] [])
  (may : 0x040 ≤ index.toNat → index.toNat ≤ 0x045 → ¬s.me.priv = false)
include plain may

/-- A flush of the scale FIFO stands behind the tile instructions that were issued before it (R259). -/
theorem execWrc_flush (flush : (s.me.greg d).getLsbD 32 = true) (which : index = 0x021) {xs ys : List TileOp} {o : TileOp}
    (queue : s.myCore.tile.queue = xs ++ o :: ys) (own : o.remote = none) (remote : ∀ y ∈ ys, y.remote ≠ none) :
    exec (.wrc d index) s = .next ((s.modMe fun t =>
      { t with wait := .tileStart s.myCore.tile.tokens none, resume := s.following, parkedAt := s.myCore.cycle }).modCore (SlotIx.core s.cur) fun k =>
        { k with tile := { k.tile with
          queue := xs ++ o :: ⟨s.myCore.tile.tokens, s.cur, s.me.uid, none, .flush⟩ :: ys
          tokens := s.myCore.tile.tokens + 1 } }) := by
  obtain ⟨body, runs, meaning⟩ := execWrc_meaning plain may
  have unstarted : s.myCore.tile.unstarted = true := by simp [Tile.unstarted, queue, own]
  have behind (uid : Nat) (same : uid = s.me.uid) : flushBehind (s.myCore.tile.flushFor s.cur uid) s.myCore.tile.queue =
      xs ++ o :: ⟨s.myCore.tile.tokens, s.cur, s.me.uid, none, .flush⟩ :: ys := by
    rw [queue, flushBehind_eq _ own remote, same]
    rfl
  refine runs.trans ((State.run_ok (meaning.trans ?_)).trans (congrArg Host.Outcome.next (State.modThread_of_eq ?_)))
  · rw [wrcOn, op_bind_ok (op_get s), if_pos (by rw [which, flush, unstarted]; rfl), flushLater, op_bind_ok (op_get s)]
    refine congrArg (fun y => Except.ok ((), y)) (State.modCore_congr ?_)
    exact congrArg (fun q => { s.myCore with tile := { s.myCore.tile with queue := q, tokens := s.myCore.tile.tokens + 1 } })
      (behind (s.modMe fun t => { t with wait := .tileStart s.myCore.tile.tokens none, resume := s.following, parkedAt := s.myCore.cycle }).me.uid
        (by rw [State.modMe_me]))
  · rw [State.modCore_thread, State.modMe, State.modThread_thread_same]
    rfl

/-- A write of NOTIFY in a completion handler returns from it (R313). -/
theorem execWrc_returns (active : s.me.notifyActive = true) (which : index = 0x046) : exec (.wrc d index) s =
    .next (s.goTo (s.me.savedip.setWidth 64) fun t => { t with notifyActive := false }) := by
  obtain ⟨body, runs, meaning⟩ := execWrc_meaning plain may
  subst which
  refine runs.trans (State.run_goTo (meaning.trans ?_) rfl)
  rw [wrcOn, op_bind_ok (op_get s), if_neg (by simp), if_neg (by simp), op_bind_ok (op_modify _ s), if_neg (by simp [active])]
  exact congrArg (fun y => Except.ok ((), y)) (State.modMe_congr ((if_pos active).trans (if_pos active)))

/-- A write of EPIREPLAY's command 1 whose replay needs nothing more (R270). -/
theorem execWrc_replays (command : bits (s.me.greg d) 1 0 = 1) (notDeclined : ∀ ipa, s.me.wait ≠ .declined ipa)
    (done : (s.epiReplay (SlotIx.core s.cur) none).2 = none) (which : index = 0x023) :
    exec (.wrc d index) s = .next ((s.epiReplay (SlotIx.core s.cur) none).1.retire id) := by
  obtain ⟨body, runs, meaning⟩ := execWrc_meaning plain may
  have fresh : s.me.wait.refusedIpa = none := by
    cases waits : s.me.wait with
    | declined ipa => exact absurd waits (notDeclined ipa)
    | _ => rfl
  have replays : s.epiReplay (SlotIx.core s.cur) s.me.wait.refusedIpa = ((s.epiReplay (SlotIx.core s.cur) none).1, none) := by
    rw [fresh]
    exact Prod.ext rfl done
  have cur := s.epiReplay_cur (SlotIx.core s.cur) none
  refine runs.trans (State.run_goTo (meaning.trans ?_) cur)
  rw [wrcOn, op_bind_ok (op_get s), if_neg (by rw [which]; simp), if_pos (by rw [which, command]; rfl), op_set, State.wrcReplay, replays]
  exact congrArg (fun y => Except.ok ((), y)) (State.modMe_congr (by rw [State.following, cur]; rfl))

end

/-! ### Completion notifications (R313) -/

/-- A thread in the completion handler of a notification, the others waiting. -/
def Thread.handling (t : Thread) (n : Note) (rest : List Note) : Thread := { t with
  wait := .run
  notes := rest
  notifyActive := true
  savedip := BitVec.ofNat 57 t.ip.toNat
  trapaux := n.id.setWidth 64
  ip := n.handler
  edgeDone := false
  parks := false
  popped := [] }

/-- A thread that would run its handlers: one with a first notification, in user mode, outside every handler. -/
structure Thread.CanHandle (t : Thread) (n : Note) (rest : List Note) : Prop where
  notes : t.notes = n :: rest
  inactive : t.notifyActive = false
  user : t.priv = false
  noHandler : t.handler = false
  noEvent : t.pend = []

section
variable {s : State} {w : SlotIx} {n : Note} {rest : List Note}

theorem State.noteReady_of (can : (s.thread w).CanHandle n rest) (issues : s.mayIssue w = true) (boundary : s.interruptible w = true) :
    s.noteReady w = true := by
  obtain ⟨notes, inactive, user, noHandler, noEvent⟩ := can
  simp [State.noteReady, issues, boundary, notes, inactive, user, noHandler, noEvent]

/-- Nothing is delivered by itself without a notification, in a handler or in privileged mode, behind a pending event, or to a
thread that may try its instruction. -/
theorem execNotifyDelivery_not (h : (s.thread w).notes = [] ∨ (s.thread w).notifyActive = true ∨ (s.thread w).priv = true ∨
    (s.thread w).handler = true ∨ (s.thread w).pend ≠ [] ∨ s.mayTry w = true) : exec (.notifyDelivery w) s = .next s := by
  refine if_neg (Bool.eq_false_iff.1 ?_)
  obtain h | h | h | h | h | h := h
  all_goals simp [State.noteReady, h]

theorem execNotifyDelivery_ready (ready : s.noteReady w = true) (waits : s.mayTry w = false) :
    exec (.notifyDelivery w) s = .next ((s.withdraw w).deliverNote w) := if_pos (by rw [ready, waits]; rfl)

/-- A state whose waiting instruction is withdrawn, and the notification delivered. -/
def State.Handles (s y : State) (w : SlotIx) (n : Note) (rest : List Note) : Prop :=
  y.mem = s.mem ∧ y.clusters = s.clusters ∧ (∀ q, q ≠ w → y.thread q = s.thread q) ∧ y.thread w = (s.thread w).handling n rest

/-- A thread made afresh runs its handler. -/
theorem State.deliverNote_afresh (can : (s.thread w).CanHandle n rest) : s.Handles ((s.afresh w).deliverNote w) w n rest := by
  obtain ⟨notes, inactive, user, noHandler, noEvent⟩ := can
  refine ⟨rfl, rfl, fun q other => ?_, ?_⟩
  · rw [State.deliverNote, State.modThread_thread_ne _ _ _ _ other.symm, State.afresh_onlyAt s w q other.symm]
  · rw [State.deliverNote, State.modThread_thread_same, State.afresh_thread]
    simp only [Thread.handling, notes, inactive, user, noHandler, Bool.or_self, Bool.false_eq_true, if_false]
    rfl

/-- A wait for the host is withdrawn with the tile instruction that it stalls in. -/
theorem State.withdraw_hostStage (claimed : (s.thread w).claimed = []) {ipa : Nat} (h : (s.thread w).wait = .hostStage ipa) :
    s.withdraw w = ((s.stalledToken w).elim s (s.dropTile (SlotIx.core w))).afresh w := by
  have unclaimed : ∀ token : Option Nat, State.unreserve (token.elim s (s.dropTile (SlotIx.core w))) w = token.elim s (s.dropTile (SlotIx.core w))
    | none => s.unreserve_unclaimed w claimed
    | some token => (s.dropTile (SlotIx.core w) token).unreserve_unclaimed w claimed
  simp only [State.withdraw, h, unclaimed]
  rfl

theorem State.deliverNote_handles (can : (s.thread w).CanHandle n rest) (claimed : (s.thread w).claimed = [])
    (waits : ((s.thread w).wait = .run ∨ (∃ why, (s.thread w).wait = .retry why) ∨ (s.thread w).wait = .exiting) ∨
      ∃ ipa, (s.thread w).wait = .hostStage ipa) : s.Handles ((s.withdraw w).deliverNote w) w n rest := by
  obtain waits | ⟨ipa, waits⟩ := waits
  · rw [State.withdraw_afresh s w claimed waits]
    exact State.deliverNote_afresh can
  · rw [State.withdraw_hostStage claimed waits]
    cases s.stalledToken w with
    | none => exact State.deliverNote_afresh can
    | some token => exact State.deliverNote_afresh (s := s.dropTile (SlotIx.core w) token) can

/-- A thread whose operands are in flight does not try its instruction. -/
theorem State.mayTry_flies (flies : ((s.core (SlotIx.core w)).cycle).toNat < (s.thread w).flightTo.toNat) : s.mayTry w = false := by
  simp [State.mayTry, BitVec.ult, flies]

/-- At the turn of a slot a notification comes after a trap that the instruction raises, and before the instruction (R313, R358). -/
theorem State.turn_note (ready : s.noteReady w = true) (noEvent : (s.thread w).pend = []) (may : s.mayTry w = true) {u : State}
    (attempt : s.attempt w = .next u) (noHandler : (u.thread w).handler = false) (goes : ∀ e, (u.thread w).wait ≠ .stopped e) :
    s.turn w = .next ((s.withdraw w).deliverNote w) := by
  have runs : (u.thread w).isStopped = false := by
    rw [Thread.isStopped]
    split
    · next stops => exact absurd stops (goes _)
    · rfl
  simp only [State.turn, may, s.asyncReady_false w (.inl noEvent), attempt, ready, trapped, noHandler, runs]
  rfl

end

end Sys2Proof.Machine

namespace Sys2Proof

open Machine

/-- Settles O53, a table of the registers: `execRdc_reads` with each register's word, and for wrc `execWrc_thread`, `execWrc_acts` or
`execWrc_core` with what each write changes. The flush, the replay and the return of a handler end otherwise and have rules of their
own; a notification is delivered to a thread made afresh. -/
theorem controlRegisters : Obligations.ControlRegisters := by
  unfold Obligations.ControlRegisters
  refine ⟨fun s d index => ⟨execRdc_user, execWrc_user, fun plain may => ?_, fun plain may => ?_⟩, fun s w en n rest =>
    ⟨rfl, rfl, execNotifyDelivery_not, fun ready waits => ?_, fun ready may runs u attempt noHandler goes => ?_⟩⟩
  · have reads {i : BitVec 16} {v : W64} (value : s.readControl s.cur i.toNat = v) (which : index = i) : s.gives (.rdc d index) d v :=
      execRdc_reads plain may value which
    have reads_ {i : BitVec 16} {m : Nat} {v : BitVec m} (value : s.readControl s.cur i.toNat = v.setWidth 64) (which : index = i) :
        s.gives (.rdc d index) d (BitVec.ofNat 64 v.toNat) := execRdc_reads plain may (value.trans (setWidth_eq_ofNat v)) which
    exact ⟨reads_ rfl, reads_ rfl, reads_ rfl, reads_ rfl, reads rfl, reads rfl, reads (State.statusOf_eq s s.cur), reads_ rfl, reads_ rfl,
      reads rfl, reads rfl, reads_ rfl, reads_ rfl, reads (Tile.seqWord_eq _), reads (Tile.statWord_eq _), reads rfl, reads_ rfl,
      reads (Griddle.statWord_eq _), reads rfl, reads rfl, reads (congrArg (BitVec.ofNat 64) (Nat.add_comm _ _)), reads_ rfl,
      reads (Core.mailboxWord_eq _), reads_ rfl, reads_ rfl, reads_ rfl, reads rfl, reads rfl, reads_ rfl, reads (Thread.notifyWord_eq _),
      reads_ rfl, reads rfl, reads rfl, fun n => ⟨reads (s.readControl_sel s.cur n), reads (s.readControl_count s.cur n)⟩⟩
  · have now {i : BitVec 16} (which : i ∉ [0x021#16, 0x023#16, 0x046#16]) : s.WritesNow i (s.me.greg d) := State.writesNow_of_not_mem which
    have writes {i : BitVec 16} {f : Thread → Thread} (which : i ∉ [0x021#16, 0x023#16, 0x046#16])
        (written : s.writeControl s.cur i.toNat (s.me.greg d) = s.modMe f) (ip : (f s.me).ip = s.me.ip) :=
      execWrc_thread plain may (now which) written ip
    have acts {i : BitVec 16} {e : Instr} {u : State} (which : i ∉ [0x021#16, 0x023#16, 0x046#16])
        (written : s.writeControl s.cur i.toNat (s.me.greg d) = u) (cur : u.cur = s.cur) (meaning : exec e s = .next u) :=
      execWrc_acts plain may (now which) written cur meaning
    refine ⟨fun i mem => writes (readOnlyControls_notCommand i mem) (s.writeControl_readOnly s.cur _ mem) rfl, writes (by decide) rfl rfl,
      writes (by decide) rfl rfl, writes (by decide) rfl rfl, writes (by decide) rfl rfl, writes (by decide) rfl rfl,
      writes (by decide) (State.modMe_congr (s.me.setTfmt_eq _)) rfl, writes (by decide) (State.modMe_congr (s.me.setTkw_eq _)) ?_,
      writes (by decide) rfl rfl, writes (by decide) rfl rfl, writes (by decide) rfl rfl, writes (by decide) rfl rfl,
      writes (by decide) rfl rfl, writes (by decide) rfl rfl, writes (by decide) rfl rfl, writes (by decide) rfl rfl,
      fun inactive => ?_, execWrc_returns plain may, execWrc_core plain may (now (by decide)) rfl fun _ => ⟨rfl, rfl, rfl⟩,
      fun flush remote => ?_, fun flush which xs o ys queue own remote => execWrc_flush plain may flush which queue own remote,
      fun noFlush => ?_, fun command notDeclined done which => ?_, fun command => ?_, fun command => ?_,
      acts (by decide) rfl (s.setDetm_cur _ _) rfl, acts (by decide) rfl (s.setDetspill_cur _ _) rfl, acts (by decide) rfl (s.setDetspilln_cur _ _) rfl,
      fun n => ⟨fun which => ?_, ?_⟩⟩
    · split <;> rfl
    · exact execWrc_thread plain may (.note inactive) (State.modMe_congr (if_neg (Bool.eq_false_iff.1 inactive))) rfl
    · exact execWrc_acts plain may (.flush (by rw [Tile.unstarted_eq_false remote, Bool.and_false])) (if_pos flush) rfl rfl
    · exact execWrc_thread plain may (.flush (by rw [noFlush, Bool.false_and])) ((if_neg (Bool.eq_false_iff.1 noFlush)).trans
        (State.modThread_of_eq (f := id) rfl).symm) rfl
    · exact ⟨_, rfl, execWrc_replays plain may ((bits_eq_div _ _ _).trans command) notDeclined done which⟩
    · have command := (bits_eq_div _ _ _).trans command
      exact execWrc_acts plain may (.epi (by rw [command]; decide)) (s.writeControl_discard s.cur command) rfl rfl
    · have command := command.imp (bits_eq_div _ _ _).trans (bits_eq_div _ _ _).trans
      exact execWrc_thread plain may (.epi (by obtain h | h := command <;> rw [h] <;> decide)) (s.writeControl_noCommand s.cur command) rfl
    · obtain ⟨sel, select, threshold, event⟩ := s.myCore.pmc[n].select_spec (s.me.greg d)
      refine ⟨sel, execWrc_core plain may (now (pmcControls_notCommand n).1) ((s.writeControl_sel s.cur _ n).trans (State.modCore_congr ?_))
        (fun _ => ⟨rfl, rfl, rfl⟩) which, threshold, event⟩
      exact congrArg (fun q => { s.myCore with pmc := s.myCore.pmc.set n q }) select
    · exact execWrc_core plain may (now (pmcControls_notCommand n).2) (s.writeControl_count s.cur _ n) fun _ => ⟨rfl, rfl, rfl⟩
  · obtain ⟨notes, inactive, user, noHandler, noEvent, occ, going, here, claimed⟩ := ready
    have can : (s.thread w).CanHandle n rest := ⟨notes, inactive, user, noHandler, noEvent⟩
    have issues := s.mayIssue_of w occ going here
    obtain exits | ⟨ipa, asks⟩ | ⟨flies, runs⟩ := waits
    · exact ⟨_, execNotifyDelivery_ready (State.noteReady_of can issues (by simp [State.interruptible, exits])) (by simp [State.mayTry, exits]),
        State.deliverNote_handles can claimed (.inl (.inr (.inr exits)))⟩
    · exact ⟨_, execNotifyDelivery_ready (State.noteReady_of can issues (by simp [State.interruptible, asks])) (by simp [State.mayTry, asks]),
        State.deliverNote_handles can claimed (.inr ⟨ipa, asks⟩)⟩
    · have boundary : s.interruptible w = true := by
        obtain runs | ⟨why, runs⟩ := runs <;> simp [State.interruptible, runs]
      exact ⟨_, execNotifyDelivery_ready (State.noteReady_of can issues boundary) (State.mayTry_flies flies),
        State.deliverNote_handles can claimed (.inl (runs.imp_right .inl))⟩
  · obtain ⟨notes, inactive, user, noHandler', noEvent, occ, going, here, claimed⟩ := ready
    have can : (s.thread w).CanHandle n rest := ⟨notes, inactive, user, noHandler', noEvent⟩
    have ready := State.noteReady_of can (s.mayIssue_of w occ going here) (by simp [State.interruptible, runs])
    exact ⟨_, State.turn_note ready noEvent may attempt noHandler goes, State.deliverNote_handles can claimed (.inl (.inl runs))⟩

end Sys2Proof
end

section
/-! PROOFS. The scalar instructions of two sources that do not compare (R67, R68, R93): each is its function of the two
words, and each function is the exact result reduced to 64 bits. -/

namespace Sys2Proof.Machine

/-- An instruction of two plain sources gives the value of its function. -/
theorem State.gives_scalar2 {s : State} {i : Instr} {d a b : GReg} {v : W64} (plain : s.plain [.g a, .g b] [.g d])
    (f : W64 → W64 → W64) (meaning : exec i s = s.run (scalar2 f d a b)) (value : f (s.me.greg a) (s.me.greg b) = v) :
    s.gives i d v := by
  rw [State.gives, meaning, scalar2_run f plain, value]

end Sys2Proof.Machine

namespace Sys2Proof

section
variable (x y : W64)

/-! ### Exact results reduced to 64 bits -/

theorem sub_eq_ofInt : x - y = BitVec.ofInt 64 ((x.toNat : Int) - y.toNat) :=
  BitVec.eq_of_toNat_eq (by rw [BitVec.toNat_sub, BitVec.toNat_ofInt]; omega)

theorem and_eq_ofNat : x &&& y = BitVec.ofNat 64 (x.toNat &&& y.toNat) := by
  rw [← BitVec.toNat_and, BitVec.ofNat_toNat, BitVec.setWidth_eq]

theorem or_eq_ofNat : x ||| y = BitVec.ofNat 64 (x.toNat ||| y.toNat) := by
  rw [← BitVec.toNat_or, BitVec.ofNat_toNat, BitVec.setWidth_eq]

theorem xor_eq_ofNat : x ^^^ y = BitVec.ofNat 64 (x.toNat ^^^ y.toNat) := by
  rw [← BitVec.toNat_xor, BitVec.ofNat_toNat, BitVec.setWidth_eq]

theorem and_not_eq_xor : x &&& ~~~y = x &&& (y ^^^ BitVec.allOnes 64) := by rw [BitVec.xor_allOnes]

theorem shiftLeft_eq_ofNat (n : Nat) : x <<< n = BitVec.ofNat 64 (x.toNat * 2 ^ n) :=
  BitVec.eq_of_toNat_eq (by rw [BitVec.toNat_shiftLeft, Nat.shiftLeft_eq, BitVec.toNat_ofNat])

theorem ushiftRight_eq_ofNat (n : Nat) : x >>> n = BitVec.ofNat 64 (x.toNat / 2 ^ n) := by
  rw [← Nat.shiftRight_eq_div_pow, ← BitVec.toNat_ushiftRight, BitVec.ofNat_toNat, BitVec.setWidth_eq]

theorem sshiftRight_eq_ofInt (n : Nat) : x.sshiftRight n = BitVec.ofInt 64 (x.toInt / 2 ^ n) := by
  rw [BitVec.sshiftRight, Int.shiftRight_eq_div_pow]
  norm_cast

theorem ite_sle_eq_min : (if x.sle y then x else y) = BitVec.ofInt 64 (min x.toInt y.toInt) := by
  by_cases h : x.toInt ≤ y.toInt
  · rw [if_pos (BitVec.sle_iff_toInt_le.2 h), min_eq_left h, BitVec.ofInt_toInt]
  · rw [if_neg (mt BitVec.sle_iff_toInt_le.1 h), min_eq_right (by omega), BitVec.ofInt_toInt]

theorem ite_sle_eq_max : (if x.sle y then y else x) = BitVec.ofInt 64 (max x.toInt y.toInt) := by
  by_cases h : x.toInt ≤ y.toInt
  · rw [if_pos (BitVec.sle_iff_toInt_le.2 h), max_eq_right h, BitVec.ofInt_toInt]
  · rw [if_neg (mt BitVec.sle_iff_toInt_le.1 h), max_eq_left (by omega), BitVec.ofInt_toInt]

theorem ite_ule_eq_min : (if x.ule y then x else y) = BitVec.ofNat 64 (min x.toNat y.toNat) := by
  by_cases h : x.toNat ≤ y.toNat
  · rw [if_pos (BitVec.ule_iff_toNat_le.2 h), min_eq_left h, BitVec.ofNat_toNat, BitVec.setWidth_eq]
  · rw [if_neg (mt BitVec.ule_iff_toNat_le.1 h), min_eq_right (by omega), BitVec.ofNat_toNat, BitVec.setWidth_eq]

theorem ite_ule_eq_max : (if x.ule y then y else x) = BitVec.ofNat 64 (max x.toNat y.toNat) := by
  by_cases h : x.toNat ≤ y.toNat
  · rw [if_pos (BitVec.ule_iff_toNat_le.2 h), max_eq_right h, BitVec.ofNat_toNat, BitVec.setWidth_eq]
  · rw [if_neg (mt BitVec.ule_iff_toNat_le.1 h), max_eq_left (by omega), BitVec.ofNat_toNat, BitVec.setWidth_eq]

/-! ### Quotients and remainders -/

theorem divN_zero : divN x 0 = (BitVec.allOnes 64, x) := rfl
theorem divS_zero : divS x 0 = (BitVec.allOnes 64, x) := rfl

variable {y} in
theorem divS_of_ne_zero (h : y ≠ 0) : divS x y = (BitVec.ofInt 64 (x.toInt.tdiv y.toInt), BitVec.ofInt 64 (x.toInt.tmod y.toInt)) :=
  if_neg (by simpa using h)

variable {y} in
theorem divN_of_ne_zero (h : y ≠ 0) : divN x y = (x / y, x % y) := if_neg (by simpa using h)

theorem tmod_eq_sub : BitVec.ofInt 64 (x.toInt.tmod y.toInt) = BitVec.ofInt 64 (x.toInt - y.toInt * x.toInt.tdiv y.toInt) := by
  rw [Int.tmod_def]

theorem div_eq_ofNat : x / y = BitVec.ofNat 64 (x.toNat / y.toNat) := by
  rw [← BitVec.toNat_udiv, BitVec.ofNat_toNat, BitVec.setWidth_eq]

theorem mod_eq_ofNat : x % y = BitVec.ofNat 64 (x.toNat - y.toNat * (x.toNat / y.toNat)) := by
  rw [← Nat.mod_eq_sub_mul_div, ← BitVec.toNat_umod, BitVec.ofNat_toNat, BitVec.setWidth_eq]

variable {x y} in
/-- The one quotient that does not fit in 64 bits (R67). -/
theorem divS_overflow (hx : x.toInt = -2 ^ 63) (hy : y.toInt = -1) : divS x y = (x, 0) := by
  have hx : x = BitVec.ofInt 64 (-2 ^ 63) := by rw [← hx, BitVec.ofInt_toInt]
  have hy : y = BitVec.ofInt 64 (-1) := by rw [← hy, BitVec.ofInt_toInt]
  subst hx hy
  decide

end

open Sys2Proof.Machine

/-- Settles O6: each instruction is its function of the two words, which is the exact result reduced to 64 bits. -/
theorem scalarArithmetic : Obligations.ScalarArithmetic := by
  unfold Obligations.ScalarArithmetic
  intro s d a b plain x y
  have gives {i : Instr} {v : W64} (f : W64 → W64 → W64) (meaning : exec i s = s.run (scalar2 f d a b)) (value : f x y = v) :
      s.gives i d v := State.gives_scalar2 plain f meaning value
  exact ⟨gives _ rfl (BitVec.add_def x y), gives _ rfl (sub_eq_ofInt x y), gives _ rfl (BitVec.mul_def),
    gives _ rfl rfl, gives _ rfl rfl, gives _ rfl (and_eq_ofNat x y), gives _ rfl (or_eq_ofNat x y), gives _ rfl (xor_eq_ofNat x y), gives _ rfl (and_not_eq_xor x y),
    gives _ rfl (shiftLeft_eq_ofNat x _), gives _ rfl (ushiftRight_eq_ofNat x _), gives _ rfl (sshiftRight_eq_ofInt x _),
    gives _ rfl (ite_sle_eq_min x y), gives _ rfl (ite_ule_eq_min x y), gives _ rfl (ite_sle_eq_max x y),
    gives _ rfl (ite_ule_eq_max x y)⟩

/-- Settles O7: a divisor of zero, the quotient that overflows, and every other pair are the cases of divS and divN. -/
theorem division : Obligations.Division := by
  unfold Obligations.Division
  intro s d a b plain x y
  have gives {i : Instr} {v : W64} (f : W64 → W64 → W64) (meaning : exec i s = s.run (scalar2 f d a b)) (value : f x y = v) :
      s.gives i d v := State.gives_scalar2 plain f meaning value
  refine ⟨fun zero => ?zero, fun ⟨hx, hy⟩ => ?overflow, fun ⟨nonzero, _⟩ => ?signed, fun nonzero => ?unsigned⟩
  case zero =>
    have hs : divS x y = _ := zero ▸ divS_zero x
    have hn : divN x y = _ := zero ▸ divN_zero x
    exact ⟨gives _ rfl (congrArg Prod.fst hs), gives _ rfl (congrArg Prod.fst hn), gives _ rfl (congrArg Prod.snd hs),
      gives _ rfl (congrArg Prod.snd hn)⟩
  case overflow =>
    have h := divS_overflow hx hy
    exact ⟨gives _ rfl (congrArg Prod.fst h), gives _ rfl (congrArg Prod.snd h)⟩
  case signed =>
    have h := divS_of_ne_zero x nonzero
    exact ⟨gives _ rfl (congrArg Prod.fst h), gives _ rfl ((congrArg Prod.snd h).trans (tmod_eq_sub x y))⟩
  case unsigned =>
    have h := divN_of_ne_zero x nonzero
    exact ⟨gives _ rfl ((congrArg Prod.fst h).trans (div_eq_ofNat x y)), gives _ rfl ((congrArg Prod.snd h).trans (mod_eq_ofNat x y))⟩

end Sys2Proof
end

section
/-! PROOFS. Element-wise vector arithmetic (R66, R68, R110, R111, R117, R118, R124): the moulds of one, two and three sources
compute their function element by element, and each integer function is the exact result reduced to the element width. -/

namespace Sys2Proof

/-! ### Integer elements -/

/-- The values of an element of an integer type and of its bits are one residue (R66). -/
theorem ETy.int_emod (ty : ETy) (x : Nat) : ty.int x % 2 ^ ty.width = (x : Int) % 2 ^ ty.width := by
  unfold ETy.int
  split
  · rfl
  · split
    · exact Int.sub_emod_right ..
    · rfl

/-- The value of an element of an integer type, said by cases (R66). -/
theorem ETy.int_cases (ty : ETy) (x : Nat) :
    (if ty = .n32 ∨ x < 2 ^ (ty.width - 1) then (x : Int) else (x : Int) - 2 ^ ty.width) = ty.int x := by
  unfold ETy.int
  by_cases unsigned : ty = .n32
  · simp [unsigned]
  · by_cases low : x < 2 ^ (ty.width - 1)
    · simp [unsigned, low, Nat.not_le.2 low]
    · simp [unsigned, low, Nat.le_of_not_lt low]

theorem cast_wrapNat (w : Nat) (x : Int) : (wrapNat w x : Int) = x % 2 ^ w :=
  Int.toNat_of_nonneg (Int.emod_nonneg _ (by positivity))

theorem xor_two_pow_of_lt {x n : Nat} (h : x < 2 ^ n) : x ^^^ 2 ^ n = x + 2 ^ n := by
  refine Nat.eq_of_testBit_eq fun i => ?_
  rw [Nat.add_comm, ← Nat.mul_one (2 ^ n), Nat.two_pow_add_eq_or_of_lt h, Nat.mul_one, Nat.testBit_xor, Nat.testBit_or,
    Nat.testBit_two_pow]
  by_cases hi : n = i
  · subst hi; simp [Nat.testBit_lt_two_pow h]
  · simp [hi]

/-- Turning over the top bit adds it, as far as the bits below it and itself go. -/
theorem xor_top_emod {x n : Nat} (h : x < 2 ^ (n + 1)) : ((x ^^^ 2 ^ n : Nat) : Int) % 2 ^ (n + 1) = ((x + 2 ^ n : Nat) : Int) % 2 ^ (n + 1) := by
  by_cases low : x < 2 ^ n
  · rw [xor_two_pow_of_lt low]
  · obtain ⟨r, rfl⟩ := Nat.exists_eq_add_of_le (Nat.le_of_not_lt low)
    have hr : r < 2 ^ n := by rw [pow_succ] at h; omega
    rw [Nat.add_comm, ← xor_two_pow_of_lt hr, Nat.xor_assoc, Nat.xor_self, Nat.xor_zero, xor_two_pow_of_lt hr, Nat.add_assoc,
      ← Nat.two_mul, ← pow_succ']
    push_cast
    exact (Int.add_emod_right ..).symm

/-- A result and its flags stand for an exact result and flags at the element width. -/
def ETy.Reduces (ty : ETy) (r : Nat × Flags) (q : Int × Flags) : Prop :=
  (r.1 : Int) % 2 ^ ty.width = q.1 % 2 ^ ty.width ∧ r.2 = q.2

theorem ETy.reduces_refl (ty : ETy) (r : Nat × Flags) : ty.Reduces r (r.1, r.2) := ⟨rfl, rfl⟩

theorem ETy.reduces_nat {ty : ETy} {r : Nat × Flags} {v : Nat} {fl : Flags} (h : r = (v, fl)) : ty.Reduces r ((v : Nat), fl) :=
  ⟨by rw [h], by rw [h]⟩

namespace Machine

section
variable {ty : ETy} {rm : RMode} {x y z : Nat}

theorem elemShl_reduces : ty.Reduces (elemShl ty x y) ((x * 2 ^ (y % ty.width) : Nat), 0) :=
  ETy.reduces_nat (by rw [elemShl, Nat.shiftLeft_eq])

theorem elemShr_reduces : ty.Reduces (elemShr ty x y) ((x / 2 ^ (y % ty.width) : Nat), 0) :=
  ETy.reduces_nat (by rw [elemShr, Nat.shiftRight_eq_div_pow])

theorem elemSar_reduces : ty.Reduces (elemSar ty x y)
    ((if x < 2 ^ (ty.width - 1) then (x : Int) else (x : Int) - 2 ^ ty.width) / 2 ^ (y % ty.width), 0) := by
  refine ⟨?_, rfl⟩
  rw [elemSar, cast_wrapNat, Int.emod_emod]
  by_cases low : x < 2 ^ (ty.width - 1)
  · rw [if_pos low, if_neg (Nat.not_le.2 low)]
  · rw [if_neg low, if_pos (Nat.le_of_not_lt low)]

section
variable (int : ty.isFloat = false)
include int

theorem elemAdd_int : elemAdd ty rm x y = (x + y, 0) := by simp [elemAdd, int]
theorem elemMul_int : elemMul ty rm x y = (x * y, 0) := by simp [elemMul, int]
theorem elemFma_int : elemFma ty rm x y z = (x * y + z, 0) := by simp [elemFma, int]

theorem elemSub_reduces (hy : y < 2 ^ ty.width) : ty.Reduces (elemSub ty rm x y) ((x : Int) - y, 0) := by
  rw [elemSub, int, if_neg (by decide)]
  refine ⟨?_, rfl⟩
  push_cast [hy.le]
  rw [show (x : Int) + (2 ^ ty.width - y) = x - y + 2 ^ ty.width by ring, Int.add_emod_right]

theorem elemMin_reduces : ty.Reduces (elemMinMax ty false x y) (min (ty.int x) (ty.int y), 0) := by
  simp only [elemMinMax, int, Bool.false_eq_true, if_false]
  by_cases h : ty.int y < ty.int x
  · rw [if_pos h, min_eq_right h.le]
    exact ⟨(ty.int_emod y).symm, rfl⟩
  · rw [if_neg h, min_eq_left (Int.not_lt.1 h)]
    exact ⟨(ty.int_emod x).symm, rfl⟩

theorem elemMax_reduces : ty.Reduces (elemMinMax ty true x y) (max (ty.int x) (ty.int y), 0) := by
  simp only [elemMinMax, int, Bool.false_eq_true, if_false, if_true]
  by_cases h : ty.int y > ty.int x
  · rw [if_pos h, max_eq_right (Int.le_of_lt h)]
    exact ⟨(ty.int_emod y).symm, rfl⟩
  · rw [if_neg h, max_eq_left (Int.not_lt.1 h)]
    exact ⟨(ty.int_emod x).symm, rfl⟩

theorem elemAbs_reduces : ty.Reduces (elemAbs ty x) (|ty.int x|, 0) := by
  rw [elemAbs, int, if_neg (by decide)]
  exact ⟨by rw [Int.natCast_natAbs], rfl⟩

theorem elemNeg_reduces (hx : x < 2 ^ ty.width) : ty.Reduces (elemNeg ty x) (-(x : Int), 0) := by
  rw [elemNeg, int, if_neg (by decide)]
  refine ⟨?_, rfl⟩
  push_cast [hx.le]
  rw [show (2 : Int) ^ ty.width - x = -x + 2 ^ ty.width by ring, Int.add_emod_right]

end

section
variable (float : ty.isFloat = true)
include float

theorem elemAdd_float : elemAdd ty rm x y = fAdd ty.fmt rm x y := if_pos float
theorem elemSub_float : elemSub ty rm x y = fSub ty.fmt rm x y := if_pos float
theorem elemMul_float : elemMul ty rm x y = fMul ty.fmt rm x y := if_pos float
theorem elemFma_float : elemFma ty rm x y z = fFma ty.fmt rm x y z := if_pos float
theorem elemMinMax_float (max : Bool) : elemMinMax ty max x y = fMinMax ty.fmt max x y := if_pos float
theorem elemAbs_float : elemAbs ty x = (x % 2 ^ (ty.width - 1), 0) := if_pos float

theorem elemNeg_reduces_float (hx : x < 2 ^ ty.width) : ty.Reduces (elemNeg ty x) ((x + 2 ^ (ty.width - 1) : Nat), 0) := by
  obtain ⟨n, hn⟩ : ∃ n, ty.width = n + 1 := by cases ty <;> exact ⟨_, rfl⟩
  rw [elemNeg, float, if_pos rfl]
  refine ⟨?_, rfl⟩
  rw [hn] at hx ⊢
  exact xor_top_emod hx

end

end

/-! ### The moulds, element by element -/

theorem State.element_lt (s : State) (r : GV) (ty : ETy) (n : Fin 32) (j : Nat) : s.element r ty n j < 2 ^ ty.width := by
  cases r with
  | g r => exact Nat.mod_lt _ (by positivity)
  | v r => exact Nat.mod_lt _ (by positivity)

/-- Fewer sources are plain too. -/
theorem State.plain_mono {s : State} {srcs srcs' dsts : List GV} (h : s.plain srcs dsts) (sub : srcs' ⊆ srcs) : s.plain srcs' dsts :=
  ⟨fun r hr => h.1 r (List.append_subset.2 ⟨fun _ hx => List.mem_append_left _ (sub hx), List.subset_append_right _ _⟩ hr),
    fun r hr => h.2 r (sub hr)⟩

section
variable {s : State} {i : Instr} {ty : ETy} {m : Mask} {d : VReg} {a b c : GV} {g : Fin 32 → Nat → Int × Flags}

/-- What an instruction computes may be said by exact results. -/
theorem State.computes_reduces {f : Fin 32 → Nat → Nat × Flags}
    (computes : s.computes i d ty m fun n j => ((f n j).1, (f n j).2))
    (reduces : ∀ n, ∀ j < 32 / ty.width, ty.Reduces (f n j) (g n j)) : s.computes i d ty m g := by
  obtain ⟨r, fl, runs, lanes, flags⟩ := computes
  refine ⟨r, fl, runs, fun n => ⟨fun on j hj => ?_, (lanes n).2⟩, fun b => (flags b).trans ?_⟩
  · rw [(lanes n).1 on j hj]
    exact (reduces n j hj).1
  · refine exists_congr fun n => exists_congr fun j => and_congr_right fun _ => and_congr_right fun hj => ?_
    rw [(reduces n j hj).2]

theorem State.computes_vec3 (plain : s.plain [a, b, c] [.v d]) {f : Nat → Nat → Nat → Nat × Flags} (meaning : exec i s = s.run (vec3 ty m f d a b c))
    (reduces : ∀ n, ∀ j < 32 / ty.width, ty.Reduces (f (s.element a ty n j) (s.element b ty n j) (s.element c ty n j)) (g n j)) :
    s.computes i d ty m g :=
  State.computes_reduces (State.computes_lanewise (meaning.trans (vec3_run f plain))) reduces

theorem State.computes_vec2 (plain : s.plain [a, b] [.v d]) {f : Nat → Nat → Nat × Flags} (meaning : exec i s = s.run (vec2 ty m f d a b))
    (reduces : ∀ n, ∀ j < 32 / ty.width, ty.Reduces (f (s.element a ty n j) (s.element b ty n j)) (g n j)) : s.computes i d ty m g :=
  State.computes_reduces (State.computes_lanewise (meaning.trans (vec2_run f plain))) reduces

theorem State.computes_vec1 (plain : s.plain [a] [.v d]) {f : Nat → Nat × Flags} (meaning : exec i s = s.run (vec1 ty m f d a))
    (reduces : ∀ n, ∀ j < 32 / ty.width, ty.Reduces (f (s.element a ty n j)) (g n j)) : s.computes i d ty m g :=
  State.computes_reduces (State.computes_lanewise (meaning.trans (vec1_run f plain))) reduces

end

end Machine

open Sys2Proof.Machine

/-- Settles O10: the moulds compute their functions element by element, and each function is the exact result, or the number
function, of the elements. -/
theorem vectorElements : Obligations.VectorElements := by
  unfold Obligations.VectorElements
  have one {s : State} {a b : GV} {c d : VReg} (plain : s.plain [a, b, .v c] [.v d]) : s.plain [a] [.v d] := State.plain_mono plain (by simp)
  have two {s : State} {a b : GV} {c d : VReg} (plain : s.plain [a, b, .v c] [.v d]) : s.plain [a, b] [.v d] := State.plain_mono plain (by simp)
  refine ⟨fun s d c a b ty rm m plain => ?ints, fun s d c a b ty rm m plain => ?floats⟩
  case ints =>
    dsimp only
    simp only [ETy.int_cases]
    refine ⟨fun int => ⟨?add, ?sub, ?mul, ?fma, ?min, ?max, ?abs, ?neg, ?shl, ?shr, ?sar⟩, ?and, ?or, ?xor⟩
    case add => exact State.computes_vec2 (two plain) rfl fun n j _ => ETy.reduces_nat (elemAdd_int int)
    case sub => exact State.computes_vec2 (two plain) rfl fun n j _ => elemSub_reduces int (s.element_lt b ty n j)
    case mul => exact State.computes_vec2 (two plain) rfl fun n j _ => ETy.reduces_nat (elemMul_int int)
    case fma => exact State.computes_vec3 plain rfl fun n j _ => ETy.reduces_nat (elemFma_int int)
    case min => exact State.computes_vec2 (two plain) rfl fun n j _ => elemMin_reduces int
    case max => exact State.computes_vec2 (two plain) rfl fun n j _ => elemMax_reduces int
    case abs => exact State.computes_vec1 (one plain) rfl fun n j _ => elemAbs_reduces int
    case neg => exact State.computes_vec1 (one plain) rfl fun n j _ => elemNeg_reduces int (s.element_lt a ty n j)
    case shl => exact State.computes_vec2 (two plain) rfl fun n j _ => elemShl_reduces
    case shr => exact State.computes_vec2 (two plain) rfl fun n j _ => elemShr_reduces
    case sar => exact State.computes_vec2 (two plain) rfl fun n j _ => elemSar_reduces
    case and => exact State.computes_vec2 (two plain) rfl fun n j _ => ETy.reduces_nat rfl
    case or => exact State.computes_vec2 (two plain) rfl fun n j _ => ETy.reduces_nat rfl
    case xor => exact State.computes_vec2 (two plain) rfl fun n j _ => ETy.reduces_nat rfl
  case floats =>
    dsimp only
    refine ⟨fun float => ⟨?add, ?sub, ?mul, ?fma, ?min, ?max, ?abs, ?neg⟩, ?f32⟩
    case add => exact State.computes_vec2 (two plain) rfl fun n j _ => ETy.reduces_nat (elemAdd_float float)
    case sub => exact State.computes_vec2 (two plain) rfl fun n j _ => ETy.reduces_nat (elemSub_float float)
    case mul => exact State.computes_vec2 (two plain) rfl fun n j _ => ETy.reduces_nat (elemMul_float float)
    case fma => exact State.computes_vec3 plain rfl fun n j _ => ETy.reduces_nat (elemFma_float float)
    case min => exact State.computes_vec2 (two plain) rfl fun n j _ => ETy.reduces_nat (elemMinMax_float float false)
    case max => exact State.computes_vec2 (two plain) rfl fun n j _ => ETy.reduces_nat (elemMinMax_float float true)
    case abs => exact State.computes_vec1 (one plain) rfl fun n j _ => ETy.reduces_nat (elemAbs_float float)
    case neg => exact State.computes_vec1 (one plain) rfl fun n j _ => elemNeg_reduces_float float (s.element_lt a ty n j)
    case f32 =>
      rintro rfl
      exact ⟨State.computes_vec2 (two plain) rfl fun n j _ => ETy.reduces_refl _ _, State.computes_vec1 (one plain) rfl fun n j _ => ETy.reduces_refl _ _,
        State.computes_vec1 (one plain) rfl fun n j _ => ETy.reduces_refl _ _, State.computes_vec1 (one plain) rfl fun n j _ => ETy.reduces_refl _ _,
        State.computes_vec1 (one plain) rfl fun n j _ => ETy.reduces_refl _ _, State.computes_vec1 (one plain) rfl fun n j _ => ETy.reduces_refl _ _⟩

end Sys2Proof
end

section
/-! PROOFS. RoundTo is correct rounding (R71, R72). The encodings of a format without their signs are cut into binades: the
encoding c 2^fbits + n stands for n units of 2^(qmin + c), where n is below 2^(fbits + 1), and at least 2^fbits unless c is 0. -/

namespace Sys2Proof

/-! ### Formats -/

/-- What rounding needs of a format: a fraction bit, and an exponent field that has more than subnormals and infinities. -/
structure Fmt.Ok (f : Fmt) : Prop where
  frac : 0 < f.fbits
  exps : 1 < f.emax

theorem Fmt.ok_of_mem {f : Fmt} (h : f ∈ [fmtF32, fmtBf16, fmtF16]) : f.Ok := by
  simp only [List.mem_cons, List.not_mem_nil, or_false] at h
  obtain rfl | rfl | rfl := h <;> exact ⟨by decide, by decide⟩

theorem fmtF32_ok : fmtF32.Ok := Fmt.ok_of_mem (by simp)

theorem ETy.fmt_ok (ty : ETy) : ty.fmt.Ok := Fmt.ok_of_mem (by cases ty <;> simp [ETy.fmt])

/-- The encoding of infinity without its sign. -/
def Fmt.top (f : Fmt) : Nat := f.emax * 2 ^ f.fbits

theorem Fmt.inf_eq (f : Fmt) (neg : Bool) : f.inf neg = f.signBit neg + f.top := by rw [Fmt.inf, Fmt.top, Nat.shiftLeft_eq]

theorem Fmt.huge_eq (f : Fmt) (neg : Bool) : f.huge neg = f.signBit neg + (f.top - 1) := by rw [Fmt.huge, Fmt.top, Nat.shiftLeft_eq]

theorem Fmt.Ok.two_le_top {f : Fmt} (ok : f.Ok) : 2 * 2 ^ f.fbits ≤ f.top := Nat.mul_le_mul_right _ ok.exps

/-! ### Magnitudes -/

/-- The magnitude of an encoding in the units of its binade. -/
theorem Fmt.magnitude_grid (f : Fmt) {c n : Nat} (normal : c = 0 ∨ 2 ^ f.fbits ≤ n) (below : n ≤ 2 * 2 ^ f.fbits) :
    f.magnitude (c * 2 ^ f.fbits + n) = n * (2 : ℚ) ^ (f.qmin + c) := by
  have pos : 0 < 2 ^ f.fbits := by positivity
  generalize hF : 2 ^ f.fbits = F at *
  have two : (2 : ℚ) ≠ 0 := two_ne_zero
  have cases : (c = 0 ∧ n < F) ∨ (F ≤ n ∧ n < 2 * F) ∨ n = 2 * F := by omega
  unfold Fmt.magnitude
  simp only [hF]
  obtain ⟨rfl, hn⟩ | ⟨low, high⟩ | rfl := cases
  · rw [Nat.zero_mul, Nat.zero_add, if_pos (Nat.div_eq_of_lt hn), Nat.cast_zero, add_zero]
  · obtain ⟨r, rfl⟩ := Nat.exists_eq_add_of_le low
    have quot : (c * F + (F + r)) / F = c + 1 := by
      rw [← Nat.add_assoc, ← Nat.succ_mul, Nat.mul_comm, Nat.mul_add_div pos, Nat.div_eq_of_lt (by omega)]
    have rest : (c * F + (F + r)) % F = r := by
      rw [← Nat.add_assoc, ← Nat.succ_mul, Nat.mul_comm, Nat.mul_add_mod, Nat.mod_eq_of_lt (by omega)]
    rw [quot, rest, if_neg (Nat.succ_ne_zero c)]
    congr 2
    push_cast
    ring
  · have quot : (c * F + 2 * F) / F = c + 2 := by rw [← Nat.add_mul, Nat.mul_div_cancel _ pos]
    have rest : (c * F + 2 * F) % F = 0 := by rw [← Nat.add_mul, Nat.mul_mod_left]
    rw [quot, rest, if_neg (by omega), show f.qmin + ((c + 2 : Nat) : Int) - 1 = f.qmin + c + 1 by push_cast; ring, zpow_add_one₀ two]
    push_cast
    ring

/-- Every encoding lies in a binade. -/
theorem Fmt.exists_grid (f : Fmt) (k : Nat) :
    ∃ c n, k = c * 2 ^ f.fbits + n ∧ (c = 0 ∨ 2 ^ f.fbits ≤ n) ∧ n < 2 * 2 ^ f.fbits := by
  have pos : 0 < 2 ^ f.fbits := by positivity
  have split := Nat.div_add_mod' k (2 ^ f.fbits)
  have rest := Nat.mod_lt k pos
  cases h : k / 2 ^ f.fbits with
  | zero => exact ⟨0, k, by omega, .inl rfl, by rw [h] at split; omega⟩
  | succ c =>
    rw [h, Nat.succ_mul] at split
    exact ⟨c, 2 ^ f.fbits + k % 2 ^ f.fbits, by omega, .inr (by omega), by omega⟩

theorem Fmt.magnitude_strictMono (f : Fmt) : StrictMono f.magnitude := by
  refine strictMono_nat_of_lt_succ fun k => ?_
  obtain ⟨c, n, rfl, normal, below⟩ := f.exists_grid k
  rw [f.magnitude_grid normal below.le, Nat.add_assoc, f.magnitude_grid (n := n + 1) (by omega) below]
  have : (0 : ℚ) < 2 ^ (f.qmin + c) := by positivity
  push_cast
  nlinarith

theorem Fmt.magnitude_nonneg (f : Fmt) (k : Nat) : 0 ≤ f.magnitude k := by
  unfold Fmt.magnitude
  split <;> positivity

@[simp] theorem Fmt.magnitude_zero (f : Fmt) : f.magnitude 0 = 0 := by simp [Fmt.magnitude]

theorem Fmt.magnitude_pos (f : Fmt) {k : Nat} (h : 0 < k) : 0 < f.magnitude k := by
  simpa using f.magnitude_strictMono h

/-! ### One rounding at a quantum -/

/-- A real number lies at m units of 2^e, or, where there is more below, strictly between m and m + 1 of them. -/
def LiesAt (m : Nat) (e : Int) (sticky : Bool) (v : ℝ) : Prop :=
  if sticky then m * (2 : ℝ) ^ e < v ∧ v < (m + 1) * (2 : ℝ) ^ e else v = m * (2 : ℝ) ^ e

/-- Whether a magnitude of w units, n of them whole, rounds up under a mode and a sign (R71). -/
def GoesUp (rm : RMode) (neg : Bool) (n : Nat) (w : ℝ) : Prop :=
  match rm with
  | .rne => 1 < 2 * (w - n) ∨ (2 * (w - n) = 1 ∧ n % 2 = 1)
  | .rz => False
  | .ru => neg = false ∧ w ≠ n
  | .rd => neg = true ∧ w ≠ n

theorem GoesUp.ne {rm : RMode} {neg : Bool} {n : Nat} {w : ℝ} (h : GoesUp rm neg n w) : w ≠ n := by
  rintro rfl
  cases rm <;> norm_num [GoesUp] at h

/-- roundsUp decides by the half bit and by what lies below it. -/
theorem roundsUp_iff {rm : RMode} {neg : Bool} {n : Nat} {w δ : ℝ} {half low : Bool} (parts : 2 * (w - n) = (if half then 1 else 0) + δ)
    (nonneg : 0 ≤ δ) (small : δ < 1) (below : low = true ↔ 0 < δ) : roundsUp rm neg n half low = true ↔ GoesUp rm neg n w := by
  have whole : w = n ↔ half = false ∧ low = false := by
    rw [← Bool.not_eq_true low, below]
    constructor
    · rintro rfl
      cases half
      · simp at parts; exact ⟨rfl, by linarith⟩
      · simp at parts; linarith
    · rintro ⟨rfl, h⟩
      simp at parts
      linarith
  cases rm with
  | rne =>
    simp only [roundsUp, GoesUp, Bool.and_eq_true, Bool.or_eq_true, beq_iff_eq, parts, below]
    cases half
    · simp
      constructor
      · linarith
      · intro h; linarith
    · simp only [if_true, true_and]
      constructor
      · rintro (h | h)
        · left; linarith
        · rcases nonneg.lt_or_eq with h' | h'
          · left; linarith
          · right; exact ⟨by linarith, h⟩
      · rintro (h | ⟨-, h⟩)
        · left; linarith
        · right; exact h
  | rz => simp [roundsUp, GoesUp]
  | ru =>
    simp only [roundsUp, GoesUp, whole, ne_eq]
    cases neg <;> cases half <;> cases low <;> simp
  | rd =>
    simp only [roundsUp, GoesUp, whole, ne_eq]
    cases neg <;> cases half <;> cases low <;> simp

/-- What lies at m units is m units and a part of one, which is 0 only where nothing more lies below. -/
theorem LiesAt.exists_part {m : Nat} {e : Int} {sticky : Bool} {v : ℝ} (at_ : LiesAt m e sticky v) :
    ∃ p : ℝ, v = (m + p) * (2 : ℝ) ^ e ∧ 0 ≤ p ∧ p < 1 ∧ (sticky = true ↔ 0 < p) := by
  have unit : (0 : ℝ) < 2 ^ e := by positivity
  refine ⟨v / 2 ^ e - m, by field_simp; ring, ?_⟩
  cases sticky with
  | false =>
    have : v / 2 ^ e - m = 0 := by rw [show v = m * 2 ^ e from at_]; field_simp; ring
    simp [this]
  | true =>
    obtain ⟨low, high⟩ : m * (2 : ℝ) ^ e < v ∧ v < (m + 1) * (2 : ℝ) ^ e := at_
    have low := (lt_div_iff₀ unit).2 low
    have high := (div_lt_iff₀ unit).2 high
    exact ⟨by linarith, by linarith, by simpa using low⟩

/-- Rounding at a quantum of 2^q: n whole quanta, and one more where the mode says so. -/
theorem roundQuantum_spec {m : Nat} {e : Int} {sticky : Bool} {v : ℝ} (at_ : LiesAt m e sticky v) (rm : RMode) (neg : Bool) {q : Int}
    (fine : sticky = true → e < q) :
    ∃ n : Nat, n ≤ v / (2 : ℝ) ^ q ∧ v / (2 : ℝ) ^ q < n + 1 ∧
      (GoesUp rm neg n (v / (2 : ℝ) ^ q) → (roundQuantum rm neg m e sticky q).1 = n + 1) ∧
      (¬GoesUp rm neg n (v / (2 : ℝ) ^ q) → (roundQuantum rm neg m e sticky q).1 = n) ∧
      ((roundQuantum rm neg m e sticky q).2 = true ↔ v / (2 : ℝ) ^ q ≠ n) := by
  suffices parts : ∃ (n : Nat) (half low : Bool) (δ : ℝ),
      roundQuantum rm neg m e sticky q = (n + (if roundsUp rm neg n half low then 1 else 0), half || low) ∧
      2 * (v / (2 : ℝ) ^ q - n) = (if half then 1 else 0) + δ ∧ 0 ≤ δ ∧ δ < 1 ∧ (low = true ↔ 0 < δ) by
    obtain ⟨n, half, low, δ, eq, parts, nonneg, small, below⟩ := parts
    have up := roundsUp_iff (rm := rm) (neg := neg) parts nonneg small below
    have bit : (0 : ℝ) ≤ (if half then 1 else 0) ∧ (if half then (1 : ℝ) else 0) ≤ 1 := by cases half <;> simp
    rw [eq]
    refine ⟨n, by linarith, by linarith, fun h => by rw [up.2 h]; rfl, fun h => by rw [Bool.eq_false_iff.2 (mt up.1 h)]; rfl, ?_⟩
    have inexact : (half = true ∨ low = true) ↔ v / (2 : ℝ) ^ q ≠ n := by
      rw [below, ne_eq, ← sub_eq_zero]
      cases half with
      | false =>
        have parts : 2 * (v / (2 : ℝ) ^ q - n) = δ := parts.trans (zero_add δ)
        exact ⟨fun h _ => by linarith [h.resolve_left nofun], fun h => .inr (nonneg.lt_of_ne fun h' => h (by linarith))⟩
      | true =>
        have parts : 2 * (v / (2 : ℝ) ^ q - n) = 1 + δ := parts
        exact ⟨fun _ _ => by linarith, fun _ => .inl rfl⟩
    exact (Bool.or_eq_true_iff ..).trans inexact
  unfold roundQuantum
  by_cases coarse : e ≥ q
  · obtain rfl : sticky = false := by
      cases sticky
      · rfl
      · exact absurd (fine rfl) (not_lt.2 coarse)
    obtain ⟨k, rfl⟩ := Int.le.dest coarse
    have whole : v / (2 : ℝ) ^ q = (m * 2 ^ k : Nat) := by
      rw [show v = m * (2 : ℝ) ^ (q + k) from at_, zpow_add₀ two_ne_zero]
      push_cast
      field_simp
      norm_cast
    refine ⟨m * 2 ^ k, false, false, 0, ?_, by rw [whole]; simp, le_refl _, one_pos, by simp⟩
    rw [if_pos coarse, show (q + k - q).toNat = k by omega, Nat.shiftLeft_eq]
    rfl
  · obtain ⟨k, rfl⟩ : ∃ k : Nat, q = e + (k + 1 : Nat) := ⟨(q - e - 1).toNat, by omega⟩
    obtain ⟨p, rfl, nonneg, small, more⟩ := at_.exists_part
    have split : m = m / 2 ^ (k + 1) * 2 ^ (k + 1) + (m / 2 ^ k % 2 * 2 ^ k + m % 2 ^ k) := by
      have h := Nat.div_add_mod' m (2 ^ (k + 1))
      rw [pow_succ, Nat.mod_mul] at h
      rw [pow_succ]
      linarith [mul_comm (2 ^ k) (m / 2 ^ k % 2)]
    have rest : m % 2 ^ k < 2 ^ k := Nat.mod_lt _ (by positivity)
    have unit : (0 : ℝ) < 2 ^ k := by positivity
    rw [if_neg coarse, show (e + (k + 1 : Nat) - e).toNat = k + 1 by omega]
    simp only [Nat.shiftRight_eq_div_pow, Nat.add_sub_cancel]
    refine ⟨_, _, _, ((m % 2 ^ k : Nat) + p) / 2 ^ k, rfl, ?_, by positivity, ?_, ?_⟩
    · have bit : (if (m / 2 ^ k % 2 == 1) = true then (1 : ℝ) else 0) = (m / 2 ^ k % 2 : Nat) := by
        obtain h | h := Nat.mod_two_eq_zero_or_one (m / 2 ^ k) <;> simp [h]
      rw [bit, zpow_add₀ two_ne_zero, zpow_natCast]
      have cast : (m : ℝ) = (m / 2 ^ (k + 1) : Nat) * 2 ^ (k + 1) + ((m / 2 ^ k % 2 : Nat) * 2 ^ k + (m % 2 ^ k : Nat)) := by
        exact_mod_cast split
      generalize ((m / 2 ^ (k + 1) : Nat) : ℝ) = a at *
      generalize ((m / 2 ^ k % 2 : Nat) : ℝ) = b at *
      generalize ((m % 2 ^ k : Nat) : ℝ) = c at *
      rw [cast, pow_succ]
      field_simp
      ring
    · rw [div_lt_one unit]
      have : ((m % 2 ^ k : Nat) : ℝ) + 1 ≤ 2 ^ k := by exact_mod_cast rest
      linarith
    · rw [lt_div_iff₀ unit, zero_mul, Bool.or_eq_true, more, bne_iff_ne]
      constructor
      · rintro (h | h)
        · have : (0 : ℝ) < (m % 2 ^ k : Nat) := by exact_mod_cast Nat.pos_of_ne_zero h
          linarith
        · positivity
      · intro h
        by_contra none
        obtain ⟨zero, exact_⟩ := not_or.1 none
        rw [not_not] at zero
        rw [zero, Nat.cast_zero] at h
        linarith

/-! ### From a rounded count of units to RoundTo -/

/-- The inexact and the underflow flag under conditions are those flags alone. -/
theorem inexactFlags (a b : Bool) : let fl := flagIf a flagInx ||| flagIf b flagUnf
    fl.getLsbD 4 = a ∧ fl.getLsbD 3 = b ∧ fl.getLsbD 2 = false ∧ fl.getLsbD 0 = false ∧ fl.getLsbD 1 = false ∧ fl.getLsbD 5 = false := by
  cases a <;> cases b <;> decide

/-- Whether RoundTo of a magnitude takes the encoding after k, the largest that does not exceed it (R71). -/
def Fmt.TakesNext (f : Fmt) (rm : RMode) (neg : Bool) (k : Nat) (v : ℝ) : Prop :=
  match rm with
  | .rne => (f.magnitude k : ℝ) + f.magnitude (k + 1) < 2 * v ∨ ((f.magnitude k : ℝ) + f.magnitude (k + 1) = 2 * v ∧ k % 2 = 1)
  | .rz => False
  | .ru => neg = false ∧ (f.magnitude k : ℝ) ≠ v
  | .rd => neg = true ∧ (f.magnitude k : ℝ) ≠ v

theorem roundsTo_iff {f : Fmt} {rm : RMode} {neg : Bool} {v : ℝ} {out : Nat × Flags} : RoundsTo f rm neg v out ↔
    ∃ k < f.top, (f.magnitude k : ℝ) ≤ v ∧ (v < f.magnitude (k + 1) ∨ k + 1 = f.top) ∧
      ∃ r, (f.TakesNext rm neg k v → r = k + 1) ∧ (¬f.TakesNext rm neg k v → r = k) ∧ out.1 = f.signBit neg + r ∧
        (out.2.getLsbD 4 = true ↔ (f.magnitude r : ℝ) ≠ v ∨ r = f.top) ∧
        (out.2.getLsbD 3 = true ↔ (f.magnitude r : ℝ) ≠ v ∧ r < 2 ^ f.fbits) ∧
        (out.2.getLsbD 2 = true ↔ r = f.top ∨ (f.magnitude f.top : ℝ) ≤ v) ∧
        out.2.getLsbD 0 = false ∧ out.2.getLsbD 1 = false ∧ out.2.getLsbD 5 = false := by
  cases rm <;> exact Iff.rfl

/-- The encoding after c 2^fbits + n is taken where n units round up. -/
theorem Fmt.takesNext_grid {f : Fmt} (ok : f.Ok) {c n : Nat} (normal : c = 0 ∨ 2 ^ f.fbits ≤ n) (below : n < 2 * 2 ^ f.fbits)
    (rm : RMode) (neg : Bool) (w : ℝ) :
    f.TakesNext rm neg (c * 2 ^ f.fbits + n) (w * 2 ^ (f.qmin + c)) ↔ GoesUp rm neg n w := by
  have unit : (0 : ℝ) < 2 ^ (f.qmin + c) := by positivity
  have this_ : (f.magnitude (c * 2 ^ f.fbits + n) : ℝ) = n * (2 : ℝ) ^ (f.qmin + c) := by
    rw [f.magnitude_grid normal below.le]
    push_cast
    rfl
  have next : (f.magnitude (c * 2 ^ f.fbits + n + 1) : ℝ) = (n + 1) * (2 : ℝ) ^ (f.qmin + c) := by
    rw [Nat.add_assoc, f.magnitude_grid (n := n + 1) (by omega) below]
    push_cast
    rfl
  cases rm with
  | rne =>
    have odd : (c * 2 ^ f.fbits + n) % 2 = n % 2 := by
      obtain ⟨h, hh⟩ : 2 ∣ 2 ^ f.fbits := dvd_pow_self 2 ok.frac.ne'
      rw [hh, Nat.mul_left_comm, Nat.mul_add_mod]
    simp only [Fmt.TakesNext, GoesUp, odd]
    rw [this_, next, ← add_mul, ← mul_assoc, mul_lt_mul_iff_left₀ unit, mul_left_inj' unit.ne']
    refine or_congr ⟨fun h => by linarith, fun h => by linarith⟩ (and_congr_left fun _ => ⟨fun h => by linarith, fun h => by linarith⟩)
  | rz => rfl
  | ru => simp only [Fmt.TakesNext, GoesUp, this_, ne_eq, mul_left_inj' unit.ne', eq_comm]
  | rd => simp only [Fmt.TakesNext, GoesUp, this_, ne_eq, mul_left_inj' unit.ne', eq_comm]

theorem inexactFlag (a : Bool) : let fl := flagIf a flagInx
    fl.getLsbD 4 = a ∧ fl.getLsbD 3 = false ∧ fl.getLsbD 2 = false ∧ fl.getLsbD 0 = false ∧ fl.getLsbD 1 = false ∧ fl.getLsbD 5 = false := by
  cases a <;> decide

theorem overflowFlags : let fl := flagOvf ||| flagInx
    fl.getLsbD 4 = true ∧ fl.getLsbD 3 = false ∧ fl.getLsbD 2 = true ∧ fl.getLsbD 0 = false ∧ fl.getLsbD 1 = false ∧ fl.getLsbD 5 = false := by
  decide

section
variable {f : Fmt} {rm : RMode} {neg : Bool} {v : ℝ}

/-- A magnitude between two encodings of a binade, rounded to one of them. -/
theorem roundsTo_of_grid (ok : f.Ok) {c n R base : Nat} {q : Int} (place : c * 2 ^ f.fbits = base) (quantum : f.qmin + c = q)
    (normal : c = 0 ∨ 2 ^ f.fbits ≤ n) (below : n < 2 * 2 ^ f.fbits) (inside : base + n < f.top)
    (low : n ≤ v / (2 : ℝ) ^ q) (high : v / (2 : ℝ) ^ q < n + 1)
    (up : GoesUp rm neg n (v / (2 : ℝ) ^ q) → R = n + 1) (stay : ¬GoesUp rm neg n (v / (2 : ℝ) ^ q) → R = n)
    {out : Nat × Flags} (word : out.1 = f.signBit neg + (base + R)) (inx : out.2.getLsbD 4 = true ↔ v / (2 : ℝ) ^ q ≠ n)
    (unf : out.2.getLsbD 3 = true ↔ v / (2 : ℝ) ^ q ≠ n ∧ base + R < 2 ^ f.fbits)
    (ovf : out.2.getLsbD 2 = true ↔ base + R = f.top)
    (others : out.2.getLsbD 0 = false ∧ out.2.getLsbD 1 = false ∧ out.2.getLsbD 5 = false) : RoundsTo f rm neg v out := by
  subst place quantum
  have unit : (0 : ℝ) < 2 ^ (f.qmin + c) := by positivity
  have mag {k : Nat} (h : k = n ∨ k = n + 1) : (f.magnitude (c * 2 ^ f.fbits + k) : ℝ) = k * (2 : ℝ) ^ (f.qmin + c) := by
    rw [f.magnitude_grid (by omega) (by omega)]
    push_cast
    rfl
  generalize hw : v / (2 : ℝ) ^ (f.qmin + c) = w at *
  obtain rfl : v = w * 2 ^ (f.qmin + c) := by rw [← hw]; field_simp
  have at_ {k : Nat} (h : k = n ∨ k = n + 1) : (f.magnitude (c * 2 ^ f.fbits + k) : ℝ) = w * 2 ^ (f.qmin + c) ↔ k = w := by
    rw [mag h]
    exact mul_left_inj' unit.ne'
  have exact_ : (f.magnitude (c * 2 ^ f.fbits + R) : ℝ) ≠ w * 2 ^ (f.qmin + c) ↔ w ≠ n := by
    by_cases h : GoesUp rm neg n w
    · rw [up h, ne_eq, at_ (.inr rfl)]
      push_cast
      exact ⟨fun _ => h.ne, fun _ => high.ne'⟩
    · rw [stay h, ne_eq, at_ (.inl rfl), eq_comm]
  have goes := f.takesNext_grid ok normal below rm neg w
  refine roundsTo_iff.2 ⟨c * 2 ^ f.fbits + n, inside, ?_, .inl ?_, c * 2 ^ f.fbits + R, fun h => by rw [up (goes.1 h)]; rfl,
    fun h => by rw [stay (mt goes.2 h)], word, ?_, ?_, ?_, others⟩
  · rw [mag (.inl rfl)]
    gcongr
  · rw [Nat.add_assoc, mag (.inr rfl)]
    push_cast
    gcongr
  · rw [inx, exact_]
    refine ⟨.inl, fun h => h.elim id fun full exact_ => ?_⟩
    have : R = n := stay fun up => up.ne exact_
    rw [this] at full
    exact absurd full inside.ne
  · rw [unf, exact_]
  · rw [ovf]
    refine ⟨.inl, fun h => h.elim id fun full => absurd full (not_le.2 ?_)⟩
    calc w * 2 ^ (f.qmin + c) < f.magnitude (c * 2 ^ f.fbits + (n + 1)) := by rw [mag (.inr rfl)]; push_cast; gcongr
      _ ≤ f.magnitude f.top := by exact_mod_cast f.magnitude_strictMono.monotone inside

/-- Whether a magnitude beyond the largest finite one becomes infinity (R71). -/
def overflowsToInf (rm : RMode) (neg : Bool) : Bool :=
  match rm with
  | .rne => true
  | .rz => false
  | .ru => !neg
  | .rd => neg

/-- A magnitude not below the first that has no encoding. -/
theorem roundsTo_of_overflow (ok : f.Ok) (large : f.magnitude f.top ≤ v) :
    RoundsTo f rm neg v (if overflowsToInf rm neg then f.inf neg else f.huge neg, flagOvf ||| flagInx) := by
  have top := ok.two_le_top
  have pos : 0 < 2 ^ f.fbits := by positivity
  have less : (f.magnitude (f.top - 1) : ℝ) < f.magnitude f.top := by exact_mod_cast f.magnitude_strictMono (by omega)
  have next : f.top - 1 + 1 = f.top := by omega
  obtain ⟨inx, unf, ovf, others⟩ := overflowFlags
  refine roundsTo_iff.2 ⟨f.top - 1, by omega, by linarith, .inr next, f.top - 1 + if overflowsToInf rm neg then 1 else 0, ?_, ?_, ?_, ?_, ?_, ?_, others⟩
  · intro h
    cases rm with
    | rne => rfl
    | rz => exact h.elim
    | ru => rw [overflowsToInf, h.1]; rfl
    | rd => rw [overflowsToInf, h.1]; rfl
  · intro h
    cases rm with
    | rne => exact absurd (.inl (by rw [next]; linarith)) h
    | rz => rfl
    | ru =>
      cases neg with
      | false => exact absurd ⟨rfl, by linarith⟩ h
      | true => rfl
    | rd =>
      cases neg with
      | false => rfl
      | true => exact absurd ⟨rfl, by linarith⟩ h
  · cases overflowsToInf rm neg with
    | false => exact f.huge_eq neg
    | true => exact (f.inf_eq neg).trans (congrArg _ next.symm)
  · refine iff_of_true inx ?_
    cases overflowsToInf rm neg with
    | false => exact .inl (by simpa using by linarith)
    | true => exact .inr next
  · refine iff_of_false (Bool.eq_false_iff.1 unf) fun h => ?_
    omega
  · exact iff_of_true ovf (.inr large)

/-- RoundTo, by the position of the leading digit once it is rounded. -/
theorem roundTo_eq (f : Fmt) (rm : RMode) (neg : Bool) (m : Nat) (e : Int) (sticky : Bool) :
    let fine := roundQuantum rm neg m e sticky (e + m.log2 - f.fbits)
    let coarse := roundQuantum rm neg m e sticky f.qmin
    let place : Int := (if 2 * 2 ^ f.fbits ≤ fine.1 then e + m.log2 + 1 else e + m.log2) - (f.qmin + f.fbits)
    roundTo f rm neg m e sticky =
      if place < 0 then
        (f.signBit neg + coarse.1, flagIf coarse.2 flagInx ||| flagIf (coarse.2 && coarse.1 < 2 ^ f.fbits) flagUnf)
      else if place + 1 ≥ f.emax then (if overflowsToInf rm neg then f.inf neg else f.huge neg, flagOvf ||| flagInx)
      else (f.signBit neg + (place + 1).toNat * 2 ^ f.fbits + if 2 * 2 ^ f.fbits ≤ fine.1 then 0 else fine.1 - 2 ^ f.fbits,
        flagIf fine.2 flagInx) := by
  simp only [roundTo, sub_neg, Nat.shiftLeft_eq]
  rfl

theorem GoesUp.overflowsToInf {n : Nat} {w : ℝ} (h : GoesUp rm neg n w) : overflowsToInf rm neg = true := by
  cases rm with
  | rne => rfl
  | rz => exact h.elim
  | ru => rw [Sys2Proof.overflowsToInf, h.1]; rfl
  | rd => rw [Sys2Proof.overflowsToInf, h.1]

section
variable {m : Nat} {e : Int} {sticky : Bool}

/-- The leading digit of m is that of what lies at m units. -/
theorem LiesAt.leading (at_ : LiesAt m e sticky v) (nonzero : m ≠ 0) : (2 : ℝ) ^ (e + m.log2) ≤ v ∧ v < (2 : ℝ) ^ (e + m.log2 + 1) := by
  obtain ⟨p, rfl, nonneg, small, -⟩ := at_.exists_part
  have low : (2 : ℝ) ^ m.log2 ≤ m := by exact_mod_cast Nat.log2_self_le nonzero
  have high : (m : ℝ) + 1 ≤ 2 ^ (m.log2 + 1) := by exact_mod_cast Nat.lt_log2_self
  have unit : (0 : ℝ) < 2 ^ e := by positivity
  rw [add_assoc, ← Nat.cast_add_one, zpow_add₀ two_ne_zero, zpow_add₀ two_ne_zero, mul_comm, mul_comm (2 ^ e), zpow_natCast, zpow_natCast]
  constructor <;> gcongr <;> linarith

/-- In units of the quantum that leaves fbits digits below the leading one. -/
theorem LiesAt.scaled (at_ : LiesAt m e sticky v) (nonzero : m ≠ 0) (k : Nat) :
    (2 : ℝ) ^ k ≤ v / 2 ^ (e + m.log2 - k) ∧ v / 2 ^ (e + m.log2 - k) < 2 * 2 ^ k := by
  obtain ⟨low, high⟩ := at_.leading nonzero
  have unit : (0 : ℝ) < 2 ^ (e + m.log2 - k) := by positivity
  rw [le_div_iff₀ unit, div_lt_iff₀ unit]
  have scale : (2 : ℝ) ^ k * 2 ^ (e + m.log2 - k) = 2 ^ (e + m.log2) := by
    rw [← zpow_natCast, ← zpow_add₀ two_ne_zero]
    congr 1
    ring
  rw [mul_assoc, scale]
  rw [zpow_add_one₀ two_ne_zero] at high
  exact ⟨low, by linarith⟩

/-- RoundTo below the normal numbers. -/
theorem roundsTo_of_subnormal (ok : f.Ok) (at_ : LiesAt m e sticky v) (fine : sticky = true → e < f.qmin)
    (small : v < 2 ^ (f.qmin + f.fbits)) :
    let coarse := roundQuantum rm neg m e sticky f.qmin
    RoundsTo f rm neg v (f.signBit neg + coarse.1, flagIf coarse.2 flagInx ||| flagIf (coarse.2 && coarse.1 < 2 ^ f.fbits) flagUnf) := by
  obtain ⟨n, low, high, up, stay, inx⟩ := roundQuantum_spec at_ rm neg fine
  dsimp only
  generalize roundQuantum rm neg m e sticky f.qmin = coarse at *
  have top := ok.two_le_top
  have below : n < 2 ^ f.fbits := by
    have unit : (0 : ℝ) < 2 ^ f.qmin := by positivity
    rw [zpow_add₀ two_ne_zero, mul_comm, ← div_lt_iff₀ unit] at small
    exact_mod_cast low.trans_lt small
  have count : coarse.1 ≤ n + 1 := by
    by_cases h : GoesUp rm neg n (v / 2 ^ f.qmin)
    · exact (up h).le
    · exact (stay h).le.trans (Nat.le_succ n)
  obtain ⟨inx', unf', ovf', others⟩ := inexactFlags coarse.2 (coarse.2 && coarse.1 < 2 ^ f.fbits)
  refine roundsTo_of_grid (base := 0) (c := 0) ok (Nat.zero_mul _) (add_zero _) (.inl rfl) (by omega) (by omega) low high up stay
    (by rw [Nat.zero_add]) (by rw [inx', inx]) ?_ ?_ others
  · rw [unf', Bool.and_eq_true, inx, decide_eq_true_iff, Nat.zero_add]
  · rw [ovf', Nat.zero_add]
    refine iff_of_false Bool.false_ne_true fun full => ?_
    omega

/-- A count of units that is the next power of two has rounded up from the last one below it. -/
theorem carried_spec {n N F : Nat} {w : ℝ} (below : n < 2 * F) (up : GoesUp rm neg n w → N = n + 1) (stay : ¬GoesUp rm neg n w → N = n)
    (carried : 2 * F ≤ N) : N = 2 * F ∧ n + 1 = 2 * F ∧ GoesUp rm neg n w := by
  by_cases h : GoesUp rm neg n w
  · have := up h
    exact ⟨by omega, by omega, h⟩
  · have := stay h
    omega

/-- RoundTo of a magnitude whose leading digit is that of a normal number. -/
theorem roundsTo_of_normal (ok : f.Ok) (at_ : LiesAt m e sticky v) (nonzero : m ≠ 0) (fine : sticky = true → e < e + m.log2 - f.fbits)
    {c : Nat} (place : e + m.log2 - f.fbits = f.qmin + c) : RoundsTo f rm neg v (roundTo f rm neg m e sticky) := by
  obtain ⟨n, low, high, up, stay, inx⟩ := roundQuantum_spec at_ rm neg fine
  obtain ⟨scaled, scaled'⟩ := at_.scaled nonzero f.fbits
  have top := ok.two_le_top
  have normal : 2 ^ f.fbits ≤ n := Nat.lt_succ_iff.1 (by exact_mod_cast scaled.trans_lt high)
  have below : n < 2 * 2 ^ f.fbits := by exact_mod_cast low.trans_lt scaled'
  rw [roundTo_eq]
  generalize roundQuantum rm neg m e sticky (e + m.log2 - f.fbits) = rounded at *
  obtain ⟨N, inexact⟩ := rounded
  dsimp only at *
  by_cases full : f.emax ≤ c + 1
  · have large : (f.magnitude f.top : ℝ) ≤ v := by
      have h : f.top ≤ c * 2 ^ f.fbits + 2 ^ f.fbits := by rw [← Nat.succ_mul]; exact Nat.mul_le_mul_right _ full
      calc (f.magnitude f.top : ℝ) ≤ f.magnitude (c * 2 ^ f.fbits + 2 ^ f.fbits) := by exact_mod_cast f.magnitude_strictMono.monotone h
        _ = 2 ^ f.fbits * 2 ^ (e + m.log2 - f.fbits) := by
          rw [f.magnitude_grid (.inr le_rfl) (by omega), place]
          push_cast
          rfl
        _ ≤ v := by rwa [← le_div_iff₀ (by positivity)]
    rw [if_neg (by split <;> omega), if_pos (by split <;> omega)]
    exact roundsTo_of_overflow ok large
  have inside : c * 2 ^ f.fbits + 2 * 2 ^ f.fbits ≤ f.top := by
    rw [← Nat.add_mul]
    exact Nat.mul_le_mul_right _ (by omega)
  have rounds {out : Nat × Flags} := roundsTo_of_grid (R := N) (base := c * 2 ^ f.fbits) (out := out) ok rfl place.symm (.inr normal) below
    (by omega) low high up stay
  have normal' : 2 ^ f.fbits ≤ N := by
    by_cases h : GoesUp rm neg n (v / 2 ^ (e + m.log2 - f.fbits))
    · exact normal.trans ((Nat.le_succ n).trans (up h).ge)
    · exact normal.trans (stay h).ge
  have large : ¬(c * 2 ^ f.fbits + N < 2 ^ f.fbits) := not_lt.2 (normal'.trans (Nat.le_add_left ..))
  have finite {word : Nat} (is : word = f.signBit neg + (c * 2 ^ f.fbits + N)) (not_top : c * 2 ^ f.fbits + N ≠ f.top) :
      RoundsTo f rm neg v (word, flagIf inexact flagInx) := by
    obtain ⟨inx', unf', ovf', others⟩ := inexactFlag inexact
    exact rounds is (by rw [inx', inx]) (iff_of_false (Bool.eq_false_iff.1 unf') fun h => large h.2)
      (iff_of_false (Bool.eq_false_iff.1 ovf') not_top) others
  by_cases carried : 2 * 2 ^ f.fbits ≤ N
  · obtain ⟨rfl, last, goes⟩ := carried_spec below up stay carried
    simp only [if_pos carried]
    rw [if_neg (by omega)]
    by_cases last : f.emax = c + 2
    · have is_top : c * 2 ^ f.fbits + 2 * 2 ^ f.fbits = f.top := by rw [Fmt.top, last, Nat.add_mul]
      obtain ⟨inx', unf', ovf', others⟩ := overflowFlags
      rw [if_pos (by omega), goes.overflowsToInf, if_pos rfl]
      exact rounds (by rw [f.inf_eq, is_top]) (iff_of_true inx' goes.ne) (iff_of_false (Bool.eq_false_iff.1 unf') fun h => large h.2)
        (iff_of_true ovf' is_top) others
    · rw [if_neg (by omega)]
      refine finite ?_ fun h => last ?_
      · rw [show (e + m.log2 + 1 - (f.qmin + f.fbits) + 1).toNat = c + 2 by omega, Nat.add_mul]
        rfl
      · rw [← Nat.add_mul, Fmt.top] at h
        exact (Nat.eq_of_mul_eq_mul_right (by positivity) h).symm
  · simp only [if_neg carried]
    rw [if_neg (by omega), if_neg (by omega), show (e + m.log2 - (f.qmin + f.fbits) + 1).toNat = c + 1 by omega]
    exact finite (by rw [Nat.succ_mul]; omega) (by omega)

/-- RoundTo just below the normal numbers, where the leading digit is a subnormal one until it is rounded. -/
theorem roundsTo_of_carried (ok : f.Ok) (at_ : LiesAt m e sticky v) (nonzero : m ≠ 0) (fine : sticky = true → e < e + m.log2 - f.fbits)
    (place : e + m.log2 - f.fbits + 1 = f.qmin) (carried : 2 * 2 ^ f.fbits ≤ (roundQuantum rm neg m e sticky (e + m.log2 - f.fbits)).1) :
    RoundsTo f rm neg v (roundTo f rm neg m e sticky) := by
  obtain ⟨n, low, high, up, stay, inx⟩ := roundQuantum_spec at_ rm neg fine
  obtain ⟨scaled, scaled'⟩ := at_.scaled nonzero f.fbits
  have top := ok.two_le_top
  have exps := ok.exps
  have pos : 0 < 2 ^ f.fbits := by positivity
  have below : n < 2 * 2 ^ f.fbits := by exact_mod_cast low.trans_lt scaled'
  rw [roundTo_eq]
  generalize roundQuantum rm neg m e sticky (e + m.log2 - f.fbits) = rounded at *
  obtain ⟨N, inexact⟩ := rounded
  dsimp only at *
  obtain ⟨rfl, last, goes⟩ := carried_spec below up stay carried
  rw [if_pos carried, if_pos carried, if_neg (by omega), if_neg (by omega),
    show (e + m.log2 + 1 - (f.qmin + f.fbits) + 1).toNat = 1 by omega]
  obtain ⟨inx', unf', ovf', others⟩ := inexactFlag inexact
  obtain ⟨k, hk⟩ : ∃ k, 2 ^ f.fbits = k + 1 := ⟨2 ^ f.fbits - 1, by omega⟩
  have half : v / 2 ^ f.qmin = v / 2 ^ (e + m.log2 - f.fbits) / 2 := by
    rw [← place, zpow_add_one₀ two_ne_zero]
    field_simp
  have cast : (n : ℝ) = 2 * k + 1 := by exact_mod_cast (by omega : n = 2 * k + 1)
  have above : (k : ℝ) + 1 / 2 ≤ v / 2 ^ f.qmin := by rw [half]; linarith
  have under : v / 2 ^ f.qmin < k + 1 := by rw [half]; linarith
  have goes' : GoesUp rm neg k (v / 2 ^ f.qmin) := by
    have ne : v / 2 ^ f.qmin ≠ k := by linarith
    cases rm with
    | rne =>
      have : (n : ℝ) + 1 / 2 ≤ v / 2 ^ (e + m.log2 - f.fbits) := by obtain h | ⟨h, -⟩ := goes <;> linarith
      left
      rw [half]
      linarith
    | rz => exact goes.elim
    | ru => exact ⟨goes.1, ne⟩
    | rd => exact ⟨goes.1, ne⟩
  refine roundsTo_of_grid (base := 0) (c := 0) (n := k) (R := k + 1) ok (Nat.zero_mul _) (add_zero _) (.inl rfl) (by omega) (by omega)
    (by linarith) under (fun _ => rfl) (absurd goes') (by simp [hk]) (iff_of_true (by rw [inx', inx]; exact goes.ne) goes'.ne)
    (iff_of_false (Bool.eq_false_iff.1 unf') fun h => by omega) (iff_of_false (Bool.eq_false_iff.1 ovf') fun h => by omega) others

/-- RoundTo is correct rounding (R71, R72): of m units, and of what lies strictly between m and m + 1 of them where m has two
digits more than the precision. -/
theorem roundTo_roundsTo (ok : f.Ok) (at_ : LiesAt m e sticky v) (nonzero : m ≠ 0) (deep : sticky = true → 2 ^ (f.fbits + 2) ≤ m) :
    RoundsTo f rm neg v (roundTo f rm neg m e sticky) := by
  have fine : sticky = true → e < e + m.log2 - f.fbits := fun h => by
    have := (Nat.le_log2 nonzero).2 (deep h)
    omega
  obtain normal | subnormal := le_or_gt f.qmin (e + m.log2 - f.fbits)
  · obtain ⟨c, place⟩ := Int.le.dest normal
    exact roundsTo_of_normal ok at_ nonzero fine place.symm
  · by_cases carried : e + m.log2 - f.fbits + 1 = f.qmin ∧ 2 * 2 ^ f.fbits ≤ (roundQuantum rm neg m e sticky (e + m.log2 - f.fbits)).1
    · exact roundsTo_of_carried ok at_ nonzero fine carried.1 carried.2
    · have small : v < 2 ^ (f.qmin + f.fbits) := (at_.leading nonzero).2.trans_le (zpow_le_zpow_right₀ one_le_two (by omega))
      rw [roundTo_eq, if_pos (by split <;> omega)]
      exact roundsTo_of_subnormal ok at_ (fun h => (fine h).trans subnormal) small

end

end

end Sys2Proof
end

section
/-! PROOFS. What an encoding stands for (R69): its sign and its body, the number they make, the order of the numbers, and
RoundTo of a number that has an encoding. -/

namespace Sys2Proof

/-! ### Signs and bodies -/

/-- An encoding without its sign. -/
def Fmt.body (f : Fmt) (x : Nat) : Nat := x % 2 ^ (f.ebits + f.fbits)

/-- The sign of an encoding. -/
def Fmt.sign (f : Fmt) (x : Nat) : Bool := (x >>> (f.ebits + f.fbits)) % 2 == 1

theorem Fmt.two_pow_eq (f : Fmt) : 2 ^ (f.ebits + f.fbits) = f.top + 2 ^ f.fbits := by
  have pos : 0 < 2 ^ f.ebits := by positivity
  rw [Fmt.top, Fmt.emax, ← Nat.succ_mul, Nat.succ_eq_add_one, Nat.sub_add_cancel pos, pow_add]

theorem Fmt.top_lt (f : Fmt) : f.top < 2 ^ (f.ebits + f.fbits) := by
  rw [f.two_pow_eq]
  exact Nat.lt_add_of_pos_right (by positivity)

theorem Fmt.Ok.top_pos {f : Fmt} (ok : f.Ok) : 0 < f.top := lt_of_lt_of_le (by positivity) ok.two_le_top

theorem Fmt.body_lt (f : Fmt) (x : Nat) : f.body x < 2 ^ (f.ebits + f.fbits) := Nat.mod_lt _ (by positivity)

theorem Fmt.body_of_lt (f : Fmt) {k : Nat} (h : k < 2 ^ (f.ebits + f.fbits)) (neg : Bool) : f.body (f.signBit neg + k) = k := by
  cases neg with
  | false => rw [Fmt.signBit, if_neg Bool.false_ne_true, Nat.zero_add]; exact Nat.mod_eq_of_lt h
  | true => rw [Fmt.signBit, if_pos rfl]; exact (Nat.add_mod_left ..).trans (Nat.mod_eq_of_lt h)

theorem Fmt.sign_of_lt (f : Fmt) {k : Nat} (h : k < 2 ^ (f.ebits + f.fbits)) (neg : Bool) : f.sign (f.signBit neg + k) = neg := by
  rw [Fmt.sign, Nat.shiftRight_eq_div_pow]
  cases neg with
  | false => rw [Fmt.signBit, if_neg Bool.false_ne_true, Nat.zero_add, Nat.div_eq_of_lt h]; rfl
  | true => rw [Fmt.signBit, if_pos rfl, Nat.add_div_left _ (by positivity), Nat.div_eq_of_lt h]; rfl

/-- An encoding of the format's width is its sign and its body. -/
theorem Fmt.eq_sign_body (f : Fmt) {x : Nat} (h : x < 2 * 2 ^ (f.ebits + f.fbits)) : x = f.signBit (f.sign x) + f.body x := by
  have split := Nat.div_add_mod x (2 ^ (f.ebits + f.fbits))
  have quot : x / 2 ^ (f.ebits + f.fbits) < 2 := Nat.div_lt_of_lt_mul (by rwa [Nat.mul_comm])
  rw [Fmt.sign, Nat.shiftRight_eq_div_pow, Fmt.body, Nat.mod_eq_of_lt quot]
  obtain h | h := Nat.le_one_iff_eq_zero_or_eq_one.1 (Nat.lt_succ_iff.1 quot)
  · rw [h] at split ⊢
    simpa [Fmt.signBit] using split.symm
  · rw [h] at split ⊢
    simpa [Fmt.signBit] using split.symm

/-! ### The number of an encoding -/

/-- Val by the exponent and the fraction of the body. -/
theorem Fmt.val_eq (f : Fmt) (x : Nat) : f.val x =
    if f.body x / 2 ^ f.fbits = f.emax then
      if f.body x % 2 ^ f.fbits = 0 then .inf (f.sign x) else .nan ((f.body x % 2 ^ f.fbits) >>> (f.fbits - 1) == 0)
    else if f.body x / 2 ^ f.fbits = 0 then .fin (f.sign x) (f.body x % 2 ^ f.fbits) f.qmin
    else .fin (f.sign x) (2 ^ f.fbits + f.body x % 2 ^ f.fbits) (f.qmin + (f.body x / 2 ^ f.fbits : Nat) - 1) := by
  have frac : x % 2 ^ f.fbits = f.body x % 2 ^ f.fbits := (Nat.mod_mod_of_dvd _ (pow_dvd_pow 2 (Nat.le_add_left ..))).symm
  have exponent : (x >>> f.fbits) % 2 ^ f.ebits = f.body x / 2 ^ f.fbits := by
    rw [Nat.shiftRight_eq_div_pow, Fmt.body, Nat.add_comm, pow_add, Nat.mod_mul_right_div_self]
  simp only [Fmt.val, frac, exponent, beq_iff_eq]
  rfl

/-- What a body below that of infinity stands for. -/
theorem Fmt.val_finite (f : Fmt) {x : Nat} (h : f.body x < f.top) :
    ∃ m e, f.val x = .fin (f.sign x) m e ∧ (m * (2 : ℚ) ^ e : ℚ) = f.magnitude (f.body x) ∧ m < 2 * 2 ^ f.fbits ∧ f.qmin ≤ e := by
  have rest : f.body x % 2 ^ f.fbits < 2 ^ f.fbits := Nat.mod_lt _ (by positivity)
  have exponent : f.body x / 2 ^ f.fbits ≠ f.emax := (Nat.div_lt_of_lt_mul (by rwa [Nat.mul_comm])).ne
  rw [f.val_eq, if_neg exponent]
  by_cases subnormal : f.body x / 2 ^ f.fbits = 0
  · refine ⟨_, _, if_pos subnormal, ?_, by omega, le_rfl⟩
    rw [Fmt.magnitude, if_pos subnormal]
    have := Nat.div_add_mod (f.body x) (2 ^ f.fbits)
    rw [subnormal, Nat.mul_zero, Nat.zero_add] at this
    rw [this]
  · have normal : (1 : Int) ≤ (f.body x / 2 ^ f.fbits : Nat) := by exact_mod_cast Nat.pos_of_ne_zero subnormal
    refine ⟨_, _, if_neg subnormal, ?_, by omega, by linarith⟩
    rw [Fmt.magnitude, if_neg subnormal]

theorem Fmt.val_infinite (f : Fmt) {x : Nat} (h : f.body x = f.top) : f.val x = .inf (f.sign x) := by
  rw [f.val_eq, h, Fmt.top, if_pos (Nat.mul_div_cancel _ (by positivity)), if_pos (Nat.mul_mod_left ..)]

theorem Fmt.val_nan (f : Fmt) {x : Nat} (h : f.top < f.body x) : ∃ s, f.val x = .nan s := by
  have exponent : f.body x / 2 ^ f.fbits = f.emax := by
    refine Nat.div_eq_of_lt_le h.le ?_
    rw [Nat.succ_mul]
    exact (f.body_lt x).trans_eq f.two_pow_eq
  have frac : f.body x % 2 ^ f.fbits ≠ 0 := fun zero => h.ne' <| by
    have := Nat.div_add_mod' (f.body x) (2 ^ f.fbits)
    rwa [zero, exponent, Nat.add_zero, eq_comm] at this
  exact ⟨_, by rw [f.val_eq, if_pos exponent, if_neg frac]⟩

section
variable {f : Fmt} {x : Nat}

/-- What a finite number says of its encoding. -/
theorem Fmt.of_val_fin {p : Bool} {m : Nat} {e : Int} (h : f.val x = .fin p m e) :
    f.sign x = p ∧ f.body x < f.top ∧ (m * (2 : ℚ) ^ e : ℚ) = f.magnitude (f.body x) ∧ m < 2 * 2 ^ f.fbits ∧ f.qmin ≤ e := by
  obtain below | full | above := lt_trichotomy (f.body x) f.top
  · obtain ⟨m', e', val, rest⟩ := f.val_finite below
    rw [val] at h
    cases h
    exact ⟨rfl, below, rest⟩
  · rw [f.val_infinite full] at h
    cases h
  · obtain ⟨s, val⟩ := f.val_nan above
    rw [val] at h
    cases h

end

theorem Num.value_fin (p : Bool) (m : Nat) (e : Int) : (Num.fin p m e).value = (if p then -1 else 1) * (m * (2 : ℚ) ^ e) := by
  rw [Num.value, mul_assoc]

theorem Num.value_pos (m : Nat) (e : Int) : (Num.fin false m e).value = m * (2 : ℚ) ^ e := by simp [Num.value]

theorem Num.value_eq_zero {p : Bool} {m : Nat} {e : Int} : (Num.fin p m e).value = 0 ↔ m = 0 := by
  have unit : (2 : ℚ) ^ e ≠ 0 := by positivity
  cases p <;> simp [Num.value, unit]

/-- The value of a finite number by its encoding. -/
theorem Fmt.value_fin {f : Fmt} {x : Nat} {p : Bool} {m : Nat} {e : Int} (h : f.val x = .fin p m e) :
    (Num.fin p m e).value = (if p then -1 else 1) * f.magnitude (f.body x) := by
  rw [Num.value_fin, (Fmt.of_val_fin h).2.2.1]

/-! ### The order of the numbers -/

theorem Fmt.rank_eq (f : Fmt) (x : Nat) : f.rank x =
    if (f.val x).isNan then none else some (if f.sign x then -(f.body x : Int) - 1 else f.body x) := by
  unfold Fmt.rank Fmt.sign Fmt.body
  cases f.val x <;> simp [Num.isNan]

theorem Fmt.rank_isSome (f : Fmt) (x : Nat) : (f.rank x).isSome = !(f.val x).isNan := by
  rw [f.rank_eq]
  cases (f.val x).isNan <;> rfl

/-- A number that is no NaN, by the sign and the body of its encoding. -/
theorem Fmt.val_of_not_nan {f : Fmt} {x : Nat} (h : (f.val x).isNan = false) :
    f.body x ≤ f.top ∧ ((∃ m e, f.val x = .fin (f.sign x) m e ∧ f.body x < f.top) ∨ (f.val x = .inf (f.sign x) ∧ f.body x = f.top)) := by
  obtain below | full | above := lt_trichotomy (f.body x) f.top
  · obtain ⟨m, e, val, -⟩ := f.val_finite below
    exact ⟨below.le, .inl ⟨m, e, val, below⟩⟩
  · exact ⟨full.le, .inr ⟨f.val_infinite full, full⟩⟩
  · obtain ⟨s, val⟩ := f.val_nan above
    rw [val] at h
    cases h

/-- The rank of an encoding that is no NaN. -/
def Fmt.place (f : Fmt) (x : Nat) : Int := if f.sign x then -(f.body x : Int) - 1 else f.body x

theorem Fmt.rank_of_not_nan {f : Fmt} {x : Nat} (h : (f.val x).isNan = false) : f.rank x = some (f.place x) := by
  rw [f.rank_eq, h]
  rfl

theorem Fmt.rank_of_nan {f : Fmt} {x : Nat} (h : (f.val x).isNan = true) : f.rank x = none := by
  rw [f.rank_eq, h]
  rfl

/-- A comparison value counts both zeros as 0 and keeps the order of every other number. -/
theorem Fmt.cmpVal_of_not_nan {f : Fmt} {x : Nat} (h : (f.val x).isNan = false) :
    f.cmpVal x = some (if f.sign x then -(f.body x : Int) else f.body x) := by
  rw [Fmt.cmpVal, Fmt.rank_of_not_nan h, Fmt.place]
  cases f.sign x <;> simp
  omega

theorem Fmt.cmpVal_of_nan {f : Fmt} {x : Nat} (h : (f.val x).isNan = true) : f.cmpVal x = none := by
  rw [Fmt.cmpVal, Fmt.rank_of_nan h]

theorem Num.below_iff {a b : Num} : a.Below b ↔ a.Less b ∨ ∃ e k, a = .fin true 0 e ∧ b = .fin false 0 k := by
  unfold Num.Below
  split
  · simp
  · rename_i none
    exact ⟨.inl, fun h => h.elim id fun ⟨e, k, ha, hb⟩ => (none e k ha hb).elim⟩

/-- Signed magnitudes are ordered as signed bodies. -/
theorem Fmt.signed_lt_iff (f : Fmt) (p q : Bool) (i j : Nat) :
    (if p then -1 else 1) * f.magnitude i < (if q then -1 else 1) * f.magnitude j ↔
      (if p then -(i : Int) else i) < (if q then -(j : Int) else j) := by
  have order {i j : Nat} : f.magnitude i < f.magnitude j ↔ i < j := f.magnitude_strictMono.lt_iff_lt
  have nonneg := f.magnitude_nonneg
  cases p <;> cases q <;> simp only [if_true, if_false, Bool.false_eq_true, one_mul, neg_one_mul, neg_lt_neg_iff, Nat.cast_lt, order]
  · exact iff_of_false (not_lt.2 (by linarith [nonneg i, nonneg j])) (by omega)
  · by_cases zero : i = 0
    · rw [zero, f.magnitude_zero, neg_zero, ← f.magnitude_zero, order]
      omega
    · exact iff_of_true (by linarith [f.magnitude_pos (Nat.pos_of_ne_zero zero), nonneg j]) (by omega)

section
variable {f : Fmt} {x y : Nat} (ok : f.Ok) (hx : (f.val x).isNan = false) (hy : (f.val y).isNan = false)
include ok hx hy

/-- Numbers are ordered as their signed bodies, the zeros being equal (R74). -/
theorem Fmt.less_iff : (f.val x).Less (f.val y) ↔
    (if f.sign x then -(f.body x : Int) else f.body x) < (if f.sign y then -(f.body y : Int) else f.body y) := by
  have pos := ok.top_pos
  obtain ⟨-, ⟨m, e, valx, bx⟩ | ⟨valx, bx⟩⟩ := Fmt.val_of_not_nan hx <;>
    obtain ⟨-, ⟨n, k, valy, by_⟩ | ⟨valy, by_⟩⟩ := Fmt.val_of_not_nan hy <;>
    rw [valx, valy, Num.Less]
  · rw [Fmt.value_fin valx, Fmt.value_fin valy, f.signed_lt_iff]
  · cases f.sign x <;> cases f.sign y <;> simp <;> omega
  · cases f.sign x <;> cases f.sign y <;> simp <;> omega
  · cases f.sign x <;> cases f.sign y <;> simp <;> omega

omit hx hy in
theorem Fmt.body_eq_zero_iff : f.body x = 0 ↔ ∃ e, f.val x = .fin (f.sign x) 0 e := by
  constructor
  · intro zero
    obtain ⟨m, e, val, value, -⟩ := f.val_finite (zero.trans_lt ok.top_pos)
    rw [zero, f.magnitude_zero, mul_eq_zero, Nat.cast_eq_zero] at value
    obtain rfl | unit := value
    · exact ⟨e, val⟩
    · exact absurd unit (by positivity)
  · rintro ⟨e, val⟩
    obtain ⟨-, -, value, -⟩ := Fmt.of_val_fin val
    by_contra nonzero
    rw [Nat.cast_zero, zero_mul] at value
    exact (f.magnitude_pos (Nat.pos_of_ne_zero nonzero)).ne value

/-- Numbers are ranked as their encodings (R74): −0 below +0. -/
theorem Fmt.below_iff : (f.val x).Below (f.val y) ↔ f.place x < f.place y := by
  have zeros : (∃ e k, f.val x = .fin true 0 e ∧ f.val y = .fin false 0 k) ↔
      f.sign x = true ∧ f.sign y = false ∧ f.body x = 0 ∧ f.body y = 0 := by
    rw [Fmt.body_eq_zero_iff ok, Fmt.body_eq_zero_iff ok]
    constructor
    · rintro ⟨e, k, valx, valy⟩
      obtain ⟨sx, -⟩ := Fmt.of_val_fin valx
      obtain ⟨sy, -⟩ := Fmt.of_val_fin valy
      exact ⟨sx, sy, ⟨e, sx ▸ valx⟩, ⟨k, sy ▸ valy⟩⟩
    · rintro ⟨sx, sy, ⟨e, valx⟩, ⟨k, valy⟩⟩
      exact ⟨e, k, sx ▸ valx, sy ▸ valy⟩
  rw [Num.below_iff, Fmt.less_iff ok hx hy, zeros, Fmt.place, Fmt.place]
  cases f.sign x <;> cases f.sign y <;> simp <;> omega

end

/-! ### Rounding a number that has an encoding -/

section
variable {f : Fmt} {rm : RMode} {neg : Bool}

/-- The flags are told by their six bits. -/
theorem flags_eq_zero {fl : Flags} (h0 : fl.getLsbD 0 = false) (h1 : fl.getLsbD 1 = false) (h2 : fl.getLsbD 2 = false)
    (h3 : fl.getLsbD 3 = false) (h4 : fl.getLsbD 4 = false) (h5 : fl.getLsbD 5 = false) : fl = 0 := by
  refine BitVec.eq_of_getLsbD_eq fun i hi => ?_
  interval_cases i <;> simpa

/-- The magnitude of an encoding is rounded to itself. -/
theorem roundsTo_magnitude {k : Nat} (h : k < f.top) {out : Nat × Flags} (rounds : RoundsTo f rm neg (f.magnitude k) out) :
    out = (f.signBit neg + k, 0) := by
  obtain ⟨j, hj, low, high, r, -, stay, word, inx, unf, ovf, h0, h1, h5⟩ := roundsTo_iff.1 rounds
  have mono := f.magnitude_strictMono
  obtain rfl : j = k := by
    have low : j ≤ k := mono.le_iff_le.1 (by exact_mod_cast low)
    obtain high | last := high
    · have : k < j + 1 := mono.lt_iff_lt.1 (by exact_mod_cast high)
      omega
    · omega
  have next : (f.magnitude j : ℝ) < f.magnitude (j + 1) := by exact_mod_cast mono (Nat.lt_succ_self j)
  obtain rfl : r = j := stay <| by
    cases rm with
    | rne => rintro (h | ⟨h, -⟩) <;> linarith
    | rz => exact id
    | ru => exact fun h => h.2 rfl
    | rd => exact fun h => h.2 rfl
  have top : ¬(f.magnitude f.top : ℝ) ≤ f.magnitude r := not_le.2 (by exact_mod_cast mono h)
  refine Prod.ext word (flags_eq_zero h0 h1 (Bool.eq_false_iff.2 ?_) (Bool.eq_false_iff.2 ?_) (Bool.eq_false_iff.2 ?_) h5)
  · exact fun h' => (ovf.1 h').elim h.ne top
  · exact fun h' => (unf.1 h').1 rfl
  · exact fun h' => (inx.1 h').elim (fun ne => ne rfl) h.ne

/-- An exact number at m units. -/
theorem liesAt_exact (m : Nat) (e : Int) : LiesAt m e false (m * (2 : ℝ) ^ e) := rfl

/-- RoundTo of the magnitude of an encoding. -/
theorem roundTo_magnitude (ok : f.Ok) {m k : Nat} {e : Int} (nonzero : m ≠ 0) (h : k < f.top) (value : (m * (2 : ℚ) ^ e : ℚ) = f.magnitude k) :
    roundTo f rm neg m e false = (f.signBit neg + k, 0) := by
  refine roundsTo_magnitude (rm := rm) h ?_
  have rounds := roundTo_roundsTo (rm := rm) (neg := neg) ok (liesAt_exact m e) nonzero nofun
  rwa [show (m * (2 : ℝ) ^ e : ℝ) = f.magnitude k by rw [← value]; push_cast; rfl] at rounds

/-- RoundTo of an encoding of the format's width is that encoding (R71). -/
theorem roundNum_val (ok : f.Ok) {x : Nat} (width : x < 2 * 2 ^ (f.ebits + f.fbits)) (h : (f.val x).isNan = false) :
    roundNum f rm (f.val x) = (x, 0) := by
  have split := f.eq_sign_body width
  obtain ⟨-, ⟨m, e, val, below⟩ | ⟨val, full⟩⟩ := Fmt.val_of_not_nan h
  · obtain ⟨-, -, value, -⟩ := Fmt.of_val_fin val
    rw [val, roundNum]
    by_cases zero : m = 0
    · subst zero
      have body : f.body x = 0 := (Fmt.body_eq_zero_iff ok).2 ⟨e, val⟩
      rw [body] at split
      exact congrArg (·, 0) split.symm
    · rw [if_neg (by simpa using zero), roundTo_magnitude ok zero below value, ← split]
  · rw [val, roundNum, f.inf_eq, ← full, ← split]

theorem roundsTo_word_lt {v : ℝ} {out : Nat × Flags} (rounds : RoundsTo f rm neg v out) : out.1 < 2 * 2 ^ (f.ebits + f.fbits) := by
  obtain ⟨k, hk, -, -, r, up, stay, word, -⟩ := roundsTo_iff.1 rounds
  have top := f.top_lt
  have sign : f.signBit neg ≤ 2 ^ (f.ebits + f.fbits) := by
    rw [Fmt.signBit]
    split
    · rfl
    · exact Nat.zero_le _
  have : r ≤ k + 1 := by
    by_cases h : f.TakesNext rm neg k v
    · exact (up h).le
    · exact (stay h).le.trans (Nat.le_succ k)
  omega

end

end Sys2Proof
end

section
/-! PROOFS. Sums, products and fused products (R64, R65, R69 to R73), as operations on numbers that are rounded once. -/

namespace Sys2Proof

/-! ### What is rounded once -/

section
variable {f : Fmt} {rm : RMode} {snan : Bool}

theorem finish_none : finish f rm snan none = (f.nan, flagInv) := rfl

theorem finish_some (u : Num) : finish f rm snan (some u) = ((roundNum f rm u).1, (roundNum f rm u).2 ||| flagIf snan flagInv) := rfl

theorem finish_nan (s : Bool) : finish f rm snan (some (.nan s)) = (f.nan, flagIf snan flagInv) := by
  rw [finish_some, roundNum]
  exact congrArg _ (BitVec.zero_or)

theorem finish_inf (p : Bool) : finish f rm false (some (.inf p)) = (f.inf p, 0) := rfl

/-- Without a signalling operand the flags are those of the rounding. -/
theorem finish_quiet (u : Num) : finish f rm false (some u) = roundNum f rm u := by
  rw [finish_some]
  exact Prod.ext rfl BitVec.or_zero

theorem roundNum_zero (p : Bool) (e : Int) : roundNum f rm (.fin p 0 e) = (f.zero p, 0) := rfl

end

/-! ### Exact sums and products -/

section
variable {rm : RMode}

theorem Num.isSnan_of_isNan_eq_false {x : Num} (h : x.isNan = false) : x.isSnan = false := by
  cases x with
  | nan s => cases h
  | inf p => rfl
  | fin p m e => rfl

@[simp] theorem Num.isSnan_inf (p : Bool) : (Num.inf p).isSnan = false := rfl
@[simp] theorem Num.isSnan_fin (p : Bool) (m : Nat) (e : Int) : (Num.fin p m e).isSnan = false := rfl

theorem Num.add_inf_inf (p q : Bool) : (Num.inf p).add rm (.inf q) = if p == q then some (.inf p) else none := rfl
theorem Num.add_inf_fin (p q : Bool) (m : Nat) (e : Int) : (Num.inf p).add rm (.fin q m e) = some (.inf p) := rfl
theorem Num.add_fin_inf (p q : Bool) (m : Nat) (e : Int) : (Num.fin q m e).add rm (.inf p) = some (.inf p) := rfl

theorem Num.add_of_nan {x y : Num} (h : (x.isNan || y.isNan) = true) : ∃ s, x.add rm y = some (.nan s) := by
  cases x with
  | nan s => exact ⟨s, by cases y <;> rfl⟩
  | inf p =>
    cases y with
    | nan s => exact ⟨s, rfl⟩
    | inf q => cases h
    | fin q n k => cases h
  | fin p m e =>
    cases y with
    | nan s => exact ⟨s, rfl⟩
    | inf q => cases h
    | fin q n k => cases h

theorem Num.mul_of_nan {x y : Num} (h : (x.isNan || y.isNan) = true) : ∃ s, x.mul y = some (.nan s) := by
  cases x with
  | nan s => exact ⟨s, by cases y <;> rfl⟩
  | inf p =>
    cases y with
    | nan s => exact ⟨s, rfl⟩
    | inf q => cases h
    | fin q n k => cases h
  | fin p m e =>
    cases y with
    | nan s => exact ⟨s, rfl⟩
    | inf q => cases h
    | fin q n k => cases h

theorem Num.value_signed (t q : Int) : (Num.fin (t < 0) t.natAbs q).value = t * (2 : ℚ) ^ q := by
  rw [Num.value_fin, Nat.cast_natAbs]
  obtain neg | nonneg := lt_or_ge t 0
  · simp [neg, abs_of_neg neg]
  · simp [not_lt.2 nonneg, abs_of_nonneg nonneg]

/-- A finite number in units of a smaller power of two. -/
theorem Num.value_units (p : Bool) (m : Nat) {e q : Int} (h : q ≤ e) :
    (Num.fin p m e).value = (if p then -((m <<< (e - q).toNat : Nat) : Int) else ((m <<< (e - q).toNat : Nat) : Int) : Int) * (2 : ℚ) ^ q := by
  obtain ⟨k, rfl⟩ := Int.le.dest h
  rw [Num.value_fin, show (q + k - q).toNat = k by omega, Nat.shiftLeft_eq, zpow_add₀ two_ne_zero, zpow_natCast]
  cases p <;> push_cast <;> simp <;> ring

/-- The exact sum of two finite numbers, of the sign of R71 where it is zero. -/
theorem Num.add_fin (p q : Bool) (m n : Nat) (e k : Int) : ∃ r l i, (Num.fin p m e).add rm (.fin q n k) = some (.fin r l i) ∧
    (Num.fin r l i).value = (Num.fin p m e).value + (Num.fin q n k).value ∧
    (l = 0 → r = if m = 0 ∧ p = q then p else rm == .rd) := by
  by_cases zeros : m = 0 ∧ n = 0
  · obtain ⟨rfl, rfl⟩ := zeros
    refine ⟨_, _, _, rfl, ?_, fun _ => by simp [zeroSum]⟩
    simp [Num.value]
  · have hx := Num.value_units p m (min_le_left e k)
    have hy := Num.value_units q n (min_le_right e k)
    have sum : (Num.fin p m e).add rm (.fin q n k) = _ := if_neg (by simpa using zeros)
    rw [hx, hy, ← add_mul, ← Int.cast_add]
    generalize (if p then -((m <<< (e - min e k).toNat : Nat) : Int) else ((m <<< (e - min e k).toNat : Nat) : Int)) = X at *
    generalize (if q then -((n <<< (k - min e k).toNat : Nat) : Int) else ((n <<< (k - min e k).toNat : Nat) : Int)) = Y at *
    by_cases zero : X + Y = 0
    · refine ⟨_, _, _, sum.trans (if_pos (by simpa using zero)), by simp [zero, Num.value], fun _ => ?_⟩
      have unit : (2 : ℚ) ^ min e k ≠ 0 := by positivity
      have : m ≠ 0 := fun hm => zeros ⟨hm, by
        have hX : X = 0 := by simpa [Num.value_eq_zero.2 hm, unit] using hx.symm
        rw [hX, zero_add] at zero
        rw [zero, Int.cast_zero, zero_mul] at hy
        exact Num.value_eq_zero.1 hy⟩
      rw [if_neg fun h => this h.1]
    · exact ⟨_, _, _, sum.trans (if_neg (by simpa using zero)), Num.value_signed .., fun h => absurd (Int.natAbs_eq_zero.1 h) zero⟩

theorem Num.mul_fin (p q : Bool) (m n : Nat) (e k : Int) : (Num.fin p m e).mul (.fin q n k) = some (.fin (p != q) (m * n) (e + k)) := rfl

theorem Num.value_mul (p q : Bool) (m n : Nat) (e k : Int) :
    (Num.fin (p != q) (m * n) (e + k)).value = (Num.fin p m e).value * (Num.fin q n k).value := by
  rw [Num.value, Num.value, Num.value, zpow_add₀ two_ne_zero]
  cases p <;> cases q <;> simp <;> ring

theorem Num.value_neg (x : Num) : x.neg.value = -x.value := by
  cases x with
  | nan s => simp [Num.neg, Num.value]
  | inf p => simp [Num.neg, Num.value]
  | fin p m e => cases p <;> simp [Num.neg, Num.value]

@[simp] theorem Num.isNan_neg (x : Num) : x.neg.isNan = x.isNan := by cases x <;> rfl

end

/-! ### The operations on encodings -/

section
variable {f : Fmt} {rm : RMode} {x y z : Nat}

theorem fFma_of_product {u : Num} (product : (f.val x).mul (f.val y) = some u) :
    fFma f rm x y z = finish f rm ((f.val x).isSnan || (f.val y).isSnan || (f.val z).isSnan) (u.add rm (f.val z)) := by
  rw [fFma, product]
  rfl

theorem fFma_of_undefined (product : (f.val x).mul (f.val y) = none) : fFma f rm x y z = (f.nan, flagInv) := by
  rw [fFma, product]
  rfl

/-- A product that is infinite takes a fused product with it, but for an infinity of the other sign or a NaN (R65, R73). -/
theorem fFma_of_infinite {r : Bool} (product : (f.val x).mul (f.val y) = some (.inf r)) (quietx : (f.val x).isSnan = false)
    (quiety : (f.val y).isSnan = false) :
    ((f.val z).isNan = true → fFma f rm x y z = (f.nan, flagIf (f.val z).isSnan flagInv)) ∧
    (∀ q, f.val z = .inf q → fFma f rm x y z = if q = r then (f.inf q, 0) else (f.nan, flagIf true flagInv)) ∧
    (∀ q l i, f.val z = .fin q l i → fFma f rm x y z = (f.inf r, 0)) := by
  rw [fFma_of_product product, quietx, quiety, Bool.false_or, Bool.false_or]
  refine ⟨fun nan => ?_, fun q inf => ?_, fun q l i fin => ?_⟩
  · obtain ⟨s, sum⟩ := Num.add_of_nan (rm := rm) (x := .inf r) (y := f.val z) (by rw [nan, Bool.or_true])
    rw [sum, finish_nan]
  · rw [inf, Num.isSnan_inf, Num.add_inf_inf]
    obtain rfl | ne := eq_or_ne q r
    · rw [if_pos rfl, if_pos (by simp), finish_inf]
    · rw [if_neg ne, if_neg (by simpa using ne.symm), finish_none]
      rfl
  · rw [fin, Num.isSnan_fin, Num.add_inf_fin, finish_inf]

/-- A sum, a difference, a product and a fused product with a NaN among the first two operands (R69, R70, R72). -/
theorem nan_results (nan : ((f.val x).isNan || (f.val y).isNan) = true) :
    fAdd f rm x y = (f.nan, flagIf ((f.val x).isSnan || (f.val y).isSnan) flagInv) ∧
    fSub f rm x y = (f.nan, flagIf ((f.val x).isSnan || (f.val y).isSnan) flagInv) ∧
    fMul f rm x y = (f.nan, flagIf ((f.val x).isSnan || (f.val y).isSnan) flagInv) ∧
    fFma f rm x y z = (f.nan, flagIf ((f.val x).isSnan || (f.val y).isSnan || (f.val z).isSnan) flagInv) := by
  obtain ⟨s, sum⟩ := Num.add_of_nan (rm := rm) nan
  obtain ⟨t, difference⟩ := Num.add_of_nan (rm := rm) (x := f.val x) (y := (f.val y).neg) (by rwa [Num.isNan_neg])
  obtain ⟨u, product⟩ := Num.mul_of_nan nan
  obtain ⟨w, fused⟩ := Num.add_of_nan (rm := rm) (x := .nan u) (y := f.val z) rfl
  refine ⟨?_, ?_, ?_, ?_⟩
  · rw [fAdd, sum, finish_nan]
  · rw [fSub, difference, finish_nan]
  · rw [fMul, product, finish_nan]
  · rw [fFma_of_product product, fused, finish_nan]

section
variable {p q : Bool} {m n : Nat} {e k : Int}

/-- Two infinities (R65). -/
theorem infinity_results (hx : f.val x = .inf p) (hy : f.val y = .inf q) :
    fAdd f rm x y = (if p = q then (f.inf p, 0) else (f.nan, flagIf true flagInv)) ∧
    fSub f rm x y = (if p = q then (f.nan, flagIf true flagInv) else (f.inf p, 0)) ∧ fMul f rm x y = (f.inf (p != q), 0) := by
  simp only [fAdd, fSub, fMul, hx, hy]
  cases p <;> cases q <;> exact ⟨rfl, rfl, rfl⟩

/-- An infinity and a finite number (R65). -/
theorem mixed_results (hx : f.val x = .inf p) (hy : f.val y = .fin q m e) :
    fAdd f rm x y = (f.inf p, 0) ∧ fSub f rm x y = (f.inf p, 0) ∧ fAdd f rm y x = (f.inf p, 0) ∧ fSub f rm y x = (f.inf (!p), 0) ∧
    fMul f rm x y = (if m = 0 then (f.nan, flagIf true flagInv) else (f.inf (p != q), 0)) ∧ fMul f rm y x = fMul f rm x y ∧
    (m = 0 → fFma f rm x y z = (f.nan, flagIf true flagInv) ∧ fFma f rm y x z = (f.nan, flagIf true flagInv)) := by
  have product : (Num.inf p).mul (.fin q m e) = if m = 0 then none else some (.inf (p != q)) := by simp [Num.mul]
  have product' : (Num.fin q m e).mul (.inf p) = if m = 0 then none else some (.inf (p != q)) := by simp [Num.mul, bne_comm]
  simp only [fAdd, fSub, fMul, hx, hy, product, product', Num.isSnan_fin, Num.isSnan_inf, Bool.or_false, Num.neg, Num.add_fin_inf,
    Num.add_inf_fin, finish_inf, true_and]
  refine ⟨?_, fun zero => ⟨fFma_of_undefined ?_, fFma_of_undefined ?_⟩⟩
  · split <;> rfl
  · rw [hx, hy, product, if_pos zero]
  · rw [hx, hy, product', if_pos zero]

/-- Two finite numbers: the exact result, rounded once (R71, R72). -/
theorem finite_results (hx : f.val x = .fin p m e) (hy : f.val y = .fin q n k) :
    let a := f.val x
    let b := f.val y
    (∃ u, u.value = a.value + b.value ∧ fAdd f rm x y = roundNum f rm u) ∧
    (∃ u, u.value = a.value - b.value ∧ fSub f rm x y = roundNum f rm u) ∧
    (∃ u, u.value = a.value * b.value ∧ fMul f rm x y = roundNum f rm u) ∧
    (a.value + b.value = 0 → fAdd f rm x y = (f.zero (if m = 0 ∧ p = q then p else rm == .rd), 0)) ∧
    (a.value - b.value = 0 → fSub f rm x y = (f.zero (if m = 0 ∧ p ≠ q then p else rm == .rd), 0)) ∧
    (a.value * b.value = 0 → fMul f rm x y = (f.zero (p != q), 0)) := by
  simp only [fAdd, fSub, fMul, hx, hy]
  obtain ⟨r, l, i, sum, value, sign⟩ := Num.add_fin (rm := rm) p q m n e k
  obtain ⟨r', l', i', sum', value', sign'⟩ := Num.add_fin (rm := rm) p (!q) m n e k
  have minus : (Num.fin (!q) n k).value = -(Num.fin q n k).value := Num.value_neg (.fin q n k)
  rw [minus, ← sub_eq_add_neg] at value'
  rw [Num.neg, sum, sum', Num.mul_fin, ← Num.value_mul]
  simp only [Num.isSnan_fin, Bool.or_false, finish_quiet]
  refine ⟨⟨_, value, rfl⟩, ⟨_, value', rfl⟩, ⟨_, rfl, rfl⟩, fun zero => ?_, fun zero => ?_, fun zero => ?_⟩
  · obtain rfl := Num.value_eq_zero.1 (value.trans zero)
    rw [roundNum_zero, sign rfl]
  · obtain rfl := Num.value_eq_zero.1 (value'.trans zero)
    rw [roundNum_zero, sign' rfl]
    simp only [Bool.eq_not]
  · rw [Num.value_eq_zero.1 zero, roundNum_zero]

/-- The fused product of finite numbers (R73). -/
theorem finite_fused (hx : f.val x = .fin p m e) (hy : f.val y = .fin q n k) :
    let a := f.val x
    let b := f.val y
    let c := f.val z
    (c.isNan = true → fFma f rm x y z = (f.nan, flagIf c.isSnan flagInv)) ∧
    (∀ r, c = .inf r → fFma f rm x y z = (f.inf r, 0)) ∧
    ∀ r l i, c = .fin r l i →
      (∃ u, u.value = a.value * b.value + c.value ∧ fFma f rm x y z = roundNum f rm u) ∧
      (a.value * b.value + c.value = 0 → fFma f rm x y z = (f.zero (if l = 0 ∧ r = (p != q) then r else rm == .rd), 0)) := by
  have product : (f.val x).mul (f.val y) = some (.fin (p != q) (m * n) (e + k)) := by rw [hx, hy, Num.mul_fin]
  simp only
  rw [fFma_of_product product, hx, hy, ← Num.value_mul]
  simp only [Num.isSnan_fin, Bool.false_or]
  refine ⟨fun nan => ?_, fun r inf => ?_, fun r l i fin => ?_⟩
  · obtain ⟨s, sum⟩ := Num.add_of_nan (rm := rm) (x := .fin (p != q) (m * n) (e + k)) (y := f.val z) (by rw [nan, Bool.or_true])
    rw [sum, finish_nan]
  · rw [inf, Num.isSnan_inf, Num.add_fin_inf, finish_inf]
  · obtain ⟨r', l', i', sum, value, sign⟩ := Num.add_fin (rm := rm) (p != q) r (m * n) l (e + k) i
    rw [fin, Num.isSnan_fin, sum, finish_quiet]
    refine ⟨⟨_, value, rfl⟩, fun zero => ?_⟩
    obtain rfl := Num.value_eq_zero.1 (value.trans zero)
    rw [roundNum_zero, sign rfl]
    have both : m * n = 0 ↔ l = 0 := by
      rw [← Num.value_eq_zero (p := p != q) (e := e + k), ← Num.value_eq_zero (p := r) (m := l) (e := i)]
      constructor <;> intro h <;> rw [h] at zero <;> linarith
    simp only [both, eq_comm (a := p != q)]
    congr 1
    split
    · rename_i h
      rw [h.2]
    · rfl

end

end

/-- Settles O12: each operation is an operation on exact numbers, rounded once. -/
theorem floatArithmetic : Obligations.FloatArithmetic := by
  unfold Obligations.FloatArithmetic
  intro f _ rm x y z
  refine ⟨nan_results, fun p q infinite => ?infinite, fun p q => infinity_results, fun p q m e => mixed_results, fun p q m n e k hx hy => ?finite⟩
  case infinite =>
    obtain ⟨hx, hy | ⟨m, e, hy, nonzero⟩⟩ | ⟨hy, m, e, hx, nonzero⟩ := infinite
    · exact fFma_of_infinite (by rw [hx, hy]; rfl) (by rw [hx]; rfl) (by rw [hy]; rfl)
    · exact fFma_of_infinite (by simp [hx, hy, Num.mul, nonzero]) (by rw [hx]; rfl) (by rw [hy]; rfl)
    · exact fFma_of_infinite (by simp [hx, hy, Num.mul, nonzero]) (by rw [hx]; rfl) (by rw [hy]; rfl)
  case finite =>
    obtain ⟨sum, difference, product, sumZero, differenceZero, productZero⟩ := finite_results (rm := rm) hx hy
    exact ⟨sum, difference, product, sumZero, differenceZero, productZero, finite_fused hx hy⟩

end Sys2Proof
end

section
/-! PROOFS. Minimum and maximum, conversions, and the special operands of the number functions (R74, R75, R78 to R80, R118). -/

namespace Sys2Proof

theorem Num.eq_nan_of_isNan {x : Num} (h : x.isNan = true) : ∃ s, x = .nan s := by
  cases x with
  | nan s => exact ⟨s, rfl⟩
  | inf p => cases h
  | fin p m e => cases h

/-! ### Minimum and maximum -/

section
variable {f : Fmt} {max : Bool} {x y : Nat}

theorem fMinMax_flags : (fMinMax f max x y).2 = flagIf ((f.val x).isSnan || (f.val y).isSnan) flagInv := by
  unfold fMinMax
  split <;> rfl

/-- A NaN loses to a number; of two NaNs the result is the canonical one (R118). -/
theorem fMinMax_nan_left (hx : (f.val x).isNan = true) : (fMinMax f max x y).1 = if (f.val y).isNan then f.nan else y := by
  rw [fMinMax, Fmt.rank_of_nan hx]
  cases hy : (f.val y).isNan with
  | true => rw [Fmt.rank_of_nan hy]; rfl
  | false => rw [Fmt.rank_of_not_nan hy]; rfl

theorem fMinMax_nan_right (hx : (f.val x).isNan = false) (hy : (f.val y).isNan = true) : (fMinMax f max x y).1 = x := by
  rw [fMinMax, Fmt.rank_of_not_nan hx, Fmt.rank_of_nan hy]

/-- Of two numbers the second is taken where it ranks strictly better (R118). -/
theorem fMinMax_numbers (hx : (f.val x).isNan = false) (hy : (f.val y).isNan = false) :
    (fMinMax f max x y).1 = if (if max then f.place y > f.place x else f.place y < f.place x) then y else x := by
  rw [fMinMax, Fmt.rank_of_not_nan hx, Fmt.rank_of_not_nan hy]

end

/-! ### Conversions -/

theorem clampInt_eq {lo hi : Int} (h : lo ≤ hi) (x : Int) : clampInt lo hi x = max lo (min hi x) := by
  unfold clampInt
  split
  · omega
  · split <;> omega

theorem ETy.bounds_le (ty : ETy) : ty.bounds.1 ≤ ty.bounds.2 := by cases ty <;> decide

/-- Whether a number is rounded to the integer above its floor (R75). -/
def TakesCeil (rm : RMode) (p : Bool) (v : ℚ) : Prop :=
  match rm with
  | .rne => 1 < 2 * (v - ⌊v⌋) ∨ (2 * (v - ⌊v⌋) = 1 ∧ ⌊v⌋ % 2 = 1)
  | .rz => p = true ∧ v ≠ ⌊v⌋
  | .ru => v ≠ ⌊v⌋
  | .rd => False

/-- A negative number is rounded to the integer above its floor where its magnitude is not rounded up. -/
theorem takesCeil_neg {n : Nat} {w : ℚ} (low : n ≤ w) (high : w < n + 1) (rm : RMode) (inexact : w ≠ n) :
    TakesCeil rm true (-w) ↔ ¬GoesUp rm true n w := by
  have floor : ⌊-w⌋ = -(n : Int) - 1 := by
    rw [Int.floor_eq_iff]
    have := low.lt_of_ne inexact.symm
    push_cast
    constructor <;> linarith
  have ne : -w ≠ ((-(n : Int) - 1 : Int) : ℚ) := by push_cast; intro h; linarith
  have ne' : (w : ℝ) ≠ n := by exact_mod_cast inexact
  rw [TakesCeil.eq_def, floor, GoesUp.eq_def]
  cases rm with
  | rne =>
    have half : (1 < 2 * ((w : ℝ) - n) ↔ 1 < 2 * (w - n)) ∧ (2 * ((w : ℝ) - n) = 1 ↔ 2 * (w - n) = 1) := by constructor <;> norm_cast
    have odd : (-(n : Int) - 1) % 2 = 1 ↔ ¬n % 2 = 1 := by omega
    simp only [half, odd]
    push_cast
    obtain less | equal | greater := lt_trichotomy (2 * (w - n)) 1
    · exact iff_of_true (.inl (by linarith)) (by rintro (h | ⟨h, -⟩) <;> linarith)
    · simp only [equal, lt_irrefl, true_and, false_or]
      rw [show 2 * (-w - (-(n : ℚ) - 1)) = 1 by linarith]
      simp
    · exact iff_of_false (by rintro (h | ⟨h, -⟩) <;> linarith) (not_not.2 (.inl greater))
  | rz => exact iff_of_true ⟨rfl, ne⟩ id
  | ru => exact iff_of_true ne fun h => nomatch h.1
  | rd => simp [ne']

theorem takesCeil_nonneg {n : Nat} {w : ℚ} (low : n ≤ w) (high : w < n + 1) (rm : RMode) :
    TakesCeil rm false w ↔ GoesUp rm false n w := by
  have floor : ⌊w⌋ = (n : Int) := by
    rw [Int.floor_eq_iff]
    exact_mod_cast And.intro low high
  have half : (1 < 2 * ((w : ℝ) - n) ↔ 1 < 2 * (w - n)) ∧ (2 * ((w : ℝ) - n) = 1 ↔ 2 * (w - n) = 1) := by constructor <;> norm_cast
  have ne : (w : ℝ) ≠ n ↔ w ≠ n := by norm_cast
  rw [TakesCeil.eq_def, floor, GoesUp.eq_def]
  cases rm with
  | rne =>
    simp only [half]
    push_cast
    norm_cast
  | rz => simp
  | ru => simp [ne]
  | rd => simp

/-- Rounding to an integer is correct (R75). -/
theorem toInt_spec (rm : RMode) (p : Bool) (m : Nat) (e : Int) :
    let v := (Num.fin p m e).value
    let r := Num.toInt rm p m e
    (TakesCeil rm p v → r.1 = ⌊v⌋ + 1) ∧ (¬TakesCeil rm p v → r.1 = ⌊v⌋) ∧ (r.2 = true ↔ v ≠ r.1) := by
  intro v r
  let w : ℚ := m * (2 : ℚ) ^ e
  have spec := roundQuantum_spec (liesAt_exact m e) rm p (q := 0) nofun
  rw [show (m * (2 : ℝ) ^ e) / (2 : ℝ) ^ (0 : Int) = (w : ℝ) by simp [w]] at spec
  obtain ⟨n, low, high, up, stay, inx⟩ := spec
  have low : (n : ℚ) ≤ w := by exact_mod_cast low
  have high : w < (n : ℚ) + 1 := by exact_mod_cast high
  have inx : (roundQuantum rm p m e false 0).2 = true ↔ w ≠ n := by rw [inx]; norm_cast
  have result : r = (if p then -((roundQuantum rm p m e false 0).1 : Int) else (roundQuantum rm p m e false 0).1, (roundQuantum rm p m e false 0).2) := rfl
  generalize roundQuantum rm p m e false 0 = rounded at *
  obtain ⟨N, inexact⟩ := rounded
  dsimp only at *
  have exact_ : w ≠ n ↔ w ≠ N := by
    by_cases h : GoesUp rm p n w
    · rw [up h]
      push_cast
      exact iff_of_true (by have := h.ne; exact_mod_cast this) high.ne
    · rw [stay h]
  rw [result, inx, exact_]
  cases p with
  | false =>
    have value : v = w := Num.value_pos m e
    have floor : ⌊w⌋ = (n : Int) := by
      rw [Int.floor_eq_iff]
      exact_mod_cast And.intro low high
    rw [value, takesCeil_nonneg low high, floor]
    simp only [Bool.false_eq_true, if_false, Int.cast_natCast, and_true, iff_self]
    exact ⟨fun h => by rw [up h]; rfl, fun h => by rw [stay h]⟩
  | true =>
    have value : v = -w := (Num.value_neg (.fin false m e)).trans (congrArg Neg.neg (Num.value_pos m e))
    rw [value]
    simp only [if_true, Int.cast_neg, Int.cast_natCast, ne_eq, neg_inj, and_true, iff_self]
    by_cases whole : w = n
    · have floor : ⌊-w⌋ = -(n : Int) := by rw [whole, ← Int.cast_natCast, ← Int.cast_neg, Int.floor_intCast]
      have integer : -w = ((⌊-w⌋ : Int) : ℚ) := by rw [floor, whole]; push_cast; rfl
      have none : ¬TakesCeil rm true (-w) := by
        cases rm with
        | rne => rintro (h | ⟨h, -⟩) <;> linarith
        | rz => exact fun h => h.2 integer
        | ru => exact fun h => h integer
        | rd => exact id
      have none' : ¬GoesUp rm true n w := fun h => h.ne (by exact_mod_cast whole)
      exact ⟨fun h => absurd h none, fun _ => by rw [stay none', floor]⟩
    · have floor : ⌊-w⌋ = -(n : Int) - 1 := by
        rw [Int.floor_eq_iff]
        have := low.lt_of_ne (Ne.symm whole)
        push_cast
        constructor <;> linarith
      rw [takesCeil_neg low high rm whole, floor, not_not]
      exact ⟨fun h => by rw [stay h]; ring, fun h => by rw [up h]; push_cast; ring⟩

theorem convert_float_float {dst src : ETy} {rm : RMode} {x : Nat} (hs : src.isFloat = true) (hd : dst.isFloat = true) :
    convert dst src rm x = finish dst.fmt rm (src.fmt.val x).isSnan (some (src.fmt.val x)) := by
  simp [convert, hs, hd]

theorem convert_int_float {dst src : ETy} {rm : RMode} {x : Nat} (hs : src.isFloat = false) (hd : dst.isFloat = true) :
    convert dst src rm x = roundNum dst.fmt rm (.fin (src.int x < 0) (src.int x).natAbs 0) := by
  simp [convert, hs, hd]

theorem convert_int_int {dst src : ETy} {rm : RMode} {x : Nat} (hs : src.isFloat = false) (hd : dst.isFloat = false) :
    convert dst src rm x = (wrapNat dst.width (max dst.bounds.1 (min dst.bounds.2 (src.int x))), 0) := by
  rw [← clampInt_eq dst.bounds_le]
  simp [convert, hs, hd]

section
variable {dst src : ETy} {rm : RMode} {x : Nat} (hs : src.isFloat = true) (hd : dst.isFloat = false)
include hs hd

theorem convert_nan {s : Bool} (h : src.fmt.val x = .nan s) : convert dst src rm x = (0, flagInv) := by
  simp [convert, hs, hd, h]

theorem convert_inf {p : Bool} (h : src.fmt.val x = .inf p) :
    convert dst src rm x = (wrapNat dst.width (if p then dst.bounds.1 else dst.bounds.2), flagInv) := by
  simp [convert, hs, hd, h]

theorem convert_fin {p : Bool} {m : Nat} {e : Int} (h : src.fmt.val x = .fin p m e) :
    let k := Num.toInt rm p m e
    convert dst src rm x = if k.1 < dst.bounds.1 then (wrapNat dst.width dst.bounds.1, flagInv)
      else if k.1 > dst.bounds.2 then (wrapNat dst.width dst.bounds.2, flagInv) else (wrapNat dst.width k.1, flagIf k.2 flagInx) := by
  simp [convert, hs, hd, h]

end

/-! ### Special operands -/

theorem fDiv_nan {x y : Nat} (nan : ((fmtF32.val x).isNan || (fmtF32.val y).isNan) = true) :
    fDiv x y = (fmtF32.nan, flagIf ((fmtF32.val x).isSnan || (fmtF32.val y).isSnan) flagInv) := by
  unfold fDiv
  cases hx : fmtF32.val x with
  | nan s => rfl
  | inf p =>
    obtain ⟨t, hy⟩ := Num.eq_nan_of_isNan (x := fmtF32.val y) (by simpa [hx, Num.isNan] using nan)
    rw [hy]
    rfl
  | fin p m e =>
    obtain ⟨t, hy⟩ := Num.eq_nan_of_isNan (x := fmtF32.val y) (by simpa [hx, Num.isNan] using nan)
    rw [hy]
    rfl

section
variable {x m : Nat} {p : Bool} {e : Int} (fin : fmtF32.val x = .fin p m e)
include fin

/-- vexp2 of a finite number, by its floor: an integer, or the first 128 digits of what lies above it (R80, log 12). -/
theorem fExp2_fin : let v := (Num.fin p m e).value
    (128 ≤ ⌊v⌋ → fExp2 x = (fmtF32.inf false, flagOvf ||| flagInx)) ∧
    (⌊v⌋ < -300 → fExp2 x = roundTo fmtF32 .rne false (2 ^ 30) (-330) true) ∧
    (-300 ≤ ⌊v⌋ → ⌊v⌋ < 128 → v = ⌊v⌋ → fExp2 x = roundTo fmtF32 .rne false 1 ⌊v⌋ false) ∧
    (-300 ≤ ⌊v⌋ → ⌊v⌋ < 128 → v ≠ ⌊v⌋ → ∃ d : Nat, d < 2 ^ 128 ∧ d ≤ (v - ⌊v⌋) * 2 ^ 128 ∧ (v - ⌊v⌋) * 2 ^ 128 < d + 1 ∧
      fExp2 x = roundTo fmtF32 .rne false (exp2Roots 192 128 d (2 ^ 192)) (⌊v⌋ - 192) true) := by
  intro v
  have signed : v = ((if p then -(m : Int) else m : Int) : ℚ) * (2 : ℚ) ^ e := by
    rw [show v = _ from Num.value_fin p m e]
    cases p <;> simp
  unfold fExp2
  rw [fin]
  simp only
  by_cases zero : m = 0
  · subst zero
    have : v = 0 := Num.value_eq_zero.2 rfl
    rw [this]
    norm_num
    rfl
  rw [if_neg (by simpa using zero)]
  generalize (if p then -(m : Int) else m : Int) = u at *
  by_cases whole : e ≥ 0
  · obtain ⟨k, rfl⟩ := Int.eq_ofNat_of_zero_le whole
    have int : v = ((u * 2 ^ k : Int) : ℚ) := by rw [signed]; push_cast; rw [zpow_natCast]
    have floor : ⌊v⌋ = u * 2 ^ k := by rw [int, Int.floor_intCast]
    rw [if_pos whole, Int.toNat_natCast, floor]
    refine ⟨fun h => if_pos h, fun h => ?_, fun h h' _ => ?_, fun _ _ h => absurd int h⟩
    · rw [if_neg (by omega), if_pos h]
    · rw [if_neg (by omega), if_neg (by omega)]
  · obtain ⟨k, rfl⟩ : ∃ k : Nat, e = -(k : Int) := ⟨(-e).toNat, by omega⟩
    have unit : (0 : ℚ) < 2 ^ k := by positivity
    have ratio : v = (u : ℚ) / (2 ^ k : Nat) := by rw [signed, zpow_neg, zpow_natCast]; push_cast; rfl
    have floor : ⌊v⌋ = u / 2 ^ k := by rw [ratio, Rat.floor_intCast_div_natCast]; push_cast; rfl
    have nonneg : 0 ≤ u % 2 ^ k := Int.emod_nonneg _ (by positivity)
    have small : u % 2 ^ k < 2 ^ k := Int.emod_lt_of_pos _ (by positivity)
    have part : v - ⌊v⌋ = ((u % 2 ^ k).toNat : ℚ) / 2 ^ k := by
      have cast : (((u % 2 ^ k).toNat : Int) : ℚ) = u - 2 ^ k * (u / 2 ^ k : Int) := by
        rw [Int.toNat_of_nonneg nonneg, Int.emod_def]
        push_cast
        rfl
      rw [← Int.cast_natCast, cast, floor, ratio]
      push_cast
      field_simp
    rw [if_neg whole, show (- -(k : Int)).toNat = k by omega]
    rw [part, ← floor]
    generalize hf : (u % 2 ^ k).toNat = f at *
    have below : f < 2 ^ k := by
      rw [← hf, ← Int.toNat_natCast (2 ^ k)]
      push_cast
      exact (Int.toNat_lt_toNat (by positivity)).2 small
    refine ⟨fun h => if_pos h, fun h => ?_, fun h h' int => ?_, fun h h' frac => ?_⟩
    · rw [if_neg (by omega), if_pos h]
    · have : f = 0 := by
        rw [← sub_eq_zero, part, div_eq_zero_iff, Nat.cast_eq_zero] at int
        exact int.resolve_right unit.ne'
      rw [if_neg (by omega), if_neg (by omega), if_pos (by simpa using this)]
    · have : f ≠ 0 := by
        rintro rfl
        rw [Nat.cast_zero, zero_div, sub_eq_zero] at part
        exact frac part
      rw [if_neg (by omega), if_neg (by omega), if_neg (by simpa using this)]
      have digits : (if k ≥ 128 then f >>> (k - 128) else f <<< (128 - k)) = f * 2 ^ 128 / 2 ^ k := by
        split
        · obtain ⟨i, rfl⟩ := Nat.exists_eq_add_of_le' ‹k ≥ 128›
          rw [Nat.add_sub_cancel, Nat.shiftRight_eq_div_pow, pow_add, Nat.mul_div_mul_right _ _ (by positivity)]
        · obtain ⟨i, hi⟩ := Nat.exists_eq_add_of_le (Nat.le_of_not_ge ‹¬k ≥ 128›)
          rw [show 128 - k = i by omega, Nat.shiftLeft_eq, hi, pow_add, Nat.mul_left_comm, Nat.mul_div_cancel_left _ (by positivity)]
      rw [digits]
      refine ⟨_, ?_, ?_, ?_, rfl⟩
      · rw [Nat.div_lt_iff_lt_mul (by positivity), Nat.mul_comm]
        gcongr
      · rw [div_mul_eq_mul_div]
        exact_mod_cast Nat.cast_div_le (α := ℚ) (m := f * 2 ^ 128) (n := 2 ^ k)
      · rw [div_mul_eq_mul_div, div_lt_iff₀ unit]
        rw [mul_comm (_ + 1)]
        exact_mod_cast Nat.lt_mul_div_succ (f * 2 ^ 128) (by positivity : 0 < 2 ^ k)

/-- A power of two from 2^128 up overflows (R80). -/
theorem fExp2_overflow (large : (fmtF32.val x).value ≥ 128) : fExp2 x = (fmtF32.inf false, flagOvf ||| flagInx) := by
  rw [fin] at large
  exact (fExp2_fin fin).1 (Int.le_floor.2 (by exact_mod_cast large))

end

/-- Settles O13: the special operands are cases of the definitions, minimum and maximum follow the rank of an encoding, and a
conversion rounds to the integer that the mode names. -/
theorem floatSpecials : Obligations.FloatSpecials := by
  unfold Obligations.FloatSpecials
  refine ⟨fun f mem max x y => ?minmax, fun dst src rm x => ?convert, fun x y => ?special⟩
  case minmax =>
    refine ⟨fMinMax_flags, fun hx hy => ?_, fun hx hy => ?_, fMinMax_nan_right, fun hx hy => ?_⟩
    · rw [fMinMax_nan_left hx, hy, if_pos rfl]
    · rw [fMinMax_nan_left hx, hy, if_neg Bool.false_ne_true]
    · have ok := Fmt.ok_of_mem mem
      dsimp only
      rw [Fmt.below_iff ok hx hy, Fmt.below_iff ok hy hx, fMinMax_numbers hx hy]
      exact ⟨fun h => if_pos h, fun h => if_neg h⟩
  case convert =>
    refine ⟨fun hs hd => ⟨fun nan => ?_, fun number => ?_⟩, convert_int_float, convert_int_int,
      fun hs hd => ⟨fun nan => ?_, fun p => convert_inf hs hd, fun p m e fin => ?_⟩⟩
    · obtain ⟨s, val⟩ := Num.eq_nan_of_isNan nan
      rw [convert_float_float hs hd, val, finish_nan]
    · rw [convert_float_float hs hd, Num.isSnan_of_isNan_eq_false number, finish_quiet]
    · obtain ⟨s, val⟩ := Num.eq_nan_of_isNan nan
      exact convert_nan hs hd val
    · obtain ⟨up, stay, inx⟩ := toInt_spec rm p m e
      have eq := convert_fin (rm := rm) hs hd fin
      dsimp only at *
      rw [fin, eq]
      refine ⟨(Num.toInt rm p m e).1, fun h => up ?_, fun h => stay fun h' => h ?_, fun small => ?_, fun large => ?_,
        fun low high => ⟨fun whole => ?_, fun inexact => ?_⟩⟩
      · cases rm <;> exact h
      · cases rm <;> exact h'
      · rw [if_pos small]
      · have := dst.bounds_le
        rw [if_neg (by omega), if_pos large]
      · rw [if_neg (by omega), if_neg (by omega), Bool.eq_false_iff.2 fun h => inx.1 h whole]
        rfl
      · rw [if_neg (by omega), if_neg (by omega), inx.2 inexact]
        rfl
  case special =>
    refine ⟨fun sn nan r mem => ?_, fun nan => ?_, fun inf => ?_, fun inf => ?_, fun p e zero => ?_, fun m e negative nonzero => ?_,
      fun p q hx hy => ?_, fun p q m e hx hy => ?_, fun p q m n e k hx hy => ?_, fun p m e fin large => fExp2_overflow fin large⟩
    · simp only [List.mem_cons, List.not_mem_nil, or_false] at mem
      obtain rfl | rfl | rfl | rfl | rfl := mem
      · rw [fRcp, nan]; rfl
      · rw [fRsqrt, nan]; rfl
      · rw [fSqrt, nan]; rfl
      · rw [fLog2, nan]; rfl
      · rw [fExp2, nan]; rfl
    · exact fDiv_nan nan
    · rw [fRcp, fRsqrt, fSqrt, fLog2, fExp2, inf]
      exact ⟨rfl, rfl, rfl, rfl, rfl⟩
    · rw [fRcp, fRsqrt, fSqrt, fLog2, fExp2, inf]
      exact ⟨rfl, rfl, rfl, rfl, rfl⟩
    · rw [fRcp, fRsqrt, fSqrt, fLog2, zero]
      exact ⟨rfl, rfl, rfl, rfl⟩
    · rw [fRsqrt, fSqrt, fLog2, negative]
      simp [nonzero]
    · rw [fDiv, hx, hy]
    · rw [fDiv, fDiv, hx, hy]
      exact ⟨rfl, by rw [bne_comm]⟩
    · rw [fDiv, hx, hy]
      refine ⟨fun hm hn => ?_, fun hm hn => ?_, fun hm hn => ?_⟩ <;> simp [hm, hn]

end Sys2Proof
end

section
/-! PROOFS. Quotients, square roots and the estimates (R78 to R80): what is computed before the one rounding. -/

namespace Sys2Proof

/-! ### The integer square root -/

/-- Newton's step from above does not pass the root. -/
theorem sqrt_le_newton {n g : Nat} (pos : 0 < g) : n.sqrt ≤ (g + n / g) / 2 := by
  have root := Nat.sqrt_le n
  have quot := Nat.lt_mul_div_succ n pos
  rw [Nat.le_div_iff_mul_le two_pos]
  generalize n / g = q at *
  by_contra less
  have : q + 1 ≤ 2 * n.sqrt - g := by omega
  obtain ⟨j, hj⟩ : ∃ j, 2 * n.sqrt = g + j := ⟨2 * n.sqrt - g, by omega⟩
  have : g * (q + 1) ≤ g * j := Nat.mul_le_mul_left _ (by omega)
  nlinarith [sq_nonneg ((g : Int) - j)]

/-- Newton's step from above the root at least halves the distance. -/
theorem newton_le {n g : Nat} (above : n.sqrt < g) : (g + n / g) / 2 ≤ (g + n.sqrt) / 2 := by
  have : n / g < n.sqrt + 1 := by
    rw [Nat.div_lt_iff_lt_mul (by omega)]
    exact (Nat.lt_succ_sqrt n).trans_le (Nat.mul_le_mul_left _ above)
  omega

theorem isqrtGo_eq {n : Nat} (pos : 0 < n.sqrt) : ∀ {k g : Nat}, n.sqrt ≤ g → g < n.sqrt + 2 ^ k → isqrtGo k n g = n.sqrt
  | 0, g, low, high => by rw [isqrtGo]; omega
  | k + 1, g, low, high => by
    have next := sqrt_le_newton (n := n) (g := g) (by omega)
    rw [isqrtGo]
    obtain rfl | above := low.eq_or_lt
    · exact if_neg (by omega)
    · have halved := newton_le above
      rw [if_pos (by omega)]
      rw [pow_succ] at high
      exact isqrtGo_eq pos next (by omega)

theorem isqrt_eq_sqrt {n : Nat} (two_le : 2 ≤ n) : isqrt n = n.sqrt := by
  have nonzero : n ≠ 0 := by omega
  have digits : 1 ≤ n.log2 := (Nat.le_log2 nonzero).2 two_le
  have pos : 0 < n.sqrt := Nat.sqrt_pos.2 (by omega)
  have start : n.sqrt < 2 ^ (n.log2 / 2 + 1) := by
    rw [Nat.sqrt_lt', ← pow_mul]
    exact Nat.lt_log2_self.trans_le (Nat.pow_le_pow_right two_pos (by omega))
  have steps : 2 ^ (n.log2 / 2 + 1) ≤ 2 ^ n.log2 := Nat.pow_le_pow_right two_pos (by omega)
  rw [isqrt, if_neg (by simpa using nonzero), isqrtGo_eq pos start.le (by omega)]

/-! ### Quotients and roots -/

theorem fmtF32_val {x m : Nat} {p : Bool} {e : Int} (fin : fmtF32.val x = .fin p m e) : m < 2 ^ 24 := (Fmt.of_val_fin fin).2.2.2.1

/-- A quotient of whole numbers lies at its whole part. -/
theorem liesAt_div {a b : Nat} (pos : 0 < b) (e : Int) : LiesAt (a / b) e (a % b != 0) ((a / b : ℝ) * 2 ^ e) := by
  have unit : (0 : ℝ) < 2 ^ e := by positivity
  have posR : (0 : ℝ) < b := by exact_mod_cast pos
  have split : (a : ℝ) = b * (a / b : Nat) + (a % b : Nat) := by exact_mod_cast (Nat.div_add_mod a b).symm
  have ratio : (a / b : ℝ) = (a / b : Nat) + (a % b : Nat) / b := by rw [split]; field_simp
  by_cases zero : a % b = 0
  · rw [zero]
    rw [zero] at ratio
    simp [LiesAt, ratio]
  · have part : (0 : ℝ) < (a % b : Nat) / b := by have := Nat.pos_of_ne_zero zero; positivity
    have part' : ((a % b : Nat) : ℝ) / b < 1 := by rw [div_lt_one posR]; exact_mod_cast Nat.mod_lt a pos
    simp only [LiesAt, bne_iff_ne, ne_eq, zero, not_false_eq_true, if_true]
    rw [ratio]
    exact ⟨by gcongr; linarith, by gcongr⟩

/-- A square root lies at the integer square root. -/
theorem liesAt_sqrt (a : Nat) (e : Int) : LiesAt a.sqrt e (a.sqrt * a.sqrt != a) (Real.sqrt a * 2 ^ e) := by
  have unit : (0 : ℝ) < 2 ^ e := by positivity
  by_cases square : a.sqrt * a.sqrt = a
  · have : Real.sqrt a = a.sqrt := by
      conv_lhs => rw [← square]
      push_cast
      exact Real.sqrt_mul_self (by positivity)
    simp [LiesAt, square, this]
  · have low : (a.sqrt : ℝ) < Real.sqrt a := by
      rw [Real.lt_sqrt (by positivity)]
      exact_mod_cast by have := Nat.sqrt_le a; nlinarith [Nat.lt_of_le_of_ne this square]
    have high : Real.sqrt a < a.sqrt + 1 := by
      rw [Real.sqrt_lt' (by positivity)]
      exact_mod_cast by have := Nat.lt_succ_sqrt a; nlinarith
    simp only [LiesAt, bne_iff_ne, ne_eq, square, not_false_eq_true, if_true]
    constructor <;> gcongr

/-- vdiv of two nonzero finite numbers is their quotient, rounded once (R80). -/
theorem fDiv_roundsTo {x y : Nat} {p q : Bool} {m n : Nat} {e k : Int} (hx : fmtF32.val x = .fin p m e) (hy : fmtF32.val y = .fin q n k)
    (hm : m ≠ 0) (hn : n ≠ 0) :
    RoundsTo fmtF32 .rne (p != q) (((Num.fin false m e).value / (Num.fin false n k).value : ℚ) : ℝ) (fDiv x y) := by
  obtain ⟨t, meaning, shifted⟩ : ∃ t, fDiv x y = roundTo fmtF32 .rne (p != q) (t / n) (e - k - 64) (t % n != 0) ∧ t = m * 2 ^ 64 := by
    refine ⟨m <<< 64, ?_, Nat.shiftLeft_eq ..⟩
    rw [fDiv, hx, hy]
    simp [hm, hn]
  have deep : 2 ^ 25 ≤ t / n := by
    rw [Nat.le_div_iff_mul_le (Nat.pos_of_ne_zero hn)]
    have below := fmtF32_val hy
    omega
  have value : (((Num.fin false m e).value / (Num.fin false n k).value : ℚ) : ℝ) = (t / n : ℝ) * 2 ^ (e - k - 64) := by
    rw [Num.value_pos, Num.value_pos, shifted, zpow_sub₀ two_ne_zero, zpow_sub₀ two_ne_zero]
    push_cast
    field_simp
    norm_num
  rw [meaning, value]
  exact roundTo_roundsTo fmtF32_ok (liesAt_div (Nat.pos_of_ne_zero hn) _) (by omega) fun _ => deep

/-- vsqrt of a positive finite number is its square root, rounded once (R80). -/
theorem fSqrt_roundsTo {x m : Nat} {e : Int} (hx : fmtF32.val x = .fin false m e) (hm : m ≠ 0) :
    RoundsTo fmtF32 .rne false (Real.sqrt ((Num.fin false m e).value : ℝ)) (fSqrt x) := by
  obtain ⟨M, t, E, meaning, value, shifted, pos⟩ : ∃ (M t : Nat) (E : Int), fSqrt x =
      roundTo fmtF32 .rne false (isqrt t) (E - 32) (isqrt t * isqrt t != t) ∧ (m * 2 ^ e : ℝ) = M * 2 ^ (2 * E) ∧ t = M * 2 ^ 64 ∧ 0 < M := by
    rw [fSqrt, hx]
    by_cases even : e % 2 = 0
    · refine ⟨m, m <<< 64, e / 2, by simp [hm, even], ?_, Nat.shiftLeft_eq .., Nat.pos_of_ne_zero hm⟩
      rw [Int.mul_ediv_cancel' (Int.dvd_of_emod_eq_zero even)]
    · refine ⟨m * 2, (m * 2) <<< 64, (e - 1) / 2, by simp [hm, even], ?_, Nat.shiftLeft_eq .., by omega⟩
      rw [Int.mul_ediv_cancel' (by omega), zpow_sub₀ two_ne_zero]
      push_cast
      field_simp
  rw [isqrt_eq_sqrt (by omega)] at meaning
  have deep : 2 ^ 25 ≤ t.sqrt := by
    rw [Nat.le_sqrt']
    omega
  have root : Real.sqrt ((Num.fin false m e).value : ℝ) = Real.sqrt t * 2 ^ (E - 32) := by
    rw [Num.value_pos]
    push_cast
    have square : (M : ℝ) * 2 ^ (2 * E) = t * (2 ^ (E - 32)) ^ 2 := by
      rw [shifted, ← zpow_natCast, ← zpow_mul, show (E - 32) * ((2 : Nat) : Int) = 2 * E - 64 by push_cast; ring, zpow_sub₀ two_ne_zero]
      push_cast
      field_simp
      norm_num
    rw [value, square, Real.sqrt_mul (by positivity), Real.sqrt_sq (by positivity)]
  rw [meaning, root]
  exact roundTo_roundsTo fmtF32_ok (liesAt_sqrt _ _) (by omega) fun _ => deep

/-! ### Numbers of few digits -/

/-- A number of no more digits than the precision, within the exponents of the format, has an encoding. -/
theorem Fmt.exists_encoding {f : Fmt} (ok : f.Ok) {m : Nat} {e : Int} (digits : m < 2 * 2 ^ f.fbits) (low : f.qmin ≤ e)
    (high : e + 2 ≤ f.qmin + f.emax) : ∃ k < f.top, f.magnitude k = m * (2 : ℚ) ^ e := by
  obtain rfl | nonzero := eq_or_ne m 0
  · exact ⟨0, ok.top_pos, by simp⟩
  have length : m.log2 ≤ f.fbits := Nat.lt_succ_iff.1 (by rw [Nat.log2_lt nonzero, pow_succ']; exact digits)
  obtain ⟨c, rfl⟩ := Int.le.dest low
  obtain ⟨s, hs, hc⟩ : ∃ s, s ≤ c ∧ s ≤ f.fbits - m.log2 ∧ (c - s = 0 ∨ s = f.fbits - m.log2) :=
    ⟨min c (f.fbits - m.log2), min_le_left .., min_le_right .., by omega⟩
  have below : m * 2 ^ s < 2 * 2 ^ f.fbits := by
    have h : m < 2 ^ (m.log2 + 1) := Nat.lt_log2_self
    calc m * 2 ^ s < 2 ^ (m.log2 + 1) * 2 ^ s := by gcongr
      _ = 2 ^ (m.log2 + 1 + s) := (pow_add ..).symm
      _ ≤ 2 ^ (f.fbits + 1) := Nat.pow_le_pow_right two_pos (by omega)
      _ = 2 * 2 ^ f.fbits := pow_succ' ..
  have normal : c - s = 0 ∨ 2 ^ f.fbits ≤ m * 2 ^ s := hc.2.imp_right fun h => by
    calc 2 ^ f.fbits = 2 ^ m.log2 * 2 ^ s := by rw [← pow_add, h]; congr 1; omega
      _ ≤ m * 2 ^ s := by gcongr; exact Nat.log2_self_le nonzero
  refine ⟨(c - s) * 2 ^ f.fbits + m * 2 ^ s, ?_, ?_⟩
  · have : (c - s + 2) * 2 ^ f.fbits ≤ f.top := Nat.mul_le_mul_right _ (by omega)
    rw [Nat.add_mul] at this
    omega
  · obtain ⟨i, rfl⟩ := Nat.exists_eq_add_of_le hs
    rw [f.magnitude_grid normal below.le, Nat.add_sub_cancel_left, Nat.cast_add, zpow_add₀ two_ne_zero, zpow_add₀ two_ne_zero,
      zpow_add₀ two_ne_zero]
    push_cast
    rw [zpow_natCast, zpow_natCast]
    ring

/-- RoundTo of such a number is its encoding, without a flag. -/
theorem roundTo_exact {f : Fmt} (ok : f.Ok) {m : Nat} {e : Int} (nonzero : m ≠ 0) (digits : m < 2 * 2 ^ f.fbits) (low : f.qmin ≤ e)
    (high : e + 2 ≤ f.qmin + f.emax) (rm : RMode) (neg : Bool) : ∃ k < f.top, f.magnitude k = m * (2 : ℚ) ^ e ∧
      roundTo f rm neg m e false = (f.signBit neg + k, 0) := by
  obtain ⟨k, below, value⟩ := Fmt.exists_encoding ok digits low high
  exact ⟨k, below, value, roundTo_magnitude ok nonzero below value.symm⟩

/-- The value of an encoding by its sign and its body. -/
theorem Fmt.value_word (f : Fmt) {k : Nat} (h : k < f.top) (neg : Bool) :
    (f.val (f.signBit neg + k)).value = (if neg then -1 else 1) * f.magnitude k := by
  have body := f.body_of_lt (h.trans f.top_lt) neg
  have sign := f.sign_of_lt (h.trans f.top_lt) neg
  obtain ⟨m, e, val, -⟩ := f.val_finite (x := f.signBit neg + k) (by rwa [body])
  rw [val, Fmt.value_fin val, body, sign]

/-! ### The leading digit and the fraction -/

/-- A power of two and a fraction determine a positive number. -/
theorem leading_unique {s t : Int} {a b : Nat} (ha : a < 2 ^ 23) (hb : b < 2 ^ 23)
    (eq : (2 : ℚ) ^ s * (1 + a / 2 ^ 23) = (2 : ℚ) ^ t * (1 + b / 2 ^ 23)) : s = t ∧ a = b := by
  have bound {n : Nat} (h : n < 2 ^ 23) : (1 : ℚ) ≤ 1 + n / 2 ^ 23 ∧ (1 + n / 2 ^ 23 : ℚ) < 2 := by
    have : (n : ℚ) < 2 ^ 23 := by exact_mod_cast h
    have : (n : ℚ) / 2 ^ 23 < 1 := by rw [div_lt_one (by positivity)]; exact this
    exact ⟨by have : (0 : ℚ) ≤ n / 2 ^ 23 := by positivity
              linarith, by linarith⟩
  have order {s t : Int} {x y : ℚ} (hx : 1 ≤ x) (hy : y < 2) (eq : (2 : ℚ) ^ s * x = (2 : ℚ) ^ t * y) : s ≤ t := by
    have : (2 : ℚ) ^ s < 2 ^ (t + 1) := by
      rw [zpow_add_one₀ two_ne_zero]
      calc (2 : ℚ) ^ s ≤ 2 ^ s * x := le_mul_of_one_le_right (by positivity) hx
        _ = 2 ^ t * y := eq
        _ < 2 ^ t * 2 := by gcongr
    exact Int.lt_add_one_iff.1 ((zpow_lt_zpow_iff_right₀ one_lt_two).1 this)
  obtain rfl : s = t := le_antisymm (order (bound ha).1 (bound hb).2 eq) (order (bound hb).1 (bound ha).2 eq.symm)
  have := mul_left_cancel₀ (by positivity : (2 : ℚ) ^ s ≠ 0) eq
  refine ⟨rfl, ?_⟩
  have : (a : ℚ) = b := by field_simp at this; linarith
  exact_mod_cast this

theorem normalise_spec {m : Nat} (nonzero : m ≠ 0) (below : m < 2 ^ 24) (e : Int) :
    (normalise m e).2 < 2 ^ 23 ∧ (m * (2 : ℚ) ^ e : ℚ) = (2 : ℚ) ^ (normalise m e).1 * (1 + (normalise m e).2 / 2 ^ 23) := by
  have length : m.log2 ≤ 23 := Nat.lt_succ_iff.1 ((Nat.log2_lt nonzero).2 below)
  obtain ⟨k, hk⟩ := Nat.exists_eq_add_of_le length
  have low := Nat.log2_self_le nonzero
  have high := Nat.lt_log2_self (n := m)
  have scaled : 2 ^ 23 ≤ m * 2 ^ k ∧ m * 2 ^ k < 2 ^ 24 := by
    rw [show 2 ^ 23 = 2 ^ m.log2 * 2 ^ k by rw [← pow_add, ← hk], show 2 ^ 24 = 2 ^ (m.log2 + 1) * 2 ^ k by rw [← pow_add]; congr 1; omega]
    exact ⟨by gcongr, by gcongr⟩
  rw [normalise, show 23 - m.log2 = k by omega, Nat.shiftLeft_eq]
  refine ⟨by omega, ?_⟩
  rw [Nat.cast_sub scaled.1, zpow_add₀ two_ne_zero, zpow_natCast]
  have digits : (2 : ℚ) ^ 23 = 2 ^ m.log2 * 2 ^ k := by rw [← pow_add, ← hk]
  push_cast
  rw [digits]
  field_simp
  linear_combination digits

/-- The leading digit and the fraction of a positive number are those of normalise. -/
theorem normalise_eq {x m frac : Nat} {p : Bool} {e top : Int} (fin : fmtF32.val x = .fin p m e) (small : frac < 2 ^ 23)
    (value : (Num.fin false m e).value = (2 : ℚ) ^ top * (1 + frac / 2 ^ 23)) : m ≠ 0 ∧ normalise m e = (top, frac) := by
  have nonzero : m ≠ 0 := by
    rintro rfl
    rw [Num.value_eq_zero.2 rfl] at value
    exact absurd value (by positivity)
  obtain ⟨small', value'⟩ := normalise_spec nonzero (fmtF32_val fin) e
  rw [Num.value_pos, value'] at value
  obtain ⟨ht, hf⟩ := leading_unique small' small value
  exact ⟨nonzero, Prod.ext ht hf⟩

end Sys2Proof
end

section
/-! PROOFS. The estimates of vrcp and vrsqrt (R78, R79): each entry is the whole number nearest to the exact one for the middle
of the operand's interval. -/

namespace Sys2Proof

/-- An odd number above 1 divides no power of two. -/
theorem odd_mul_ne_two_pow {y : Nat} (odd : y % 2 = 1) (large : 1 < y) (i k : Nat) : i * y ≠ 2 ^ k := by
  intro h
  have coprime : Nat.Coprime y (2 ^ k) := Nat.Coprime.pow_right k (Nat.coprime_two_right.2 (Nat.odd_iff.2 odd))
  have := Nat.Coprime.eq_one_of_dvd coprime ⟨i, by rw [← h, Nat.mul_comm]⟩
  omega

/-- The whole number nearest to half a quotient of a power of two. -/
theorem nearest_half {y : Nat} (odd : y % 2 = 1) (large : 1 < y) (k : Nat) :
    2 * ((2 ^ k / y + 1) / 2) * y < 2 ^ k + y ∧ 2 ^ k < (2 * ((2 ^ k / y + 1) / 2) + 1) * y := by
  have low := Nat.div_mul_le_self (2 ^ k) y
  have high := Nat.lt_mul_div_succ (2 ^ k) (by omega : 0 < y)
  have ne := odd_mul_ne_two_pow odd large (2 ^ k / y) k
  generalize 2 ^ k / y = q at *
  generalize hn : (q + 1) / 2 = n
  have h1 : 2 * n ≤ q + 1 := by omega
  have h2 : q + 1 ≤ 2 * n + 1 := by omega
  constructor
  · have : q * y < 2 ^ k := lt_of_le_of_ne low ne
    nlinarith
  · nlinarith

/-- The whole number nearest to half the root of a quotient of a power of two. -/
theorem nearest_half_sqrt {y z : Nat} (odd : y % 2 = 1) (large : 1 < y) (pos : 0 < z) (k : Nat) :
    let n := ((2 ^ k / (y * z)).sqrt + 1) / 2
    (0 < n → (2 * n - 1) ^ 2 * (y * z) < 2 ^ k) ∧ 2 ^ k < (2 * n + 1) ^ 2 * (y * z) := by
  intro n
  have unit : 0 < y * z := Nat.mul_pos (by omega) pos
  have low := Nat.div_mul_le_self (2 ^ k) (y * z)
  have high := Nat.lt_mul_div_succ (2 ^ k) unit
  have root := Nat.sqrt_le' (2 ^ k / (y * z))
  have root' := Nat.lt_succ_sqrt' (2 ^ k / (y * z))
  have hn : n = ((2 ^ k / (y * z)).sqrt + 1) / 2 := rfl
  generalize 2 ^ k / (y * z) = q at *
  generalize q.sqrt = g at *
  constructor
  · intro npos
    have below : 2 * n - 1 ≤ g := by omega
    have le : (2 * n - 1) ^ 2 * (y * z) ≤ 2 ^ k := (Nat.mul_le_mul_right _ ((Nat.pow_le_pow_left below 2).trans root)).trans low
    refine lt_of_le_of_ne le fun eq => odd_mul_ne_two_pow odd large ((2 * n - 1) ^ 2 * z) k ?_
    rw [← eq]
    ring
  · calc 2 ^ k < y * z * (q + 1) := high
      _ ≤ y * z * (g + 1) ^ 2 := Nat.mul_le_mul_left _ root'
      _ ≤ (2 * n + 1) ^ 2 * (y * z) := by
        rw [Nat.mul_comm]
        exact Nat.mul_le_mul_right _ (Nat.pow_le_pow_left (by omega) 2)

/-! ### The range of an operand -/

theorem fmtF32_top : fmtF32.magnitude fmtF32.top = 2 ^ 128 := by
  have grid := fmtF32.magnitude_grid (c := 254) (n := 2 ^ 23) (.inr le_rfl) (by decide)
  rw [show fmtF32.top = 254 * 2 ^ fmtF32.fbits + 2 ^ 23 by decide, grid, show fmtF32.qmin + ((254 : Nat) : Int) = ((105 : Nat) : Int) by decide,
    zpow_natCast]
  norm_num

/-- The magnitudes of the nonzero finite f32 numbers (R69). -/
theorem fmtF32_range {x m : Nat} {p : Bool} {e : Int} (fin : fmtF32.val x = .fin p m e) (nonzero : m ≠ 0) :
    (2 : ℚ) ^ (-149 : Int) ≤ m * 2 ^ e ∧ (m * (2 : ℚ) ^ e : ℚ) < 2 ^ 128 := by
  obtain ⟨-, body, value, -, low⟩ := Fmt.of_val_fin fin
  constructor
  · have : (1 : ℚ) ≤ m := by exact_mod_cast Nat.pos_of_ne_zero nonzero
    calc (2 : ℚ) ^ (-149 : Int) ≤ 2 ^ e := zpow_le_zpow_right₀ one_le_two low
      _ ≤ m * 2 ^ e := le_mul_of_one_le_left (by positivity) this
  · rw [value, ← fmtF32_top]
    exact fmtF32.magnitude_strictMono body

/-- The leading digit of a nonzero finite f32 number. -/
theorem leading_range {x m frac : Nat} {p : Bool} {e top : Int} (fin : fmtF32.val x = .fin p m e) (nonzero : m ≠ 0)
    (small : frac < 2 ^ 23) (value : (Num.fin false m e).value = (2 : ℚ) ^ top * (1 + frac / 2 ^ 23)) : -149 ≤ top ∧ top ≤ 127 := by
  obtain ⟨low, high⟩ := fmtF32_range fin nonzero
  rw [Num.value_pos] at value
  rw [value] at low high
  have part : (0 : ℚ) ≤ frac / 2 ^ 23 := by positivity
  have part' : (frac / 2 ^ 23 : ℚ) < 1 := by rw [div_lt_one (by positivity)]; exact_mod_cast small
  have unit : (0 : ℚ) < 2 ^ top := by positivity
  constructor
  · have : (2 : ℚ) ^ (-149 : Int) < 2 ^ (top + 1) := low.trans_lt (by rw [zpow_add_one₀ two_ne_zero]; gcongr; linarith)
    have := (zpow_lt_zpow_iff_right₀ (one_lt_two (α := ℚ))).1 this
    omega
  · have : (2 : ℚ) ^ top < 2 ^ (128 : Int) := (le_mul_of_one_le_right unit.le (by linarith)).trans_lt (high.trans_eq (by norm_cast))
    have := (zpow_lt_zpow_iff_right₀ (one_lt_two (α := ℚ))).1 this
    omega

section
variable {x m frac : Nat} {p : Bool} {e top : Int} (fin : fmtF32.val x = .fin p m e) (small : frac < 2 ^ 23)
  (value : (Num.fin false m e).value = (2 : ℚ) ^ top * (1 + frac / 2 ^ 23))
include fin small value

/-- vrcp has the 12 bits of its entry (R79). -/
theorem fRcp_estimate : let middle : ℚ := (257 + 2 * (frac / 2 ^ 16 : Nat)) / 256
    ∃ n : Nat, ((2 * n : ℚ) - 1) * middle < 2 ^ 13 ∧ 2 ^ 13 < (2 * n + 1 : ℚ) * middle ∧
      fRcp x = roundNum fmtF32 .rne (.fin p n (-12 - top)) := by
  intro middle
  obtain ⟨nonzero, normal⟩ := normalise_eq fin small value
  have meaning : fRcp x = roundTo fmtF32 .rne p ((2 ^ 21 / (257 + 2 * (frac / 2 ^ 16)) + 1) / 2) (-12 - top) false := by
    rw [fRcp, fin]
    simp only [normal, Nat.shiftRight_eq_div_pow]
    exact if_neg (by simpa using nonzero)
  have mid : middle = ((257 + 2 * (frac / 2 ^ 16) : Nat) : ℚ) / 256 := by push_cast; rfl
  generalize hy : 257 + 2 * (frac / 2 ^ 16) = y at *
  have bound : y < 512 := by omega
  obtain ⟨low, high⟩ := nearest_half (y := y) (by omega) (by omega) 21
  have positive : (2 ^ 21 / y + 1) / 2 ≠ 0 := by
    have : 2 ≤ 2 ^ 21 / y := (Nat.le_div_iff_mul_le (by omega)).2 (by omega)
    omega
  generalize (2 ^ 21 / y + 1) / 2 = n at *
  have low : (2 * n * y : ℚ) < 2 ^ 21 + y := by exact_mod_cast low
  have high : (2 ^ 21 : ℚ) < (2 * n + 1) * y := by exact_mod_cast high
  refine ⟨n, by rw [mid]; linarith, by rw [mid]; linarith, ?_⟩
  rw [meaning, roundNum, if_neg (by simpa using positive)]

/-- vrsqrt has the 12 bits of its entry, and no flag (R78). -/
theorem fRsqrt_estimate (positive : p = false) : let middle : ℚ := (257 + 2 * (frac / 2 ^ 16 : Nat)) / 256
    ∃ n : Nat, ((2 * n : ℚ) - 1) ^ 2 * ((2 : ℚ) ^ (top % 2) * middle) < 2 ^ 26 ∧
      2 ^ 26 < (2 * n + 1 : ℚ) ^ 2 * ((2 : ℚ) ^ (top % 2) * middle) ∧ (fRsqrt x).2 = 0 ∧
      (fmtF32.val (fRsqrt x).1).value = n * (2 : ℚ) ^ (-12 - (top - top % 2) / 2) := by
  intro middle
  subst positive
  obtain ⟨nonzero, normal⟩ := normalise_eq fin small value
  obtain ⟨z, hz, parity⟩ : ∃ z : Nat, (2 : ℚ) ^ (top % 2) = z ∧ 2 ^ (top % 2).toNat = z := by
    obtain h | h := Int.emod_two_eq_zero_or_one top
    · exact ⟨1, by rw [h]; norm_num, by rw [h]; rfl⟩
    · exact ⟨2, by rw [h]; norm_num, by rw [h]; rfl⟩
  have zcases : z = 1 ∨ z = 2 := by
    obtain h | h := Int.emod_two_eq_zero_or_one top <;> rw [h] at parity
    · exact .inl parity.symm
    · exact .inr parity.symm
  have meaning : fRsqrt x = ((roundTo fmtF32 .rne false ((isqrt (2 ^ 34 / ((257 + 2 * (frac / 2 ^ 16)) * z)) + 1) / 2)
      (-12 - (top - top % 2) / 2) false).1, 0) := by
    rw [fRsqrt, fin]
    simp only [normal, Nat.shiftRight_eq_div_pow, Nat.shiftLeft_eq, parity]
    rw [if_neg (by simpa using nonzero), if_neg Bool.false_ne_true]
  have mid : middle = ((257 + 2 * (frac / 2 ^ 16) : Nat) : ℚ) / 256 := by push_cast; rfl
  generalize hy : 257 + 2 * (frac / 2 ^ 16) = y at *
  have bounds : 257 ≤ y * z ∧ y * z < 1024 := by obtain rfl | rfl := zcases <;> omega
  have root : 2 ≤ 2 ^ 34 / (y * z) := (Nat.le_div_iff_mul_le (by omega)).2 (by omega)
  rw [isqrt_eq_sqrt root] at meaning
  obtain ⟨low, high⟩ := nearest_half_sqrt (y := y) (z := z) (by omega) (by omega) (by omega) 34
  have few : (2 ^ 34 / (y * z)).sqrt < 2 ^ 13 := by
    rw [Nat.sqrt_lt', Nat.div_lt_iff_lt_mul (by omega)]
    omega
  have some_ : 1 ≤ (2 ^ 34 / (y * z)).sqrt := Nat.sqrt_pos.2 (by omega)
  have npos : 0 < ((2 ^ 34 / (y * z)).sqrt + 1) / 2 := by omega
  have nsmall : ((2 ^ 34 / (y * z)).sqrt + 1) / 2 < 2 * 2 ^ fmtF32.fbits := lt_of_lt_of_le (by omega : _ < 2 ^ 13) (by decide)
  have low := low npos
  generalize ((2 ^ 34 / (y * z)).sqrt + 1) / 2 = n at *
  obtain ⟨lower, upper⟩ := leading_range fin nonzero small value
  obtain ⟨k, below, magnitude, word⟩ := roundTo_exact (e := -12 - (top - top % 2) / 2) fmtF32_ok npos.ne' nsmall
    (show (-149 : Int) ≤ _ by omega) (show _ ≤ (-149 : Int) + 255 by omega) .rne false
  have low : ((2 * n : ℚ) - 1) ^ 2 * (y * z) < 2 ^ 34 := by
    have : ((2 * n - 1 : Nat) : ℚ) = 2 * n - 1 := by rw [Nat.cast_sub (by omega)]; push_cast; rfl
    rw [← this]
    exact_mod_cast low
  have high : (2 ^ 34 : ℚ) < (2 * n + 1) ^ 2 * (y * z) := by exact_mod_cast high
  rw [word] at meaning
  refine ⟨n, by rw [hz, mid]; linarith, by rw [hz, mid]; linarith, by rw [meaning], ?_⟩
  rw [meaning, Fmt.value_word _ below, magnitude, if_neg Bool.false_ne_true, one_mul]

end

end Sys2Proof
end

section
/-! PROOFS. Binary logarithms (R80, log 12): the digits by repeated squaring are those of the exact logarithm but for the small
loss of each squaring, and the one rounding takes them as a number with more below. -/

namespace Sys2Proof

open Real (logb)

/-! ### Logarithms of fixed-point numbers -/

/-- A number of w fraction bits, as a real number. -/
noncomputable def scaled (w y : Nat) : ℝ := y / 2 ^ w

theorem one_le_scaled {w y : Nat} (h : 2 ^ w ≤ y) : 1 ≤ scaled w y := by
  rw [scaled, one_le_div (by positivity)]
  exact_mod_cast h

theorem scaled_shift (frac k : Nat) : scaled (23 + k) ((2 ^ 23 + frac) <<< k) = 1 + frac / 2 ^ 23 := by
  rw [scaled, Nat.shiftLeft_eq, Nat.cast_mul, pow_add, Nat.cast_pow, Nat.cast_ofNat, mul_div_mul_right _ _ (by positivity)]
  push_cast
  ring

theorem logb_two_nonneg {x : ℝ} (h : 1 ≤ x) : 0 ≤ logb 2 x := Real.logb_nonneg one_lt_two h

theorem logb_two_zpow (k : Int) : logb 2 ((2 : ℝ) ^ k) = k := by
  rw [← Real.rpow_intCast, Real.logb_rpow two_pos (by norm_num)]

theorem logb_two_one_add_le {x : ℝ} (h : 0 ≤ x) : logb 2 (1 + x) ≤ 2 * x := by
  have half : (1 : ℝ) / 2 < Real.log 2 := by have := Real.log_two_gt_d9; linarith
  rw [logb, div_le_iff₀ (by linarith)]
  have := Real.log_le_sub_one_of_pos (by linarith : 0 < 1 + x)
  nlinarith

theorem le_logb_two_one_add {x : ℝ} (h : 0 ≤ x) (h' : x ≤ 1) : x / 2 ≤ logb 2 (1 + x) := by
  have one : Real.log 2 < 1 := by have := Real.log_two_lt_d9; linarith
  have pos : 0 < Real.log 2 := Real.log_pos one_lt_two
  have low : x / 2 ≤ Real.log (1 + x) := by
    have := Real.one_sub_inv_le_log_of_pos (by linarith : 0 < 1 + x)
    have : x / 2 ≤ 1 - (1 + x)⁻¹ := by
      rw [show 1 - (1 + x)⁻¹ = x / (1 + x) by field_simp; ring]
      gcongr
      linarith
    linarith
  rw [logb, le_div_iff₀ pos]
  nlinarith [logb_two_nonneg (x := 1 + x) (by linarith)]

/-- What the whole part of a fixed-point number loses of its logarithm. -/
theorem logb_two_floor {w y : Nat} {x : ℝ} (large : 2 ^ w ≤ y) (low : y ≤ x * 2 ^ w) (high : x * 2 ^ w < y + 1) :
    logb 2 (scaled w y) ≤ logb 2 x ∧ logb 2 x ≤ logb 2 (scaled w y) + 2 / 2 ^ w := by
  have unit : (0 : ℝ) < 2 ^ w := by positivity
  have one := one_le_scaled large
  have below : scaled w y ≤ x := by rwa [scaled, div_le_iff₀ unit]
  have above : x ≤ scaled w y * (1 + 1 / 2 ^ w) := by
    have : x < scaled w y + 1 / 2 ^ w := by rw [scaled, ← add_div, lt_div_iff₀ unit]; exact high
    have : 1 / 2 ^ w ≤ scaled w y * (1 / 2 ^ w) := le_mul_of_one_le_left (by positivity) one
    linarith
  refine ⟨Real.logb_le_logb_of_le one_lt_two (by linarith) below, ?_⟩
  calc logb 2 x ≤ logb 2 (scaled w y * (1 + 1 / 2 ^ w)) := Real.logb_le_logb_of_le one_lt_two (by linarith) above
    _ = logb 2 (scaled w y) + logb 2 (1 + 1 / 2 ^ w) := Real.logb_mul (by linarith) (by positivity)
    _ ≤ logb 2 (scaled w y) + 2 / 2 ^ w := by
      have := logb_two_one_add_le (x := 1 / 2 ^ w) (by positivity)
      linarith [show 2 * (1 / 2 ^ w) = (2 : ℝ) / 2 ^ w by ring]

/-! ### vlog2 -/

/-- One squaring: its digit, and what the next step takes. -/
theorem log2Digits_succ {w k y : Nat} (low : 2 ^ w ≤ y) (high : y < 2 ^ (w + 1)) (acc : Nat) :
    ∃ b z : Nat, b ≤ 1 ∧ 2 ^ w ≤ z ∧ z < 2 ^ (w + 1) ∧ log2Digits w (k + 1) y acc = log2Digits w k z (2 * acc + b) ∧
      logb 2 (scaled w z) ≤ 2 * logb 2 (scaled w y) - b ∧ 2 * logb 2 (scaled w y) - b ≤ logb 2 (scaled w z) + 2 / 2 ^ w := by
  have exact_ {b : Nat} : 2 * logb 2 (scaled w y) - b = logb 2 (scaled w y ^ 2 / 2 ^ b) := by
    have one := one_le_scaled low
    rw [Real.logb_div (by positivity) (by positivity), Real.logb_pow, Real.logb_pow, Real.logb_self_eq_one one_lt_two]
    push_cast
    ring
  have floor {b z : Nat} (hz : z = y * y / 2 ^ (w + b)) (large : 2 ^ w ≤ z) := by
    have unit : 0 < 2 ^ (w + b) := by positivity
    have split : (scaled w y ^ 2 / 2 ^ b) * 2 ^ w = ((y * y : Nat) : ℝ) / (2 ^ (w + b) : Nat) := by
      rw [scaled, pow_add]
      push_cast
      field_simp
    refine logb_two_floor (x := scaled w y ^ 2 / 2 ^ b) large ?_ ?_
    · rw [split, hz]
      exact Nat.cast_div_le
    · rw [split, hz, div_lt_iff₀ (by positivity), mul_comm (_ + 1)]
      exact_mod_cast Nat.lt_mul_div_succ (y * y) unit
  have square : 2 ^ w * 2 ^ w ≤ y * y := Nat.mul_le_mul low low
  have square' : y * y < 2 ^ (w + 2) * 2 ^ w := by
    calc y * y < 2 ^ (w + 1) * 2 ^ (w + 1) := Nat.mul_lt_mul'' high high
      _ = 2 ^ (w + 2) * 2 ^ w := by ring
  rw [log2Digits]
  simp only [Nat.shiftRight_eq_div_pow]
  by_cases carry : y * y / 2 ^ w ≥ 2 ^ (w + 1)
  · have hz : y * y / 2 ^ w / 2 ^ 1 = y * y / 2 ^ (w + 1) := by rw [Nat.div_div_eq_div_mul, ← pow_add]
    have large : 2 ^ w ≤ y * y / 2 ^ (w + 1) := by
      rw [Nat.le_div_iff_mul_le (by positivity)]
      calc 2 ^ w * 2 ^ (w + 1) = 2 ^ (w + 1) * 2 ^ w := Nat.mul_comm ..
        _ ≤ y * y := (Nat.le_div_iff_mul_le (by positivity)).1 carry
    obtain ⟨h1, h2⟩ := floor (b := 1) rfl large
    refine ⟨1, _, le_rfl, large, ?_, by rw [if_pos carry, hz], by rwa [exact_], by rwa [exact_]⟩
    rw [Nat.div_lt_iff_lt_mul (by positivity)]
    calc y * y < 2 ^ (w + 2) * 2 ^ w := square'
      _ = 2 ^ (w + 1) * 2 ^ (w + 1) := by ring
  · have large : 2 ^ w ≤ y * y / 2 ^ w := (Nat.le_div_iff_mul_le (by positivity)).2 square
    obtain ⟨h1, h2⟩ := floor (b := 0) rfl large
    exact ⟨0, _, Nat.zero_le _, large, by omega, by rw [if_neg carry]; rfl, by rwa [exact_], by rwa [exact_]⟩

/-- The digits are those of the exact logarithm, but for what the squarings lose. -/
theorem log2Digits_spec {w : Nat} : ∀ {k y : Nat} (acc : Nat), 2 ^ w ≤ y → y < 2 ^ (w + 1) → ∃ d : Nat,
    log2Digits w k y acc = 2 ^ k * acc + d ∧ d < 2 ^ k ∧ d ≤ 2 ^ k * logb 2 (scaled w y) ∧
      2 ^ k * logb 2 (scaled w y) ≤ d + 1 + (2 ^ k - 1) * (2 / 2 ^ w)
  | 0, y, acc, low, high => by
    have upper : logb 2 (scaled w y) ≤ 1 := by
      rw [← Real.logb_self_eq_one (one_lt_two (α := ℝ))]
      refine Real.logb_le_logb_of_le one_lt_two (by have := one_le_scaled low; linarith) ?_
      rw [scaled, div_le_iff₀ (by positivity)]
      rw [pow_succ] at high
      exact_mod_cast by linarith
    have lower := logb_two_nonneg (one_le_scaled low)
    exact ⟨0, by simp [log2Digits], by norm_num, by simpa using lower, by simpa using upper⟩
  | k + 1, y, acc, low, high => by
    obtain ⟨b, z, bit, lowz, highz, step, upper, lower⟩ := log2Digits_succ (k := k) low high acc
    obtain ⟨d, digits, small, hd, hd'⟩ := log2Digits_spec (k := k) (2 * acc + b) lowz highz
    refine ⟨2 ^ k * b + d, ?_, ?_, ?_, ?_⟩
    · rw [step, digits, pow_succ]
      ring
    · calc 2 ^ k * b + d < 2 ^ k * 1 + 2 ^ k := by have := Nat.mul_le_mul_left (2 ^ k) bit; omega
        _ = 2 ^ (k + 1) := by ring
    · have unit : (0 : ℝ) < 2 ^ k := by positivity
      push_cast
      rw [pow_succ]
      nlinarith
    · have unit : (0 : ℝ) < 2 ^ k := by positivity
      push_cast
      rw [pow_succ]
      nlinarith

/-! ### A number with more below it -/

/-- The point halfway between m and m + 1 units. -/
theorem liesAt_half (m : Nat) (e : Int) : LiesAt m e true ((m + 1 / 2) * (2 : ℝ) ^ e) := by
  have unit : (0 : ℝ) < 2 ^ e := by positivity
  constructor <;> gcongr <;> linarith

/-- RoundTo of a number with more below it is inexact. -/
theorem roundTo_sticky_inexact {f : Fmt} (ok : f.Ok) {m : Nat} (e : Int) (deep : 2 ^ (f.fbits + 2) ≤ m) (rm : RMode) (neg : Bool) :
    (roundTo f rm neg m e true).2.getLsbD 4 = true := by
  have unit : (0 : ℝ) < 2 ^ e := by positivity
  have nonzero : m ≠ 0 := by
    have := Nat.two_pow_pos (f.fbits + 2)
    omega
  have quarter : LiesAt m e true ((m + 1 / 4) * (2 : ℝ) ^ e) := by constructor <;> gcongr <;> linarith
  obtain ⟨-, -, -, -, r, -, -, word, inx, -⟩ := roundsTo_iff.1 (roundTo_roundsTo (rm := rm) (neg := neg) ok (liesAt_half m e) nonzero fun _ => deep)
  obtain ⟨-, -, -, -, r', -, -, word', inx', -⟩ := roundsTo_iff.1 (roundTo_roundsTo (rm := rm) (neg := neg) ok quarter nonzero fun _ => deep)
  obtain rfl : r = r' := Nat.add_left_cancel (word.symm.trans word')
  by_contra exact_
  have h := not_not.1 fun h => exact_ (inx.2 (.inl h))
  have h' := not_not.1 fun h => exact_ (inx'.2 (.inl h))
  nlinarith

/-! ### The result of vlog2 -/

section
variable {x m : Nat} {e : Int} (fin : fmtF32.val x = .fin false m e) (nonzero : m ≠ 0)
include fin nonzero

/-- vlog2 of a power of two is exact (R80). -/
theorem fLog2_power {k : Int} (power : (Num.fin false m e).value = (2 : ℚ) ^ k) :
    fLog2 x = roundNum fmtF32 .rne (.fin (decide (k < 0)) k.natAbs 0) := by
  obtain ⟨-, normal⟩ := normalise_eq (frac := 0) (top := k) fin (by norm_num) (by simpa using power)
  rw [fLog2, fin]
  simp [nonzero, normal]

/-- Otherwise it takes 128 digits of the fraction of the logarithm. -/
theorem fLog2_digits (no_power : ∀ k : Int, (Num.fin false m e).value ≠ (2 : ℚ) ^ k) : ∃ (top : Int) (frac d : Nat), frac ≠ 0 ∧ frac < 2 ^ 23 ∧
    d < 2 ^ 128 ∧ ((Num.fin false m e).value : ℝ) = 2 ^ top * (1 + frac / 2 ^ 23) ∧ d ≤ 2 ^ 128 * logb 2 (1 + frac / 2 ^ 23) ∧
    2 ^ 128 * logb 2 (1 + frac / 2 ^ 23) ≤ d + 5 / 4 ∧
    let t : Int := top * 2 ^ 128 + d
    fLog2 x = if t ≥ 0 then roundTo fmtF32 .rne false t.toNat (-128) true else roundTo fmtF32 .rne true (t.natAbs - 1) (-128) true := by
  obtain ⟨small, value⟩ := normalise_spec nonzero (fmtF32_val fin) e
  have inexact : (normalise m e).2 ≠ 0 := fun zero => no_power (normalise m e).1 <| by
    rw [Num.value_pos, value, zero]
    simp
  generalize normal : normalise m e = q at *
  obtain ⟨top, frac⟩ := q
  have low : 2 ^ 320 ≤ (2 ^ 23 + frac) <<< 297 := by rw [Nat.shiftLeft_eq]; omega
  have high : (2 ^ 23 + frac) <<< 297 < 2 ^ (320 + 1) := by rw [Nat.shiftLeft_eq]; omega
  obtain ⟨d, digits, below, hd, hd'⟩ := log2Digits_spec (k := 128) 0 low high
  rw [show 320 = 23 + 297 from rfl, scaled_shift] at hd hd'
  refine ⟨top, frac, d, inexact, small, below, ?_, hd, ?_, ?_⟩
  · rw [Num.value_pos, value]
    push_cast
    rfl
  · have loss : (2 : ℝ) / 2 ^ 320 ≤ 2 / 2 ^ 131 := by gcongr <;> norm_num
    generalize (2 : ℝ) / 2 ^ 320 = δ at *
    have total : (2 ^ 128 - 1) * δ ≤ (2 ^ 128 - 1) * (2 / 2 ^ 131) := mul_le_mul_of_nonneg_left loss (by norm_num)
    linarith
  · rw [Nat.mul_zero, Nat.zero_add] at digits
    rw [fLog2, fin]
    simp only [normal, digits]
    rw [if_neg (by simpa using nonzero), if_neg Bool.false_ne_true, if_neg (by simpa using inexact)]

end

/-- The logarithm of a number strictly between two powers of two keeps its distance from both. -/
theorem logb_two_fraction {frac : Nat} (nonzero : frac ≠ 0) (small : frac < 2 ^ 23) :
    1 / 2 ^ 24 ≤ logb 2 (1 + frac / 2 ^ 23) ∧ logb 2 (1 + frac / 2 ^ 23) ≤ 1 - 1 / 2 ^ 25 := by
  have one : (1 : ℝ) ≤ frac := by exact_mod_cast Nat.pos_of_ne_zero nonzero
  have last : (frac : ℝ) + 1 ≤ 2 ^ 23 := by exact_mod_cast small
  have part : (frac : ℝ) / 2 ^ 23 ≤ 1 - 1 / 2 ^ 23 := by
    rw [div_le_iff₀ (by positivity)]
    norm_num at last ⊢
    linarith
  have part' : (1 : ℝ) / 2 ^ 23 ≤ frac / 2 ^ 23 := by gcongr
  constructor
  · have := le_logb_two_one_add (x := frac / 2 ^ 23) (by positivity) (by linarith [show (0 : ℝ) < 1 / 2 ^ 23 by positivity])
    norm_num at this part' ⊢
    linarith
  · have rest : logb 2 (1 + frac / 2 ^ 23) ≤ logb 2 (2 / (1 + 1 / 2 ^ 24)) := by
      refine Real.logb_le_logb_of_le one_lt_two (by positivity) ?_
      rw [le_div_iff₀ (by positivity)]
      norm_num at part ⊢
      nlinarith
    rw [Real.logb_div two_ne_zero (by positivity), Real.logb_self_eq_one one_lt_two] at rest
    have := le_logb_two_one_add (x := 1 / 2 ^ 24) (by positivity) (by norm_num)
    norm_num at this rest ⊢
    linarith

section
variable {x m : Nat} {e : Int} (fin : fmtF32.val x = .fin false m e) (nonzero : m ≠ 0)
include fin nonzero

/-- The digits of vlog2 are those of a number of at least 25 bits. -/
theorem fLog2_roundsTo (no_power : ∀ k : Int, (Num.fin false m e).value ≠ (2 : ℚ) ^ k) : (fLog2 x).2.getLsbD 4 = true ∧
    ∃ (t : ℝ) (neg : Bool), (neg = true ↔ t < 0) ∧ |t - logb 2 ((Num.fin false m e).value : ℝ)| < (2 : ℝ) ^ (-100 : Int) ∧
      RoundsTo fmtF32 .rne neg |t| (fLog2 x) := by
  obtain ⟨top, frac, d, nonzero, small, below, value, low, high, meaning⟩ := fLog2_digits fin nonzero no_power
  obtain ⟨above, under⟩ := logb_two_fraction nonzero small
  rw [value, Real.logb_mul (by positivity) (by positivity), logb_two_zpow]
  generalize logb 2 (1 + frac / 2 ^ 23) = L at *
  have large : 2 ^ 25 ≤ d := by
    have : (2 ^ 25 : ℝ) ≤ d := by linarith
    exact_mod_cast this
  have large' : d + 2 ^ 25 + 1 ≤ 2 ^ 128 := by
    have : (d + 2 ^ 25 + 1 : ℝ) ≤ 2 ^ 128 := by linarith
    exact_mod_cast this
  have close : |((top * 2 ^ 128 + d : Int) + 1 / 2 : ℝ) * 2 ^ (-128 : Int) - (top + L)| < (2 : ℝ) ^ (-100 : Int) := by
    rw [abs_lt]
    norm_num at low high ⊢
    constructor <;> linarith
  have unit : (0 : ℝ) < 2 ^ (-128 : Int) := by positivity
  have ok := fmtF32_ok
  obtain positive | negative := le_or_gt 0 top
  · have deep : 2 ^ 25 ≤ (top * 2 ^ 128 + d).toNat := by omega
    have sign : 0 ≤ top * 2 ^ 128 + d := by omega
    generalize top * 2 ^ 128 + (d : Int) = t at *
    have size : ((t.toNat : Nat) : ℝ) = t := by exact_mod_cast Int.toNat_of_nonneg sign
    have nonneg : (0 : ℝ) ≤ t := by exact_mod_cast sign
    have point : (0 : ℝ) ≤ (t + 1 / 2) * 2 ^ (-128 : Int) := by positivity
    rw [meaning, if_pos sign]
    refine ⟨roundTo_sticky_inexact ok _ deep _ _, _, false, by simpa using point, close, ?_⟩
    have lies := liesAt_half t.toNat (-128)
    rw [size] at lies
    rw [abs_of_nonneg point]
    exact roundTo_roundsTo ok lies (by omega) fun _ => deep
  · have deep : 2 ^ 25 ≤ (top * 2 ^ 128 + d).natAbs - 1 := by omega
    have sign : top * 2 ^ 128 + d < 0 := by omega
    generalize top * 2 ^ 128 + (d : Int) = t at *
    have size : ((t.natAbs - 1 : Nat) : ℝ) = - t - 1 := by
      have : ((t.natAbs - 1 : Nat) : Int) = - t - 1 := by omega
      exact_mod_cast congrArg (Int.cast (R := ℝ)) this
    have last : (t : ℝ) ≤ -1 := by exact_mod_cast Int.le_sub_one_of_lt sign
    have point : (t + 1 / 2) * (2 : ℝ) ^ (-128 : Int) < 0 := mul_neg_of_neg_of_pos (by linarith) unit
    rw [meaning, if_neg (by omega)]
    refine ⟨roundTo_sticky_inexact ok _ deep _ _, _, true, by simpa using point, close, ?_⟩
    have lies := liesAt_half (t.natAbs - 1) (-128)
    rw [size, show (-(t : ℝ) - 1 + 1 / 2) * 2 ^ (-128 : Int) = -((t + 1 / 2) * 2 ^ (-128 : Int)) by ring] at lies
    rw [abs_of_neg point]
    exact roundTo_roundsTo ok lies (by omega) fun _ => deep

end

end Sys2Proof
end

section
/-! PROOFS. Binary exponentials (R80, log 12): the chain of square roots is the power of two of the fraction's digits but for
the small loss of each root, and the one rounding takes it as a number with more below. -/

namespace Sys2Proof

open Real (logb)

/-! ### The chain of square roots -/

/-- One root takes half the logarithm, and loses little of it. -/
theorem logb_two_sqrt {w y : Nat} (two_le : 2 ≤ 2 ^ w) (large : 2 ^ w ≤ y) : let z := isqrt (y <<< w)
    2 ^ w ≤ z ∧ logb 2 (scaled w z) ≤ logb 2 (scaled w y) / 2 ∧ logb 2 (scaled w y) / 2 ≤ logb 2 (scaled w z) + 2 / 2 ^ w := by
  have square : 2 ^ w * 2 ^ w ≤ y * 2 ^ w := Nat.mul_le_mul_right _ large
  have large' : 2 ^ w ≤ (y * 2 ^ w).sqrt := Nat.le_sqrt.2 square
  rw [Nat.shiftLeft_eq, isqrt_eq_sqrt (by nlinarith)]
  have nonneg : (0 : ℝ) ≤ scaled w y := zero_le_one.trans (one_le_scaled large)
  have root : Real.sqrt (scaled w y) * 2 ^ w = Real.sqrt ((y * 2 ^ w : Nat) : ℝ) := by
    rw [← Real.sqrt_sq (by positivity : (0 : ℝ) ≤ 2 ^ w), ← Real.sqrt_mul nonneg, scaled]
    push_cast
    congr 1
    field_simp
  have half : logb 2 (Real.sqrt (scaled w y)) = logb 2 (scaled w y) / 2 := by rw [logb, Real.log_sqrt nonneg, logb]; ring
  obtain ⟨upper, lower⟩ := logb_two_floor (x := Real.sqrt (scaled w y)) large' (root ▸ Real.nat_sqrt_le_real_sqrt)
    (root ▸ Real.real_sqrt_lt_nat_sqrt_succ)
  rw [half] at upper lower
  exact ⟨large', upper, lower⟩

/-- The chain is the power of two of its digits, but for what the roots lose. -/
theorem exp2Roots_spec {w : Nat} (two_le : 2 ≤ 2 ^ w) : ∀ {k f y : Nat}, f < 2 ^ k → 2 ^ w ≤ y → 2 ^ w ≤ exp2Roots w k f y ∧
    logb 2 (scaled w (exp2Roots w k f y)) ≤ (f + logb 2 (scaled w y)) / 2 ^ k ∧
    (f + logb 2 (scaled w y)) / 2 ^ k ≤ logb 2 (scaled w (exp2Roots w k f y)) + 2 * (2 / 2 ^ w) * (1 - 1 / 2 ^ k)
  | 0, f, y, digits, large => by
    obtain rfl : f = 0 := by omega
    simp [exp2Roots, large]
  | k + 1, f, y, digits, large => by
    obtain ⟨u, hu, largeu, log⟩ : ∃ u : Nat, exp2Roots w (k + 1) f y = exp2Roots w k (f / 2) (isqrt (u <<< w)) ∧ 2 ^ w ≤ u ∧
        logb 2 (scaled w u) = (f % 2 : Nat) + logb 2 (scaled w y) := by
      obtain bit | bit : f % 2 = 0 ∨ f % 2 = 1 := by omega
      · exact ⟨y, by simp [exp2Roots, bit], large, by simp [bit]⟩
      · have one := one_le_scaled large
        have double : scaled w (2 * y) = 2 * scaled w y := by rw [scaled, scaled]; push_cast; ring
        exact ⟨2 * y, by simp [exp2Roots, bit], by omega, by
          rw [double, Real.logb_mul two_ne_zero (by positivity), Real.logb_self_eq_one one_lt_two, bit, Nat.cast_one]⟩
    obtain ⟨largez, upper, lower⟩ := logb_two_sqrt two_le largeu
    obtain ⟨result, upper', lower'⟩ := exp2Roots_spec (k := k) two_le (f := f / 2) (by rw [pow_succ] at digits; omega) largez
    rw [hu]
    have whole : (f : ℝ) = 2 * (f / 2 : Nat) + (f % 2 : Nat) := by exact_mod_cast (Nat.div_add_mod f 2).symm
    rw [log] at upper lower
    have unit : (0 : ℝ) < 2 ^ k := by positivity
    have split : (f + logb 2 (scaled w y)) / 2 ^ (k + 1) = ((f / 2 : Nat) + ((f % 2 : Nat) + logb 2 (scaled w y)) / 2) / 2 ^ k := by
      rw [whole, pow_succ]
      field_simp
      ring
    refine ⟨result, ?_, ?_⟩
    · rw [split]
      refine upper'.trans ?_
      gcongr
    · rw [split]
      calc ((f / 2 : Nat) + ((f % 2 : Nat) + logb 2 (scaled w y)) / 2) / 2 ^ k
          ≤ ((f / 2 : Nat) + (logb 2 (scaled w (isqrt (u <<< w))) + 2 / 2 ^ w)) / 2 ^ k := by gcongr
        _ = ((f / 2 : Nat) + logb 2 (scaled w (isqrt (u <<< w)))) / 2 ^ k + 2 * (2 / 2 ^ w) * (1 / 2 ^ (k + 1)) := by
          rw [pow_succ]
          field_simp
          ring
        _ ≤ _ := by
          have twice : (1 : ℝ) / 2 ^ k = 2 * (1 / 2 ^ (k + 1)) := by rw [pow_succ]; field_simp
          rw [twice] at lower'
          generalize (1 : ℝ) / 2 ^ (k + 1) = q at *
          generalize (2 : ℝ) / 2 ^ w = δ at *
          linarith

/-! ### The result of vexp2 -/

/-- The 192 bits of a fraction's power of two, with more below, are that power but for a part in 2^100. -/
theorem exp2_close {d R : Nat} {φ : ℝ} (small : d < 2 ^ 128) (low : d ≤ φ * 2 ^ 128) (high : φ * 2 ^ 128 < d + 1)
    (roots : R = exp2Roots 192 128 d (2 ^ 192)) :
    2 ^ 192 ≤ R ∧ |(R + 1 / 2 : ℝ) / 2 ^ 192 - (2 : ℝ) ^ φ| < (2 : ℝ) ^ φ * 2 ^ (-100 : Int) := by
  obtain ⟨large, upper, lower⟩ := exp2Roots_spec (w := 192) (by norm_num) small (y := 2 ^ 192) le_rfl
  have one : logb 2 (scaled 192 (2 ^ 192)) = 0 := by
    rw [scaled, Nat.cast_pow, Nat.cast_ofNat, div_self (by positivity), Real.logb_one]
  rw [← roots] at *
  have positive := zero_lt_one.trans_le (one_le_scaled large)
  have value : (R + 1 / 2 : ℝ) / 2 ^ 192 =
      (2 : ℝ) ^ logb 2 (scaled 192 R) + 1 / 2 ^ 193 := by
    rw [Real.rpow_logb two_pos (by norm_num) positive, scaled, add_div]
    norm_num
  rw [one, add_zero] at upper lower
  refine ⟨large, ?_⟩
  rw [value]
  generalize logb 2 (scaled 192 R) = L at *
  have above : L ≤ φ := upper.trans ((div_le_iff₀ (by positivity)).2 low)
  have below : φ - 1 / 2 ^ 127 ≤ L := by
    norm_num at lower high ⊢
    linarith
  have nonneg : 0 ≤ φ := by
    by_contra neg
    have : (0 : ℝ) ≤ d := by positivity
    nlinarith
  have least : 1 ≤ (2 : ℝ) ^ φ := Real.one_le_rpow one_lt_two.le nonneg
  have most : (2 : ℝ) ^ L ≤ 2 ^ φ := Real.rpow_le_rpow_of_exponent_le one_lt_two.le above
  have loss : (2 : ℝ) ^ φ * (1 - 1 / 2 ^ 127) ≤ 2 ^ L := by
    have : 1 - 1 / 2 ^ 127 ≤ (2 : ℝ) ^ (L - φ) := by
      rw [Real.rpow_def_of_pos two_pos]
      have := Real.add_one_le_exp (Real.log 2 * (L - φ))
      have one : Real.log 2 < 1 := by have := Real.log_two_lt_d9; linarith
      have pos : 0 < Real.log 2 := Real.log_pos one_lt_two
      nlinarith
    calc (2 : ℝ) ^ φ * (1 - 1 / 2 ^ 127) ≤ 2 ^ φ * 2 ^ (L - φ) := by gcongr
      _ = 2 ^ L := by rw [← Real.rpow_add two_pos]; congr 1; ring
  rw [abs_lt]
  norm_num at loss ⊢
  constructor <;> nlinarith

/-- A positive number below half the least magnitude rounds to zero (R72). -/
theorem roundsTo_tiny {v : ℝ} (pos : 0 < v) (small : 2 * v < fmtF32.magnitude 1) :
    RoundsTo fmtF32 .rne false v (roundTo fmtF32 .rne false (2 ^ 30) (-330) true) := by
  have result : roundTo fmtF32 .rne false (2 ^ 30) (-330) true = (0, flagUnf ||| flagInx) := by decide
  rw [result, roundsTo_iff]
  have down : ¬fmtF32.TakesNext .rne false 0 v := by
    rw [Fmt.TakesNext, Fmt.magnitude_zero, Rat.cast_zero]
    rintro (up | ⟨-, odd⟩)
    · linarith
    · simp at odd
  have top : (0 : ℝ) < fmtF32.magnitude fmtF32.top := by exact_mod_cast fmtF32.magnitude_pos (by decide)
  have least : (fmtF32.magnitude 1 : ℝ) ≤ fmtF32.magnitude fmtF32.top := by
    exact_mod_cast fmtF32.magnitude_strictMono.monotone (by decide)
  refine ⟨0, by decide, by simpa using pos.le, .inl (by linarith), 0, fun up => absurd up down, fun _ => rfl, rfl, ?_⟩
  refine ⟨iff_of_true (by decide) (.inl (by simpa using pos.ne)), iff_of_true (by decide) ⟨by simpa using pos.ne, by decide⟩,
    iff_of_false (by decide) ?_, by decide, by decide, by decide⟩
  rintro (h | h)
  · exact absurd h (by decide)
  · linarith

theorem fmtF32_magnitude_one : fmtF32.magnitude 1 = (2 : ℚ) ^ (-149 : Int) := by
  have grid := fmtF32.magnitude_grid (c := 0) (n := 1) (.inl rfl) (by decide)
  rwa [Nat.zero_mul, Nat.zero_add, Nat.cast_one, one_mul, show fmtF32.qmin + ((0 : Nat) : Int) = -149 by decide] at grid

/-- A power of two below the least magnitude rounds inexactly. -/
theorem roundTo_tiny_inexact {n : Int} (small : n < -149) : (roundTo fmtF32 .rne false 1 n false).2.getLsbD 4 = true := by
  obtain ⟨-, -, -, -, r, -, -, -, inexact, -⟩ :=
    roundsTo_iff.1 (roundTo_roundsTo (rm := .rne) (neg := false) fmtF32_ok (liesAt_exact 1 n) one_ne_zero nofun)
  refine inexact.2 (.inl fun exact_ => ?_)
  have value : fmtF32.magnitude r = (2 : ℚ) ^ n := by
    rw [Nat.cast_one, one_mul, show (2 : ℝ) ^ n = (((2 : ℚ) ^ n : ℚ) : ℝ) by push_cast; rfl] at exact_
    exact Rat.cast_injective exact_
  have pos : 0 < r := fmtF32.magnitude_strictMono.lt_iff_lt.1 (by rw [value, Fmt.magnitude_zero]; positivity)
  have below : r < 1 := fmtF32.magnitude_strictMono.lt_iff_lt.1 <| by
    rw [value, fmtF32_magnitude_one]
    exact zpow_lt_zpow_right₀ one_lt_two small
  omega

section
variable {x m : Nat} {p : Bool} {e : Int} (fin : fmtF32.val x = .fin p m e)
include fin

/-- vexp2 of an integer is exact (R80). -/
theorem fExp2_integer {k : Int} (integer : (Num.fin p m e).value = k) (low : -149 ≤ k) (high : k < 128) :
    fExp2 x = roundNum fmtF32 .rne (.fin false 1 k) := by
  obtain ⟨-, -, exact_, -⟩ := fExp2_fin fin
  rw [integer, Int.floor_intCast] at exact_
  exact exact_ (by omega) high rfl

/-- Otherwise vexp2 is one inexact rounding (R80, log 12). -/
theorem fExp2_roundsTo (below : (Num.fin p m e).value < 128)
    (listed : (Num.fin p m e).value < -149 ∨ ∀ k : Int, (Num.fin p m e).value ≠ k) : (fExp2 x).2.getLsbD 4 = true ∧
      ∃ t : ℝ, |t - (2 : ℝ) ^ ((Num.fin p m e).value : ℝ)| < (2 : ℝ) ^ ((Num.fin p m e).value : ℝ) * (2 : ℝ) ^ (-100 : Int) ∧
        RoundsTo fmtF32 .rne false t (fExp2 x) := by
  obtain ⟨-, tiny, integer, digits⟩ := fExp2_fin fin
  generalize (Num.fin p m e).value = v at *
  have power : (0 : ℝ) < (2 : ℝ) ^ (v : ℝ) := Real.rpow_pos_of_pos two_pos _
  have high : ⌊v⌋ < 128 := Int.floor_lt.2 (by exact_mod_cast below)
  by_cases least : ⌊v⌋ < -300
  · rw [tiny least]
    refine ⟨roundTo_sticky_inexact fmtF32_ok _ (by decide) _ _, (2 : ℝ) ^ (v : ℝ), by simpa using power, roundsTo_tiny power ?_⟩
    have exponent : (v : ℝ) < ((-150 : Int) : ℝ) := by
      have : (⌊v⌋ : ℚ) + 1 ≤ -300 := by exact_mod_cast least
      have : v < -150 := by linarith [Int.lt_floor_add_one v]
      exact_mod_cast this
    have small := Real.rpow_lt_rpow_of_exponent_lt one_lt_two exponent
    rw [Real.rpow_intCast] at small
    rw [fmtF32_magnitude_one]
    push_cast
    rw [show (2 : ℝ) ^ (-149 : Int) = 2 * 2 ^ (-150 : Int) by norm_num]
    linarith
  by_cases whole : v = ⌊v⌋
  · have small : ⌊v⌋ < -149 := by
      obtain h | h := listed
      · exact Int.floor_lt.2 (by exact_mod_cast h)
      · exact absurd whole (h _)
    rw [integer (by omega) high whole]
    refine ⟨roundTo_tiny_inexact small, (2 : ℝ) ^ (v : ℝ), by simpa using power, ?_⟩
    have value : (2 : ℝ) ^ (v : ℝ) = (1 : Nat) * (2 : ℝ) ^ ⌊v⌋ := by
      rw [Nat.cast_one, one_mul, ← Real.rpow_intCast]
      congr 1
      exact_mod_cast whole
    rw [value]
    exact roundTo_roundsTo fmtF32_ok (liesAt_exact 1 _) one_ne_zero nofun
  · obtain ⟨d, small, low, next, meaning⟩ := digits (by omega) high whole
    rw [meaning]
    generalize roots : exp2Roots 192 128 d (2 ^ 192) = R
    have low' : (d : ℝ) ≤ ((v : ℝ) - ⌊v⌋) * 2 ^ 128 := by exact_mod_cast low
    have next' : ((v : ℝ) - ⌊v⌋) * 2 ^ 128 < (d + 1 : ℝ) := by exact_mod_cast next
    obtain ⟨large, close⟩ := exp2_close small low' next' roots.symm
    clear roots
    have deep : 2 ^ 25 ≤ R := by omega
    refine ⟨roundTo_sticky_inexact fmtF32_ok _ deep _ _, _, ?_, roundTo_roundsTo fmtF32_ok (liesAt_half R _) (by omega) fun _ => deep⟩
    have unit : (0 : ℝ) < 2 ^ ⌊v⌋ := by positivity
    have power : (2 : ℝ) ^ (v : ℝ) = 2 ^ ⌊v⌋ * 2 ^ ((v : ℝ) - ⌊v⌋) := by
      rw [← Real.rpow_intCast, ← Real.rpow_add two_pos, add_sub_cancel]
    have point : (R + 1 / 2 : ℝ) * 2 ^ (⌊v⌋ - 192) = 2 ^ ⌊v⌋ * ((R + 1 / 2) / 2 ^ 192) := by
      rw [zpow_sub₀ two_ne_zero]
      field_simp
    rw [power, point, ← mul_sub, abs_mul, abs_of_pos unit, mul_assoc]
    gcongr

end

/-- Settles O11: RoundTo of a nonzero number is correct; a quotient, a root and the estimates are of integers that hold the
exact result, and vlog2 and vexp2 of digits close to theirs. -/
theorem correctRounding : Obligations.CorrectRounding := by
  unfold Obligations.CorrectRounding
  refine ⟨fun f listed rm neg m e nonzero => ?_, fun x y p q m n e k hx hy hm hn => fDiv_roundsTo hx hy hm hn,
    fun x m e hx hm => fSqrt_roundsTo hx hm,
    fun x m frac p e top hx small value => ⟨fRcp_estimate hx small value, fRsqrt_estimate hx small value⟩,
    fun x m e hx hm => ⟨fun k power => fLog2_power hx hm power, fun no_power => fLog2_roundsTo hx hm no_power⟩,
    fun x m p e hx => ⟨fun k integer low high => fExp2_integer hx integer low high, fun below listed => fExp2_roundsTo hx below listed⟩⟩
  have value : ((Num.fin false m e).value : ℝ) = m * (2 : ℝ) ^ e := by
    rw [Num.value_pos]
    push_cast
    rfl
  have rounded : roundNum f rm (.fin neg m e) = roundTo f rm neg m e false := if_neg (by simpa using nonzero)
  rw [value, rounded]
  exact roundTo_roundsTo (Fmt.ok_of_mem listed) (liesAt_exact m e) nonzero nofun

end Sys2Proof
end

section
/-! PROOFS. A completion at the matrix unit that the statement of O43 does not describe: that of a plane group in a scratch
memory of no canonical form. -/

namespace Sys2Proof.Machine

/-- The running entry of core 0: a plane group of one plane at offset 0x1000 of the scratch memory, of weights 0. -/
def planeRun : TileRun where
  op := ⟨0, 0, 0, none, .tplane 0xFF20000000001000 0 7 2⟩
  data := 0
  rows := 0
  head := ⟨0, []⟩
  valid := 0
  segs := []

/-- That core, whose scratch memory lists the address of byte 10 of the group's header twice. -/
def State.planeTwice : State :=
  State.reset.modCore 0 fun k => { k with tile := { k.tile with running := some planeRun }, scratch := Memory.twice 0x100A }

theorem State.planeTwice_completes :
    Leaves (.tileComplete 0) State.planeTwice (fun y => (y.core 0).scratch.get 0x100A == 5) = true := by decide +kernel

end Sys2Proof.Machine

namespace Sys2Proof

open Sys2Proof.Machine

/-- Refutes O43: the clause of the header of a plane group. Nothing in it asks for the canonical form of the scratch memory
(State.MemoryOk): where the address of a header byte is listed twice, a write of 0 leaves the hidden byte. -/
theorem not_tileCompletes : ¬ Obligations.TileCompletes := by
  unfold Obligations.TileCompletes
  intro completes
  obtain ⟨-, -, -, -, -, -, -, plane, -⟩ := completes State.planeTwice 0 planeRun (by decide +kernel)
  obtain ⟨y, hy, -, -, -, header, -⟩ := (plane _ _ _ _ rfl (by decide)).2 (by decide +kernel)
  have zero : (y.core 0).scratch.get 0x100A = 0 := BitVec.eq_of_toNat_eq (header 10 (by decide))
  have hidden := of_leaves State.planeTwice_completes hy
  rw [zero] at hidden
  exact absurd hidden (by decide)

end Sys2Proof
end

section
/-! PROOFS. The lists of elements that the reductions and the running sums work on (R109, R125, R126), and the tree of sums
(R76). -/

namespace Sys2Proof

/-! ### Trees of sums -/

/-- Node i of level k of the tree (R76). -/
def treeNode (leaf : Nat → Nat) : Nat → Nat → Nat
  | 0, i => leaf i
  | k + 1, i => (fAdd fmtF32 .rne (treeNode leaf k (2 * i)) (treeNode leaf k (2 * i + 1))).1

/-- The addition whose result is node i of level k + 1. -/
def treeStep (leaf : Nat → Nat) (k i : Nat) : Nat × Flags :=
  fAdd fmtF32 .rne (treeNode leaf k (2 * i)) (treeNode leaf k (2 * i + 1))

/-- The pairwise sums of a level. -/
theorem treeLevel_range (n : Nat) : ∀ leaf : Nat → Nat, ∃ fl : Flags, treeLevel ((List.range (2 * n)).map leaf) =
      ((List.range n).map fun i => (fAdd fmtF32 .rne (leaf (2 * i)) (leaf (2 * i + 1))).1, fl) ∧
    ∀ b, fl.getLsbD b = true ↔ ∃ i < n, (fAdd fmtF32 .rne (leaf (2 * i)) (leaf (2 * i + 1))).2.getLsbD b = true := by
  induction n with
  | zero => exact fun leaf => ⟨0, rfl, by simp⟩
  | succ n ih =>
    intro leaf
    obtain ⟨fl, sums, bits⟩ := ih fun i => leaf (i + 2)
    have split : (List.range (2 * (n + 1))).map leaf = leaf 0 :: leaf 1 :: (List.range (2 * n)).map fun i => leaf (i + 2) := by
      rw [Nat.mul_succ, List.range_succ_eq_map, List.range_succ_eq_map]
      simp
    refine ⟨(fAdd fmtF32 .rne (leaf 0) (leaf 1)).2 ||| fl, ?_, fun b => ?_⟩
    · rw [split, treeLevel, sums, List.range_succ_eq_map (n := n)]
      simp [Function.comp_def, Nat.mul_succ]
    · rw [BitVec.getLsbD_or, Bool.or_eq_true, bits]
      constructor
      · rintro (h | ⟨i, hi, h⟩)
        · exact ⟨0, Nat.succ_pos _, h⟩
        · exact ⟨i + 1, Nat.succ_lt_succ hi, h⟩
      · rintro ⟨_ | i, hi, h⟩
        · exact .inl h
        · exact .inr ⟨i, Nat.lt_of_succ_lt_succ hi, h⟩

/-- The part of the tree above level j. -/
theorem treeSum_node (leaf : Nat → Nat) : ∀ levels j : Nat, ∃ fl : Flags,
    treeSum levels ((List.range (2 ^ levels)).map (treeNode leaf j)) = (treeNode leaf (j + levels) 0, fl) ∧
      ∀ b, fl.getLsbD b = true ↔ ∃ k i, k < levels ∧ i < 2 ^ (levels - 1 - k) ∧ (treeStep leaf (j + k) i).2.getLsbD b = true
  | 0, j => ⟨0, rfl, by simp⟩
  | levels + 1, j => by
    obtain ⟨fl, sums, bits⟩ := treeLevel_range (2 ^ levels) (treeNode leaf j)
    obtain ⟨fl', root, bits'⟩ := treeSum_node leaf levels (j + 1)
    refine ⟨fl ||| fl', ?_, fun b => ?_⟩
    · have level : treeLevel ((List.range (2 * 2 ^ levels)).map (treeNode leaf j)) =
          ((List.range (2 ^ levels)).map (treeNode leaf (j + 1)), fl) := sums
      simp only [pow_succ', treeSum, level, root]
      rw [show j + 1 + levels = j + (levels + 1) by omega]
    · rw [BitVec.getLsbD_or, Bool.or_eq_true, bits, bits']
      constructor
      · rintro (⟨i, hi, h⟩ | ⟨k, i, hk, hi, h⟩)
        · exact ⟨0, i, Nat.succ_pos _, hi, h⟩
        · refine ⟨k + 1, i, Nat.succ_lt_succ hk, ?_, ?_⟩
          · rwa [show levels + 1 - 1 - (k + 1) = levels - 1 - k by omega]
          · rwa [show j + (k + 1) = j + 1 + k by omega]
      · rintro ⟨_ | k, i, hk, hi, h⟩
        · exact .inl ⟨i, hi, h⟩
        · refine .inr ⟨k, i, Nat.lt_of_succ_lt_succ hk, ?_, ?_⟩
          · rwa [show levels - 1 - k = levels + 1 - 1 - (k + 1) by omega]
          · rwa [show j + 1 + k = j + (k + 1) by omega]

/-- The tree of R76 over a list of leaves. -/
theorem treeSum_treeSums (levels : Nat) (leaf : Nat → Nat) : let sum := treeSum levels ((List.range (2 ^ levels)).map leaf)
    TreeSums levels leaf sum.1 sum.2 := by
  obtain ⟨fl, root, bits⟩ := treeSum_node leaf levels 0
  have leaves : treeNode leaf 0 = leaf := rfl
  rw [leaves, Nat.zero_add] at root
  simp only [Nat.zero_add] at bits
  rw [root]
  exact ⟨treeNode leaf, leaves, rfl, fun k i => rfl, bits⟩

namespace Machine

/-! ### The elements of a register -/

/-- A range of blocks, block by block. -/
theorem flatMap_range {α : Type} (n m : Nat) (pos : 0 < m) (f : Nat → Nat → α) :
    ((List.range n).flatMap fun i => (List.range m).map (f i)) = (List.range (n * m)).map fun e => f (e / m) (e % m) := by
  induction n with
  | zero => simp
  | succ n ih =>
    rw [List.range_succ, List.flatMap_append, ih, Nat.succ_mul, List.range_add, List.map_append]
    congr 1
    simp only [List.flatMap_cons, List.flatMap_nil, List.append_nil, List.map_map]
    refine List.map_congr_left fun j hj => ?_
    have below := List.mem_range.1 hj
    rw [Function.comp_apply, Nat.mul_comm n m, Nat.mul_add_div pos, Nat.div_eq_of_lt below, Nat.mul_add_mod, Nat.mod_eq_of_lt below, Nat.add_zero]

theorem ETy.perLane_pos (ty : ETy) : 0 < 32 / ty.width := by cases ty <;> decide

/-- The elements of a register by their number (R109). -/
theorem vecElems_eq (ty : ETy) (v : Vec) : vecElems ty v =
    (List.range (32 * (32 / ty.width))).map fun e => elementOf ty v[Fin.ofNat 32 (e / (32 / ty.width))] (e % (32 / ty.width)) := by
  have lanes : v.toList = (List.range 32).map fun i => v[Fin.ofNat 32 i] := by
    apply List.ext_getElem
    · simp
    · intro i h _
      have : i < 32 := by simpa using h
      simp [Nat.mod_eq_of_lt this]
  rw [vecElems, lanes, List.flatMap_map]
  simp only [laneSplit_eq]
  exact flatMap_range 32 _ (ETy.perLane_pos ty) _

@[simp] theorem elementOf_zero (ty : ETy) (j : Nat) : elementOf ty 0 j = 0 := by simp [elementOf]

/-- Element e of a register, zero in a masked lane (R125, R127). -/
def State.masked (s : State) (a : VReg) (ty : ETy) (k : KReg) (e : Nat) : Nat :=
  if (s.me.kreg k).getLsbD (e / (32 / ty.width)) = true then s.element (.v a) ty (Fin.ofNat 32 (e / (32 / ty.width))) (e % (32 / ty.width)) else 0

theorem State.element_merged (s : State) {a : VReg} {ty : ETy} {k : KReg} {i j : Nat} (n : Fin 32) (number : n.val = i) :
    elementOf ty (mergeV (s.me.kreg k) true s.me.v[a] s.me.v[a])[n] j =
      if (s.me.kreg k).getLsbD i = true then s.element (.v a) ty n j else 0 := by
  subst number
  rw [mergeV_getElem]
  split
  · rfl
  · exact elementOf_zero ty j

theorem State.maskedElems_eq (s : State) (a : VReg) (ty : ETy) (k : KReg) :
    maskedElems ty (s.me.kreg k) s.me.v[a] = (List.range (32 * (32 / ty.width))).map (s.masked a ty k) := by
  rw [maskedElems, vecElems_eq]
  refine List.map_congr_left fun e he => ?_
  have lane : e / (32 / ty.width) < 32 := Nat.div_lt_of_lt_mul (by rw [Nat.mul_comm]; exact List.mem_range.1 he)
  exact s.element_merged (Fin.ofNat 32 (e / (32 / ty.width))) (Nat.mod_eq_of_lt lane)

/-- The elements of the unmasked lanes. -/
theorem State.mem_selectedElems {s : State} {a : VReg} {ty : ETy} {k : KReg} {x : Nat} : x ∈ selectedElems ty (s.me.kreg k) s.me.v[a] ↔
    ∃ (n : Fin 32) (j : Nat), (s.me.kreg k).getLsbD n = true ∧ j < 32 / ty.width ∧ x = s.element (.v a) ty n j := by
  simp only [selectedElems, List.mem_flatMap, List.mem_finRange, true_and]
  refine exists_congr fun n => ?_
  by_cases on : (s.me.kreg k).getLsbD n = true
  · rw [if_pos on, laneSplit_eq, List.mem_map]
    simp only [List.mem_range]
    exact ⟨fun ⟨j, hj, h⟩ => ⟨j, on, hj, h.symm⟩, fun ⟨j, _, hj, h⟩ => ⟨j, hj, h.symm⟩⟩
  · rw [if_neg on]
    exact iff_of_false List.not_mem_nil fun ⟨_, h, _⟩ => on h

theorem State.selectedElems_eq_nil {s : State} {a : VReg} {ty : ETy} {k : KReg} : selectedElems ty (s.me.kreg k) s.me.v[a] = [] ↔
    ∀ n : Fin 32, ¬(s.me.kreg k).getLsbD n = true := by
  constructor
  · intro nil n on
    have : s.element (.v a) ty n 0 ∈ selectedElems ty (s.me.kreg k) s.me.v[a] :=
      State.mem_selectedElems.2 ⟨n, 0, on, ETy.perLane_pos ty, rfl⟩
    rw [nil] at this
    exact List.not_mem_nil this
  · intro off
    refine List.eq_nil_iff_forall_not_mem.2 fun x hx => ?_
    obtain ⟨n, -, on, -⟩ := State.mem_selectedElems.1 hx
    exact off n on

/-- The unmasked lanes in ascending order, each with its element. -/
theorem State.selectedLanes_eq (s : State) (a : VReg) (k : KReg) : selectedLanes (s.me.kreg k) s.me.v[a] =
    ((List.finRange 32).filter fun n : Fin 32 => (s.me.kreg k).getLsbD n).map fun n : Fin 32 => (n.val, s.me.v[a][n].toNat) := by
  rw [selectedLanes]
  induction List.finRange 32 with
  | nil => rfl
  | cons n ns ih =>
    rw [List.flatMap_cons, ih, List.filter_cons]
    split <;> rfl

theorem State.element_word {s : State} {a : VReg} {ty : ETy} (word : ty.width = 32) (n : Fin 32) :
    s.me.v[a][n].toNat = s.element (.v a) ty n 0 := by
  change _ = elementOf ty s.me.v[a][n] 0
  rw [elementOf, word, Nat.mul_zero, pow_zero, Nat.div_one]
  exact (Nat.mod_eq_of_lt (s.me.v[a][n]).isLt).symm

theorem State.mem_selectedLanes {s : State} {a : VReg} {ty : ETy} {k : KReg} (word : ty.width = 32) {x : Nat × Nat} :
    x ∈ selectedLanes (s.me.kreg k) s.me.v[a] ↔
      ∃ n : Fin 32, (s.me.kreg k).getLsbD n = true ∧ x = (n.val, s.element (.v a) ty n 0) := by
  rw [State.selectedLanes_eq, List.mem_map]
  simp only [List.mem_filter, List.mem_finRange, true_and, State.element_word word]
  exact exists_congr fun n => and_congr_right fun _ => eq_comm

theorem State.selectedLanes_ascending (s : State) (a : VReg) (k : KReg) :
    (selectedLanes (s.me.kreg k) s.me.v[a]).Pairwise fun x y => x.1 < y.1 := by
  rw [State.selectedLanes_eq, List.pairwise_map]
  exact (List.pairwise_lt_finRange 32).filter _

end Machine

end Sys2Proof
end

section
/-! PROOFS. Reductions (R76, R125, R126): the sum of the tree, and the extremes of the unmasked elements as the first best of a
list. -/

namespace Sys2Proof

/-! ### The first best of a list -/

/-- The key by which a maximum or a minimum is selected. -/
def toward (max : Bool) (x : Int) : Int := if max then x else -x

theorem toward_lt {max : Bool} {x y : Int} : toward max x < toward max y ↔ if max then x < y else y < x := by
  cases max <;> simp [toward]

/-- r is the first of the members with the greatest key. -/
def FirstBest {α : Type} (κ : α → Int) (xs : List α) (r : α) : Prop :=
  ∃ before after, xs = before ++ r :: after ∧ (∀ y ∈ before, κ y < κ r) ∧ ∀ y ∈ after, κ y ≤ κ r

section
variable {α : Type} {κ : α → Int} {xs : List α} {r : α}

theorem FirstBest.mem (best : FirstBest κ xs r) : r ∈ xs := by
  obtain ⟨before, after, rfl, -, -⟩ := best
  simp

theorem FirstBest.le (best : FirstBest κ xs r) {y : α} (hy : y ∈ xs) : κ y ≤ κ r := by
  obtain ⟨before, after, rfl, low, high⟩ := best
  obtain h | h | h : y ∈ before ∨ y = r ∨ y ∈ after := by simpa using hy
  · exact (low y h).le
  · rw [h]
  · exact high y h

/-- In a list that ascends, every smaller member has a smaller key. -/
theorem FirstBest.lt_of_lt {xs : List (Nat × Nat)} {κ : Nat × Nat → Int} {r y : Nat × Nat} (best : FirstBest κ xs r)
    (ascends : xs.Pairwise fun x y => x.1 < y.1) (hy : y ∈ xs) (earlier : y.1 < r.1) : κ y < κ r := by
  obtain ⟨before, after, rfl, low, -⟩ := best
  obtain h | h | h : y ∈ before ∨ y = r ∨ y ∈ after := by simpa using hy
  · exact low y h
  · exact absurd (h ▸ earlier) (Nat.lt_irrefl _)
  · have later := (List.pairwise_cons.1 (List.pairwise_append.1 ascends).2.1).1 y h
    exact absurd (later.trans earlier) (Nat.lt_irrefl _)

/-- A fold that moves to a better member finds the first best one. -/
theorem foldl_firstBest {step : α → α → α} {P : α → Prop} (moves : ∀ a b, P a → P b → step a b = if κ a < κ b then b else a) :
    ∀ (xs : List α) (x : α), (∀ y ∈ x :: xs, P y) → FirstBest κ (x :: xs) (xs.foldl step x)
  | [], x, _ => ⟨[], [], rfl, nofun, nofun⟩
  | y :: ys, x, holds => by
    obtain ⟨hx, hy, hys⟩ : P x ∧ P y ∧ ∀ z ∈ ys, P z := by simpa using holds
    rw [List.foldl_cons, moves x y hx hy]
    by_cases better : κ x < κ y
    · rw [if_pos better]
      have best := foldl_firstBest moves ys y (by simpa using ⟨hy, hys⟩)
      have above := best.le List.mem_cons_self
      obtain ⟨before, after, split, low, high⟩ := best
      exact ⟨x :: before, after, by rw [split]; rfl, fun z hz => by
        obtain rfl | hz := List.mem_cons.1 hz
        · exact better.trans_le above
        · exact low z hz, high⟩
    · rw [if_neg better]
      obtain ⟨before, after, split, low, high⟩ := foldl_firstBest moves ys x (by simpa using ⟨hx, hys⟩)
      cases before with
      | nil =>
        obtain ⟨hr, rfl⟩ := List.cons.inj split
        exact ⟨[], y :: ys, by rw [← hr]; rfl, nofun, fun z hz => by
          obtain rfl | hz := List.mem_cons.1 hz
          · exact hr ▸ Int.not_lt.1 better
          · exact high z hz⟩
      | cons z before =>
        obtain ⟨rfl, rest⟩ := List.cons.inj split
        exact ⟨x :: y :: before, after, congrArg (x :: y :: ·) rest, fun z hz => by
          obtain rfl | rfl | hz : z = x ∨ z = y ∨ z ∈ before := by simpa using hz
          · exact low _ List.mem_cons_self
          · exact (Int.not_lt.1 better).trans_lt (low x List.mem_cons_self)
          · exact low z (List.mem_cons_of_mem _ hz), high⟩

end

namespace Machine

/-! ### Extremes -/

/-- The value of an element lies within the bounds of its type (R66). -/
theorem ETy.int_bounds {ty : ETy} (int : ty.isFloat = false) {x : Nat} (h : x < 2 ^ ty.width) : ty.bounds.1 ≤ ty.int x ∧ ty.int x ≤ ty.bounds.2 := by
  rw [← ETy.int_cases]
  cases ty <;> simp [ETy.isFloat, ETy.bounds, ETy.width] at int h ⊢ <;> omega

/-- A value within the bounds is extended as it is (R125). -/
theorem ETy.extend_eq {ty : ETy} {x : Int} (low : ty.bounds.1 ≤ x) (high : x ≤ ty.bounds.2) : ETy.extend ty x = BitVec.ofInt 64 x := by
  unfold ETy.extend
  split
  · next h =>
    obtain rfl : ty = .n32 := by simpa using h
    simp [ETy.bounds] at low high
    rw [Int.emod_eq_of_lt low (by omega)]
  · rfl

section
variable {ty : ETy} {max : Bool}

theorem redMinMax_int (int : ty.isFloat = false) (xs : List Nat) : ∃ r : Int, redMinMax ty max xs = (ETy.extend ty r, 0) ∧
    (xs = [] → r = if max then ty.bounds.1 else ty.bounds.2) ∧
    (xs ≠ [] → (∃ x ∈ xs, r = ty.int x) ∧ ∀ y ∈ xs, toward max (ty.int y) ≤ toward max r) := by
  rw [redMinMax, if_neg (by simp [int])]
  cases xs with
  | nil => exact ⟨_, rfl, fun _ => rfl, fun h => absurd rfl h⟩
  | cons x xs =>
    have best := foldl_firstBest (κ := toward max) (P := fun _ => True)
      (step := fun acc y => if (if max then y > acc else y < acc) then y else acc) (fun a b _ _ => by simp only [toward_lt, gt_iff_lt])
      (xs.map ty.int) (ty.int x) (fun _ _ => trivial)
    refine ⟨_, rfl, nofun, fun _ => ⟨?_, fun y hy => best.le (List.mem_map_of_mem (f := ty.int) hy)⟩⟩
    obtain ⟨z, hz, h⟩ := List.mem_map.1 (show _ ∈ (x :: xs).map ty.int from best.mem)
    exact ⟨z, hz, h.symm⟩

theorem redMinMax_float (float : ty.isFloat = true) (xs : List Nat) : ∃ v : Nat,
    redMinMax ty max xs = (BitVec.ofNat 64 v, flagIf (xs.any fun x => (ty.fmt.val x).isSnan) flagInv) ∧
    (xs = [] → v = ty.fmt.inf max) ∧ (xs ≠ [] → (∀ x ∈ xs, (ty.fmt.val x).isNan = true) → v = ty.fmt.nan) ∧
    ((∃ x ∈ xs, (ty.fmt.val x).isNan = false) →
      FirstBest (fun x => toward max (ty.fmt.place x)) (xs.filter fun x => !(ty.fmt.val x).isNan) v) := by
  rw [redMinMax, if_pos float]
  simp only [Fmt.rank_isSome]
  refine ⟨_, rfl, ?_, ?_, ?_⟩
  · rintro rfl
    rfl
  · intro nonempty nans
    rw [List.filter_eq_nil_iff.2 fun x hx => by simp [nans x hx]]
    exact if_neg (by simpa using nonempty)
  · rintro ⟨x, hx, number⟩
    have numbers : ∀ y ∈ xs.filter fun x => !(ty.fmt.val x).isNan, (ty.fmt.val y).isNan = false := fun y hy => by
      simpa using (List.mem_filter.1 hy).2
    have hx' : x ∈ xs.filter fun x => !(ty.fmt.val x).isNan := List.mem_filter.2 ⟨hx, by simp [number]⟩
    generalize (xs.filter fun x => !(ty.fmt.val x).isNan) = ys at *
    cases ys with
    | nil => exact absurd hx' List.not_mem_nil
    | cons y ys =>
      exact foldl_firstBest (P := fun x => (ty.fmt.val x).isNan = false)
        (fun a b ha hb => by simp only [fMinMax_numbers ha hb, toward_lt, gt_iff_lt]) ys y numbers

theorem indexed_int (notF32 : ty ≠ .f32) (xs : List (Nat × Nat)) : ∃ i v : Nat,
    indexed ty max xs = (BitVec.ofNat 64 (i * 2 ^ 32 + v), 0) ∧
    (xs = [] → i = 0xFFFFFFFF ∧ v = wrapNat 32 (if max then ty.bounds.1 else ty.bounds.2)) ∧
    (xs ≠ [] → FirstBest (fun x => toward max (ty.int x.2)) xs (i, v)) := by
  rw [indexed, if_neg (by simpa using notF32)]
  cases xs with
  | nil => exact ⟨_, _, rfl, fun _ => ⟨rfl, rfl⟩, fun h => absurd rfl h⟩
  | cons x xs =>
    refine ⟨_, _, rfl, nofun, fun _ => ?_⟩
    exact foldl_firstBest (P := fun _ => True) (fun a b _ _ => by cases max <;> simp [toward_lt]) xs x fun _ _ => trivial

theorem indexed_float (xs : List (Nat × Nat)) : ∃ i v : Nat,
    indexed .f32 max xs = (BitVec.ofNat 64 (i * 2 ^ 32 + v), flagIf (xs.any fun x => (fmtF32.val x.2).isSnan) flagInv) ∧
    (xs = [] → i = 0xFFFFFFFF ∧ v = fmtF32.inf max) ∧
    (xs ≠ [] → (∀ x ∈ xs, (fmtF32.val x.2).isNan = true) → v = fmtF32.nan ∧ ∃ x rest, xs = x :: rest ∧ i = x.1) ∧
    ((∃ x ∈ xs, (fmtF32.val x.2).isNan = false) →
      FirstBest (fun x => toward max (fmtF32.place x.2)) (xs.filter fun x => !(fmtF32.val x.2).isNan) (i, v)) := by
  rw [indexed, if_pos (by decide)]
  simp only [Fmt.rank_isSome]
  have numbers : ∀ x ∈ xs.filter fun x => !(fmtF32.val x.2).isNan, (fmtF32.val x.2).isNan = false := fun x hx => by
    simpa using (List.mem_filter.1 hx).2
  cases split : xs.filter fun x => !(fmtF32.val x.2).isNan with
  | nil =>
    have nans : ∀ x ∈ xs, ¬(fmtF32.val x.2).isNan = false := fun x hx number =>
      List.filter_eq_nil_iff.1 split x hx (by simp [number])
    cases xs with
    | nil => exact ⟨_, _, rfl, fun _ => ⟨rfl, rfl⟩, fun h => absurd rfl h, fun ⟨_, h, _⟩ => absurd h List.not_mem_nil⟩
    | cons x xs => exact ⟨_, _, rfl, nofun, fun _ _ => ⟨rfl, x, xs, rfl, rfl⟩, fun ⟨y, hy, number⟩ => absurd number (nans y hy)⟩
  | cons y ys =>
    have hy : y ∈ xs.filter fun x => !(fmtF32.val x.2).isNan := by rw [split]; exact List.mem_cons_self
    rw [split] at numbers
    dsimp only
    generalize winner : List.foldl _ y ys = w
    refine ⟨w.1, w.2, rfl, ?_, ?_, fun _ => ?_⟩
    · rintro rfl
      exact absurd hy List.not_mem_nil
    · intro _ nans
      exact absurd (nans y (List.mem_filter.1 hy).1) (by simp [numbers y List.mem_cons_self])
    · rw [← winner]
      refine foldl_firstBest (P := fun x : Nat × Nat => (fmtF32.val x.2).isNan = false) (fun a b ha hb => ?_) ys y numbers
      have rankA : fmtF32.rank a.2 = some (fmtF32.place a.2) := Fmt.rank_of_not_nan ha
      have rankB : fmtF32.rank b.2 = some (fmtF32.place b.2) := Fmt.rank_of_not_nan hb
      cases max <;> simp [rankA, rankB, toward_lt]

end

/-! ### The instructions -/

section
variable {s : State} {i : Instr} {d : GReg} {a : VReg} {ty : ETy} {k : KReg} (plain : s.plain [.v a] [.g d])
include plain

theorem State.givesFlags_reduce {f : List Nat → W64 × Flags} {x : W64} {fl : Flags} (meaning : exec i s = s.run (reduce f d a ty k))
    (value : f (selectedElems ty (s.me.kreg k) s.me.v[a]) = (x, fl)) : s.givesFlags i d x fl := by
  have run := reduce_run f plain (ty := ty) (k := k)
  simp only [value] at run
  exact meaning.trans run

theorem State.givesFlags_indexed {max : Bool} {x : W64} {fl : Flags} (meaning : exec i s = s.run (indexedExtreme max d a ty k))
    (value : indexed ty max (selectedLanes (s.me.kreg k) s.me.v[a]) = (x, fl)) : s.givesFlags i d x fl := by
  have run := indexedExtreme_run plain (ty := ty) (k := k) (max := max)
  simp only [value] at run
  exact meaning.trans run

theorem State.givesFlags_vredsum {x : W64} {fl : Flags} (value : redSum ty (maskedElems ty (s.me.kreg k) s.me.v[a]) = (x, fl)) :
    s.givesFlags (.vredsum d a ty k) d x fl := by
  refine State.run_advance ?_
  rw [op_bind_ok (ready_plain plain), op_bind_ok (srcV_eq ..), op_bind_ok (srcK_eq ..)]
  simp only [value]
  exact dstG_flags_advance _ _ (State.plain_dst plain (by simp))

end

/-- Sums of integers and of floats (R76, R125). -/
theorem redSum_int {ty : ETy} (int : ty.isFloat = false) (xs : List Nat) : redSum ty xs = (BitVec.ofInt 64 (xs.map ty.int).sum, 0) := by
  rw [redSum, if_neg, if_neg (by simp [int]), List.sum_eq_foldl]
  rintro h
  obtain rfl : ty = .f32 := by simpa using h
  cases int

theorem redSum_f32 (leaf : Nat → Nat) : ∃ r fl, redSum .f32 ((List.range 32).map leaf) = (BitVec.ofNat 64 r, fl) ∧ TreeSums 5 leaf r fl :=
  ⟨_, _, if_pos (by decide), treeSum_treeSums 5 leaf⟩

theorem redSum_half {ty : ETy} (float : ty.isFloat = true) (width : ty.width = 16) (leaf : Nat → Nat) :
    let y (e : Nat) : Nat × Flags := convert .f32 ty .rne (leaf e)
    ∃ r fl sums, redSum ty ((List.range 64).map leaf) = (BitVec.ofNat 64 r, fl) ∧ TreeSums 6 (fun e => (y e).1) r sums ∧
      ∀ b, fl.getLsbD b = true ↔ sums.getLsbD b = true ∨ ∃ e < 64, (y e).2.getLsbD b = true := by
  intro y
  have short : ¬(ty == .f32) = true := fun h => by
    obtain rfl : ty = .f32 := by simpa using h
    cases width
  have tree := treeSum_treeSums 6 fun e => (y e).1
  have leaves : (((List.range 64).map leaf).map (convert .f32 ty .rne)).map Prod.fst = (List.range (2 ^ 6)).map fun e => (y e).1 := by
    simp [y, Function.comp_def]
  rw [redSum, if_neg short, if_pos float]
  simp only [leaves]
  generalize treeSum 6 ((List.range (2 ^ 6)).map fun e => (y e).1) = p at *
  obtain ⟨r, sums⟩ := p
  refine ⟨r, _, sums, rfl, tree, fun b => ?_⟩
  · rw [foldl_or_getLsbD (fun y : Nat × Flags => y.2)]
    simp [y]

end Machine

end Sys2Proof
end

section
/-! PROOFS. The reductions of a register (R76, R125, R126), said by its lanes and elements. -/

namespace Sys2Proof.Machine

section
variable {s : State} {d : GReg} {a : VReg} {ty : ETy} {k : KReg} (plain : s.plain [.v a] [.g d])

/-- A signalling NaN among the unmasked elements (R73). -/
def State.meetsSnan (s : State) (a : VReg) (ty : ETy) (k : KReg) : Prop :=
  ∃ (n : Fin 32) (j : Nat), (s.me.kreg k).getLsbD n = true ∧ j < 32 / ty.width ∧ (ty.fmt.val (s.element (.v a) ty n j)).isSnan = true

theorem flagIf_spec {p : Prop} {b : Bool} {fl : Flags} (h : b = true ↔ p) : (p → flagIf b fl = fl) ∧ (¬p → flagIf b fl = 0) := by
  rw [← h]
  cases b <;> simp [flagIf]

theorem State.any_selectedElems : ((selectedElems ty (s.me.kreg k) s.me.v[a]).any fun x => (ty.fmt.val x).isSnan) = true ↔ s.meetsSnan a ty k := by
  rw [List.any_eq_true]
  constructor
  · rintro ⟨x, hx, snan⟩
    obtain ⟨n, j, on, hj, rfl⟩ := State.mem_selectedElems.1 hx
    exact ⟨n, j, on, hj, snan⟩
  · rintro ⟨n, j, on, hj, snan⟩
    exact ⟨_, State.mem_selectedElems.2 ⟨n, j, on, hj, rfl⟩, snan⟩

theorem State.any_selectedLanes : ((selectedLanes (s.me.kreg k) s.me.v[a]).any fun x => (fmtF32.val x.2).isSnan) = true ↔ s.meetsSnan a .f32 k := by
  rw [List.any_eq_true]
  constructor
  · rintro ⟨x, hx, snan⟩
    obtain ⟨n, on, rfl⟩ := (State.mem_selectedLanes (ty := .f32) rfl).1 hx
    exact ⟨n, 0, on, by decide, snan⟩
  · rintro ⟨n, j, on, hj, snan⟩
    obtain rfl : j = 0 := Nat.lt_one_iff.1 hj
    exact ⟨_, (State.mem_selectedLanes (ty := .f32) rfl).2 ⟨n, on, rfl⟩, snan⟩

theorem State.selectedElems_ne_nil (some_ : ∃ n : Fin 32, (s.me.kreg k).getLsbD n = true) : selectedElems ty (s.me.kreg k) s.me.v[a] ≠ [] :=
  fun nil => some_.elim fun n on => State.selectedElems_eq_nil.1 nil n on

theorem State.selectedLanes_eq_nil : selectedLanes (s.me.kreg k) s.me.v[a] = [] ↔ ∀ n : Fin 32, ¬(s.me.kreg k).getLsbD n = true := by
  rw [State.selectedLanes_eq, List.map_eq_nil_iff, List.filter_eq_nil_iff]
  simp

theorem State.selectedLanes_ne_nil (some_ : ∃ n : Fin 32, (s.me.kreg k).getLsbD n = true) : selectedLanes (s.me.kreg k) s.me.v[a] ≠ [] :=
  fun nil => some_.elim fun n on => State.selectedLanes_eq_nil.1 nil n on

theorem Fmt.below_toward {f : Fmt} (ok : f.Ok) {max : Bool} {x y : Nat} (hx : (f.val x).isNan = false) (hy : (f.val y).isNan = false) :
    (if max then (f.val x).Below (f.val y) else (f.val y).Below (f.val x)) ↔ toward max (f.place x) < toward max (f.place y) := by
  rw [Fmt.below_iff ok hx hy, Fmt.below_iff ok hy hx]
  exact toward_lt.symm

/-- An extreme of integers is one of the values, or the bound that loses to all of them (R125). -/
theorem redMinMax_selected (s : State) (a : VReg) (k : KReg) (int : ty.isFloat = false) (max : Bool) : ∃ r : Int,
    redMinMax ty max (selectedElems ty (s.me.kreg k) s.me.v[a]) = (BitVec.ofInt 64 r, 0) ∧
    ((∀ n : Fin 32, ¬(s.me.kreg k).getLsbD n = true) → r = if max then ty.bounds.1 else ty.bounds.2) ∧
    ((∃ n : Fin 32, (s.me.kreg k).getLsbD n = true) →
      (∃ (n : Fin 32) (j : Nat), (s.me.kreg k).getLsbD n = true ∧ j < 32 / ty.width ∧ r = ty.int (s.element (.v a) ty n j)) ∧
      ∀ (n : Fin 32) (j : Nat), (s.me.kreg k).getLsbD n = true → j < 32 / ty.width →
        toward max (ty.int (s.element (.v a) ty n j)) ≤ toward max r) := by
  obtain ⟨r, value, none_, some_⟩ := redMinMax_int int (max := max) (selectedElems ty (s.me.kreg k) s.me.v[a])
  have found (on : ∃ n : Fin 32, (s.me.kreg k).getLsbD n = true) :
      ∃ (n : Fin 32) (j : Nat), (s.me.kreg k).getLsbD n = true ∧ j < 32 / ty.width ∧ r = ty.int (s.element (.v a) ty n j) := by
    obtain ⟨⟨x, hx, hr⟩, -⟩ := some_ (State.selectedElems_ne_nil on)
    obtain ⟨n, j, on, hj, rfl⟩ := State.mem_selectedElems.1 hx
    exact ⟨n, j, on, hj, hr⟩
  have bounds : ty.bounds.1 ≤ r ∧ r ≤ ty.bounds.2 := by
    by_cases on : ∃ n : Fin 32, (s.me.kreg k).getLsbD n = true
    · obtain ⟨n, j, -, -, rfl⟩ := found on
      exact ETy.int_bounds int (s.element_lt _ ty n j)
    · rw [none_ (State.selectedElems_eq_nil.2 (not_exists.1 on))]
      cases max
      · exact ⟨ty.bounds_le, le_rfl⟩
      · exact ⟨le_rfl, ty.bounds_le⟩
  refine ⟨r, by rw [value, ETy.extend_eq bounds.1 bounds.2], fun off => none_ (State.selectedElems_eq_nil.2 off),
    fun on => ⟨found on, fun n j hn hj => ?_⟩⟩
  exact (some_ (State.selectedElems_ne_nil on)).2 _ (State.mem_selectedElems.2 ⟨n, j, hn, hj, rfl⟩)

end

end Sys2Proof.Machine

namespace Sys2Proof

open Sys2Proof.Machine

/-- Settles O17: the sums are the tree's, and an extreme is the first best element of the unmasked ones. -/
theorem reductions : Obligations.Reductions := by
  unfold Obligations.Reductions
  intro s d a ty k plain epl on x at0 num extend snan flags
  refine ⟨fun int => ⟨?sum, ?extremes, fun word max => ?indexed⟩, fun single => ?f32, fun float => ⟨fun half => ?half, fun max => ?floats⟩⟩
  case sum =>
    refine State.givesFlags_vredsum plain ?_
    rw [State.maskedElems_eq, redSum_int int, List.map_map]
    congr 3
    refine List.map_congr_left fun e _ => ?_
    change ty.int (at0 e) = if at0 e = 0 then 0 else ty.int (at0 e)
    split
    · next zero => rw [zero, ← ETy.int_cases]; simp
    · rfl
  case extremes =>
    obtain ⟨lo, valueLo, noneLo, someLo⟩ := redMinMax_selected s a k int false
    obtain ⟨hi, valueHi, noneHi, someHi⟩ := redMinMax_selected s a k int true
    refine ⟨lo, hi, State.givesFlags_reduce plain rfl valueLo, State.givesFlags_reduce plain rfl valueHi,
      fun off => ⟨noneLo off, noneHi off⟩, fun some_ => ⟨(someLo some_).1, (someHi some_).1, fun n j hn hj => ⟨?_, ?_⟩⟩⟩
    · simpa [toward] using (someLo some_).2 n j hn hj
    · simpa [toward] using (someHi some_).2 n j hn hj
  case indexed =>
    obtain ⟨i, v, value, none_, some_⟩ := indexed_int (max := max) (ty := ty) (by rintro rfl; cases int) (selectedLanes (s.me.kreg k) s.me.v[a])
    refine ⟨i, v, ?_, fun off => ?_, fun found => ?_⟩
    · cases max <;> exact State.givesFlags_indexed plain rfl value
    · obtain ⟨hi, hv⟩ := none_ (State.selectedLanes_eq_nil.2 off)
      exact ⟨hi, by rw [hv, cast_wrapNat]⟩
    · have best := some_ (State.selectedLanes_ne_nil found)
      obtain ⟨n, hn, h⟩ := (State.mem_selectedLanes word).1 best.mem
      obtain ⟨rfl, rfl⟩ := Prod.mk.inj h
      refine ⟨n, hn, rfl, rfl, fun o ho => ?_⟩
      have member := (State.mem_selectedLanes (a := a) word).2 ⟨o, ho, rfl⟩
      have le := best.le member
      have lt := best.lt_of_lt (s.selectedLanes_ascending a k) member
      exact ⟨fun better => not_lt.2 le (toward_lt.2 better), fun earlier => toward_lt.1 (lt earlier)⟩
  case f32 =>
    subst single
    refine ⟨?_, fun max => ?_⟩
    · obtain ⟨r, fl, value, tree⟩ := redSum_f32 (s.masked a .f32 k)
      exact ⟨r, fl, State.givesFlags_vredsum plain (by rw [State.maskedElems_eq]; exact value), tree⟩
    obtain ⟨i, v, value, none_, nans, numbers⟩ := indexed_float (max := max) (selectedLanes (s.me.kreg k) s.me.v[a])
    have member {y : Nat × Nat} := State.mem_selectedLanes (s := s) (a := a) (k := k) (ty := .f32) rfl (x := y)
    refine ⟨i, v, _, by cases max <;> exact State.givesFlags_indexed plain rfl value, flagIf_spec State.any_selectedLanes,
      fun off => none_ (State.selectedLanes_eq_nil.2 off), fun found all => ?_, ?_⟩
    · obtain ⟨hv, y, rest, split, hi⟩ := nans (State.selectedLanes_ne_nil found) fun y hy => by
        obtain ⟨n, hn, rfl⟩ := member.1 hy
        exact all n hn
      have ascends := s.selectedLanes_ascending a k
      rw [split] at member ascends
      obtain ⟨n, hn, rfl⟩ := member.1 List.mem_cons_self
      refine ⟨hv, n, hn, hi, fun o ho => ?_⟩
      obtain same | later := List.mem_cons.1 (member.2 ⟨o, ho, rfl⟩)
      · exact (Fin.ext (Prod.mk.inj same).1).ge
      · exact ((List.pairwise_cons.1 ascends).1 _ later).le
    · rintro ⟨n, hn, number⟩
      have best := numbers ⟨_, member.2 ⟨n, hn, rfl⟩, number⟩
      obtain ⟨hy, number⟩ := List.mem_filter.1 best.mem
      obtain ⟨n, hn, h⟩ := member.1 hy
      obtain ⟨rfl, rfl⟩ := Prod.mk.inj h
      have number : (fmtF32.val (s.element (.v a) .f32 n 0)).isNan = false := by simpa using number
      refine ⟨n, hn, number, rfl, rfl, fun o ho number' => ?_⟩
      have mem := (List.mem_filter (p := fun y : Nat × Nat => !(fmtF32.val y.2).isNan)).2 ⟨member.2 ⟨o, ho, rfl⟩, congrArg (!·) number'⟩
      have le := best.le mem
      have lt := best.lt_of_lt ((s.selectedLanes_ascending a k).filter _) mem
      exact ⟨fun better => not_lt.2 le ((Fmt.below_toward fmtF32_ok number number').1 better),
        fun earlier => (Fmt.below_toward fmtF32_ok number' number).2 (lt earlier)⟩
  case half =>
    have leaves := redSum_half float half (s.masked a ty k)
    obtain ⟨r, fl, sums, value, tree, bits⟩ := leaves
    refine ⟨r, fl, sums, State.givesFlags_vredsum plain ?_, tree, bits⟩
    rw [State.maskedElems_eq, half]
    exact value
  case floats =>
    obtain ⟨v, value, none_, nans, numbers⟩ := redMinMax_float float (max := max) (selectedElems ty (s.me.kreg k) s.me.v[a])
    have member {y : Nat} := State.mem_selectedElems (s := s) (a := a) (k := k) (ty := ty) (x := y)
    refine ⟨v, _, by cases max <;> exact State.givesFlags_reduce plain rfl value, flagIf_spec State.any_selectedElems,
      fun off => none_ (State.selectedElems_eq_nil.2 off), fun found all => ?_, ?_⟩
    · refine nans (State.selectedElems_ne_nil found) fun y hy => ?_
      obtain ⟨n, j, hn, hj, rfl⟩ := member.1 hy
      exact all n j hn hj
    · rintro ⟨n, j, hn, hj, number⟩
      have best := numbers ⟨_, member.2 ⟨n, j, hn, hj, rfl⟩, number⟩
      obtain ⟨hy, number⟩ := List.mem_filter.1 best.mem
      have number : (ty.fmt.val v).isNan = false := by simpa using number
      obtain ⟨n, j, hn, hj, h⟩ := member.1 hy
      refine ⟨⟨n, j, hn, hj, (congrArg (fun y => (ty.fmt.val y).isNan) h).symm.trans number, h⟩, fun o l ho hl number' => ?_⟩
      have le := best.le ((List.mem_filter (p := fun y => !(ty.fmt.val y).isNan)).2 ⟨member.2 ⟨o, l, ho, hl, rfl⟩, congrArg (!·) number'⟩)
      have loses := fun better => not_lt.2 le ((Fmt.below_toward ty.fmt_ok number number').1 better)
      cases max <;> exact loses

end Sys2Proof
end

section
/-! PROOFS. Running sums, the clipped residual and the random stream (R76, R77, R81 to R83, R127, R129, R131, R132). -/

namespace Sys2Proof.Machine

/-! ### Results under a mask -/

/-- An instruction that leaves a result under its mask, with flags. -/
theorem State.writesLanes_merge {s : State} {i : Instr} {d : VReg} {m : Mask} {P : Fin 32 → W32 → Prop} {F : Nat → Prop} {r : Vec} {fl : Flags}
    (run : exec i s = .next (s.retire fun t => (t.setV d (mergeV (s.me.kreg m.k) m.z s.me.v[d] r)).raiseFlags fl))
    (lanes : ∀ n : Fin 32, (s.me.kreg m.k).getLsbD n = true → P n r[n]) (flags : ∀ b, fl.getLsbD b = true ↔ F b) : s.writesLanes i d m P F := by
  refine ⟨_, fl, run, fun n => ⟨fun on => ?_, fun off => ?_⟩, flags⟩
  · rw [mergeV_getElem, if_pos on]
    exact lanes n on
  · rw [mergeV_getElem, if_neg (Bool.eq_false_iff.1 off)]

/-- The elements of a register made of elements, each reduced to the element width (R109). -/
theorem elementOf_ofElems (ty : ETy) (f : Nat → Nat) (n : Fin 32) {j : Nat} (h : j < 32 / ty.width) :
    elementOf ty (ofElems ty ((List.range (32 * (32 / ty.width))).map f))[n] j = f (n * (32 / ty.width) + j) % 2 ^ ty.width := by
  generalize perLane : 32 / ty.width = p at *
  have lane : (((List.range (32 * p)).map f).drop (n * p)).take p = (List.range p).map fun i => f (n * p + i) := by
    apply List.ext_getElem
    · have := Nat.mul_le_mul_right p (Nat.succ_le_of_lt n.isLt)
      simp only [List.length_take, List.length_drop, List.length_map, List.length_range]
      rw [Nat.succ_mul] at this
      omega
    · simp
  subst perLane
  simp only [ofElems, Fin.getElem_fin, Vector.getElem_ofFn, lane]
  exact elementOf_laneJoin ty (fun i => f (n * (32 / ty.width) + i)) h

/-! ### Running sums -/

theorem range_succ_map_from {α : Type} (f : Nat → α) (n j : Nat) :
    (List.range (n + 1)).map (fun e => f (j + e)) = f j :: (List.range n).map fun e => f (j + 1 + e) := by
  rw [List.range_succ_eq_map, List.map_cons, List.map_map, Nat.add_zero]
  refine congrArg _ (List.map_congr_left fun e _ => congrArg f ?_)
  omega

theorem scanSums_range {add : Nat → Nat → Nat × Flags} {out : Nat → Nat × Flags} {x : Nat → Nat}
    (steps : ∀ e, out (e + 1) = add (out e).1 (x (e + 1))) : ∀ n j : Nat,
    scanSums add (out j).1 ((List.range n).map fun e => x (j + 1 + e)) = (List.range n).map fun e => out (j + 1 + e)
  | 0, _ => rfl
  | n + 1, j => by
    have rest := scanSums_range steps n (j + 1)
    rw [range_succ_map_from, range_succ_map_from, scanSums]
    rw [← steps, rest]

/-- The first result of a scan (R77). -/
def scanFirst (ty : ETy) (x : Nat) : Nat × Flags :=
  if ty.isFloat then finish ty.fmt .rne (ty.fmt.val x).isSnan (some (ty.fmt.val x)) else (x, 0)

/-- One step of a scan (R77). -/
def scanStep (ty : ETy) (acc x : Nat) : Nat × Flags :=
  if ty.isFloat then fAdd ty.fmt .rne acc x else ((acc + x) % 2 ^ ty.width, 0)

theorem scanAll_range {ty : ETy} {out : Nat → Nat × Flags} {x : Nat → Nat} (first : out 0 = scanFirst ty (x 0))
    (steps : ∀ e, out (e + 1) = scanStep ty (out e).1 (x (e + 1))) {n : Nat} (pos : 0 < n) :
    scanAll ty ((List.range n).map x) = (List.range n).map out := by
  obtain ⟨n, rfl⟩ := Nat.exists_eq_succ_of_ne_zero pos.ne'
  have rest := scanSums_range steps n 0
  have split {α : Type} (f : Nat → α) := range_succ_map_from f n 0
  simp only [Nat.zero_add] at split rest
  rw [Nat.succ_eq_add_one, split, split, ← rest, first, scanAll]
  cases float : ty.isFloat with
  | true =>
    have step : scanStep ty = fAdd ty.fmt .rne := by funext acc x; simp [scanStep, float]
    simp [scanFirst, float, step]
  | false =>
    have step : scanStep ty = fun acc x => ((acc + x) % 2 ^ ty.width, 0) := by funext acc x; simp [scanStep, float]
    simp [scanFirst, float, step]

/-- The flags of the unmasked elements of a scan. -/
theorem scanFlags_getLsbD (mask : W32) (out : Nat → Nat × Flags) (ty : ETy) (b : Nat) :
    ((((List.range (32 * (32 / ty.width))).map out).zip (List.range ty.count)).foldl
      (fun acc (r, e) => if mask.getLsbD (e / (32 / ty.width)) then acc ||| r.2 else acc) (0 : Flags)).getLsbD b = true ↔
    ∃ (n : Fin 32) (j : Nat), mask.getLsbD n = true ∧ j < 32 / ty.width ∧ (out (n * (32 / ty.width) + j)).2.getLsbD b = true := by
  have pos := ETy.perLane_pos ty
  have count : ty.count = 32 * (32 / ty.width) := by cases ty <;> rfl
  rw [count]
  generalize 32 / ty.width = p at *
  have numbered : ((List.range (32 * p)).map out).zip (List.range (32 * p)) = (List.range (32 * p)).map fun e => (out e, e) := by
    apply List.ext_getElem <;> simp
  have guarded : (fun (acc : Flags) (y : (Nat × Flags) × Nat) => if mask.getLsbD (y.2 / p) then acc ||| y.1.2 else acc) =
      fun acc y => acc ||| if mask.getLsbD (y.2 / p) then y.1.2 else 0 := by
    funext acc y
    split <;> simp
  rw [numbered]
  change (List.foldl (fun (acc : Flags) (y : (Nat × Flags) × Nat) => if mask.getLsbD (y.2 / p) then acc ||| y.1.2 else acc) _ _).getLsbD b = true ↔ _
  rw [guarded, foldl_or_getLsbD]
  constructor
  · rintro (h | ⟨y, hy, h⟩)
    · simp at h
    · obtain ⟨e, he, rfl⟩ := List.mem_map.1 hy
      have lane : e / p < 32 := Nat.div_lt_of_lt_mul (by rw [Nat.mul_comm]; exact List.mem_range.1 he)
      dsimp only at h
      split at h
      · next on => exact ⟨⟨e / p, lane⟩, e % p, on, Nat.mod_lt _ pos, by rwa [Nat.div_add_mod']⟩
      · simp at h
  · rintro ⟨n, j, on, hj, h⟩
    refine .inr ⟨(out (n * p + j), n * p + j), List.mem_map_of_mem (List.mem_range.2 ?_), ?_⟩
    · have := Nat.mul_le_mul_right p (Nat.succ_le_of_lt n.isLt)
      rw [Nat.succ_mul] at this
      omega
    · have lane : (n * p + j) / p = n := by rw [Nat.mul_comm, Nat.mul_add_div pos, Nat.div_eq_of_lt hj, Nat.add_zero]
      dsimp only
      rwa [lane, if_pos on]

/-- vscan computes its results element by element (R77, R127). -/
theorem State.computes_vscan {s : State} {d a : VReg} {ty : ETy} {m : Mask} (plain : s.plain [.v a] [.v d]) {out : Nat → Nat × Flags}
    (first : out 0 = scanFirst ty (s.masked a ty m.k 0)) (steps : ∀ e, out (e + 1) = scanStep ty (out e).1 (s.masked a ty m.k (e + 1))) :
    s.computes (.vscan d a ty m) d ty m fun n j => ((out (n.val * (32 / ty.width) + j)).1, (out (n.val * (32 / ty.width) + j)).2) := by
  have pos : 0 < 32 * (32 / ty.width) := Nat.mul_pos (by decide) (ETy.perLane_pos ty)
  refine State.writesLanes_merge (r := ofElems ty ((List.range (32 * (32 / ty.width))).map fun e => (out e).1)) (State.run_advance ?_)
    (fun n on j hj => ?_) (scanFlags_getLsbD (s.me.kreg m.k) out ty)
  · rw [op_bind_ok (ready_plain plain (keptBy_sub m d _)), op_bind_ok (srcV_eq ..), op_bind_ok (srcK_eq ..)]
    simp only [State.maskedElems_eq, scanAll_range first steps pos, List.map_map]
    exact dstV_advance ..
  · rw [elementOf_ofElems ty _ n hj]
    norm_cast

/-- The first result of a scan of floats, by what element 0 stands for. -/
theorem scanFirst_float {ty : ETy} (float : ty.isFloat = true) {x : Nat} (width : x < 2 ^ ty.width) : scanFirst ty x =
    if (ty.fmt.val x).isNan = true then (ty.fmt.nan, flagIf (ty.fmt.val x).isSnan flagInv) else (x, 0) := by
  have bits : 2 ^ ty.width = 2 * 2 ^ (ty.fmt.ebits + ty.fmt.fbits) := by revert float; cases ty <;> decide
  rw [scanFirst, if_pos float]
  cases nan : (ty.fmt.val x).isNan with
  | true =>
    obtain ⟨t, val⟩ := Num.eq_nan_of_isNan nan
    rw [val, finish_nan, if_pos rfl]
  | false =>
    rw [Num.isSnan_of_isNan_eq_false nan, finish_quiet, roundNum_val ty.fmt_ok (bits ▸ width) nan, if_neg Bool.false_ne_true]

theorem State.masked_lt (s : State) (a : VReg) (ty : ETy) (k : KReg) (e : Nat) : s.masked a ty k e < 2 ^ ty.width := by
  unfold State.masked
  split
  · exact s.element_lt _ ty _ _
  · positivity

/-- Running sums of integers (R127). -/
theorem State.computes_vscan_int {s : State} {d a : VReg} {ty : ETy} {m : Mask} (plain : s.plain [.v a] [.v d]) (int : ty.isFloat = false) :
    s.computes (.vscan d a ty m) d ty m fun n j => (((List.range (n.val * (32 / ty.width) + j + 1)).map (s.masked a ty m.k)).sum, 0) := by
  have sums := State.computes_vscan plain (ty := ty) (m := m)
    (out := fun e => (((List.range (e + 1)).map (s.masked a ty m.k)).sum % 2 ^ ty.width, 0)) ?_ fun e => ?_
  · exact State.computes_reduces sums fun n j _ => ⟨by push_cast; rw [Int.emod_emod], rfl⟩
  · simp [scanFirst, int, Nat.mod_eq_of_lt (s.masked_lt a ty m.k 0)]
  · rw [List.range_succ (n := e + 1), List.map_append, List.sum_append]
    simp [scanStep, int]

/-! ### The clipped residual -/

section
variable {y : Nat}

theorem fmtF32_val_zero : fmtF32.val 0 = .fin false 0 (-149) := by decide

/-- What a comparison with zero says of an encoding (R74). -/
theorem cmpVal_zero (h : (fmtF32.val y).isNan = false) : ∃ v : Int, fmtF32.cmpVal y = some v ∧
    ((Num.fin false 0 0).Less (fmtF32.val y) ↔ 0 < v) ∧ ((fmtF32.val y).Same (.fin false 0 0) ↔ v = 0) := by
  have zero : (fmtF32.val 0).isNan = false := by rw [fmtF32_val_zero]; rfl
  have less := Fmt.less_iff fmtF32_ok zero h
  have less' := Fmt.less_iff fmtF32_ok h zero
  have left : (fmtF32.val 0).Less (fmtF32.val y) ↔ (Num.fin false 0 0).Less (fmtF32.val y) := by
    rw [fmtF32_val_zero]
    cases fmtF32.val y <;> simp [Num.Less, Num.value]
  have right : (fmtF32.val y).Less (fmtF32.val 0) ↔ (fmtF32.val y).Less (.fin false 0 0) := by
    rw [fmtF32_val_zero]
    cases fmtF32.val y <;> simp [Num.Less, Num.value]
  rw [left] at less
  rw [right] at less'
  refine ⟨_, Fmt.cmpVal_of_not_nan h, less, ?_⟩
  have numbers : (fmtF32.val y).isNan = false ∧ (Num.fin false 0 0).isNan = false := ⟨h, rfl⟩
  have order : (if fmtF32.sign 0 then -(fmtF32.body 0 : Int) else fmtF32.body 0) = 0 := by decide
  rw [Num.Same, less, less', order, ← and_assoc, and_iff_right numbers]
  omega

theorem roundNum_f32_lt (rm : RMode) (u : Num) : (roundNum fmtF32 rm u).1 < 2 ^ 32 := by
  cases u with
  | nan s => exact show fmtF32.nan < 2 ^ 32 by decide
  | inf p => exact show fmtF32.inf p < 2 ^ 32 by revert p; decide
  | fin p m e =>
    rw [roundNum]
    split
    · exact show fmtF32.zero p < 2 ^ 32 by revert p; decide
    · next nonzero =>
      exact roundsTo_word_lt (roundTo_roundsTo (rm := rm) (neg := p) fmtF32_ok (liesAt_exact m e) (by simpa using nonzero) nofun)

theorem fSub_f32_lt (rm : RMode) (x y : Nat) : (fSub fmtF32 rm x y).1 < 2 ^ 32 := by
  rw [fSub]
  cases (fmtF32.val x).add rm (fmtF32.val y).neg with
  | none => exact show fmtF32.nan < 2 ^ 32 by decide
  | some u => exact roundNum_f32_lt rm u

/-- One lane of the residual, by what the difference stands for (R129). -/
theorem residLane_eq {p q r : Nat} (nan : (fmtF32.val (fSub fmtF32 .rne p q).1).isNan = true → r = fmtF32.nan)
    (above : (Num.fin false 0 0).Less (fmtF32.val (fSub fmtF32 .rne p q).1) → r = (fSub fmtF32 .rne p q).1)
    (clipped : (fmtF32.val (fSub fmtF32 .rne p q).1).isNan = false → ¬(Num.fin false 0 0).Less (fmtF32.val (fSub fmtF32 .rne p q).1) → r = 0) :
    residLane p q = (r, (fSub fmtF32 .rne p q).2) ∧ r < 2 ^ 32 := by
  have small := fSub_f32_lt .rne p q
  rw [residLane]
  generalize fSub fmtF32 .rne p q = y at *
  cases h : (fmtF32.val y.1).isNan with
  | true =>
    simp only [Fmt.cmpVal_of_nan h, nan h]
    exact ⟨trivial, by decide⟩
  | false =>
    obtain ⟨v, value, less, -⟩ := cmpVal_zero h
    simp only [value]
    by_cases pos : v > 0
    · rw [if_pos pos, above (less.2 pos)]
      exact ⟨rfl, small⟩
    · rw [if_neg pos, clipped h (fun h => pos (less.1 h))]
      exact ⟨rfl, by decide⟩

end

theorem flagResz_getLsbD (b : Nat) : flagResz.getLsbD b = true ↔ b = 5 := by
  by_cases small : b < 6
  · interval_cases b <;> decide
  · rw [BitVec.getLsbD_of_ge _ _ (by omega)]
    exact iff_of_false Bool.false_ne_true (by omega)

/-- vresid writes the clipped differences, or p where their sum is zero (R129). -/
theorem State.writesLanes_vresid {s : State} {d a b : VReg} {m : Mask} (plain : s.plain [.v a, .v b] [.v d]) {r : Fin 32 → Nat} {fl : Fin 32 → Flags}
    (on : ∀ n : Fin 32, (s.me.kreg m.k).getLsbD n = true → residLane s.me.v[a][n].toNat s.me.v[b][n].toNat = (r n, fl n) ∧ r n < 2 ^ 32)
    (off : ∀ n : Fin 32, ¬(s.me.kreg m.k).getLsbD n = true → r n = 0) {sum : Nat} {sums : Flags}
    (tree : treeSum 5 ((List.range 32).map fun e => r (Fin.ofNat 32 e)) = (sum, sums)) :
    s.writesLanes (.vresid d a b m) d m
      (fun n out => ((fmtF32.cmpVal sum == some 0) = true → out = s.me.v[a][n]) ∧ (¬(fmtF32.cmpVal sum == some 0) = true → out.toNat = r n))
      fun b => (∃ n : Fin 32, (s.me.kreg m.k).getLsbD n = true ∧ (fl n).getLsbD b = true) ∨ sums.getLsbD b = true ∨
        ((fmtF32.cmpVal sum == some 0) = true ∧ b = 5) := by
  have lanes : (Vector.ofFn fun i : Fin 32 => if (s.me.kreg m.k).getLsbD i.val then residLane s.me.v[a][i].toNat s.me.v[b][i].toNat else (0, 0)) =
      Vector.ofFn fun i => (r i, if (s.me.kreg m.k).getLsbD i.val then fl i else 0) := by
    refine congrArg _ (funext fun i => ?_)
    split
    · next h => exact (on i h).1
    · next h => rw [off i h]
  have leaves : (Vector.ofFn fun i : Fin 32 => (r i, if (s.me.kreg m.k).getLsbD i.val then fl i else 0)).toList.map Prod.fst =
      (List.range 32).map fun e => r (Fin.ofNat 32 e) := by
    apply List.ext_getElem
    · simp
    · intro i h _
      have small : i < 32 := by simpa using h
      simp only [List.getElem_map, Vector.getElem_toList, Vector.getElem_ofFn, List.getElem_range]
      exact congrArg r (Fin.ext (Nat.mod_eq_of_lt small).symm)
  refine State.writesLanes_merge (r := if fmtF32.cmpVal sum == some 0 then s.me.v[a] else Vector.ofFn fun i => BitVec.ofNat 32 (r i))
    (fl := laneFlags (s.me.kreg m.k) (Vector.ofFn fun i => if (s.me.kreg m.k).getLsbD i.val then fl i else 0) ||| sums |||
      flagIf (fmtF32.cmpVal sum == some 0) flagResz) (State.run_advance ?_) (fun n hn => ⟨fun zero => ?_, fun other => ?_⟩) fun b => ?_
  · rw [op_bind_ok (ready_plain plain (keptBy_sub m d _)), op_bind_ok (srcV_eq ..), op_bind_ok (srcV_eq ..), op_bind_ok (srcK_eq ..)]
    have words (g : Fin 32 → Nat × Flags) : (Vector.ofFn g).map (fun x => BitVec.ofNat 32 x.1) = Vector.ofFn fun i => BitVec.ofNat 32 (g i).1 := by
      ext i; simp
    have flags (g : Fin 32 → Nat × Flags) : (Vector.ofFn g).map Prod.snd = Vector.ofFn fun i => (g i).2 := by
      ext i; simp
    dsimp only
    rw [lanes, leaves, tree, words, flags]
    exact dstV_advance ..
  · rw [if_pos zero]
  · rw [if_neg other]
    simpa using (on n hn).2
  · rw [BitVec.getLsbD_or, BitVec.getLsbD_or, Bool.or_eq_true, Bool.or_eq_true, laneFlags_getLsbD, or_assoc]
    refine or_congr (exists_congr fun n => and_congr_right fun hn => ?_) (or_congr_right ?_)
    · simp only [Fin.getElem_fin, Vector.getElem_ofFn]
      rw [if_pos hn]
    · rw [← flagResz_getLsbD]
      cases fmtF32.cmpVal sum == some 0 <;> simp [flagIf]

/-! ### The random stream -/

theorem xor_shift_toNat (x : W64) (shift : Nat) : (x ^^^ (x >>> shift)).toNat = x.toNat ^^^ x.toNat / 2 ^ shift := by
  rw [BitVec.toNat_xor, BitVec.toNat_ushiftRight, Nat.shiftRight_eq_div_pow]

/-- One mixing step of the stream hash (R81). -/
def rngStep (shift k x : Nat) : Nat := (x ^^^ x / 2 ^ shift) * k % 2 ^ 64

theorem rngStep_toNat (x k : W64) (shift : Nat) : ((x ^^^ (x >>> shift)) * k).toNat = rngStep shift k.toNat x.toNat := by
  rw [BitVec.toNat_mul, xor_shift_toNat, rngStep]

theorem rngStart_toNat (key ctr : W64) (i k l : Nat) : (key + ctr * BitVec.ofNat 64 k + BitVec.ofNat 64 i * BitVec.ofNat 64 l).toNat =
    (key.toNat + ctr.toNat * k + i * l) % 2 ^ 64 := by
  simp [BitVec.toNat_add, BitVec.toNat_mul]

/-- The stream hash (R81). -/
theorem rngRaw_toNat (key ctr : W64) (i : Nat) :
    let start : Nat := (key.toNat + ctr.toNat * 0x9E3779B97F4A7C15 + i * 0xB3F126D94A8CE5A7) % 2 ^ 64
    let last : Nat := rngStep 29 0xD1C53A9762B0F14D (rngStep 31 0x8F2D6C1B39E4A753 start)
    (rngRaw key ctr i).toNat = (last ^^^ last / 2 ^ 32) % 2 ^ 32 := by
  have last : (0xD1C53A9762B0F14D : W64).toNat = 0xD1C53A9762B0F14D := by decide
  have first : (0x8F2D6C1B39E4A753 : W64).toNat = 0x8F2D6C1B39E4A753 := by decide
  rw [rngRaw]
  dsimp only
  rw [BitVec.toNat_setWidth, xor_shift_toNat, rngStep_toNat, rngStep_toNat, last, first, ← rngStart_toNat]
  rfl

/-- The uniform form is exact (R82). -/
theorem rngUni_value (raw : W32) :
    (fmtF32.val (rngUni raw).toNat).value = (2 * (raw.toNat / 512) + 1 : Nat) * (2 : ℚ) ^ (-24 : Int) := by
  have digits : 2 * (raw.toNat / 512) + 1 < 2 * 2 ^ fmtF32.fbits := by
    have := raw.isLt
    change _ < 2 * 2 ^ 23
    omega
  obtain ⟨k, below, value, word⟩ := roundTo_exact (e := -24) fmtF32_ok (Nat.succ_ne_zero _) digits (by decide) (by decide) .rne false
  have zero : fmtF32.signBit false = 0 := rfl
  have small : k < 2 ^ 32 := below.trans (by decide)
  have encoded := fmtF32.value_word below false
  rw [rngUni, word, BitVec.toNat_ofNat, zero, Nat.zero_add, Nat.mod_eq_of_lt small]
  rw [zero, Nat.zero_add, if_neg Bool.false_ne_true, one_mul, value] at encoded
  exact encoded

theorem drawn_all (x : W64) : (x.extractLsb' 0 24 == 0xFFFFFF#24) = true ↔ x.toNat % 2 ^ 24 = 0xFFFFFF := by
  rw [beq_iff_eq, ← BitVec.toNat_inj]
  simp [BitVec.extractLsb'_toNat]

section
variable {s : State} {d : VReg} {m : Mask} {uni : Bool} (plain : s.plain [] [.v d])
include plain

theorem vrng_run (more : ¬s.me.rngctr.toNat % 2 ^ 24 = 0xFFFFFF) :
    let draw (n : Fin 32) : W32 := if uni then rngUni (rngRaw s.me.rngkey s.me.rngctr n) else rngRaw s.me.rngkey s.me.rngctr n
    exec (.vrng d uni m) s = .next (s.retire fun t =>
      { t.setV d (mergeV (s.me.kreg m.k) m.z s.me.v[d] (Vector.ofFn draw)) with rngctr := BitVec.ofNat 64 (s.me.rngctr.toNat + 1) }) := by
  intro draw
  have advanced : s.me.rngctr + 1 = BitVec.ofNat 64 (s.me.rngctr.toNat + 1) := by simp [BitVec.ofNat_add]
  rw [State.retire_congr (g := fun t => { t.setV d (mergeV (s.me.kreg m.k) m.z s.me.v[d] (Vector.ofFn draw)) with rngctr := t.rngctr + 1 })
    (by rw [← advanced])]
  refine State.run_advance ?_
  rw [op_bind_ok (ready_plain plain (keptBy_sub m d _)), op_bind_ok (op_get s),
    op_bind_ok (raiseIf_false _ _ _ (Bool.eq_false_iff.2 fun h => more ((drawn_all _).1 h))), op_bind_ok (dstV_eq ..), op_bind_ok (op_modify _ _),
    State.modMe_modMe, advance_eq, State.following_modMe _ _ rfl]
  rfl

theorem vrng_draws (more : ¬s.me.rngctr.toNat % 2 ^ 24 = 0xFFFFFF) {P : Fin 32 → W32 → Prop}
    (holds : ∀ n : Fin 32, P n (if uni then rngUni (rngRaw s.me.rngkey s.me.rngctr n) else rngRaw s.me.rngkey s.me.rngctr n)) :
    ∃ r : Vec, exec (.vrng d uni m) s = .next (s.retire fun t => { t.setV d r with rngctr := BitVec.ofNat 64 (s.me.rngctr.toNat + 1) }) ∧
      ∀ n : Fin 32, ((s.me.kreg m.k).getLsbD n = true → P n r[n]) ∧ ((s.me.kreg m.k).getLsbD n = false → r[n] = if m.z then 0 else s.me.v[d][n]) := by
  refine ⟨_, vrng_run plain more, fun n => ⟨fun on => ?_, fun off => ?_⟩⟩
  · rw [mergeV_getElem, if_pos on]
    simpa using holds n
  · rw [mergeV_getElem, if_neg (Bool.eq_false_iff.1 off)]

theorem vrng_exhausted (last : s.me.rngctr.toNat % 2 ^ 24 = 0xFFFFFF) : s.traps (.vrng d uni m) 0x31 0 0 := by
  refine State.run_trap ?_
  rw [op_bind_ok (ready_plain plain (keptBy_sub m d _)), op_bind_ok (op_get s), op_bind_error (raiseIf_true _ _ _ ((drawn_all _).2 last))]

end

section
variable {s : State} {a : GReg} (plain : s.plain [.g a] [])
include plain

theorem rngadv_run (within : s.me.rngctr.toNat / 2 ^ 24 + (s.me.greg a).toNat < 2 ^ 40) :
    exec (.rngadv a) s = .next (s.retire fun t =>
      { t with rngctr := BitVec.ofNat 64 ((s.me.rngctr.toNat / 2 ^ 24 + (s.me.greg a).toNat) * 2 ^ 24) }) := by
  refine State.run_advance ?_
  rw [op_bind_ok (ready_plain plain), op_bind_ok (srcG_plain (State.plain_src plain (by simp))), op_bind_ok (op_get s),
    op_bind_ok (raiseIf_false _ _ _ (by simpa using within)), op_bind_ok (op_modify _ _), advance_eq, State.following_modMe _ _ rfl]

theorem rngadv_exhausted (beyond : s.me.rngctr.toNat / 2 ^ 24 + (s.me.greg a).toNat ≥ 2 ^ 40) : s.traps (.rngadv a) 0x31 0 0 := by
  refine State.run_trap ?_
  rw [op_bind_ok (ready_plain plain), op_bind_ok (srcG_plain (State.plain_src plain (by simp))), op_bind_ok (op_get s),
    op_bind_error (raiseIf_true _ _ _ (by simpa using beyond))]

end

end Sys2Proof.Machine

namespace Sys2Proof

open Sys2Proof.Machine

/-- Settles O18: a scan follows its recurrence, a residual is the tree sum's choice, and a draw is the hash of its counter. -/
theorem scansAndStreams : Obligations.ScansAndStreams := by
  unfold Obligations.ScansAndStreams
  refine ⟨fun s d a b ty m => ⟨fun plain => ⟨fun int => ?ints, fun float out first steps => ?floats⟩, fun plain => ?residual⟩,
    fun s d a m => ?streams⟩
  case ints => exact State.computes_vscan_int plain int
  case floats =>
    refine State.computes_vscan plain (first.trans (scanFirst_float float (s.masked_lt a ty m.k 0)).symm) fun e => ?_
    rw [scanStep, if_pos float]
    exact steps e
  case residual =>
    intro p q diff r off on
    obtain ⟨sum, sums, tree⟩ : ∃ sum sums, treeSum 5 ((List.range 32).map fun e => r (Fin.ofNat 32 e)) = (sum, sums) := ⟨_, _, rfl⟩
    have trees := treeSum_treeSums 5 fun e => r (Fin.ofNat 32 e)
    rw [show 2 ^ 5 = 32 from rfl, tree] at trees
    refine ⟨sum, sums, trees, ?_⟩
    have same : (fmtF32.cmpVal sum == some 0) = true ↔ (fmtF32.val sum).Same (.fin false 0 0) := by
      cases h : (fmtF32.val sum).isNan with
      | true => simp [Fmt.cmpVal_of_nan h, Num.Same, h]
      | false =>
        obtain ⟨v, value, -, zero⟩ := cmpVal_zero h
        rw [zero, value]
        simp
    obtain ⟨out, fl, run, lanes, flags⟩ := State.writesLanes_vresid plain (r := r) (fl := fun n => (diff n).2)
      (fun n hn => residLane_eq (on n hn).1 (on n hn).2.1 (on n hn).2.2) off tree
    rw [same] at lanes flags
    exact ⟨out, fl, run, fun n => ⟨fun hn => ⟨fun zero => congrArg BitVec.toNat (((lanes n).1 hn).1 zero), ((lanes n).1 hn).2⟩, (lanes n).2⟩, flags⟩
  case streams =>
    intro key ctr pos step start last raw draws exhausted
    have word (n : Fin 32) : (rngRaw s.me.rngkey s.me.rngctr n).toNat = raw n := rngRaw_toNat s.me.rngkey s.me.rngctr n
    refine ⟨fun plain => ⟨fun more => ⟨?bits, ?uniform⟩, fun last uni => vrng_exhausted plain last⟩,
      fun plain => ⟨rngadv_run plain, rngadv_exhausted plain⟩⟩
    case bits => exact vrng_draws (m := m) plain (uni := false) more (P := fun n x => x.toNat = raw n) word
    case uniform =>
      refine vrng_draws (m := m) plain (uni := true) more
        (P := fun n x => (fmtF32.val x.toNat).value = (2 * (raw n / 512) + 1 : Nat) * (2 : ℚ) ^ (-24 : Int)) fun n => ?_
      rw [← word]
      exact rngUni_value _

end Sys2Proof
end

section
/-! PROOFS. Counts, comparisons, selection, extension, immediates and addresses (R94 to R100) when the operands are the
thread's own: each is its function of the words read, and each function is the value that the rule states. -/

namespace Sys2Proof

/-! ### Counts (R94) -/

section
variable (x : W64)

theorem clz64_zero : clz64 0 = 64 := rfl
theorem ctz64_zero : ctz64 0 = 64 := rfl

variable {x}

theorem clz64_of_bounds {n : Nat} (lt : n < 64) (low : 2 ^ (63 - n) ≤ x.toNat) (high : x.toNat < 2 ^ (64 - n)) : clz64 x = n := by
  have pos : x.toNat ≠ 0 := (Nat.lt_of_lt_of_le (Nat.two_pow_pos _) low).ne'
  have nonzero : x ≠ 0 := by rintro rfl; exact pos rfl
  have top : x.toNat.log2 = 63 - n := (Nat.log2_eq_iff pos).2 ⟨low, by rwa [show 63 - n + 1 = 64 - n by omega]⟩
  rw [clz64, if_neg (by simpa using nonzero), top]
  omega

/-- A word and its negative share the lowest set bit alone. -/
theorem and_neg_of_lowest {n : Nat} (set_ : x.getLsbD n = true) (lowest : ∀ m < n, x.getLsbD m = false) :
    x &&& -x = BitVec.twoPow 64 n := by
  have lt := BitVec.lt_of_getLsbD set_
  refine BitVec.eq_of_getLsbD_eq fun i hi => ?_
  rw [BitVec.getLsbD_and, BitVec.getLsbD_neg, BitVec.getLsbD_twoPow]
  obtain below | rfl | above := Nat.lt_trichotomy i n
  · simp [lowest i below, below.ne']
  · have none_ : ¬∃ j < i, x.getLsbD j = true := fun ⟨j, hj, on⟩ => Bool.false_ne_true ((lowest j hj).symm.trans on)
    simp [set_, none_, lt]
  · have some_ : ∃ j < i, x.getLsbD j = true := ⟨n, above, set_⟩
    simp [some_, hi, above.ne]

theorem ctz64_of_lowest {n : Nat} (set_ : x.getLsbD n = true) (lowest : ∀ m < n, x.getLsbD m = false) : ctz64 x = n := by
  have lt := BitVec.lt_of_getLsbD set_
  have nonzero : x ≠ 0 := by rintro rfl; simp at set_
  rw [ctz64, if_neg (by simpa using nonzero), and_neg_of_lowest set_ lowest, BitVec.toNat_twoPow,
    Nat.mod_eq_of_lt (Nat.pow_lt_pow_right (by decide) lt), Nat.log2_two_pow]

end

theorem popNat_eq (k x : Nat) : popNat k x = ((List.range k).filter x.testBit).length := by
  induction k generalizing x with
  | zero => rfl
  | succ k ih =>
    have later : ((List.range k).map Nat.succ).filter x.testBit = ((List.range k).filter (x / 2).testBit).map Nat.succ := by
      rw [List.filter_map]
      exact congrArg _ (List.filter_congr fun i _ => Nat.testBit_add_one x i)
    rw [popNat, ih, List.range_succ_eq_map, List.filter_cons, later, Nat.testBit_zero]
    obtain even | odd := Nat.mod_two_eq_zero_or_one x
    · simp [even]
    · simp [odd, Nat.add_comm]

/-! ### Extension (R97) -/

section
variable (x y : W64)

theorem setWidth_setWidth_eq_ofNat (n : Nat) : (x.setWidth n).setWidth 64 = BitVec.ofNat 64 (x.toNat % 2 ^ n) :=
  BitVec.eq_of_toNat_eq (by rw [BitVec.toNat_setWidth, BitVec.toNat_setWidth, BitVec.toNat_ofNat])

/-- The two's complement of the low bits: adding half the range first makes the remainder start at its lower end. -/
theorem toInt_setWidth_eq {n : Nat} (pos : 0 < n) :
    (x.setWidth n).toInt = (((x.toNat + 2 ^ (n - 1)) % 2 ^ n : Nat) - 2 ^ (n - 1) : Int) := by
  have double : 2 ^ n = 2 * 2 ^ (n - 1) := (Nat.two_pow_pred_add_two_pow_pred pos).symm.trans (Nat.two_mul _).symm
  have half : ((2 : Int) ^ (n - 1)) = ((2 ^ (n - 1) : Nat) : Int) := by norm_cast
  rw [BitVec.toInt_eq_toNat_cond, BitVec.toNat_setWidth, half, double, Nat.add_mod]
  generalize 2 ^ (n - 1) = p
  obtain rfl | p_pos := Nat.eq_zero_or_pos p
  · simp
  have below := Nat.mod_lt x.toNat (show 0 < 2 * p by omega)
  rw [Nat.mod_eq_of_lt (show p < 2 * p by omega)]
  generalize x.toNat % (2 * p) = r at *
  split
  · rw [Nat.mod_eq_of_lt (by omega)]
    omega
  · rw [Nat.mod_eq_sub_mod (by omega), Nat.mod_eq_of_lt (by omega)]
    omega

theorem signExtend_setWidth_eq_ofInt {n : Nat} (pos : 0 < n) :
    (x.setWidth n).signExtend 64 = BitVec.ofInt 64 (((x.toNat + 2 ^ (n - 1)) % 2 ^ n : Nat) - 2 ^ (n - 1) : Int) :=
  congrArg (BitVec.ofInt 64) (toInt_setWidth_eq x pos)

/-! ### Immediates and addresses (R98 to R100) -/

section
variable (imm : BitVec 16)

theorem add_signExtend_eq_ofInt : x + imm.signExtend 64 = BitVec.ofInt 64 (x.toInt + imm.toInt) := by
  rw [BitVec.ofInt_add, BitVec.ofInt_toInt, BitVec.signExtend]

theorem toNat_setWidth_imm : (imm.setWidth 64).toNat = imm.toNat := BitVec.toNat_setWidth_of_le (by decide)

theorem and_setWidth_eq_ofNat : x &&& imm.setWidth 64 = BitVec.ofNat 64 (x.toNat &&& imm.toNat) := by
  rw [and_eq_ofNat, toNat_setWidth_imm]

theorem or_setWidth_eq_ofNat : x ||| imm.setWidth 64 = BitVec.ofNat 64 (x.toNat ||| imm.toNat) := by
  rw [or_eq_ofNat, toNat_setWidth_imm]

theorem xor_setWidth_eq_ofNat : x ^^^ imm.setWidth 64 = BitVec.ofNat 64 (x.toNat ^^^ imm.toNat) := by
  rw [xor_eq_ofNat, toNat_setWidth_imm]

theorem shiftLeft_eq_ofInt (n : Nat) : y <<< n = BitVec.ofInt 64 (y.toInt * 2 ^ n) := by
  have power : BitVec.ofInt 64 (2 ^ n) = BitVec.twoPow 64 n := by
    refine BitVec.eq_of_toNat_eq ?_
    rw [BitVec.toNat_twoPow, BitVec.toNat_ofInt]
    norm_cast
  rw [BitVec.shiftLeft_eq_mul_twoPow, BitVec.ofInt_mul, BitVec.ofInt_toInt, power]

theorem lea_eq_ofInt (n : Nat) :
    x + y <<< n + imm.signExtend 64 = BitVec.ofInt 64 (x.toInt + y.toInt * 2 ^ n + imm.toInt) := by
  rw [BitVec.ofInt_add, BitVec.ofInt_add, BitVec.ofInt_toInt, ← shiftLeft_eq_ofInt, BitVec.signExtend]

end

theorem append_setWidth_eq_ofNat (wide : BitVec 32) :
    wide ++ x.setWidth 32 = BitVec.ofNat 64 (wide.toNat * 2 ^ 32 + x.toNat % 2 ^ 32) := by
  have high := wide.isLt
  have low : x.toNat % 2 ^ 32 < 2 ^ 32 := Nat.mod_lt _ (by decide)
  refine BitVec.eq_of_toNat_eq ?_
  rw [BitVec.toNat_append, BitVec.toNat_setWidth, ← Nat.shiftLeft_add_eq_or_of_lt low, Nat.shiftLeft_eq, BitVec.toNat_ofNat]
  exact (Nat.mod_eq_of_lt (by omega)).symm

end

namespace Machine

/-! ### The instructions of plain operands -/

section
variable {s : State} {i : Instr} {d a b c : GReg} {v : W64}

/-- An instruction of one plain source gives the value of its function. -/
theorem State.gives_scalar1 (plain : s.plain [.g a] [.g d]) (f : W64 → W64) (meaning : exec i s = s.run (scalar1 f d a))
    (value : f (s.me.greg a) = v) : s.gives i d v := by
  rw [State.gives, meaning, scalar1_run f plain, value]

theorem State.gives_sel (plain : s.plain [.g a, .g b, .g c] [.g d])
    (value : (if s.me.greg c != 0 then s.me.greg a else s.me.greg b) = v) : s.gives (.sel d a b c) d v := by
  refine State.run_advance ?_
  rw [op_bind_ok (ready_plain plain), op_bind_ok (srcG_plain (State.plain_src plain (by simp))),
    op_bind_ok (srcG_plain (State.plain_src plain (by simp))), op_bind_ok (srcG_plain (State.plain_src plain (by simp))),
    dstG_advance _ (State.plain_dst plain (by simp)), value]

theorem State.gives_li (plain : s.plain [] [.g d]) (wide : BitVec 32) : s.gives (.li d wide) d (wide.signExtend 64) := by
  refine State.run_advance ?_
  rw [op_bind_ok (ready_plain plain), dstG_advance _ (State.plain_dst plain (by simp))]

theorem State.gives_lih (plain : s.plain [.g d] [.g d]) (wide : BitVec 32) :
    s.gives (.lih d wide) d (wide ++ (s.me.greg d).setWidth 32) := by
  refine State.run_advance ?_
  rw [op_bind_ok (ready_plain plain), op_bind_ok (srcG_plain (State.plain_src plain (by simp))),
    dstG_advance _ (State.plain_dst plain (by simp))]

end

theorem Cond.ite_holds {w : Nat} {cc : Cond} {x y : BitVec w} (h : Condition cc x y) : (if cc.holds x y then 1 else 0 : W64) = 1 :=
  if_pos ((Cond.holds_iff cc x y).2 h)

theorem Cond.ite_fails {w : Nat} {cc : Cond} {x y : BitVec w} (h : ¬Condition cc x y) : (if cc.holds x y then 1 else 0 : W64) = 0 :=
  if_neg (mt (Cond.holds_iff cc x y).1 h)

end Machine

end Sys2Proof
end

section
/-! PROOFS. Operands that name the core queue (R331, R332): what readiness asks of the queue, the reading of source fields in
their order, the appending of a result, and the instructions of one, two and three g sources made of these. -/

namespace Sys2Proof.Machine

theorem waitIf_false {s : State} {c : Bool} (h : c = false) (why : Why) : waitIf c why s = .ok ((), s) := by
  rw [h]
  rfl

@[simp] theorem Thread.settled_ip (t : Thread) : t.settled.ip = t.ip := by
  unfold Thread.settled
  split <;> rfl

@[simp] theorem Thread.settled_v (t : Thread) : t.settled.v = t.v := by
  unfold Thread.settled
  split <;> rfl

@[simp] theorem Thread.settled_greg (t : Thread) (r : GReg) : t.settled.greg r = t.greg r := by
  unfold Thread.settled
  split <;> rfl

theorem elementOf_s32 (x : W32) : elementOf .s32 x 0 = x.toNat :=
  (congrArg (· % 2 ^ 32) (Nat.div_one x.toNat)).trans (Nat.mod_eq_of_lt x.isLt)

theorem broadcast_s32_toNat (x : W64) (n : Fin 32) : (broadcast .s32 x)[n].toNat = x.toNat % 2 ^ 32 :=
  (elementOf_s32 _).symm.trans (elementOf_broadcast .s32 x n (by decide))

/-- A move of whole lanes moves each lane. -/
theorem lanewise_s32_move (mask : W32) (x y z : Vec) (n : Fin 32) :
    (lanewise .s32 mask (fun x _ _ => (x, 0)) x y z).1[n].toNat = x[n].toNat := by
  have lane : (lanewise .s32 mask (fun x _ _ => (x, 0)) x y z).1[n] = (laneOp .s32 (fun x _ _ => (x, 0)) x[n] y[n] z[n]).1 := by
    simp [lanewise]
  have element := laneOp_fst .s32 (fun x _ _ => (x, 0)) x[n] y[n] z[n] (j := 0) (by decide)
  rw [elementOf_s32, elementOf_s32] at element
  rw [lane, element]
  exact Nat.mod_eq_of_lt x[n].isLt

/-! ### Readiness -/

/-- The current slot no longer stands among those parked on its core's queue. -/
def State.unparked (s : State) : State :=
  s.modMyCore fun c => { c with queueWait := c.queueWait.filter fun q => q.w != s.cur }

section
variable {s : State} (outs : s.me.outs = [])
include outs

/-- Without accesses outstanding nothing is still to be delivered to a g register: an entry of the tile queue writes v
registers alone (R271). -/
theorem State.pending_g (r : GReg) : s.pending s.cur (.g r) = false := by
  have tile (o : TileOp) : o.writes (s.thread s.cur).uid (.g r) = false := by
    unfold TileOp.writes
    split
    · next d _ _ _ _ _ => cases d <;> simp
    · simp
  have none_ : (s.thread s.cur).outs = [] := outs
  simp only [State.pending, none_, tile, List.any_nil, Bool.false_or, Bool.or_eq_false_iff]
  refine ⟨by simp, ?_⟩
  split <;> rfl

variable (sends : s.sendOut s.cur = false) {srcs dsts : List GV} {pops pushes : Nat} (sources : (srcs.filter s.me.maps).length = pops)
  (results : (dsts.filter s.me.maps).length = pushes) (some_ : 0 < pops + pushes)
include sends sources results some_

/-- An instruction whose operands the queue cannot serve waits (R332). -/
theorem ready_queue_waits (turn : s.myCore.queueTurn s.cur pops pushes = false) (keeps : List GV) :
    ready srcs dsts keeps s = .error (.wait (.queue pops pushes)) := by
  have mapped : (pops + pushes != 0) = true := by simpa using some_.ne'
  simp [ready, sources, results, mapped, outs, sends, turn]

/-- An instruction whose operands the queue serves, and whose other operands are the thread's own, goes on. -/
theorem ready_queue_serves (turn : s.myCore.queueTurn s.cur pops pushes = true) {keeps : List GV}
    (arrived : ∀ r ∈ srcs ++ keeps ++ dsts, s.pending s.cur r = false)
    (sound : ∀ r ∈ srcs, s.me.maps r = false → ∀ p ∈ s.me.poison, p.reg ≠ unified r) :
    ready srcs dsts keeps s = .ok ((), s.unparked) := by
  have mapped : (pops + pushes != 0) = true := by simpa using some_.ne'
  have nothingDue : ((srcs ++ keeps).any fun r => !s.me.maps r && s.pending s.cur r) = false := by
    rw [List.any_eq_false]
    intro r hr
    simp [arrived r (List.mem_append_left _ hr)]
  have unpoisoned : (srcs.findSome? fun r => if s.me.maps r = true then none else s.me.poison.find? fun p => p.reg == unified r) = none := by
    rw [List.findSome?_eq_none_iff]
    intro r hr
    split
    · rfl
    · next own =>
      rw [List.find?_eq_none]
      intro p hp
      simpa using sound r hr (Bool.eq_false_iff.2 own) p hp
  have kept : s.unparked.disown dsts = s.unparked := State.disown_plain fun r hr => by
    have same : s.unparked.pending s.cur r = s.pending s.cur r := by
      rw [State.pending, State.pending, State.unparked, State.modMyCore, State.modCore_core_same]
      rfl
    exact same.trans (arrived r (List.mem_append_right _ hr))
  simp only [ready, sources, results, mapped, outs, sends, turn, nothingDue, unpoisoned, List.isEmpty_nil, Bool.not_true, Bool.or_self, Bool.and_false,
    Bool.false_eq_true, if_false, if_true]
  exact congrArg (fun t => Except.ok ((), t)) kept

end

/-! ### Reading and appending -/

/-- A state t differs from s in the core queue, which holds q, and its bookkeeping, in what the current thread has popped,
and in nothing else that an instruction of scalar operands reads. -/
structure State.QueueOnly (s t : State) (q : List QEntry) : Prop where
  aside : s.AsideFrom t (SlotIx.core s.cur)
  queue : t.myCore.queue = q
  me : ∃ p, t.me = { s.me with popped := p }

section
variable {s t : State} {q : List QEntry} (only : s.QueueOnly t q)
include only

theorem State.QueueOnly.modMyCore {q' : List QEntry} {f : Core → Core} (queue : (f t.myCore).queue = q')
    (keeps : ∀ k, (f k).icache = k.icache ∧ (f k).tlb = k.tlb ∧ (f k).score = k.score) : s.QueueOnly (t.modMyCore f) q' where
  aside := only.aside.trans (t.asideFrom_modCore (SlotIx.core t.cur) (SlotIx.core s.cur) keeps)
  queue := by rw [State.modMyCore_myCore, queue]
  me := only.me

theorem State.QueueOnly.modMe {f : Thread → Thread} (keeps : ∀ t, ∃ p, f t = { t with popped := p }) :
    s.QueueOnly (t.modMe f) q where
  aside := only.aside.trans (t.asideFrom_modThread t.cur f (SlotIx.core s.cur))
  queue := by rw [State.modMe_myCore, only.queue]
  me := by
    obtain ⟨p, me⟩ := only.me
    obtain ⟨p', same⟩ := keeps t.me
    exact ⟨p', by rw [State.modMe_me, same, me]⟩

theorem State.QueueOnly.maps (r : GV) : t.me.maps r = s.me.maps r := by
  obtain ⟨p, me⟩ := only.me
  rw [me]
  rfl

theorem State.QueueOnly.greg (r : GReg) : t.me.greg r = s.me.greg r := by
  obtain ⟨p, me⟩ := only.me
  rw [me]
  rfl

theorem State.QueueOnly.following : t.following = s.following := by
  obtain ⟨p, me⟩ := only.me
  exact only.aside.fetches.following only.aside.cur (by rw [me])

/-- A source field that names the queue takes the value at its head. -/
theorem srcG_pops {r : GReg} (mapped : s.me.maps (.g r) = true) {k : Nat} {x : W64} {rest : List QEntry} (head : q = ⟨k, some x⟩ :: rest) :
    ∃ u, srcG r t = .ok (x, u) ∧ s.QueueOnly u rest := by
  have queue := only.queue.trans head
  refine ⟨_, by rw [srcG, if_pos ((only.maps _).trans mapped), queue],
    (only.modMyCore (f := fun c => { c with queue := rest }) rfl fun _ => ⟨rfl, rfl, rfl⟩).modMe fun t => ⟨t.popped ++ [x], rfl⟩⟩

/-- A source field that does not is read from its register. -/
theorem srcG_reads {r : GReg} (own : s.me.maps (.g r) = false) : srcG r t = .ok (s.me.greg r, t) := by
  rw [srcG_plain ((only.maps _).trans own), only.greg]

end

theorem State.unparked_queueOnly (s : State) : s.QueueOnly s.unparked s.myCore.queue where
  aside := s.asideFrom_modCore (SlotIx.core s.cur) (f := fun c => { c with queueWait := c.queueWait.filter fun q => q.w != s.cur })
    (SlotIx.core s.cur) fun _ => ⟨rfl, rfl, rfl⟩
  queue := by rw [State.unparked, State.modMyCore_myCore]
  me := ⟨s.me.popped, rfl⟩

/-- The source fields srcs are still to be read: the queue holds a value for each that names it, and then rest. -/
structure State.StillReads (s t : State) (srcs : List GReg) (vals : List W64) (rest : List (Option W64)) : Prop where
  queue : ∃ q, s.QueueOnly t q ∧ q.map QEntry.val = vals.map some ++ rest
  count : vals.length = (srcs.filter fun r => s.me.maps (.g r)).length

/-- Source fields are read in their order, as State.reads says (R332). -/
theorem State.StillReads.next {s t : State} {r : GReg} {srcs : List GReg} {vals : List W64} {rest : List (Option W64)}
    (h : s.StillReads t (r :: srcs) vals rest) :
    ∃ x u vals', srcG r t = .ok (x, u) ∧ s.reads (r :: srcs) vals = x :: s.reads srcs vals' ∧ s.StillReads u srcs vals' rest := by
  obtain ⟨⟨q, only, holds⟩, count⟩ := h
  cases mapped : s.me.maps (.g r) with
  | false =>
    rw [List.filter_cons_of_neg (by simp [mapped])] at count
    exact ⟨s.me.greg r, t, vals, srcG_reads only mapped, by simp [State.reads, mapped], ⟨q, only, holds⟩, count⟩
  | true =>
    rw [List.filter_cons_of_pos (by exact mapped), List.length_cons] at count
    obtain ⟨x, vals, rfl⟩ := List.exists_cons_of_length_eq_add_one count
    obtain ⟨⟨k, val⟩, q', rfl, rfl, holds'⟩ := List.map_eq_cons_iff.1 holds
    obtain ⟨u, reads, only'⟩ := srcG_pops only mapped rfl
    exact ⟨x, u, vals, reads, by simp [State.reads, mapped], ⟨q', only', holds'⟩, by simpa using count⟩

/-- What an instruction leaves that gives a value to a g register field: the queue holds rest, and the value behind it when
the field names the queue (R332); the register file keeps every mapped register (R331). -/
def State.Leaves (s t : State) (rest : List (Option W64)) (r : GReg) (x : W64) : Prop :=
  t.myCore.queue.map QEntry.val = rest ++ (if s.me.maps (.g r) then [some x] else []) ∧ t.mem = s.mem ∧
    t.clusters = s.clusters ∧ t.me.ip = s.following ∧ t.me.v = s.me.v ∧
    ∀ q, t.me.greg q = if s.me.maps (.g r) = false ∧ r = q ∧ q.val ≠ 0 then x else s.me.greg q

/-- The result is written or appended, and the instruction ends (R331, R332). -/
theorem dstG_advance_leaves {s t : State} {q : List QEntry} (only : s.QueueOnly t q) (d : GReg) (x : W64) :
    ∃ u, (do dstG d x; advance : Op Unit) t = .ok ((), u) ∧ s.Leaves (u.modThread s.cur Thread.settled) (q.map QEntry.val) d x ∧
      (u.modThread s.cur Thread.settled).myCore.mailbox = t.myCore.mailbox := by
  cases mapped : s.me.maps (.g d) with
  | true =>
    have appended : s.QueueOnly (t.modMyCore fun c => { c with queue := c.queue ++ [⟨c.tickets, some x⟩], tickets := c.tickets + 1 })
        (q ++ [⟨t.myCore.tickets, some x⟩]) :=
      only.modMyCore (by rw [← only.queue]) fun _ => ⟨rfl, rfl, rfl⟩
    have cur := appended.aside.cur
    obtain ⟨p, me⟩ := appended.me
    refine ⟨_, by rw [op_bind_ok (show dstG d x t = .ok ((), _) by rw [dstG, if_pos ((only.maps _).trans mapped)]), advance_eq], ?_⟩
    rw [← cur, State.modMe_modThread]
    refine ⟨⟨?_, appended.aside.fetches.mem, appended.aside.fetches.clusters, ?_⟩, ?_⟩
    · rw [State.modMe_myCore, appended.queue, mapped]
      simp
    · simp only [State.modMe_me, Thread.settled_ip, Thread.settled_v, Thread.settled_greg, appended.following, mapped]
      refine ⟨trivial, by rw [me], fun q => (appended.greg q).trans (if_neg (by simp)).symm⟩
    · rw [State.modMe_myCore, State.modMyCore_myCore]
  | false =>
    have cur := only.aside.cur
    obtain ⟨p, me⟩ := only.me
    refine ⟨_, dstG_advance x ((only.maps _).trans mapped), ?_⟩
    rw [← cur, State.modMe_modMe, State.modMe_modThread]
    refine ⟨⟨?_, only.aside.fetches.mem, only.aside.fetches.clusters, ?_⟩, rfl⟩
    · rw [State.modMe_myCore, only.queue, mapped]
      simp
    · simp only [State.modMe_me, Thread.settled_ip, Thread.settled_v, Thread.settled_greg, only.following, mapped]
      refine ⟨trivial, by rw [Thread.setG_v, me], fun q => (Thread.greg_setG t.me d q x).trans ?_⟩
      rw [only.greg]
      simp

/-! ### The instructions -/

/-- An instruction of source fields srcs and a g destination that takes the queue's values for the fields that name it, or
waits where the queue cannot serve it (R332). -/
def State.Queues (s : State) (d : GReg) (i : Instr) (srcs : List GReg) (f : List W64 → W64) : Prop :=
  let pops := (srcs.filter fun r => s.me.maps (.g r)).length
  let pushes := if s.me.maps (.g d) then 1 else 0
  0 < pops + pushes → (∀ r ∈ srcs, s.me.maps (.g r) = false → ∀ p ∈ s.me.poison, p.reg ≠ unified (.g r)) →
    (s.myCore.queueTurn s.cur pops pushes = false → s.waits i (.queue pops pushes)) ∧
    (s.myCore.queueTurn s.cur pops pushes = true → ∀ (vals : List W64) (rest : List (Option W64)), vals.length = pops →
      s.myCore.queue.map QEntry.val = vals.map some ++ rest → ∃ t, exec i s = .next t ∧ s.Leaves t rest d (f (s.reads srcs vals)))

section
variable {s : State} {d : GReg}

theorem length_filter_maps (t : Thread) (d : GReg) : ([GV.g d].filter t.maps).length = if t.maps (.g d) then 1 else 0 := by
  cases h : t.maps (.g d) <;> simp [h]

variable (outs : s.me.outs = []) (sends : s.sendOut s.cur = false)
include outs sends

/-- An instruction that makes itself ready, then reads its fields in order and writes a function of them. -/
theorem State.queues_of {i : Instr} {srcs : List GReg} {f : List W64 → W64} {body : Op Unit}
    (meaning : exec i s = s.run (do ready (srcs.map .g) [.g d]; body))
    (reads : ∀ t vals rest, s.StillReads t srcs vals rest → ∃ u q, body t = (do dstG d (f (s.reads srcs vals)); advance : Op Unit) u ∧
      s.QueueOnly u q ∧ q.map QEntry.val = rest) : s.Queues d i srcs f := by
  intro some_ sound
  have sources : ((srcs.map GV.g).filter s.me.maps).length = (srcs.filter fun r => s.me.maps (.g r)).length := by
    rw [List.filter_map, List.length_map]
    rfl
  have results := length_filter_maps s.me d
  refine ⟨fun turn => ?_, fun turn vals rest count holds => ?_⟩
  · rw [State.waits, meaning]
    exact State.run_wait (op_bind_error (ready_queue_waits outs sends sources results some_ turn []))
  · have ready_ := ready_queue_serves outs sends sources results some_ turn (keeps := [])
      (fun r hr => by
        obtain ⟨r', rfl⟩ : ∃ r', r = .g r' := by
          simp only [List.append_nil, List.mem_append, List.mem_map, List.mem_singleton] at hr
          obtain ⟨r', -, rfl⟩ | rfl := hr
          · exact ⟨r', rfl⟩
          · exact ⟨d, rfl⟩
        exact State.pending_g outs r')
      (fun r hr => by
        obtain ⟨r', mem, rfl⟩ := List.mem_map.1 hr
        exact sound r' mem)
    obtain ⟨u, q, ends, only, left⟩ := reads s.unparked vals rest ⟨⟨_, s.unparked_queueOnly, holds⟩, count⟩
    obtain ⟨v, writes, leaves, -⟩ := dstG_advance_leaves only d (f (s.reads srcs vals))
    exact ⟨_, meaning.trans (State.run_ok ((op_bind_ok ready_).trans (ends.trans writes))), left ▸ leaves⟩

theorem State.queues_scalar1 {i : Instr} {a : GReg} (f : W64 → W64) (meaning : exec i s = s.run (scalar1 f d a)) {g : List W64 → W64}
    (value : ∀ x, g [x] = f x) : s.Queues d i [a] g := by
  refine State.queues_of outs sends meaning fun t vals rest still => ?_
  obtain ⟨x, u, vals', readA, values, ⟨q, only, left⟩, count⟩ := still.next
  obtain rfl : vals' = [] := List.length_eq_zero_iff.1 count
  exact ⟨u, q, by rw [op_bind_ok readA, values, State.reads, value], only, left⟩

theorem State.queues_scalar2 {i : Instr} {a b : GReg} (f : W64 → W64 → W64) (meaning : exec i s = s.run (scalar2 f d a b)) :
    s.Queues d i [a, b] fun xs => f (xs.getD 0 0) (xs.getD 1 0) := by
  refine State.queues_of outs sends meaning fun t vals rest still => ?_
  obtain ⟨x, u, valsB, readA, valuesA, still⟩ := still.next
  obtain ⟨y, u', vals', readB, valuesB, ⟨q, only, left⟩, count⟩ := still.next
  obtain rfl : vals' = [] := List.length_eq_zero_iff.1 count
  exact ⟨u', q, by rw [op_bind_ok readA, op_bind_ok readB, valuesA, valuesB]; rfl, only, left⟩

theorem State.queues_sel {a b c : GReg} :
    s.Queues d (.sel d a b c) [a, b, c] fun xs => if xs.getD 2 0 ≠ 0 then xs.getD 0 0 else xs.getD 1 0 := by
  refine State.queues_of outs sends rfl fun t vals rest still => ?_
  obtain ⟨x, u, valsB, readA, valuesA, still⟩ := still.next
  obtain ⟨y, u', valsC, readB, valuesB, still⟩ := still.next
  obtain ⟨z, u'', vals', readC, valuesC, ⟨q, only, left⟩, count⟩ := still.next
  obtain rfl : vals' = [] := List.length_eq_zero_iff.1 count
  have chosen : (if z != 0 then x else y) = if z ≠ 0 then x else y := by simp
  exact ⟨u'', q, by rw [op_bind_ok readA, op_bind_ok readB, op_bind_ok readC, valuesA, valuesB, valuesC, chosen]; rfl, only, left⟩

/-- A vector move from a g register that names the queue gives the low word of the value at its head to every lane. -/
theorem vmov_queue {v : VReg} {a : GReg} (mapped : s.me.maps (.g a) = true) (arrived : s.pending s.cur (.v v) = false) :
    (s.myCore.queueTurn s.cur 1 0 = false → s.waits (.vmov v (.g a) ⟨0, false⟩) (.queue 1 0)) ∧
    (s.myCore.queueTurn s.cur 1 0 = true → ∀ k x rest, s.myCore.queue = ⟨k, some x⟩ :: rest →
      ∃ t, exec (.vmov v (.g a) ⟨0, false⟩) s = .next t ∧ t.myCore.queue = rest ∧ t.mem = s.mem ∧ t.me.ip = s.following ∧
        (∀ j : Fin 32, t.me.v[v][j].toNat = x.toNat % 2 ^ 32) ∧ (∀ u, u ≠ v → t.me.v[u] = s.me.v[u]) ∧
        ∀ q, t.me.greg q = s.me.greg q) := by
  have sources : ([GV.g a].filter s.me.maps).length = 1 := by simp [mapped]
  have results : ([GV.v v].filter s.me.maps).length = 0 := by simp [Thread.maps]
  refine ⟨fun turn => State.run_wait (op_bind_error (ready_queue_waits outs sends sources results (by decide) turn _)),
    fun turn k x rest head => ?_⟩
  have ready_ := ready_queue_serves outs sends sources results (by decide) turn (keeps := keptBy ⟨0, false⟩ v)
    (fun r hr => by
      obtain rfl | rfl : r = .g a ∨ r = .v v := by simpa [keptBy] using hr
      · exact State.pending_g outs a
      · exact arrived)
    (fun r hr own => by
      obtain rfl := List.mem_singleton.1 hr
      exact absurd (mapped.symm.trans own) (by decide))
  obtain ⟨u, pops, only⟩ := srcG_pops s.unparked_queueOnly mapped head
  have reads : srcGV (.g a) .s32 s.unparked = .ok (broadcast .s32 x, u) := op_bind_ok pops
  have low (j : Fin 32) := lanewise_s32_move (u.me.kreg 0) (broadcast .s32 x) (broadcast .s32 x) (broadcast .s32 x) j
  generalize moved : lanewise .s32 (u.me.kreg 0) (fun x _ _ => (x, 0)) (broadcast .s32 x) (broadcast .s32 x) (broadcast .s32 x) = p at low
  obtain ⟨r, fl⟩ := p
  have runs : vec1 .s32 ⟨0, false⟩ (fun x => (x, 0)) v (.g a) s =
      .ok ((), (u.modMe fun t => (t.setV v (mergeV (u.me.kreg 0) false u.me.v[v] r)).raiseFlags fl).modMe fun t => { t with ip := u.following }) := by
    rw [vec1, op_bind_ok ready_, op_bind_ok reads, op_bind_ok (srcK_eq ..), moved]
    exact dstV_advance ..
  obtain ⟨p, me⟩ := only.me
  refine ⟨_, State.run_ok runs, ?_⟩
  rw [← only.aside.cur, State.modMe_modMe, State.modMe_modThread]
  simp only [State.modMe_me, Thread.settled_ip, Thread.settled_v, Thread.settled_greg]
  refine ⟨only.queue, only.aside.fetches.mem, only.following, fun j => ?_, fun u' other => ?_, only.greg⟩
  · have all : (u.me.kreg 0).getLsbD j = true :=
      (BitVec.getLsbD_allOnes (v := 32)).trans (decide_eq_true j.isLt)
    have written : (u.me.setV v (mergeV (u.me.kreg 0) false u.me.v[v] r)).v[v][j] = r[j] := by
      rw [Thread.setV, Thread.cure, vector_get_set, if_pos rfl, mergeV_getElem, if_pos all]
    exact (congrArg BitVec.toNat written).trans ((low j).trans (broadcast_s32_toNat x j))
  · have kept : (u.me.setV v (mergeV (u.me.kreg 0) false u.me.v[v] r)).v[u'] = u.me.v[u'] := by
      rw [Thread.setV, Thread.cure, vector_get_set, if_neg other.symm]
    exact kept.trans (by rw [me])

/-- The reading of a mailbox into a g register that names the queue appends the value (R149, R332). -/
theorem mbget_queue {n : Fin 4} (mapped : s.me.maps (.g d) = true) (full : (s.myCore.mailbox[n]).full = true)
    (first : (s.myCore.mailbox[n]).gets = []) :
    (s.myCore.queueTurn s.cur 0 1 = false → s.waits (.mbget d n) (.queue 0 1)) ∧
    (s.myCore.queueTurn s.cur 0 1 = true →
      ∃ t, exec (.mbget d n) s = .next t ∧ (t.myCore.mailbox[n]).full = false ∧
        s.Leaves t (s.myCore.queue.map QEntry.val) d (s.myCore.mailbox[n]).val) := by
  have results : ([GV.g d].filter s.me.maps).length = 1 := by simp [mapped]
  have issues : nowIssue s = .ok ((), s) :=
    (op_bind_ok (show memIssue false s = .ok ((), s) by simp [memIssue, outs])).trans (delivered_ok sends)
  have mayTake : (!(s.myCore.mailbox[n]).full || !nextIn (s.myCore.mailbox[n]).gets s.cur) = false := by
    rw [full, first]
    rfl
  refine ⟨fun turn => State.run_wait ?_, fun turn => ?_⟩
  · rw [op_bind_ok issues, op_bind_ok (op_get s), op_bind_ok (waitIf_false mayTake _)]
    exact op_bind_error (ready_queue_waits outs sends (pops := 0) rfl results (by decide) turn [])
  · have ready_ := ready_queue_serves outs sends (srcs := []) (pops := 0) rfl results (by decide) turn (keeps := [])
      (fun r hr => by
        obtain rfl := List.mem_singleton.1 hr
        exact State.pending_g outs d)
      nofun
    have only := s.unparked_queueOnly.modMyCore (f := fun c => c.modBox n fun m =>
      { m with full := false, gets := m.gets.filter fun y => y != s.unparked.cur }) s.unparked_queueOnly.queue fun _ => ⟨rfl, rfl, rfl⟩
    obtain ⟨u, writes, leaves, box⟩ := dstG_advance_leaves only d (s.myCore.mailbox[n]).val
    refine ⟨_, State.run_ok ?_, ?_, leaves⟩
    · rw [op_bind_ok issues, op_bind_ok (op_get s), op_bind_ok (waitIf_false mayTake _), op_bind_ok ready_, op_bind_ok (op_modify _ _)]
      exact writes
    · rw [box, State.modMyCore_myCore, Core.modBox]
      simp

end

end Sys2Proof.Machine

namespace Sys2Proof

open Sys2Proof.Machine

/-- Settles O8: the instructions of plain operands are their functions of the words read; where fields name the core queue,
those functions are applied to what State.reads takes from its head. -/
theorem scalarOther : Obligations.ScalarOther := by
  unfold Obligations.ScalarOther
  refine ⟨fun s d a b c cc imm wide sh => ?plain, fun s d a b c v n imm outs sends _ => ?mapped⟩
  case plain =>
    intro x y sext
    refine ⟨fun one => ?_, fun two => ?_, fun three => ⟨fun chosen => ?_, fun other => ?_⟩, fun none_ => State.gives_li none_ wide, fun own => ?_⟩
    · have gives {i : Instr} {w : W64} (f : W64 → W64) (meaning : exec i s = s.run (scalar1 f d a)) (value : f x = w) : s.gives i d w :=
        State.gives_scalar1 one f meaning value
      exact ⟨fun zero => ⟨gives _ rfl (zero ▸ congrArg _ clz64_zero), gives _ rfl (zero ▸ congrArg _ ctz64_zero)⟩,
        fun n lt ⟨low, high⟩ => gives _ rfl (by rw [clz64_of_bounds lt low high]),
        fun n _ ⟨set_, lowest⟩ => gives _ rfl (by rw [ctz64_of_lowest set_ lowest]),
        gives _ rfl (by rw [popNat_eq]; rfl),
        gives _ rfl (signExtend_setWidth_eq_ofInt x (by decide)), gives _ rfl (signExtend_setWidth_eq_ofInt x (by decide)),
        gives _ rfl (signExtend_setWidth_eq_ofInt x (by decide)),
        gives _ rfl (setWidth_setWidth_eq_ofNat x 8), gives _ rfl (setWidth_setWidth_eq_ofNat x 16), gives _ rfl (setWidth_setWidth_eq_ofNat x 32),
        fun holds => gives _ rfl (Cond.ite_holds holds), fun fails => gives _ rfl (Cond.ite_fails fails),
        gives _ rfl (add_signExtend_eq_ofInt x imm), gives _ rfl (and_setWidth_eq_ofNat x imm), gives _ rfl (or_setWidth_eq_ofNat x imm),
        gives _ rfl (xor_setWidth_eq_ofNat x imm),
        fun _ => ⟨gives _ rfl (shiftLeft_eq_ofNat x _), gives _ rfl (ushiftRight_eq_ofNat x _), gives _ rfl (sshiftRight_eq_ofInt x _)⟩⟩
    · have gives {i : Instr} {w : W64} (f : W64 → W64 → W64) (meaning : exec i s = s.run (scalar2 f d a b)) (value : f x y = w) : s.gives i d w :=
        State.gives_scalar2 two f meaning value
      exact ⟨fun holds => gives _ rfl (Cond.ite_holds holds), fun fails => gives _ rfl (Cond.ite_fails fails),
        gives _ rfl (lea_eq_ofInt x y imm sh.toNat)⟩
    · exact State.gives_sel three (if_pos (by simpa using chosen))
    · exact State.gives_sel three (if_neg (by simpa using other))
    · exact append_setWidth_eq_ofNat (s.me.greg d) wide ▸ State.gives_lih own wide
  case mapped =>
    intro mapped pushes sound pops leaves queues two
    have one {i : Instr} (f : W64 → W64) {g : List W64 → W64} (meaning : exec i s = s.run (scalar1 f d a)) (value : ∀ x, g [x] = f x) :
        queues i [a] g := State.queues_scalar1 outs sends f meaning value
    have both {i : Instr} (f : W64 → W64 → W64) (meaning : exec i s = s.run (scalar2 f d a b)) : queues i [a, b] (two f) :=
      State.queues_scalar2 outs sends f meaning
    exact ⟨both _ rfl, both _ rfl, both _ rfl, both _ rfl, both _ rfl, both _ rfl,
      both (fun x y => x <<< (y.toNat % 64)) rfl, both (fun x y => x >>> (y.toNat % 64)) rfl, State.queues_sel outs sends,
      one (g := fun xs => BitVec.ofInt 64 ((xs.getD 0 0).toInt + imm.toInt)) _ rfl fun x => (add_signExtend_eq_ofInt x imm).symm,
      one (g := fun xs => BitVec.ofNat 64 ((xs.getD 0 0).toNat % 2 ^ 32)) _ rfl fun x => (setWidth_setWidth_eq_ofNat x 32).symm,
      vmov_queue outs sends, mbget_queue outs sends⟩

end Sys2Proof
end

section
/-! PROOFS. A thread leaves its task (R204): the task loses a thread or ends, held tasks may start (R207), and the last one ends
its team (R407, R425). -/

namespace Sys2Proof.Machine

/-! ### The tasks that a release starts (R207) -/

/-- What updates of threads and skimmer actions that begin keep, an arrival keeps. -/
theorem State.arrive_keeps {β : Type} (g : State → β) (threads : ∀ (s : State) w f, g (s.modThread w f) = g s)
    (skims : ∀ (s : State) c kind rs w after, g (s.startSkim c kind rs w after) = g s) (s : State) (w : SlotIx) : g (s.arrive w) = g s := by
  rw [State.arrive, State.enterCore]
  split
  · exact threads s w _
  · split
    · exact threads s w _
    · exact (threads _ w _).trans (skims s _ _ _ w _)

/-- The arrivals that a release makes: of the held threads of a team, one slot at a time. -/
def State.releaseAt (p : PartIx) (home : ClusterIx) (team : W32) (s : State) (w : SlotIx) : State :=
  if (s.thread w).wait == .held && (s.thread w).team == team && (s.thread w).home == home && (s.thread w).part == p then s.arrive w else s

theorem State.releaseHeld_eq (s : State) (p : PartIx) (home : ClusterIx) (team : W32) :
    s.releaseHeld p home team = (s.slotsIn p).foldl (State.releaseAt p home team) s := rfl

/-- A thread of a team that an earlier task holds. -/
def Thread.HeldIn (t : Thread) (p : PartIx) (home : ClusterIx) (team : W32) : Prop :=
  t.wait = .held ∧ t.team = team ∧ t.home = home ∧ t.part = p

section
variable (p : PartIx) (home : ClusterIx) (team : W32) (s : State)

theorem State.releaseAt_held {w : SlotIx} (h : (s.thread w).HeldIn p home team) : s.releaseAt p home team w = s.arrive w := by
  obtain ⟨wait, rfl, rfl, rfl⟩ := h
  simp [State.releaseAt, wait]

theorem State.releaseAt_other {w : SlotIx} (h : ¬(s.thread w).HeldIn p home team) : s.releaseAt p home team w = s := by
  refine if_neg fun held => h ?_
  simpa [Thread.HeldIn, and_assoc] using held

theorem State.releaseHeld_keeps {β : Type} (g : State → β) (threads : ∀ (s : State) w f, g (s.modThread w f) = g s)
    (skims : ∀ (s : State) c kind rs w after, g (s.startSkim c kind rs w after) = g s) : g (s.releaseHeld p home team) = g s := by
  rw [State.releaseHeld_eq]
  refine foldl_keeps g (fun s w => ?_) _ s
  by_cases h : (s.thread w).HeldIn p home team
  · rw [State.releaseAt_held p home team s h, State.arrive_keeps g threads skims]
  · rw [State.releaseAt_other p home team s h]

@[simp] theorem State.releaseHeld_cores : (s.releaseHeld p home team).cores = s.cores :=
  State.releaseHeld_keeps p home team s State.cores (fun _ _ _ => rfl) fun _ _ _ _ _ _ => rfl
@[simp] theorem State.releaseHeld_pages : (s.releaseHeld p home team).pages = s.pages :=
  State.releaseHeld_keeps p home team s State.pages (fun _ _ _ => rfl) fun _ _ _ _ _ _ => rfl
@[simp] theorem State.releaseHeld_mem : (s.releaseHeld p home team).mem = s.mem :=
  State.releaseHeld_keeps p home team s State.mem (fun _ _ _ => rfl) fun _ _ _ _ _ _ => rfl
@[simp] theorem State.releaseHeld_hostMem : (s.releaseHeld p home team).hostMem = s.hostMem :=
  State.releaseHeld_keeps p home team s State.hostMem (fun _ _ _ => rfl) fun _ _ _ _ _ _ => rfl
@[simp] theorem State.releaseHeld_endings : (s.releaseHeld p home team).endings = s.endings :=
  State.releaseHeld_keeps p home team s State.endings (fun _ _ _ => rfl) fun _ _ _ _ _ _ => rfl
@[simp] theorem State.releaseHeld_teamAt (cl : ClusterIx) (q : PartIx) (tm : W32) :
    (s.releaseHeld p home team).teamAt cl q tm = s.teamAt cl q tm :=
  State.releaseHeld_keeps p home team s (fun s => s.teamAt cl q tm) (fun _ _ _ => rfl) fun s c kind rs w after => by
    rw [State.teamAt, State.startSkim_teams, State.teamAt]

end

/-- An arrival changes no other thread. -/
theorem State.arrive_thread_ne (s : State) {w q : SlotIx} (h : w ≠ q) : (s.arrive w).thread q = s.thread q := by
  rw [State.arrive, State.enterCore]
  split
  · exact State.modThread_thread_ne _ _ _ _ h
  · split
    · exact State.modThread_thread_ne _ _ _ _ h
    · exact State.modThread_thread_ne _ _ _ _ h

theorem State.releaseAt_thread_ne (p : PartIx) (home : ClusterIx) (team : W32) (s : State) {w q : SlotIx} (h : w ≠ q) :
    (s.releaseAt p home team w).thread q = s.thread q := by
  by_cases held : (s.thread w).HeldIn p home team
  · rw [State.releaseAt_held p home team s held, State.arrive_thread_ne s h]
  · rw [State.releaseAt_other p home team s held]

/-- A release leaves a thread that no task holds. -/
theorem State.releaseHeld_thread {p : PartIx} {home : ClusterIx} {team : W32} {s : State} {q : SlotIx}
    (h : ¬(s.thread q).HeldIn p home team) : (s.releaseHeld p home team).thread q = s.thread q := by
  rw [State.releaseHeld_eq]
  generalize s.slotsIn p = ws
  induction ws generalizing s with
  | nil => rfl
  | cons w ws ih =>
    have step : (s.releaseAt p home team w).thread q = s.thread q := by
      by_cases same : w = q
      · subst same
        rw [State.releaseAt_other p home team s h]
      · exact State.releaseAt_thread_ne p home team s same
    rw [List.foldl_cons, ih (by rwa [step]), step]

/-- In a state y a thread of s is as it was, in a team as it was, and no skimmer action of s is over. -/
structure State.KeepsArrived (s y : State) (q : SlotIx) : Prop where
  thread : y.thread q = s.thread q
  teams : ∀ cl, (y.cluster cl).teams = (s.cluster cl).teams
  skims : ∀ c kind rs uid after, s.skims c kind rs uid after → y.skims c kind rs uid after

section
variable {s y : State} {q : SlotIx} (h : s.KeepsArrived y q)
include h

theorem State.KeepsArrived.teamAt (cl : ClusterIx) (p : PartIx) (team : W32) : y.teamAt cl p team = s.teamAt cl p team := by
  rw [State.teamAt, h.teams, State.teamAt]

theorem State.KeepsArrived.arrivedAt (arrived : s.arrivedAt q) : y.arrivedAt q := by
  have records : y.records (y.thread q) = s.records (s.thread q) := by
    rw [h.thread, State.records, State.taskRecords, State.taskOf, State.teamOf, h.teamAt]
    rfl
  have runs (tm before k after) : y.runs (y.thread q) tm before k after ↔ s.runs (s.thread q) tm before k after := by
    rw [h.thread, State.runs, State.teamOf, h.teamAt]
    rfl
  unfold State.arrivedAt State.enteredAt at *
  simp only [records, runs]
  rw [h.thread]
  exact ⟨arrived.1, fun free => ⟨(arrived.2 free).1, fun some_ => ⟨((arrived.2 free).2 some_).1, h.skims _ _ _ _ _ ((arrived.2 free).2 some_).2⟩⟩⟩

end

theorem State.startSkim_keepsSkims (s : State) (d : CoreIx) (kind' : SkimKind) (rs' : List Region) (w : SlotIx) (after' : SkimThen)
    {c : CoreIx} {kind : SkimKind} {rs : List Region} {uid : Nat} {after : SkimThen} (h : s.skims c kind rs uid after) :
    (s.startSkim d kind' rs' w after').skims c kind rs uid after := by
  obtain ⟨k, mem, is⟩ := h
  refine ⟨k, ?_, is⟩
  rw [State.startSkim, State.modCluster_cluster]
  split
  · exact List.mem_append_left _ mem
  · exact mem

/-- An arrival at another slot. -/
theorem State.arrive_keepsArrived (s : State) {w q : SlotIx} (h : w ≠ q) : s.KeepsArrived (s.arrive w) q where
  thread := State.arrive_thread_ne s h
  teams cl := (State.arrive_onlyWaits s w).teams cl
  skims c kind rs uid after had := by
    rw [State.arrive, State.enterCore]
    split
    · exact had
    · split
      · exact had
      · exact State.skims_modThread (State.startSkim_keepsSkims s _ _ _ w _ had) w _

theorem State.releaseAt_keepsArrived (p : PartIx) (home : ClusterIx) (team : W32) (s : State) {w q : SlotIx} (h : w ≠ q) :
    s.KeepsArrived (s.releaseAt p home team w) q := by
  by_cases held : (s.thread w).HeldIn p home team
  · rw [State.releaseAt_held p home team s held]
    exact State.arrive_keepsArrived s h
  · rw [State.releaseAt_other p home team s held]
    exact ⟨rfl, fun _ => rfl, fun _ _ _ _ _ => id⟩

/-- A thread arrives at its core, whether or not its task stands in the list of its team. -/
theorem State.arrive_arrivedAt_of_nodup {s : State} {w : SlotIx} {tm : Team} (team : s.teamOf (s.thread w) = some tm)
    (nodup : (tm.tasks.map Task.id).Nodup) : (s.arrive w).arrivedAt w := by
  by_cases listed : ∃ k ∈ tm.tasks, k.id = (s.thread w).task
  · obtain ⟨k, mem, own⟩ := listed
    obtain ⟨before, after, split⟩ := List.append_of_mem mem
    refine State.arrive_arrivedAt ⟨team, split, own, fun x hx same => ?_⟩
    rw [split, List.map_append, List.map_cons, List.nodup_middle, List.nodup_cons, ← List.map_append] at nodup
    exact nodup.1 (List.mem_map.2 ⟨x, hx, same.trans own.symm⟩)
  · have noTask (y : State) (same : y.teamOf (y.thread w) = s.teamOf (s.thread w)) (task : (y.thread w).task = (s.thread w).task)
        (tm' before k after) : ¬y.runs (y.thread w) tm' before k after := by
      rintro ⟨team', split, own, -⟩
      obtain rfl : tm' = tm := Option.some.inj (team'.symm.trans (same.trans team))
      exact listed ⟨k, by simp [split], own.trans task⟩
    have none_ : tm.tasks.find? (fun k => k.id == (s.thread w).task) = none :=
      List.find?_eq_none.2 fun k mem => by simpa using fun own => listed ⟨k, mem, own⟩
    have free : s.held (s.thread w) = false := by simp [State.held, team, Team.holds, none_]
    have only := State.enterCore_onlyWaits s w
    have task : ((s.enterCore w).thread w).task = (s.thread w).task := by
      obtain ⟨_, _, _, same⟩ := only.thread
      rw [same]
    rw [State.arrive, if_neg (Bool.eq_false_iff.1 free)]
    exact ⟨fun ⟨tm', before, k, after, runs, _⟩ => absurd runs (noTask _ only.teamOf task tm' before k after), fun _ => State.enterCore_enteredAt s w⟩

/-- The held threads of a team arrive at their cores when it releases them (R207). -/
theorem State.releaseHeld_arrivedAt {s : State} {p : PartIx} {home : ClusterIx} {team : W32} {tm : Team} {q : SlotIx}
    (at_ : s.teamAt home p team = some tm) (nodup : (tm.tasks.map Task.id).Nodup) (placed : q ∈ s.slotsIn p)
    (held : (s.thread q).HeldIn p home team) : (s.releaseHeld p home team).arrivedAt q := by
  rw [State.releaseHeld_eq]
  have holds : (q ∈ s.slotsIn p ∧ (s.thread q).HeldIn p home team) ∨ s.arrivedAt q := .inl ⟨placed, held⟩
  revert holds at_
  clear placed held
  generalize s.slotsIn p = ws
  induction ws generalizing s with
  | nil => exact fun _ holds => holds.resolve_left fun h => List.not_mem_nil h.1
  | cons w ws ih =>
    intro at_ holds
    rw [List.foldl_cons]
    by_cases same : w = q
    · subst same
      by_cases held : (s.thread w).HeldIn p home team
      · rw [State.releaseAt_held p home team s held]
        obtain ⟨-, rfl, rfl, rfl⟩ := held
        exact ih (((State.arrive_onlyWaits s w).teamAt _ _ _).trans at_) (.inr (State.arrive_arrivedAt_of_nodup at_ nodup))
      · rw [State.releaseAt_other p home team s held]
        exact ih at_ (.inr (holds.resolve_left fun h => held h.2))
    · have keeps := State.releaseAt_keepsArrived p home team s same
      refine ih ((keeps.teamAt _ _ _).trans at_) (holds.imp (fun ⟨mem, held⟩ => ⟨?_, ?_⟩) keeps.arrivedAt)
      · exact (List.mem_cons.1 mem).resolve_left (Ne.symm same)
      · rwa [keeps.thread]

/-- A slot of a cluster of a partition is one of the partition's slots. -/
theorem State.mem_slotsIn {s : State} {p : PartIx} {q : SlotIx} (h : (s.cluster (SlotIx.cluster q)).part = some p) : q ∈ s.slotsIn p := by
  have core : SlotIx.core q ∈ coresOf (SlotIx.cluster q) := List.mem_map.2 ⟨CoreIx.num (SlotIx.core q), List.mem_finRange _,
    Fin.ext (by simp only [SlotIx.cluster, CoreIx.cluster, CoreIx.num, coreOf]; omega)⟩
  have cluster : SlotIx.cluster q ∈ s.clustersOf p := List.mem_filter.2 ⟨List.mem_finRange _, beq_iff_eq.2 h⟩
  exact List.mem_flatMap.2 ⟨_, cluster, List.mem_flatMap.2 ⟨_, core, mem_slotsOf.2 rfl⟩⟩

/-! ### The end of a task (R204, R407, R425) -/

/-- A thread stops executing a task, of which no continuation waits. -/
def Task.left (k : Task) : Task := { k with threads := k.threads - 1 }

section
variable {s : State} {home : ClusterIx} {p : PartIx} {team : W32} {tm : Team} {before after : List Task} {k : Task} {id : Nat}
  (at_ : s.teamAt home p team = some tm) (split : tm.tasks = before ++ k :: after) (own : k.id = id)
  (others : ∀ x ∈ before ++ after, x.id ≠ id)

/-- A task of a team has a thread fewer. -/
def State.taskLeft (s : State) (home : ClusterIx) (p : PartIx) (team : W32) (id : Nat) : State :=
  s.modTeam home p team fun tm => tm.modTask id Task.left

include at_ in
theorem State.taskLeft_teamAt : (s.taskLeft home p team id).teamAt home p team = some (tm.modTask id Task.left) := by
  rw [State.taskLeft, State.modTeam_teamAt_same s home p team (fun tm => tm.modTask id Task.left) fun _ => ⟨rfl, rfl⟩, at_]
  rfl

include split own others

theorem Team.modTask_left : (tm.modTask id Task.left).tasks = before ++ k.left :: after := tasks_update split own others Task.left

theorem tasks_without : (tm.tasks.filter fun k => k.id != id) = before ++ after := by
  have keeps (xs : List Task) (h : ∀ x ∈ xs, x.id ≠ id) : (xs.filter fun k => k.id != id) = xs :=
    List.filter_eq_self.2 fun x hx => by simpa using h x hx
  rw [split, List.filter_append, List.filter_cons_of_neg (by simp [own]), keeps before fun x hx => others x (List.mem_append_left _ hx),
    keeps after fun x hx => others x (List.mem_append_right _ hx)]

include at_

/-- What a thread's leave of its task is (R204): the task ends with its last thread when no continuation waits, and the team
with its last task. -/
theorem State.leaveTask_eq (some_ : 1 ≤ k.threads) {w : SlotIx} {slot : Nat} : s.leaveTask ⟨w, slot, p, home, team, id⟩ false =
    if k.threads = 1 ∧ k.conts = 0 then
      if before ++ after = [] then
        ((s.taskLeft home p team id).dropTeam home p team).complete tm.fn tm.q { kind := 3, cseq := tm.cseq, team := tm.team, slot := slot }
      else ((s.taskLeft home p team id).modTeam home p team fun tm => { tm with tasks := before ++ after }).releaseHeld p home team
    else s.taskLeft home p team id := by
  have tasks := Team.modTask_left split own others
  have found := tasks_find tasks own others
  have rest := tasks_without tasks own others
  have leaves : s.leaveTask ⟨w, slot, p, home, team, id⟩ false = (s.taskLeft home p team id).endTask ⟨w, slot, p, home, team, id⟩ := rfl
  rw [leaves, State.endTask]
  simp only [State.taskLeft_teamAt at_, found, rest]
  have oneLeft : k.left.threads = 0 ↔ k.threads = 1 := show k.threads - 1 = 0 ↔ k.threads = 1 by omega
  by_cases last : k.threads = 1 ∧ k.conts = 0
  · have ended : (k.left.threads != 0 || k.left.conts != 0) = false := by
      rw [Bool.or_eq_false_iff, bne_eq_false_iff_eq, bne_eq_false_iff_eq, oneLeft]
      exact last
    rw [if_pos last, ended, if_neg Bool.false_ne_true]
    by_cases empty : before ++ after = []
    · rw [if_pos empty, empty]
      rfl
    · rw [if_neg empty, if_neg (by simpa using empty)]
  · have goesOn : (k.left.threads != 0 || k.left.conts != 0) = true := by
      rw [Bool.or_eq_true, bne_iff_ne, bne_iff_ne, ne_eq, oneLeft]
      exact not_and_or.1 last
    rw [if_neg last, if_pos goesOn]

end

theorem State.withEndings_cluster (s : State) (es : List Ending) (cl : ClusterIx) : State.cluster { s with endings := es } cl = s.cluster cl := rfl

theorem State.dropTeam_teamAt (s : State) (home : ClusterIx) (p : PartIx) (team : W32) : (s.dropTeam home p team).teamAt home p team = none := by
  have teams : ((s.dropTeam home p team).cluster home).teams = (s.cluster home).teams.filter fun t => t.part != p || t.team != team := by
    rw [State.dropTeam, State.withEndings_cluster, State.modCluster_cluster_same]
  rw [State.teamAt, teams, List.find?_eq_none]
  intro t mem
  have other := (List.mem_filter.1 mem).2
  simp only [Bool.or_eq_true, bne_iff_ne, Bool.and_eq_true, beq_iff_eq, not_and_or] at other ⊢
  exact other

/-- Where no meet of a team is open there is none to close. -/
theorem State.closeByCount_of_none {s : State} {home : ClusterIx} {p : PartIx} {team : W32}
    (h : ∀ i ∈ (s.cluster home).inst, i.team ≠ team ∨ i.part ≠ p) : s.closeByCount home p team = s := by
  rw [State.closeByCount]
  split
  · rfl
  · next tm _ =>
    have none_ : ((s.cluster home).inst.filter fun i => i.part == p && i.team == team && s.countMet tm i) = [] := by
      refine List.filter_eq_nil_iff.2 fun i mem => ?_
      obtain other | other := h i mem <;> simp [other]
    rw [none_]
    rfl

end Sys2Proof.Machine
end

section
/-! PROOFS. A slot becomes free (R20, R108, R229, R241): its claim, its lock and its reservations go, its registers stay, and the
weight of a member counts as exited. -/

namespace Sys2Proof.Machine

/-! ### Claims -/

section
variable (c : Core) (n : Fin 16) (w : SlotIx)

theorem Core.dropGriddle_griddle : (c.dropGriddle n).griddle = if c.griddle.holder = some n then Griddle.reset else c.griddle := by
  simp only [Core.dropGriddle, beq_iff_eq]
  split <;> rfl

@[simp] theorem Core.dropGriddle_lock : (c.dropGriddle n).lock = c.lock := by
  rw [Core.dropGriddle]
  split <;> rfl

@[simp] theorem Core.dropLock_griddle : (c.dropLock w).griddle = c.griddle := by
  rw [Core.dropLock]
  split
  · split <;> rfl
  · rfl

theorem Core.dropLock_lock : (c.dropLock w).lock = match c.lock with
    | some l => if l.holder = w then none else some l
    | none => none := by
  cases held : c.lock with
  | none => simp [Core.dropLock, held]
  | some l => by_cases own : l.holder = w <;> simp [Core.dropLock, held, own]

end

/-! ### The slot -/

/-- The current occupant of a slot goes, once its weight is accounted for. -/
def State.emptied (s : State) (w : SlotIx) : State :=
  ((if (s.thread w).migr then s.dropForwards (s.thread w).uid else s).dropClaims w).freeSlot w

section
variable (s : State) (w : SlotIx)

theorem State.unreserve_keeps {β : Type} (g : State → β) (threads : ∀ (s : State) w f, g (s.modThread w f) = g s) : g (s.unreserve w) = g s := by
  rw [State.unreserve]
  split
  · rfl
  · exact (threads _ w _).trans (foldl_keeps g (fun s x => threads s x _) _ s)

/-- What is left in the slot does not depend on the reservations. -/
theorem State.unreserve_freed : ((s.unreserve w).thread w).freed = (s.thread w).freed := by
  rw [State.unreserve]
  split
  · rfl
  · rw [State.modThread_thread_same, State.foldl_modThread_thread (f := fun t => { t with reservedBy := 0 }) fun _ => rfl]
    split <;> rfl

/-- Of another slot only its reservation may end (R241). -/
theorem State.unreserve_other {q : SlotIx} (h : w ≠ q) : ∃ r, (s.unreserve w).thread q = { s.thread q with reservedBy := r } := by
  rw [State.unreserve]
  split
  · exact ⟨_, rfl⟩
  · rw [State.modThread_thread_ne _ _ _ _ h, State.foldl_modThread_thread (f := fun t => { t with reservedBy := 0 }) fun _ => rfl]
    split
    · exact ⟨0, rfl⟩
    · exact ⟨_, rfl⟩

theorem State.dropForwards_core (uid : Nat) (c : CoreIx) : ∃ fw, (s.dropForwards uid).core c = { s.core c with forward := fw } := by
  refine ⟨(s.core c).forward.filter fun f => f.uid != uid, ?_⟩
  rw [State.core, State.dropForwards, mapVector_getElem]
  rfl

theorem State.dropForwards_eq (uid : Nat) : ∃ cores saved, s.dropForwards uid = { s with cores := cores, saved := saved } := ⟨_, _, rfl⟩

/-- A state without a slot's occupant differs from the one with it in the slot, in what the slot's core held for it, and in
the reservations it had made. -/
structure State.Empties (s y : State) (w : SlotIx) : Prop where
  thread : y.thread w = (s.thread w).freed
  others : ∀ q, w ≠ q → ∃ r, y.thread q = { s.thread q with reservedBy := r }
  griddle : (y.core (SlotIx.core w)).griddle =
    if (s.core (SlotIx.core w)).griddle.holder = some (SlotIx.num w) then Griddle.reset else (s.core (SlotIx.core w)).griddle
  lock : (y.core (SlotIx.core w)).lock = match (s.core (SlotIx.core w)).lock with
    | some l => if l.holder = w then none else some l
    | none => none
  inbox : ∀ m ∈ (y.core (SlotIx.core w)).inbox, m.slot ≠ SlotIx.num w
  clusters : y.clusters = s.clusters
  endings : y.endings = s.endings
  pages : y.pages = s.pages
  mem : y.mem = s.mem
  hostMem : y.hostMem = s.hostMem

theorem State.emptied_empties : s.Empties (s.emptied w) w := by
  rw [State.emptied]
  generalize dropped : (if (s.thread w).migr then s.dropForwards (s.thread w).uid else s) = d
  have frame : ∃ cores saved, d = { s with cores := cores, saved := saved } := by
    rw [← dropped]
    split
    · exact State.dropForwards_eq s _
    · exact ⟨_, _, rfl⟩
  have core : ∃ fw, d.core (SlotIx.core w) = { s.core (SlotIx.core w) with forward := fw } := by
    rw [← dropped]
    split
    · exact State.dropForwards_core s _ _
    · exact ⟨_, rfl⟩
  obtain ⟨fw, is⟩ := core
  obtain ⟨cores, saved, frame⟩ := frame
  have thread (q : SlotIx) : (d.dropClaims w).thread q = s.thread q := by
    rw [State.dropClaims, State.modCore_thread, frame]
    rfl
  have unreserved : ((d.dropClaims w).unreserve w).core (SlotIx.core w) =
      ((d.core (SlotIx.core w)).dropGriddle (SlotIx.num w)).dropLock w := by
    rw [State.unreserve_keeps _ w (fun s => s.core (SlotIx.core w)) fun _ _ _ => rfl, State.dropClaims, State.modCore_core_same]
  have left : ((d.dropClaims w).freeSlot w).core (SlotIx.core w) = { ((d.dropClaims w).unreserve w).core (SlotIx.core w) with
      inbox := (((d.dropClaims w).unreserve w).core (SlotIx.core w)).inbox.filter fun m => m.slot != SlotIx.num w } := by
    rw [State.freeSlot, State.modCore_core_same]
    rfl
  have keeps {β : Type} (g : State → β) (threads_ : ∀ (s : State) w f, g (s.modThread w f) = g s)
      (cores_ : ∀ (s : State) c f, g (s.modCore c f) = g s) : g ((d.dropClaims w).freeSlot w) = g d := by
    rw [State.freeSlot, cores_, threads_, State.unreserve_keeps _ _ g threads_, State.dropClaims, cores_]
  refine ⟨?_, fun q other => ?_, ?_, ?_, ?_, ?_, ?_, ?_, ?_, ?_⟩
  · rw [State.freeSlot, State.modCore_thread, State.modThread_thread_same, State.unreserve_freed, thread]
  · rw [State.freeSlot, State.modCore_thread, State.modThread_thread_ne _ _ _ _ other, ← thread]
    exact State.unreserve_other _ w other
  · rw [left, unreserved, is]
    exact (Core.dropLock_griddle ..).trans (Core.dropGriddle_griddle ..)
  · rw [left, unreserved, is]
    exact (Core.dropLock_lock ..).trans (by rw [Core.dropGriddle_lock])
  · rw [left]
    exact fun m mem => by simpa using (List.mem_filter.1 mem).2
  · rw [keeps State.clusters (fun _ _ _ => rfl) fun _ _ _ => rfl, frame]
  · rw [keeps State.endings (fun _ _ _ => rfl) fun _ _ _ => rfl, frame]
  · rw [keeps State.pages (fun _ _ _ => rfl) fun _ _ _ => rfl, frame]
  · rw [keeps State.mem (fun _ _ _ => rfl) fun _ _ _ => rfl, frame]
  · rw [keeps State.hostMem (fun _ _ _ => rfl) fun _ _ _ => rfl, frame]

end

end Sys2Proof.Machine
end

section
/-! PROOFS. A thread ends (R108, R204, R206, R229, R407, R409, R425): what is left of it, of its task and of its team. -/

namespace Sys2Proof.Machine

/-! ### Records -/

section
variable {s u : State} (pages : u.pages = s.pages) (f : FuncIx) (q : Fin 16) (r : Completion)
include pages

theorem State.page_of_pages (e : FuncIx) : u.page e = s.page e := congrArg (·[e]) pages

theorem State.complete_pages : (u.complete f q r).pages = (s.complete f q r).pages := by
  simp only [State.complete, State.putRecord, State.busWrite, State.page_of_pages pages]
  split
  · simp only [State.modPair, State.modPage, State.setPage, State.page_of_pages pages, pages]
  · split <;> simp only [State.modPair, State.modPage, State.setPage, State.page, pages]

theorem State.complete_hostMem (hostMem : u.hostMem = s.hostMem) : (u.complete f q r).hostMem = (s.complete f q r).hostMem := by
  simp only [State.complete, State.putRecord, State.busWrite, State.page_of_pages pages]
  split
  · simp only [State.modPair, State.modPage_hostMem, hostMem]
  · split <;> simp only [State.modPair, State.modPage_hostMem, hostMem]

theorem State.complete_mem (mem : u.mem = s.mem) : (u.complete f q r).mem = (s.complete f q r).mem := by
  simp only [State.complete, State.putRecord, State.busWrite, State.page_of_pages pages]
  split
  · simp only [State.modPair, State.modPage_mem, mem]
  · split <;> simp only [State.modPair, State.modPage_mem, mem]

end

/-! ### The weight of a member (R229) -/

/-- A team in which some weight has ended where a condition holds. -/
def Team.endedIf (tm : Team) (c : Prop) [Decidable c] (mul : Nat) (idset : BitVec 128) : Team := if c then tm.ended mul idset else tm

section
variable (tm : Team) (c : Prop) [Decidable c] (mul : Nat) (idset : BitVec 128)

@[simp] theorem Team.endedIf_tasks : (tm.endedIf c mul idset).tasks = tm.tasks := by unfold Team.endedIf; split <;> rfl
@[simp] theorem Team.endedIf_weight : (tm.endedIf c mul idset).weight = tm.weight := by unfold Team.endedIf; split <;> rfl
@[simp] theorem Team.endedIf_fn : (tm.endedIf c mul idset).fn = tm.fn := by unfold Team.endedIf; split <;> rfl
@[simp] theorem Team.endedIf_q : (tm.endedIf c mul idset).q = tm.q := by unfold Team.endedIf; split <;> rfl
@[simp] theorem Team.endedIf_cseq : (tm.endedIf c mul idset).cseq = tm.cseq := by unfold Team.endedIf; split <;> rfl
@[simp] theorem Team.endedIf_team : (tm.endedIf c mul idset).team = tm.team := by unfold Team.endedIf; split <;> rfl

theorem Team.endedIf_exited : (tm.endedIf c mul idset).exited = if c then tm.exited + mul else tm.exited := by
  unfold Team.endedIf; split <;> rfl

theorem Team.endedIf_used : (tm.endedIf c mul idset).used = if c then tm.used &&& ~~~idset else tm.used := by
  unfold Team.endedIf; split <;> rfl

end

@[simp] theorem State.countExit_threads (s : State) (w : SlotIx) : (s.countExit w).threads = s.threads := by
  rw [State.countExit]
  split
  · rfl
  · split <;> rfl

theorem State.vacateSlot_eq (s : State) (w : SlotIx) (counts : Bool) :
    s.vacateSlot w counts = (if counts then s.countExit w else s).emptied w := by
  cases counts with
  | false => rfl
  | true =>
    have thread : (s.countExit w).thread w = s.thread w := congrArg (·[w]) (State.countExit_threads s w)
    simp only [State.vacateSlot, State.emptied, if_true, thread]

/-- In a state u the team of an ending thread is tm, and es are the endings on their way; the threads, the cores, the memories
and the register pages are as in s. -/
structure State.CountsAs (s u : State) (t : Thread) (tm : Team) (es : List Ending) : Prop where
  threads : u.threads = s.threads
  cores : u.cores = s.cores
  pages : u.pages = s.pages
  mem : u.mem = s.mem
  hostMem : u.hostMem = s.hostMem
  parts : ∀ cl, (u.cluster cl).part = (s.cluster cl).part
  insts : ∀ cl, (u.cluster cl).inst = (s.cluster cl).inst
  team : u.teamOf t = some tm
  endings : u.endings = es

section
variable {s : State} {w : SlotIx} {tm : Team} {before after : List Task} {k : Task} (runs : s.runs (s.thread w) tm before k after)
include runs

theorem State.member_of_runs : s.member (s.thread w) = k.member := by
  obtain ⟨team, split, own, others⟩ := runs
  simp [State.member, State.taskOf, team, tasks_find split own others]

/-- The weight of a member counts at once where its sieve is, and is reported elsewhere. -/
theorem State.counted_countsAs (counted : Bool) :
    s.CountsAs (if !counted then s.countExit w else s) (s.thread w)
      (tm.endedIf ((k.member = true ∧ counted = false) ∧ SlotIx.cluster w = (s.thread w).home) (s.thread w).mul.toNat (s.thread w).idset)
      (s.endings ++ if (k.member = true ∧ counted = false) ∧ ¬SlotIx.cluster w = (s.thread w).home
        then [⟨(s.thread w).home, (s.thread w).part, (s.thread w).team, (s.thread w).mul.toNat, (s.thread w).idset⟩] else []) := by
  have member := State.member_of_runs runs
  have team := runs.1
  by_cases counts : k.member = true ∧ counted = false
  · obtain ⟨isMember, rfl⟩ := counts
    by_cases near : SlotIx.cluster w = (s.thread w).home
    · have counting : s.countExit w = s.modTeamOf (s.thread w) fun tm => tm.ended (s.thread w).mul.toNat (s.thread w).idset := by
        simp [State.countExit, member, isMember, near]
      have clusters (cl : ClusterIx) : ((s.countExit w).cluster cl).part = (s.cluster cl).part ∧
          ((s.countExit w).cluster cl).inst = (s.cluster cl).inst := by
        rw [counting, State.modTeamOf, State.modTeam, State.modCluster_cluster]
        split <;> exact ⟨rfl, rfl⟩
      have after_ : (s.countExit w).teamOf (s.thread w) = some (tm.ended (s.thread w).mul.toNat (s.thread w).idset) := by
        rw [counting, State.modTeamOf, State.teamOf, State.modTeam_teamAt_same s _ _ _
          (fun tm => tm.ended (s.thread w).mul.toNat (s.thread w).idset) fun _ => ⟨rfl, rfl⟩, show s.teamAt _ _ _ = some tm from team]
        rfl
      simp only [Team.endedIf, isMember, near, Bool.not_false, if_true, and_self, not_true_eq_false, and_false, if_false, List.append_nil]
      exact ⟨by simp, by rw [counting]; rfl, by rw [counting]; rfl, by rw [counting]; rfl, by rw [counting]; rfl, fun cl => (clusters cl).1,
        fun cl => (clusters cl).2, after_, by rw [counting]; rfl⟩
    · have counting : s.countExit w = { s with endings := s.endings ++
          [⟨(s.thread w).home, (s.thread w).part, (s.thread w).team, (s.thread w).mul.toNat, (s.thread w).idset⟩] } := by
        simp [State.countExit, member, isMember, near]
      simp only [Team.endedIf, isMember, near, Bool.not_false, if_true, and_self, not_false_eq_true, and_false, if_false, counting]
      exact ⟨rfl, rfl, rfl, rfl, rfl, fun _ => rfl, fun _ => rfl, team, rfl⟩
  · have still : (if !counted then s.countExit w else s) = s := by
      cases counted with
      | true => rfl
      | false =>
        have other : k.member = false := by simpa using counts
        simp [State.countExit, member, other]
    simp only [Team.endedIf, still, counts, false_and, if_false, List.append_nil]
    exact ⟨rfl, rfl, rfl, rfl, rfl, fun _ => rfl, fun _ => rfl, team, rfl⟩

end

/-! ### The end -/

/-- What an ending leaves of a thread, of its task, of its team, and of the tasks that its task held; counted says that its
weight has counted before. -/
def State.EndsAs (s : State) (w : SlotIx) (tm : Team) (before after : List Task) (k : Task) (counted : Bool) (y : State) : Prop :=
  let t := s.thread w
  let c := s.core (SlotIx.core w)
  let counts : Prop := k.member = true ∧ counted = false
  let near : Prop := SlotIx.cluster w = t.home
  let last : Prop := k.threads = 1 ∧ k.conts = 0
  y.freed w ∧
    (y.thread w).g = t.g ∧ (y.thread w).v = t.v ∧ (y.thread w).k = t.k ∧ (y.thread w).rngkey = t.rngkey ∧
    (y.thread w).rngctr = t.rngctr ∧ (y.thread w).vstat = t.vstat ∧
    (y.core (SlotIx.core w)).griddle = (if c.griddle.holder = some (SlotIx.num w) then Griddle.reset else c.griddle) ∧
    (y.core (SlotIx.core w)).lock = (match c.lock with
      | some l => if l.holder = w then none else some l
      | none => none) ∧
    (¬(last ∧ before ++ after = []) → ∃ tm', y.teamAt t.home t.part t.team = some tm' ∧
      tm'.tasks = (if last then before ++ after else before ++ { k with threads := k.threads - 1 } :: after) ∧
      tm'.weight = tm.weight ∧
      tm'.exited = (if counts ∧ near then tm.exited + t.mul.toNat else tm.exited) ∧
      (tm'.used = if counts ∧ near then tm.used &&& ~~~t.idset else tm.used) ∧
      y.endings = s.endings ++ if counts ∧ ¬near then [⟨t.home, t.part, t.team, t.mul.toNat, t.idset⟩] else []) ∧
    (last → before ++ after ≠ [] → ∀ q, q ≠ w → (s.thread q).wait = .held → (s.thread q).team = t.team →
      (s.thread q).home = t.home → (s.thread q).part = t.part → (s.cluster (SlotIx.cluster q)).part = some t.part →
      y.arrivedAt q) ∧
    (last → before ++ after = [] → y.teamAt t.home t.part t.team = none)

/-- The record of a team whose last task has ended (R407). -/
def State.recorded (u : State) (tm : Team) (r : Completion) (gone : Prop) [Decidable gone] : State :=
  if gone then u.complete tm.fn tm.q r else u

section
variable {s u : State} (pages : u.pages = s.pages) (tm : Team) (r : Completion) (gone : Prop) [Decidable gone]
include pages

theorem State.recorded_pages : (u.recorded tm r gone).pages = (s.recorded tm r gone).pages := by
  unfold State.recorded
  split
  · exact State.complete_pages pages ..
  · exact pages

theorem State.recorded_hostMem (hostMem : u.hostMem = s.hostMem) : (u.recorded tm r gone).hostMem = (s.recorded tm r gone).hostMem := by
  unfold State.recorded
  split
  · exact State.complete_hostMem pages _ _ _ hostMem
  · exact hostMem

end

section
variable {s u y v : State} {w : SlotIx} {tm : Team} {before after : List Task} {k : Task} {counted : Bool}

/-- An ending is what EndsAs says if it leaves the slot empty, and the team as it says. -/
theorem State.Empties.endsAs (empties : u.Empties v w) (threads : u.threads = s.threads) (held : u.cores = s.cores) (cores : y.cores = v.cores)
    (thread : y.thread w = v.thread w)
    (stays : ¬((k.threads = 1 ∧ k.conts = 0) ∧ before ++ after = []) → ∃ tm',
      y.teamAt (s.thread w).home (s.thread w).part (s.thread w).team = some tm' ∧
      tm'.tasks = (if k.threads = 1 ∧ k.conts = 0 then before ++ after else before ++ k.left :: after) ∧ tm'.weight = tm.weight ∧
      tm'.exited = (if (k.member = true ∧ counted = false) ∧ SlotIx.cluster w = (s.thread w).home
        then tm.exited + (s.thread w).mul.toNat else tm.exited) ∧
      (tm'.used = if (k.member = true ∧ counted = false) ∧ SlotIx.cluster w = (s.thread w).home
        then tm.used &&& ~~~(s.thread w).idset else tm.used) ∧
      y.endings = s.endings ++ if (k.member = true ∧ counted = false) ∧ ¬SlotIx.cluster w = (s.thread w).home
        then [⟨(s.thread w).home, (s.thread w).part, (s.thread w).team, (s.thread w).mul.toNat, (s.thread w).idset⟩] else [])
    (starts : k.threads = 1 ∧ k.conts = 0 → before ++ after ≠ [] → ∀ q, q ≠ w →
      (s.thread q).HeldIn (s.thread w).part (s.thread w).home (s.thread w).team →
      (s.cluster (SlotIx.cluster q)).part = some (s.thread w).part → y.arrivedAt q)
    (gone : k.threads = 1 ∧ k.conts = 0 → before ++ after = [] → y.teamAt (s.thread w).home (s.thread w).part (s.thread w).team = none) :
    s.EndsAs w tm before after k counted y := by
  have core : y.core (SlotIx.core w) = v.core (SlotIx.core w) := congrArg (·[SlotIx.core w]) cores
  have was : u.core (SlotIx.core w) = s.core (SlotIx.core w) := congrArg (·[SlotIx.core w]) held
  have left : y.thread w = (s.thread w).freed := thread.trans (empties.thread.trans (congrArg (fun ts => ts[w].freed) threads))
  have griddle := empties.griddle
  have lock := empties.lock
  rw [was, ← core] at griddle lock
  have freed : y.freed w := ⟨by rw [left]; rfl, by rw [core]; exact empties.inbox⟩
  refine ⟨freed, ?_, ?_, ?_, ?_, ?_, ?_, griddle, lock, stays,
    fun last some_ q other wait team home part placed => starts last some_ q other ⟨wait, team, home, part⟩ placed, gone⟩
  all_goals rw [left]; rfl

end

@[simp] theorem State.modTeam_part_cluster (s : State) (cl : ClusterIx) (p : PartIx) (team : W32) (f : Team → Team) (c : ClusterIx) :
    ((s.modTeam cl p team f).cluster c).part = (s.cluster c).part := by
  rw [State.modTeam, State.modCluster_cluster]
  split <;> rfl

section
variable {s : State} {w : SlotIx} {tm : Team} {before after : List Task} {k : Task} (runs : s.runs (s.thread w) tm before k after)
  (some_ : 1 ≤ k.threads) (nodup : (tm.tasks.map Task.id).Nodup) (team : tm.team = (s.thread w).team)
  (noInst : ∀ i ∈ (s.cluster (s.thread w).home).inst, i.team ≠ (s.thread w).team ∨ i.part ≠ (s.thread w).part) (counted : Bool)
include runs some_ nodup team noInst

/-- A thread that ends by exit or KILL leaves what R108 and R409 say, and a record of its team if it was the last (R407). -/
theorem State.endThread_endsAs :
    let r := s.recorded tm { kind := 3, cseq := tm.cseq, team := (s.thread w).team, slot := s.globalSlot w }
      ((k.threads = 1 ∧ k.conts = 0) ∧ before ++ after = [])
    let y := s.endThread w (!counted)
    s.EndsAs w tm before after k counted y ∧ y.pages = r.pages ∧ y.mem = r.mem ∧ y.hostMem = r.hostMem := by
  have counts := State.counted_countsAs runs counted
  obtain ⟨-, split, own, others⟩ := runs
  have empties := State.emptied_empties (if !counted then s.countExit w else s) w
  have ending : s.endThread w (!counted) = ((s.vacateSlot w (!counted)).closeByCount (s.thread w).home (s.thread w).part (s.thread w).team).leaveTask
    ⟨w, s.globalSlot w, (s.thread w).part, (s.thread w).home, (s.thread w).team, (s.thread w).task⟩ false := rfl
  rw [State.vacateSlot_eq] at ending
  generalize (if !counted then s.countExit w else s) = u at *
  generalize u.emptied w = v at *
  have clusters (cl : ClusterIx) : v.cluster cl = u.cluster cl := congrArg (·[cl]) empties.clusters
  have at_ := (show v.teamAt (s.thread w).home (s.thread w).part (s.thread w).team = u.teamOf (s.thread w) by
    rw [State.teamAt, clusters]; rfl).trans counts.team
  have tasks := (Team.endedIf_tasks tm ((k.member = true ∧ counted = false) ∧ SlotIx.cluster w = (s.thread w).home)
    (s.thread w).mul.toNat (s.thread w).idset).trans split
  have endings := empties.endings.trans counts.endings
  have pages := empties.pages.trans counts.pages
  have mem := empties.mem.trans counts.mem
  have hostMem := empties.hostMem.trans counts.hostMem
  rw [State.closeByCount_of_none (by rw [clusters, counts.insts]; exact noInst), State.leaveTask_eq at_ tasks own others some_] at ending
  intro r y
  by_cases last : k.threads = 1 ∧ k.conts = 0
  · by_cases empty : before ++ after = []
    · rw [if_pos last, if_pos empty, Team.endedIf_fn, Team.endedIf_q, Team.endedIf_cseq, Team.endedIf_team, team] at ending
      have here : r = s.complete tm.fn tm.q { kind := 3, cseq := tm.cseq, team := (s.thread w).team, slot := s.globalSlot w } :=
        if_pos ⟨last, empty⟩
      simp only [y, ending, here]
      refine ⟨empties.endsAs counts.threads counts.cores (State.complete_cores ..) ?_ (fun more => absurd ⟨last, empty⟩ more)
        (fun _ some_ => absurd empty some_) (fun _ _ => ?_), State.complete_pages (by exact pages) .., State.complete_mem (by exact pages) _ _ _ mem,
        State.complete_hostMem (by exact pages) _ _ _ hostMem⟩
      · exact congrArg (·[w]) (State.complete_threads ..)
      · rw [State.teamAt, State.cluster, State.complete_clusters]
        exact State.dropTeam_teamAt ..
    · rw [if_pos last, if_neg empty] at ending
      have here : r = s := if_neg fun gone => empty gone.2
      have left := (State.modTeam_teamAt_same (v.taskLeft (s.thread w).home (s.thread w).part (s.thread w).team (s.thread w).task)
        (s.thread w).home (s.thread w).part (s.thread w).team (fun tm => { tm with tasks := before ++ after }) fun _ => ⟨rfl, rfl⟩).trans
        (congrArg _ (State.taskLeft_teamAt at_))
      simp only [y, ending, here, State.releaseHeld_pages, State.releaseHeld_mem, State.releaseHeld_hostMem]
      refine ⟨empties.endsAs counts.threads counts.cores (by rw [State.releaseHeld_cores]; rfl) ?_ (fun _ => ?_) (fun _ _ q other held placed => ?_)
        (fun _ none_ => absurd none_ empty), pages, mem, hostMem⟩
      · exact State.releaseHeld_thread fun held => by
          have run : (v.thread w).wait = .run := by rw [empties.thread]; rfl
          exact absurd (run.symm.trans held.1) (by decide)
      · rw [State.releaseHeld_teamAt, if_pos last, State.releaseHeld_endings]
        exact ⟨_, left, rfl, Team.endedIf_weight .., Team.endedIf_exited .., Team.endedIf_used .., endings⟩
      · refine State.releaseHeld_arrivedAt left ?_ (State.mem_slotsIn ?_) ?_
        · rw [split] at nodup
          exact nodup.sublist ((List.append_sublist_append_left before).2 (List.sublist_cons_self k after) |>.map Task.id)
        · rw [State.modTeam_part_cluster, State.taskLeft, State.modTeam_part_cluster, clusters, counts.parts]
          exact placed
        · obtain ⟨r', same⟩ := empties.others q other.symm
          have was : u.thread q = s.thread q := congrArg (·[q]) counts.threads
          change (v.thread q).HeldIn _ _ _
          rw [same, was]
          exact held
  · rw [if_neg last] at ending
    have here : r = s := if_neg fun gone => last gone.1
    simp only [y, ending, here]
    refine ⟨empties.endsAs counts.threads counts.cores rfl rfl (fun _ => ?_) (fun ended => absurd ended last) (fun ended => absurd ended last),
      pages, mem, hostMem⟩
    rw [if_neg last]
    exact ⟨_, State.taskLeft_teamAt at_, Team.modTask_left tasks own others, Team.endedIf_weight .., Team.endedIf_exited .., Team.endedIf_used .., endings⟩

end

end Sys2Proof.Machine
end

section
/-! PROOFS. exit, the retirement of a thread that has ended or was killed, and the reports of endings (R108, R177, R229, R409; the
statement O36). -/

namespace Sys2Proof.Machine

/-! ### What an ending waits for (R108, R267, R330, R409) -/

/-- What a thread has started is over; of a thread that is killed, refused entries and held segments do not count (log 30). -/
def State.Finished (s : State) (w : SlotIx) (ended : Bool) : Prop :=
  let t := s.thread w
  let c := s.core (SlotIx.core w)
  t.outs = [] ∧ (∀ x ∈ s.tmacrs, x.uid ≠ t.uid) ∧ (∀ r, c.tile.running = some r → r.op.stores t.uid = false) ∧
    (∀ g ∈ c.tile.epi, g.uid ≠ t.uid ∨ (ended = true ∧ g.held ≠ none)) ∧
    (∀ j ∈ c.journal, j.w ≠ w ∨ (ended = true ∧ ∃ n, j.state = .refused n)) ∧
    ∀ e ∈ c.retry, e.w ≠ w ∨ (ended = true ∧ ∃ n, e.state = .refused n)

section
variable {s : State} {w : SlotIx}

theorem State.tileStores_eq_false : s.tileStores w = false ↔
    (∀ r, (s.core (SlotIx.core w)).tile.running = some r → r.op.stores (s.thread w).uid = false) ∧
    ∀ g ∈ (s.core (SlotIx.core w)).tile.epi, g.uid ≠ (s.thread w).uid := by
  rw [State.tileStores]
  cases (s.core (SlotIx.core w)).tile.running <;> simp

theorem State.finished_iff : s.finished w = true ↔ s.Finished w false := by
  have tile := State.tileStores_eq_false (s := s) (w := w)
  simp only [State.finished, State.Finished, State.posted, State.tmacrOpen, Bool.and_eq_true, Bool.not_eq_true', tile, List.isEmpty_iff,
    List.any_eq_false, beq_iff_eq, Bool.false_eq_true, false_and, or_false, ne_eq]
  tauto

theorem State.finished_eq_false (h : ¬s.Finished w false) : s.finished w = false := Bool.eq_false_iff.2 (mt State.finished_iff.1 h)

/-- Of the core of a killed thread, the refused entries and the held segments of that thread alone are gone. -/
theorem State.abandon_core (s : State) (w : SlotIx) :
    let c := s.core (SlotIx.core w)
    let d := (s.abandon w).core (SlotIx.core w)
    d.griddle = c.griddle ∧ d.lock = c.lock ∧ d.tile.running = c.tile.running ∧
      (∀ g ∈ d.tile.epi, g ∈ c.tile.epi ∧ (g.uid = (s.thread w).uid → g.held = none)) ∧
      (∀ j ∈ d.journal, j ∈ c.journal ∧ (j.w = w → ∀ n, j.state ≠ .refused n)) ∧
      ∀ e ∈ d.retry, e ∈ c.retry ∧ (e.w = w → ∀ n, e.state ≠ .refused n) := by
  rw [State.abandon, State.modThread_core, State.modCore_core_same]
  refine ⟨rfl, rfl, rfl, fun g mem => ?_, fun j mem => ?_, fun e mem => ?_⟩
  all_goals
    obtain ⟨there, kept⟩ := List.mem_filter.1 mem
    refine ⟨there, fun own => ?_⟩
  · simpa [own] using kept
  · rintro n refused
    simp [own, refused] at kept
  · rintro n refused
    simp [own, refused] at kept

theorem State.abandon_thread (s : State) (w q : SlotIx) : ∃ p n, (s.abandon w).thread q = { s.thread q with pend := p, named := n } := by
  rw [State.abandon, State.modThread_thread]
  split
  · exact ⟨[], none, rfl⟩
  · exact ⟨_, _, rfl⟩

/-- A killed thread that has nothing else on its way has finished once it has abandoned what cannot be answered any more. -/
theorem State.abandon_finished (h : s.Finished w true) : (s.abandon w).finished w = true := by
  obtain ⟨outs, tmacrs, running, epi, journal, retry⟩ := h
  obtain ⟨p, n, thread⟩ := State.abandon_thread s w w
  obtain ⟨-, -, still, segments, entries, sends⟩ := State.abandon_core s w
  refine State.finished_iff.2 ?_
  unfold State.Finished
  rw [thread]
  refine ⟨outs, tmacrs, fun r at_ => running r (still.symm.trans at_), fun g mem => .inl fun own => ?_,
    fun j mem => .inl fun own => ?_, fun e mem => .inl fun own => ?_⟩
  · obtain ⟨there, free⟩ := segments g mem
    exact (epi g there).elim (fun other => other own) fun held => held.2 (free own)
  · obtain ⟨there, open_⟩ := entries j mem
    exact (journal j there).elim (fun other => other own) fun ⟨_, n, refused⟩ => open_ own n refused
  · obtain ⟨there, open_⟩ := sends e mem
    exact (retry e there).elim (fun other => other own) fun ⟨_, n, refused⟩ => open_ own n refused

end

/-! ### exit (R108) -/

theorem exit_waits {s : State} (h : ¬s.Finished s.cur false) : s.waits .exit .access := by
  refine State.run_wait ?_
  rw [op_bind_ok (op_get s), State.finished_eq_false h]
  rfl

theorem exit_edge {s : State} (h : s.Finished s.cur false) (next : ¬(s.me.edgeDone = true ∨ s.edgeRecords s.me = [])) :
    ∃ y, exec .exit s = .next y ∧ y.me.wait = .skimmer ∧ y.me.ip = s.me.ip ∧
      y.skims (SlotIx.core s.cur) .writeBack (s.edgeRecords s.me) s.me.uid .again := by
  refine State.run_edge ?_
  rw [op_bind_ok (op_get s), op_bind_ok (waitIf_false (by rw [State.finished_iff.2 h]; rfl) _)]
  dsimp only
  rw [if_pos (by simpa [not_or] using next)]
  rfl

theorem exit_parks {s : State} (h : s.Finished s.cur false) (next : s.me.edgeDone = true ∨ s.edgeRecords s.me = []) :
    exec .exit s = .next (s.modMe fun t => { t with wait := .exiting, resume := s.following, parkedAt := s.myCore.cycle }) := by
  have parks : (parkAs .exiting : Op Unit) s = .ok ((), s.modMe fun t =>
      { t with wait := .exiting, resume := s.following, parkedAt := s.myCore.cycle }) := rfl
  refine (State.run_ok (t := s.modMe fun t => { t with wait := .exiting, resume := s.following, parkedAt := s.myCore.cycle }) ?_).trans ?_
  · rw [op_bind_ok (op_get s), op_bind_ok (waitIf_false (by rw [State.finished_iff.2 h]; rfl) _)]
    dsimp only
    rw [if_neg (by simpa [imp_iff_not_or] using next)]
    exact parks
  · rw [State.modMe_modThread]
    rfl

/-! ### The retirement (R108) -/

theorem exitRetire_waits {s : State} {w : SlotIx} (exiting : (s.thread w).wait = .exiting)
    (h : ¬s.Finished w false ∨ ((s.thread w).pend ≠ [] ∧ (s.thread w).handler = false)) : exec (.exitRetire w) s = .next s := by
  have stays : (!s.finished w || !((s.thread w).pend.isEmpty || (s.thread w).handler)) = true := by
    obtain unfinished | ⟨pending, handler⟩ := h
    · rw [State.finished_eq_false unfinished]
      rfl
    · simp [pending, handler]
  rw [show exec (.exitRetire w) s = execExitRetire w s from rfl, execExitRetire]
  simp only [exiting, stays, if_true]

theorem exitRetire_ends {s : State} {w : SlotIx} (exiting : (s.thread w).wait = .exiting) (h : s.Finished w false)
    (none_ : (s.thread w).pend = [] ∨ (s.thread w).handler = true) : exec (.exitRetire w) s = .next (s.endThread w true) := by
  have goes : (!s.finished w || !((s.thread w).pend.isEmpty || (s.thread w).handler)) = false := by
    rw [State.finished_iff.2 h]
    obtain empty | handler := none_
    · simp [empty]
    · simp [handler]
  rw [show exec (.exitRetire w) s = execExitRetire w s from rfl, execExitRetire]
  simp only [exiting, goes, Bool.false_eq_true, if_false]

/-! ### The reports of endings (R229) -/

theorem State.reportEnding_eq {s : State} {e : Ending} {rest : List Ending} (first : s.endings = e :: rest)
    (noInst : ∀ i ∈ (s.cluster e.home).inst, i.team ≠ e.team ∨ i.part ≠ e.part) :
    s.reportEnding = State.modTeam { s with endings := rest } e.home e.part e.team fun tm => tm.ended e.mul e.idset := by
  simp only [State.reportEnding, first]
  refine State.closeByCount_of_none ?_
  rw [State.modTeam, State.modCluster_cluster_same]
  exact noInst

theorem State.reportEnding_first {s : State} {e : Ending} {rest : List Ending} {tm : Team} (first : s.endings = e :: rest)
    (noInst : ∀ i ∈ (s.cluster e.home).inst, i.team ≠ e.team ∨ i.part ≠ e.part) (at_ : s.teamAt e.home e.part e.team = some tm) :
    s.reportEnding.endings = rest ∧ s.reportEnding.threads = s.threads ∧ s.reportEnding.mem = s.mem ∧
      s.reportEnding.teamAt e.home e.part e.team = some (tm.ended e.mul e.idset) := by
  rw [State.reportEnding_eq first noInst, State.modTeam_teamAt_same _ _ _ _ (fun tm => tm.ended e.mul e.idset) fun _ => ⟨rfl, rfl⟩]
  exact ⟨rfl, rfl, rfl, congrArg _ at_⟩

/-! ### KILL (R409) -/

theorem State.skimWriteBack_keeps {β : Type} (g : State → β) (mem : ∀ (s : State) m, g { s with mem := m } = g s)
    (l1 : ∀ (s : State) c (f : List L1Line → List L1Line), g (s.modCore c fun x => { x with l1 := f x.l1 }) = g s)
    (count : ∀ (s : State) c code n, g (s.count c code n) = g s)
    (s : State) (c : CoreIx) (rs : List Region) : g (s.skimWriteBack c rs) = g s := by
  refine foldl_keeps g (fun s l => ?_) _ s
  dsimp only
  split
  · rfl
  · rw [count]
    exact (l1 _ c fun ls => updateAll ls (fun y => y.pa == l.pa) fun y => { y with dirty := y.dirty &&& ~~~(l.dirty &&& l.within _ rs) }).trans (mem s _)

theorem State.skimWriteBack_pages (s : State) (c : CoreIx) (rs : List Region) : (s.skimWriteBack c rs).pages = s.pages :=
  State.skimWriteBack_keeps State.pages (fun _ _ => rfl) (fun _ _ _ => rfl) (fun _ _ _ _ => rfl) s c rs

theorem State.skimWriteBack_hostMem (s : State) (c : CoreIx) (rs : List Region) : (s.skimWriteBack c rs).hostMem = s.hostMem :=
  State.skimWriteBack_keeps State.hostMem (fun _ _ => rfl) (fun _ _ _ => rfl) (fun _ _ _ _ => rfl) s c rs

/-- What a write-back keeps of a cluster: all that no counter is. -/
theorem State.skimWriteBack_cluster {β : Type} (g : Cluster → β) (pmc : ∀ (c : Cluster) p, g { c with pmc := p } = g c) (s : State) (c : CoreIx)
    (rs : List Region) (cl : ClusterIx) : g ((s.skimWriteBack c rs).cluster cl) = g (s.cluster cl) := by
  refine State.skimWriteBack_keeps (fun s => g (s.cluster cl)) (fun _ _ => rfl) (fun _ _ _ => rfl) (fun s c code n => ?_) s c rs
  rw [State.count, State.modCluster_cluster]
  split
  · exact pmc _ _
  · rfl

/-- What a write-back keeps of a core: all that is no counter and no L1 line. -/
theorem State.skimWriteBack_core {β : Type} (g : Core → β) (pmc : ∀ (c : Core) p, g { c with pmc := p } = g c)
    (l1 : ∀ (c : Core) ls, g { c with l1 := ls } = g c) (s : State) (c : CoreIx) (rs : List Region) (d : CoreIx) :
    g ((s.skimWriteBack c rs).core d) = g (s.core d) := by
  refine State.skimWriteBack_keeps (fun s => g (s.core d)) (fun _ _ => rfl) (fun s c f => ?_) (fun s c code n => ?_) s c rs
  · rw [State.modCore_core]
    split
    · exact l1 _ _
    · rfl
  · rw [State.count_core]
    split
    · exact pmc _ _
    · rfl

/-- A state x differs from s in nothing that the end of the thread at w tells of: in what is pending for threads, in caches, in
memories and in register pages at most. -/
structure State.EndsAlike (s x : State) (w : SlotIx) : Prop where
  thread : ∀ q, ∃ p n, x.thread q = { s.thread q with pend := p, named := n }
  griddle : (x.core (SlotIx.core w)).griddle = (s.core (SlotIx.core w)).griddle
  lock : (x.core (SlotIx.core w)).lock = (s.core (SlotIx.core w)).lock
  parts : ∀ cl, (x.cluster cl).part = (s.cluster cl).part
  teams : ∀ cl, (x.cluster cl).teams = (s.cluster cl).teams
  insts : ∀ cl, (x.cluster cl).inst = (s.cluster cl).inst
  endings : x.endings = s.endings

section
variable {s x y : State} {w : SlotIx} {tm : Team} {before after : List Task} {k : Task} {counted : Bool} (alike : s.EndsAlike x w)
include alike

theorem State.EndsAlike.clustersOf (p : PartIx) : x.clustersOf p = s.clustersOf p := by
  simp only [State.clustersOf, alike.parts]

theorem State.EndsAlike.globalSlot : x.globalSlot w = s.globalSlot w := by
  simp only [State.globalSlot, State.vcluster, State.partOf, alike.parts, alike.clustersOf]

theorem State.EndsAlike.runs (runs : s.runs (s.thread w) tm before k after) : x.runs (x.thread w) tm before k after := by
  obtain ⟨p, n, thread⟩ := alike.thread w
  rw [thread]
  refine ⟨?_, runs.2⟩
  rw [State.teamOf, State.teamAt, alike.teams]
  exact runs.1

theorem State.EndsAlike.endsAs (ends : x.EndsAs w tm before after k counted y) : s.EndsAs w tm before after k counted y := by
  obtain ⟨p, n, thread⟩ := alike.thread w
  unfold State.EndsAs at *
  simp only [thread, alike.griddle, alike.lock, alike.parts, alike.endings] at ends
  obtain ⟨freed, g, v, kk, rngkey, rngctr, vstat, griddle, lock, stays, starts, gone⟩ := ends
  refine ⟨freed, g, v, kk, rngkey, rngctr, vstat, griddle, lock, stays, fun last some_ q other wait team home part placed => ?_, gone⟩
  obtain ⟨p', n', same⟩ := alike.thread q
  exact starts last some_ q other (by rw [same]; exact wait) (by rw [same]; exact team) (by rw [same]; exact home) (by rw [same]; exact part) placed

end

theorem State.EndsAlike.trans {s x z : State} {w : SlotIx} (first : s.EndsAlike x w) (second : x.EndsAlike z w) : s.EndsAlike z w where
  thread q := by
    obtain ⟨_, _, was⟩ := first.thread q
    obtain ⟨p, n, is⟩ := second.thread q
    exact ⟨p, n, by rw [is, was]⟩
  griddle := second.griddle.trans first.griddle
  lock := second.lock.trans first.lock
  parts cl := (second.parts cl).trans (first.parts cl)
  teams cl := (second.teams cl).trans (first.teams cl)
  insts cl := (second.insts cl).trans (first.insts cl)
  endings := second.endings.trans first.endings

theorem State.complete_endings (s : State) (f : FuncIx) (q : Fin 16) (r : Completion) : (s.complete f q r).endings = s.endings := by
  simp only [State.complete, State.putRecord, State.busWrite]
  split
  · rfl
  · split <;> rfl

section
variable (s : State) (w : SlotIx)

theorem State.abandon_endsAlike : s.EndsAlike (s.abandon w) w :=
  have ⟨griddle, lock, _⟩ := State.abandon_core s w
  ⟨State.abandon_thread s w, griddle, lock, fun _ => rfl, fun _ => rfl, fun _ => rfl, rfl⟩

theorem State.skimWriteBack_endsAlike (c : CoreIx) (rs : List Region) : s.EndsAlike (s.skimWriteBack c rs) w where
  thread q := ⟨_, _, State.skimWriteBack_keeps (fun s => s.thread q) (fun _ _ => rfl) (fun _ _ _ => rfl) (fun _ _ _ _ => rfl) s c rs⟩
  griddle := State.skimWriteBack_core Core.griddle (fun _ _ => rfl) (fun _ _ => rfl) s c rs _
  lock := State.skimWriteBack_core Core.lock (fun _ _ => rfl) (fun _ _ => rfl) s c rs _
  parts := State.skimWriteBack_cluster Cluster.part (fun _ _ => rfl) s c rs
  teams := State.skimWriteBack_cluster Cluster.teams (fun _ _ => rfl) s c rs
  insts := State.skimWriteBack_cluster Cluster.inst (fun _ _ => rfl) s c rs
  endings := State.skimWriteBack_keeps State.endings (fun _ _ => rfl) (fun _ _ _ => rfl) (fun _ _ _ _ => rfl) s c rs

theorem State.complete_endsAlike (f : FuncIx) (q : Fin 16) (r : Completion) : s.EndsAlike (s.complete f q r) w where
  thread v := ⟨_, _, congrArg (·[v]) (State.complete_threads s f q r)⟩
  griddle := congrArg (fun cs => cs[SlotIx.core w].griddle) (State.complete_cores s f q r)
  lock := congrArg (fun cs => cs[SlotIx.core w].lock) (State.complete_cores s f q r)
  parts cl := congrArg (fun cs => cs[cl].part) (State.complete_clusters s f q r)
  teams cl := congrArg (fun cs => cs[cl].teams) (State.complete_clusters s f q r)
  insts cl := congrArg (fun cs => cs[cl].inst) (State.complete_clusters s f q r)
  endings := State.complete_endings s f q r

/-- A killed thread writes back its bytes once it has abandoned what cannot be answered any more. -/
def State.killing : State :=
  let a := s.abandon w
  a.skimWriteBack (SlotIx.core w) (a.edgeRecords (a.thread w))

theorem State.killing_endsAlike : s.EndsAlike (s.killing w) w := (State.abandon_endsAlike s w).trans (State.skimWriteBack_endsAlike _ w _ _)
theorem State.killing_pages : (s.killing w).pages = s.pages := State.skimWriteBack_pages ..
theorem State.killing_hostMem : (s.killing w).hostMem = s.hostMem := State.skimWriteBack_hostMem ..

/-- The record of a killed thread (R409). -/
def State.killRecord (cseq : W32) : Completion := { kind := 5, cseq := cseq, team := (s.thread w).team, slot := s.globalSlot w }

end

theorem State.EndsAlike.team {s x : State} {w : SlotIx} (alike : s.EndsAlike x w) : (x.thread w).team = (s.thread w).team := by
  obtain ⟨_, _, thread⟩ := alike.thread w
  rw [thread]

section
variable {s : State} {w : SlotIx} {f : FuncIx} {q : Fin 16} {cseq : W32} {counted : Bool} (killed : (s.thread w).wait = .killed f q cseq counted)
  (finished : s.Finished w true)
include killed finished

theorem exitRetire_kills :
    exec (.exitRetire w) s = .next (((s.killing w).complete f q (s.killRecord w cseq)).endThread w (!counted)) := by
  have alike := State.killing_endsAlike s w
  have ends : s.endKilled w f q cseq counted =
      ((s.killing w).complete f q ((s.killing w).killRecord w cseq)).endThread w (!counted) := by
    simp only [State.endKilled, State.abandon_finished finished, Bool.not_true, Bool.false_eq_true, if_false, State.killRecord, State.killing]
  have record : (s.killing w).killRecord w cseq = s.killRecord w cseq := by
    rw [State.killRecord, alike.team, alike.globalSlot]
    rfl
  rw [show exec (.exitRetire w) s = execExitRetire w s from rfl, execExitRetire]
  simp only [killed, ends, record]

variable {tm : Team} {before after : List Task} {k : Task} (runs : s.runs (s.thread w) tm before k after)
  (some_ : 1 ≤ k.threads) (nodup : (tm.tasks.map Task.id).Nodup) (team : tm.team = (s.thread w).team)
  (noInst : ∀ i ∈ (s.cluster (s.thread w).home).inst, i.team ≠ (s.thread w).team ∨ i.part ≠ (s.thread w).part)
include runs some_ nodup team noInst

theorem exitRetire_killed :
    let r := (s.complete f q (s.killRecord w cseq)).recorded tm
      { kind := 3, cseq := tm.cseq, team := (s.thread w).team, slot := s.globalSlot w } ((k.threads = 1 ∧ k.conts = 0) ∧ before ++ after = [])
    ∃ y, exec (.exitRetire w) s = .next y ∧ s.EndsAs w tm before after k counted y ∧ y.pages = r.pages ∧ y.hostMem = r.hostMem := by
  intro r
  have alike := (State.killing_endsAlike s w).trans (State.complete_endsAlike (s.killing w) w f q (s.killRecord w cseq))
  obtain ⟨p, n, thread⟩ := alike.thread w
  have pages := State.complete_pages (State.killing_pages s w) f q (s.killRecord w cseq)
  have hostMem := State.complete_hostMem (State.killing_pages s w) f q (s.killRecord w cseq) (State.killing_hostMem s w)
  have ends := State.endThread_endsAs (alike.runs runs) some_ nodup (by rw [thread]; exact team) (by rw [thread, alike.insts]; exact noInst) counted
  obtain ⟨ends, pages', -, hostMem'⟩ := ends
  rw [alike.globalSlot, alike.team] at pages' hostMem'
  exact ⟨_, exitRetire_kills killed finished, alike.endsAs ends, pages'.trans (State.recorded_pages pages ..),
    hostMem'.trans (State.recorded_hostMem pages tm _ _ hostMem)⟩

end

end Sys2Proof.Machine

namespace Sys2Proof

open Sys2Proof.Machine

/-- Settles O36, by one lemma per rule: an ending empties the slot and leaves the team what the statement says of it, in the state
in which exit retires and in the one in which a killed thread has written back its bytes. -/
theorem endings : Obligations.Endings := by
  unfold Obligations.Endings
  intro s w tm before after k t c finished rs counts near next last ends ended runs some_ nodup part team noInst
  refine ⟨?_, fun exiting => ⟨exitRetire_waits exiting, fun finished none_ => ?_⟩, fun e rest first home part team => ?_,
    fun f q cseq counted killed finished => exitRetire_killed killed finished runs some_ nodup team noInst⟩
  · rintro rfl
    exact ⟨exit_waits, exit_edge, exit_parks⟩
  · exact ⟨_, exitRetire_ends exiting finished none_, State.endThread_endsAs runs some_ nodup team noInst false⟩
  · rw [← home, ← part, ← team] at noInst ⊢
    exact State.reportEnding_first first noInst (by rw [home, part, team]; exact runs.1)

end Sys2Proof
end

section
/-! PROOFS. Lanes that move whole (R121 to R123), conversions by parts (R119) and population counts (R128). -/

namespace Sys2Proof.Machine

/-! ### Results without flags -/

@[simp] theorem Thread.raiseFlags_zero (t : Thread) : t.raiseFlags 0 = t := by simp [Thread.raiseFlags]

/-- A v register under the mask, no flags, and the advance. -/
theorem dstV_pass (s : State) (d : VReg) (m : Mask) (r : Vec) :
    (do dstV d m r; advance : Op Unit) s =
      .ok ((), (s.modMe fun t => (t.setV d (mergeV (s.me.kreg m.k) m.z s.me.v[d] r)).raiseFlags 0).modMe
        fun t => { t with ip := s.following }) := by
  rw [op_bind_ok (dstV_eq ..), advance_eq, State.following_modMe _ _ (by simp)]
  simp only [Thread.raiseFlags_zero]

section
variable {s : State} {i : Instr} {d : VReg} {m : Mask} {r : Vec}
  (run : exec i s = .next (s.retire fun t => (t.setV d (mergeV (s.me.kreg m.k) m.z s.me.v[d] r)).raiseFlags 0))
include run

theorem State.writesLanes_pass {P : Fin 32 → W32 → Prop} (lanes : ∀ n : Fin 32, (s.me.kreg m.k).getLsbD n = true → P n r[n]) :
    s.writesLanes i d m P fun _ => False :=
  State.writesLanes_merge run lanes (by simp)

theorem State.computes_pass {ty : ETy} {f : Fin 32 → Nat → Int}
    (elements : ∀ n : Fin 32, ∀ j < 32 / ty.width, (elementOf ty r[n] j : Int) = f n j % 2 ^ ty.width) :
    s.computes i d ty m fun n j => (f n j, 0) :=
  State.writesLanes_merge run (fun n _ => elements n) (by simp)

/-- A result of one element for each lane. -/
theorem State.computes_words {f : Fin 32 → Nat} (words : ∀ n : Fin 32, r[n].toNat = f n % 2 ^ 32) :
    s.computes i d .s32 m fun n _ => ((f n : Nat), 0) := by
  refine State.computes_pass run fun n j hj => ?_
  obtain rfl : j = 0 := Nat.lt_one_iff.1 hj
  rw [elementOf_s32, words n]
  exact Int.natCast_emod (f n) (2 ^ 32)

end

/-! ### Moves (R121 to R123) -/

section
variable {s : State} {d a b : VReg} {c g : GReg} {x y : GV} {ty : ETy} {k : KReg} {m : Mask}

theorem laneAt_eq (v : Vec) (n : Nat) : laneAt v n = v[Fin.ofNat 32 n] := rfl

theorem laneAt_mod (v : Vec) (n k : Nat) : laneAt v (n + k % 32) = laneAt v (n + k) := by
  simp only [laneAt, Nat.add_mod_mod]

theorem vmov_moves (plain : s.plain [x] [.v d]) : s.computes (.vmov d x m) d .s32 m fun n j => (s.element x .s32 n j, 0) :=
  State.computes_vec1 plain rfl fun _ _ _ => ETy.reduces_nat rfl

theorem vidx_counts (plain : s.plain [.g c] [.v d]) :
    s.computes (.vidx d c m) d .s32 m fun n _ => ((n.val + (s.me.greg c).toNat : Nat), 0) := by
  refine State.computes_words (r := Vector.ofFn fun i => BitVec.ofNat 32 i.val + (s.me.greg c).setWidth 32) ?_ fun n => ?_
  · refine State.run_advance ?_
    rw [op_bind_ok (ready_plain plain (keptBy_sub m d _)), op_bind_ok (srcG_plain (State.plain_src plain (by simp))), dstV_pass]
  · simp only [Fin.getElem_fin, Vector.getElem_ofFn, BitVec.toNat_add, BitVec.toNat_ofNat, BitVec.toNat_setWidth]
    exact (Nat.add_mod ..).symm

theorem vsel_selects (plain : s.plain [x, y] [.v d]) : s.computes (.vsel d x y ty k) d ty ⟨0, false⟩ fun n j =>
    (if (s.me.kreg k).getLsbD n = true then s.element x ty n j else s.element y ty n j, 0) := by
  refine State.computes_pass
    (r := Vector.ofFn fun i => if (s.me.kreg k).getLsbD i.val then (s.operand ty x)[i] else (s.operand ty y)[i]) ?_ fun n j hj => ?_
  · refine State.run_advance ?_
    rw [op_bind_ok (ready_plain plain), op_bind_ok (State.srcGV_operand ty (State.plain_src plain (by simp))),
      op_bind_ok (State.srcGV_operand ty (State.plain_src plain (by simp))), op_bind_ok (srcK_eq ..), dstV_pass]
  · have fits (z : GV) : (s.element z ty n j : Int) % 2 ^ ty.width = s.element z ty n j := by
      exact_mod_cast Nat.mod_eq_of_lt (s.element_lt z ty n j)
    simp only [Fin.getElem_fin, Vector.getElem_ofFn]
    split
    · rw [fits]
      exact congrArg _ (s.operand_element ty x n hj)
    · rw [fits]
      exact congrArg _ (s.operand_element ty y n hj)

theorem vperm_permutes (plain : s.plain [.v a, .v b] [.v d]) :
    s.writesLanes (.vperm d a b m) d m (fun n r => r = s.me.v[a][Fin.ofNat 32 s.me.v[b][n].toNat]) fun _ => False := by
  refine State.writesLanes_pass (r := Vector.ofFn fun i => laneAt s.me.v[a] s.me.v[b][i].toNat) ?_ fun n _ => ?_
  · refine State.run_advance ?_
    rw [op_bind_ok (ready_plain plain (keptBy_sub m d _)), op_bind_ok (srcV_eq ..), op_bind_ok (srcV_eq ..), dstV_pass]
  · simp only [Fin.getElem_fin, Vector.getElem_ofFn]
    rfl

theorem vrot_rotates (plain : s.plain [.v a, .g c] [.v d]) :
    s.writesLanes (.vrot d a c m) d m (fun n r => r = s.me.v[a][Fin.ofNat 32 (n.val + (s.me.greg c).toNat)]) fun _ => False := by
  refine State.writesLanes_pass (r := Vector.ofFn fun i => laneAt s.me.v[a] (i.val + (s.me.greg c).toNat % 32)) ?_ fun n _ => ?_
  · refine State.run_advance ?_
    rw [op_bind_ok (ready_plain plain (keptBy_sub m d _)), op_bind_ok (srcV_eq ..),
      op_bind_ok (srcG_plain (State.plain_src plain (by simp))), dstV_pass]
  · simp only [Fin.getElem_fin, Vector.getElem_ofFn, laneAt_mod]
    rfl

theorem vext_gives (plain : s.plain [.v a, .g c] [.g g]) : s.gives (.vext g a c ty) g
    (if ty == .s32 then (laneAt s.me.v[a] (s.me.greg c).toNat).signExtend 64 else (laneAt s.me.v[a] (s.me.greg c).toNat).setWidth 64) := by
  refine State.run_advance ?_
  rw [op_bind_ok (ready_plain plain), op_bind_ok (srcV_eq ..), op_bind_ok (srcG_plain (State.plain_src plain (by simp))),
    dstG_advance _ (State.plain_dst plain (by simp))]

theorem vins_inserts (plain : s.plain [.g g, .g c] [.v d]) : s.computes (.vins d g c) d .s32 ⟨0, false⟩ fun n _ =>
    ((if n.val = (s.me.greg c).toNat % 32 then (s.me.greg g).toNat else s.me.v[d][n].toNat : Nat), 0) := by
  refine State.computes_words
    (r := Vector.ofFn fun i => if i.val == (s.me.greg c).toNat % 32 then (s.me.greg g).setWidth 32 else s.me.v[d][i]) ?_ fun n => ?_
  · refine State.run_advance ?_
    rw [op_bind_ok (ready_plain plain), op_bind_ok (srcG_plain (State.plain_src plain (by simp))),
      op_bind_ok (srcG_plain (State.plain_src plain (by simp))), op_bind_ok (srcV_eq ..), dstV_pass]
  · simp only [Fin.getElem_fin, Vector.getElem_ofFn, beq_iff_eq]
    split
    · exact BitVec.toNat_setWidth ..
    · exact (Nat.mod_eq_of_lt (s.me.v[d][n.val]).isLt).symm

theorem vpopc_counts (plain : s.plain [.v a] [.v d]) : s.computes (.vpopc d a ty m) d ty m fun n j =>
    (((List.range ty.width).filter (s.element (.v a) ty n j).testBit).length, 0) :=
  State.computes_vec1 plain rfl fun _ _ _ => ETy.reduces_nat (by rw [popNat_eq])

end

/-! ### Conversions (R119) -/

theorem ETy.count_eq (ty : ETy) : ty.count = 32 * (32 / ty.width) := by cases ty <;> rfl

theorem roundNum_lt {ty : ETy} (float : ty.isFloat = true) (rm : RMode) (u : Num) : (roundNum ty.fmt rm u).1 < 2 ^ ty.width := by
  have specials : ty.fmt.nan < 2 ^ ty.width ∧ ∀ p, ty.fmt.inf p < 2 ^ ty.width ∧ ty.fmt.zero p < 2 ^ ty.width := by
    revert float
    cases ty <;> decide
  have word : 2 * 2 ^ (ty.fmt.ebits + ty.fmt.fbits) = 2 ^ ty.width := by
    revert float
    cases ty <;> decide
  cases u with
  | nan s => exact specials.1
  | inf p => exact (specials.2 p).1
  | fin p m e =>
    rw [roundNum]
    split
    · exact (specials.2 p).2
    · next nonzero =>
      rw [← word]
      exact roundsTo_word_lt (roundTo_roundsTo (rm := rm) (neg := p) ty.fmt_ok (liesAt_exact m e) (by simpa using nonzero) nofun)

theorem wrapNat_lt (w : Nat) (x : Int) : wrapNat w x < 2 ^ w := by
  have := cast_wrapNat w x
  have := Int.emod_lt_of_pos x (show (0 : Int) < 2 ^ w by positivity)
  zify
  omega

/-- A converted element fits its width. -/
theorem convert_lt (dst src : ETy) (rm : RMode) (x : Nat) : (convert dst src rm x).1 < 2 ^ dst.width := by
  cases from_ : src.isFloat <;> cases to_ : dst.isFloat
  · rw [convert_int_int from_ to_]
    exact wrapNat_lt ..
  · rw [convert_int_float from_ to_]
    exact roundNum_lt to_ rm _
  · cases val : src.fmt.val x with
    | nan s =>
      rw [convert_nan from_ to_ val]
      positivity
    | inf p =>
      rw [convert_inf from_ to_ val]
      exact wrapNat_lt ..
    | fin p m e =>
      simp only [convert_fin from_ to_ val]
      split
      · exact wrapNat_lt ..
      · split <;> exact wrapNat_lt ..
  · rw [convert_float_float from_ to_]
    exact roundNum_lt to_ rm _

/-- The source element that a conversion writes to destination element e, of ns and nd elements: none outside its part (R119). -/
def cvtFrom (ns nd part e : Nat) : Option Nat :=
  if nd ≤ ns then some (part * nd + e) else if part * ns ≤ e ∧ e < part * ns + ns then some (e - part * ns) else none

theorem cvtFrom_lt {ns nd part e i : Nat} (some_ : cvtFrom ns nd part e = some i) (inside : part < max (ns / nd) (nd / ns)) (he : e < nd) :
    i < ns := by
  unfold cvtFrom at some_
  split at some_
  · next wide =>
    have fit : part < ns / nd := by
      by_cases equal : nd = ns
      · simpa [equal] using inside
      · rwa [max_eq_left] at inside
        rw [Nat.div_eq_of_lt (by omega : nd < ns)]
        exact Nat.zero_le _
    have := Nat.mul_le_mul_right nd (Nat.succ_le_of_lt fit)
    have := Nat.div_mul_le_self ns nd
    rw [Nat.succ_mul] at *
    simp only [Option.some.injEq] at some_
    omega
  · split at some_
    · simp only [Option.some.injEq] at some_
      omega
    · cases some_

theorem cvtElems_range {dst src : ETy} {rm : RMode} {part : Nat} (f : Nat → Nat)
    (inside : part < max (src.count / dst.count) (dst.count / src.count)) :
    cvtElems dst src rm part ((List.range src.count).map f) =
      (List.range dst.count).map fun e => (cvtFrom src.count dst.count part e).map fun i => convert dst src rm (f i) := by
  have read {e i : Nat} (he : e < dst.count) (some_ : cvtFrom src.count dst.count part e = some i) :
      ((List.range src.count).map f).getD i 0 = f i := by
    simp [cvtFrom_lt some_ inside he]
  refine List.map_congr_left fun e he => ?_
  have he := List.mem_range.1 he
  have read {i : Nat} (some_ : cvtFrom src.count dst.count part e = some i) := read he some_
  have alone (equal : src.count = dst.count) : part = 0 := by
    rw [equal, max_self, Nat.div_self (Nat.zero_lt_of_lt he)] at inside
    omega
  by_cases wide : dst.count ≤ src.count
  · simp only [cvtFrom, if_pos wide, ge_iff_le, Option.some.injEq, forall_eq'] at read ⊢
    rw [Option.map_some, ← read]
    by_cases equal : src.count = dst.count
    · simp [equal, alone equal]
    · simp [equal]
  · simp only [cvtFrom, if_neg wide, ge_iff_le] at read ⊢
    by_cases mine : part * src.count ≤ e ∧ e < part * src.count + src.count
    · simp only [if_pos mine, Option.some.injEq, forall_eq'] at read ⊢
      rw [Option.map_some, ← read]
      simp [mine]
    · simp [mine]

section
variable (s : State) (d a : VReg) (ty src : ETy) (rm : RMode) (part : BitVec 6) (m : Mask)

/-- Source element i, converted. -/
def State.converted (i : Nat) : Nat × Flags :=
  convert ty src rm (elementOf src s.me.v[a][Fin.ofNat 32 (i / (32 / src.width))] (i % (32 / src.width)))

/-- Destination element e as it was. -/
def State.oldElement (e : Nat) : Nat := elementOf ty s.me.v[d][Fin.ofNat 32 (e / (32 / ty.width))] (e % (32 / ty.width))

/-- Destination element e as a conversion leaves it. -/
def State.cvtElement (e : Nat) : Nat :=
  match cvtFrom src.count ty.count part.toNat e with
  | none => s.oldElement d ty e
  | some i => if (s.me.kreg m.k).getLsbD (e / (32 / ty.width)) then (s.converted a ty src rm i).1
      else if m.z then 0 else s.oldElement d ty e

/-- The flags that destination element e raises. -/
def State.cvtFlags (e : Nat) : Flags :=
  match cvtFrom src.count ty.count part.toNat e with
  | none => 0
  | some i => if (s.me.kreg m.k).getLsbD (e / (32 / ty.width)) then (s.converted a ty src rm i).2 else 0

variable {s d a ty src rm part m}

theorem State.cvtElement_lt (e : Nat) : s.cvtElement d a ty src rm part m e < 2 ^ ty.width := by
  have old : s.oldElement d ty e < 2 ^ ty.width := Nat.mod_lt _ (by positivity)
  unfold State.cvtElement
  split
  · exact old
  · split
    · exact convert_lt ..
    · split
      · positivity
      · exact old

theorem State.cvtElement_none {e : Nat} (none_ : cvtFrom src.count ty.count part.toNat e = none) :
    s.cvtElement d a ty src rm part m e = s.oldElement d ty e := by rw [State.cvtElement, none_]

theorem State.cvtElement_some {e i : Nat} (some_ : cvtFrom src.count ty.count part.toNat e = some i) :
    s.cvtElement d a ty src rm part m e = if (s.me.kreg m.k).getLsbD (e / (32 / ty.width)) then (s.converted a ty src rm i).1
      else if m.z then 0 else s.oldElement d ty e := by rw [State.cvtElement, some_]

theorem cvtKept_sub (srcs : List GV) : ∀ r ∈ cvtKept ty src m d, r ∈ srcs ++ [.v d] := by
  intro r hr
  unfold cvtKept at hr
  split at hr
  · exact keptBy_sub m d srcs r hr
  · exact List.mem_append_right _ hr

theorem cvtZip_eq (inside : part.toNat < max (src.count / ty.count) (ty.count / src.count)) :
    (cvtElems ty src rm part.toNat (vecElems src s.me.v[a])).zip ((vecElems ty s.me.v[d]).zip (List.range ty.count)) =
      (List.range ty.count).map fun e =>
        ((cvtFrom src.count ty.count part.toNat e).map (s.converted a ty src rm), s.oldElement d ty e, e) := by
  rw [vecElems_eq src, ← ETy.count_eq src, cvtElems_range _ inside, vecElems_eq ty, ← ETy.count_eq ty]
  have numbered := List.zip_map' (f := s.oldElement d ty) (g := id) (l := List.range ty.count)
  rw [List.map_id] at numbered
  exact (congrArg _ numbered).trans List.zip_map'

/-- A v register made of elements, the flags and the advance. -/
theorem setV_advance {s : State} {d : VReg} {ty : ETy} {xs ys : List Nat} {fl fl' : Flags} (elements : xs = ys) (flags : fl = fl') :
    (do modify fun s => s.modMe fun t => t.setV d (ofElems ty xs)
        setFlags fl
        advance : Op Unit) s =
      .ok ((), (s.modMe fun t => (t.setV d (ofElems ty ys)).raiseFlags fl').modMe fun t => { t with ip := s.following }) := by
  rw [op_bind_ok (op_modify ..), flags_advance _ _ _ (by simp), elements, flags]

theorem vcvt_run (plain : s.plain [.v a] [.v d]) (inside : part.toNat < max (src.count / ty.count) (ty.count / src.count)) :
    exec (.vcvt d a ty src rm part m) s = .next (s.retire fun t =>
      (t.setV d (ofElems ty ((List.range ty.count).map (s.cvtElement d a ty src rm part m)))).raiseFlags
        ((List.range ty.count).foldl (fun acc e => acc ||| s.cvtFlags a ty src rm part m e) 0)) := by
  refine State.run_advance ?_
  rw [op_bind_ok (ready_plain plain (cvtKept_sub _)), op_bind_ok (srcV_eq ..), op_bind_ok (srcV_eq ..), op_bind_ok (srcK_eq ..)]
  simp only [cvtZip_eq inside, List.map_map, List.foldl_map]
  refine setV_advance (List.map_congr_left fun e _ => ?_) (List.foldl_ext _ _ _ fun acc e _ => ?_)
  · rw [State.cvtElement, Function.comp_apply]
    cases cvtFrom src.count ty.count part.toNat e <;> rfl
  · rw [State.cvtFlags]
    cases cvtFrom src.count ty.count part.toNat e with
    | none => exact BitVec.or_zero.symm
    | some i =>
      dsimp only [Option.map_some]
      split
      · rfl
      · exact BitVec.or_zero.symm

theorem State.cvtFlags_getLsbD (e b : Nat) : (s.cvtFlags a ty src rm part m e).getLsbD b = true ↔
    ∃ i, cvtFrom src.count ty.count part.toNat e = some i ∧ (s.me.kreg m.k).getLsbD (e / (32 / ty.width)) = true ∧
      (s.converted a ty src rm i).2.getLsbD b = true := by
  rw [State.cvtFlags]
  cases cvtFrom src.count ty.count part.toNat e with
  | none => simp
  | some i => cases on : (s.me.kreg m.k).getLsbD (e / (32 / ty.width)) <;> simp

/-- vcvt writes the elements of its part, converted, under the mask, with the flags of those it writes (R119). -/
theorem vcvt_converts (plain : s.plain [.v a] [.v d]) (inside : part.toNat < max (src.count / ty.count) (ty.count / src.count)) :
    let index (n : Fin 32) (j : Nat) : Nat := n.val * (32 / ty.width) + j
    let from? := cvtFrom src.count ty.count part.toNat
    ∃ (r : Vec) (fl : Flags), exec (.vcvt d a ty src rm part m) s = .next (s.retire fun t => (t.setV d r).raiseFlags fl) ∧
      (∀ n : Fin 32, ∀ j < 32 / ty.width,
        (from? (index n j) = none → elementOf ty r[n] j = elementOf ty s.me.v[d][n] j) ∧
        ∀ i, from? (index n j) = some i →
          ((s.me.kreg m.k).getLsbD n = true → elementOf ty r[n] j = (s.converted a ty src rm i).1) ∧
          ((s.me.kreg m.k).getLsbD n = false → elementOf ty r[n] j = if m.z then 0 else elementOf ty s.me.v[d][n] j)) ∧
      ∀ b, fl.getLsbD b = true ↔ ∃ (n : Fin 32) (j i : Nat), j < 32 / ty.width ∧ from? (index n j) = some i ∧
        (s.me.kreg m.k).getLsbD n = true ∧ (s.converted a ty src rm i).2.getLsbD b = true := by
  intro index from?
  have lane (n : Fin 32) {j : Nat} (hj : j < 32 / ty.width) : index n j / (32 / ty.width) = n ∧ index n j % (32 / ty.width) = j := by
    rw [show index n j = 32 / ty.width * n + j by rw [Nat.mul_comm], Nat.mul_add_div (ETy.perLane_pos ty), Nat.mul_add_mod,
      Nat.div_eq_of_lt hj, Nat.mod_eq_of_lt hj]
    exact ⟨rfl, rfl⟩
  refine ⟨_, _, vcvt_run plain inside, fun n j hj => ?_, fun b => ?_⟩
  · obtain ⟨div, mod⟩ := lane n hj
    have old : s.oldElement d ty (index n j) = elementOf ty s.me.v[d][n] j := by
      simp only [State.oldElement, div, mod, Fin.ofNat_val_eq_self]
    have element := elementOf_ofElems ty (s.cvtElement d a ty src rm part m) n hj
    rw [Nat.mod_eq_of_lt (State.cvtElement_lt _)] at element
    rw [ETy.count_eq ty, element, ← old]
    refine ⟨fun none_ => ?_, fun i some_ => ⟨fun on => ?_, fun off => ?_⟩⟩
    · exact State.cvtElement_none none_
    · exact (State.cvtElement_some some_).trans (if_pos (by rwa [div]))
    · exact (State.cvtElement_some some_).trans (if_neg (by rw [div, off]; decide))
  · have zero : ¬(0 : Flags).getLsbD b = true := by simp
    rw [foldl_or_getLsbD (s.cvtFlags a ty src rm part m), or_iff_right zero]
    simp only [List.mem_range, State.cvtFlags_getLsbD]
    constructor
    · rintro ⟨e, he, i, some_, on, raised⟩
      have inside : e / (32 / ty.width) < 32 := Nat.div_lt_of_lt_mul (by rwa [Nat.mul_comm, ← ETy.count_eq])
      refine ⟨⟨e / (32 / ty.width), inside⟩, e % (32 / ty.width), i, Nat.mod_lt _ (ETy.perLane_pos ty), ?_, on, raised⟩
      rwa [show index ⟨e / (32 / ty.width), inside⟩ (e % (32 / ty.width)) = e from Nat.div_add_mod' ..]
    · rintro ⟨n, j, i, hj, some_, on, raised⟩
      refine ⟨index n j, ?_, i, some_, by rwa [(lane n hj).1], raised⟩
      have := Nat.mul_le_mul_right (32 / ty.width) (Nat.succ_le_of_lt n.isLt)
      rw [Nat.succ_mul, ← ETy.count_eq] at this
      exact Nat.lt_of_lt_of_le (Nat.add_lt_add_left hj _) this

end

end Sys2Proof.Machine

namespace Sys2Proof

open Sys2Proof.Machine

/-- Settles O14: lanes are read by number, and each destination element of a conversion has at most one source element. -/
theorem vectorMoves : Obligations.VectorMoves := by
  unfold Obligations.VectorMoves
  intro s d a b c g x y ty src rm part k m
  dsimp only
  refine ⟨vmov_moves, vidx_counts, fun plain => ?sel, vperm_permutes, vrot_rotates, fun plain => ⟨?s32, ?n32, ?f32⟩, fun plain => ?ins,
    fun plain => ⟨vpopc_counts plain, ?cvt⟩⟩
  case sel => exact vsel_selects plain
  case s32 => exact vext_gives plain
  case n32 =>
    rw [BitVec.ofNat_toNat]
    exact vext_gives plain
  case f32 =>
    rw [BitVec.ofNat_toNat]
    exact vext_gives plain
  case ins => simpa only [Nat.cast_ite, Fin.ofNat_val_eq_self] using vins_inserts plain
  case cvt =>
    rw [← ETy.count_eq ty, ← ETy.count_eq src]
    intro inside
    simp only [Fin.ofNat_val_eq_self]
    exact vcvt_converts plain inside

end Sys2Proof
end

section
/-! PROOFS. Mask logic (R133, R134), and comparisons and classes under a mask (R120, R128). -/

namespace Sys2Proof

/-! ### Float comparisons (R74, R120) -/

theorem Num.not_less_of_nan {a b : Num} (nan : a.isNan = true ∨ b.isNan = true) : ¬a.Less b := by
  cases a <;> cases b <;> simp_all [Num.Less, Num.isNan]

/-- What a float condition asks of two numbers (R120). -/
def FloatHolds (fc : FCond) (p q : Num) : Prop :=
  match fc with
  | .feq => p.Same q
  | .fne => ¬p.Same q
  | .flt => p.Less q
  | .fle => p.Less q ∨ p.Same q
  | .fgt => q.Less p
  | .fge => q.Less p ∨ p.Same q
  | .funo => p.isNan = true ∨ q.isNan = true
  | .ford => p.isNan = false ∧ q.isNan = false

/-- When a float condition raises the invalid flag (R120). -/
def FloatInvalid (fc : FCond) (p q : Num) : Prop :=
  match fc with
  | .flt | .fle | .fgt | .fge => p.isNan = true ∨ q.isNan = true
  | .feq | .fne | .funo | .ford => p.isSnan = true ∨ q.isSnan = true

/-- A float comparison of numbers compares their signed bodies, and raises nothing. -/
theorem FCond.holds_numbers (fc : FCond) {x y : Nat} (hx : (fmtF32.val x).isNan = false) (hy : (fmtF32.val y).isNan = false) :
    ((fc.holds x y).1 = true ↔ FloatHolds fc (fmtF32.val x) (fmtF32.val y)) ∧ (fc.holds x y).2 = 0 ∧
      ¬FloatInvalid fc (fmtF32.val x) (fmtF32.val y) := by
  have quiet := And.intro (Num.isSnan_of_isNan_eq_false hx) (Num.isSnan_of_isNan_eq_false hy)
  have less := Fmt.less_iff fmtF32_ok hx hy
  have less' := Fmt.less_iff fmtF32_ok hy hx
  simp only [FCond.holds, Fmt.cmpVal_of_not_nan hx, Fmt.cmpVal_of_not_nan hy]
  generalize (if fmtF32.sign x then -(fmtF32.body x : Int) else fmtF32.body x) = i at *
  generalize (if fmtF32.sign y then -(fmtF32.body y : Int) else fmtF32.body y) = j at *
  have same : (fmtF32.val x).Same (fmtF32.val y) ↔ i = j := by
    rw [Num.Same, less, less']
    exact ⟨fun ⟨_, _, h, h'⟩ => by omega, fun h => ⟨hx, hy, by omega, by omega⟩⟩
  refine ⟨?_, trivial, ?_⟩
  · cases fc <;> simp [FloatHolds, same, less, less', hx, hy] <;> omega
  · cases fc <;> simp [FloatInvalid, hx, hy, quiet]

/-- With a NaN only the conditions that speak of one hold. -/
theorem FCond.holds_nan (fc : FCond) {x y : Nat} (nan : (fmtF32.val x).isNan = true ∨ (fmtF32.val y).isNan = true) :
    ((fc.holds x y).1 = true ↔ FloatHolds fc (fmtF32.val x) (fmtF32.val y)) ∧
      (FloatInvalid fc (fmtF32.val x) (fmtF32.val y) → (fc.holds x y).2 = flagInv) ∧
      (¬FloatInvalid fc (fmtF32.val x) (fmtF32.val y) → (fc.holds x y).2 = 0) := by
  have different : ¬(fmtF32.val x).Same (fmtF32.val y) := fun ⟨hx, hy, _⟩ => by simp [hx, hy] at nan
  have less := Num.not_less_of_nan nan
  have less' := Num.not_less_of_nan nan.symm
  have unordered : ¬((fmtF32.val x).isNan = false ∧ (fmtF32.val y).isNan = false) := fun ⟨hx, hy⟩ => by simp [hx, hy] at nan
  have signals := Machine.flagIf_spec (fl := flagInv) (iff_of_eq (Bool.or_eq_true (fmtF32.val x).isSnan (fmtF32.val y).isSnan))
  have answer : fc.holds x y = match fc with
      | .feq | .ford => (false, flagIf ((fmtF32.val x).isSnan || (fmtF32.val y).isSnan) flagInv)
      | .fne | .funo => (true, flagIf ((fmtF32.val x).isSnan || (fmtF32.val y).isSnan) flagInv)
      | .flt | .fle | .fgt | .fge => (false, flagInv) := by
    obtain hx | hy := nan
    · cases fc <;> simp only [FCond.holds, Fmt.cmpVal_of_nan hx]
    · simp only [FCond.holds, Fmt.cmpVal_of_nan hy]
      cases fmtF32.cmpVal x <;> rfl
  rw [answer]
  cases fc <;> simp only [FloatHolds, FloatInvalid, different, less, less', unordered, nan, not_true_eq_false, not_false_eq_true, or_self,
    Bool.false_eq_true, iff_self, true_and, false_implies, true_implies, and_true]
  all_goals exact signals

theorem FCond.holds_spec (fc : FCond) (x y : Nat) : ((fc.holds x y).1 = true ↔ FloatHolds fc (fmtF32.val x) (fmtF32.val y)) ∧
    (FloatInvalid fc (fmtF32.val x) (fmtF32.val y) → (fc.holds x y).2 = flagInv) ∧
    (¬FloatInvalid fc (fmtF32.val x) (fmtF32.val y) → (fc.holds x y).2 = 0) := by
  cases hx : (fmtF32.val x).isNan
  · cases hy : (fmtF32.val y).isNan
    · obtain ⟨holds, none_, valid⟩ := FCond.holds_numbers fc hx hy
      exact ⟨holds, fun invalid => absurd invalid valid, fun _ => none_⟩
    · exact FCond.holds_nan fc (.inr hy)
  · exact FCond.holds_nan fc (.inl hx)

/-- The class of a number, by its bit (R128). -/
def InClass (u : Num) (i : Nat) : Prop :=
  match u with
  | .nan _ => i = 0
  | .inf _ => i = 1
  | .fin _ 0 _ => i = 4
  | .fin _ k _ => if k < 2 ^ 23 then i = 3 else i = 2

namespace Machine

theorem f32Class_iff (x i : Nat) : InClass (fmtF32.val x) i ↔ i = f32Class x := by
  unfold f32Class
  cases fmtF32.val x with
  | nan s => rfl
  | inf p => rfl
  | fin p m e =>
    cases m with
    | zero => rfl
    | succ k =>
      by_cases small : k + 1 < 2 ^ 23
      · exact (iff_of_eq (if_pos small)).trans (by dsimp only; rw [if_neg (by simp), if_pos small])
      · exact (iff_of_eq (if_neg small)).trans (by dsimp only; rw [if_neg (by simp), if_neg small])

/-! ### Mask registers -/

@[simp] theorem Thread.setK_ip (t : Thread) (r : KReg) (x : W32) : (t.setK r x).ip = t.ip := by
  unfold Thread.setK
  split <;> rfl

@[simp] theorem Thread.kreg_zero (t : Thread) : t.kreg 0 = 0xFFFFFFFF := rfl

@[simp] theorem Thread.setK_zero (t : Thread) (x : W32) : t.setK 0 x = t := rfl

theorem Thread.kreg_setK (t : Thread) {d : KReg} (kept : d ≠ 0) (r : KReg) (x : W32) :
    (t.setK d x).kreg r = if d = r then x else t.kreg r := by
  have kept : (d.val == 0) = false := beq_eq_false_iff_ne.2 fun h => kept (Fin.ext h)
  unfold Thread.kreg Thread.setK
  by_cases same : d = r
  · subst same
    simp only [kept, Bool.false_eq_true, if_false, vector_get_set, if_true]
  · simp only [kept, Bool.false_eq_true, if_false, vector_get_set, same]

theorem two_pow_getLsbD (i n : Fin 32) : (BitVec.ofNat 32 (2 ^ i.val)).getLsbD n = decide (i = n) := by
  rw [BitVec.getLsbD_ofNat, Nat.testBit_two_pow, decide_eq_true n.isLt, Bool.true_and]
  exact decide_eq_decide.2 Fin.ext_iff.symm

theorem maskOf_getLsbD (p : Fin 32 → Bool) (n : Fin 32) : (maskOf p).getLsbD n = p n := by
  have gathered (xs : List (Fin 32)) (z : W32) :
      (xs.foldl (fun acc i => if p i then acc ||| BitVec.ofNat 32 (2 ^ i.val) else acc) z).getLsbD n =
        (z.getLsbD n || (decide (n ∈ xs) && p n)) := by
    induction xs generalizing z with
    | nil => simp
    | cons i xs ih =>
      rw [List.foldl_cons, ih]
      by_cases same : i = n
      · subst same
        cases p i
        · simp
        · rw [if_pos rfl, BitVec.getLsbD_or, two_pow_getLsbD]
          simp
      · cases p i
        · simp [Ne.symm same]
        · rw [if_pos rfl, BitVec.getLsbD_or, two_pow_getLsbD]
          simp [same, Ne.symm same]
  simpa [maskOf] using gathered (List.finRange 32) 0

theorem mergeK_getLsbD (mask : W32) (z : Bool) (old r : W32) (n : Fin 32) :
    (mergeK mask z old r).getLsbD n = if mask.getLsbD n = true then r.getLsbD n else !z && old.getLsbD n := by
  rw [BitVec.getLsbD_eq_getElem n.isLt, BitVec.getLsbD_eq_getElem n.isLt, BitVec.getLsbD_eq_getElem n.isLt, BitVec.getLsbD_eq_getElem n.isLt, mergeK]
  cases on : mask[n.val] <;> cases z <;> simp [on]

theorem dstK_eq (s : State) (d : KReg) (m : Mask) (r : W32) :
    dstK d m r s = .ok ((), s.modMe fun t => t.setK d (mergeK (s.me.kreg m.k) m.z (s.me.kreg d) r)) := by
  rw [dstK, op_modify, State.modMe_congr (g := fun t => t.setK d (mergeK (s.me.kreg m.k) m.z (s.me.kreg d) r)) rfl]

/-! ### Mask logic (R133, R134) -/

section
variable {s : State} {d a b : KReg} {g : GReg}

theorem setK_advance (s : State) (d : KReg) (x : W32) :
    (do modify fun s => s.modMe fun t => t.setK d x; advance : Op Unit) s =
      .ok ((), (s.modMe fun t => t.setK d x).modMe fun t => { t with ip := s.following }) := by
  rw [op_bind_ok (op_modify ..), advance_eq, State.following_modMe _ _ (by simp)]

theorem maskOp_run (f : W32 → W32 → W32) (d a b : KReg) (s : State) :
    s.run (maskOp f d a b) = .next (s.retire fun t => t.setK d (f (s.me.kreg a) (s.me.kreg b))) := by
  refine State.run_advance ?_
  rw [maskOp, op_bind_ok (srcK_eq ..), op_bind_ok (srcK_eq ..), setK_advance]

theorem kmovKg_run (plain : s.plain [.g g] []) :
    exec (.kmovKg d g) s = .next (s.retire fun t => t.setK d ((s.me.greg g).setWidth 32)) := by
  refine State.run_advance ?_
  rw [op_bind_ok (ready_plain plain), op_bind_ok (srcG_plain (State.plain_src plain (by simp))), setK_advance]

theorem kpopc_gives (plain : s.plain [] [.g g]) : s.gives (.kpopc g a) g (BitVec.ofNat 64 (popNat 32 (s.me.kreg a).toNat)) := by
  refine State.run_advance ?_
  rw [op_bind_ok (ready_plain plain), op_bind_ok (srcK_eq ..), dstG_advance _ (State.plain_dst plain (by simp))]

theorem kmovGk_gives (plain : s.plain [] [.g g]) : s.gives (.kmovGk g a) g ((s.me.kreg a).setWidth 64) := by
  refine State.run_advance ?_
  rw [op_bind_ok (ready_plain plain), op_bind_ok (srcK_eq ..), dstG_advance _ (State.plain_dst plain (by simp))]

end

/-! ### Results in a mask register (R120, R128) -/

/-- An instruction writes a k register under a mask, a bit for each lane (R111), and raises the invalid flag where an unmasked
lane is invalid (R112). -/
def State.setsMask (s : State) (i : Instr) (d : KReg) (m : Mask) (holds invalid : Fin 32 → Prop) : Prop :=
  let on (n : Fin 32) : Prop := (s.me.kreg m.k).getLsbD n = true
  ∃ (r : W32) (fl : Flags), s.givesMask i d r fl ∧
    (∀ n : Fin 32, (on n → (r.getLsbD n = true ↔ holds n)) ∧ (¬on n → r.getLsbD n = (!m.z && (s.me.kreg d).getLsbD n))) ∧
    ((∃ n, on n ∧ invalid n) → fl = flagInv) ∧ ((¬∃ n, on n ∧ invalid n) → fl = 0)

theorem State.setsMask_merge {s : State} {i : Instr} {d : KReg} {m : Mask} {holds invalid : Fin 32 → Prop} {test : Fin 32 → Bool} {fl : Flags}
    (run : exec i s = .next (s.retire fun t => (t.setK d (mergeK (s.me.kreg m.k) m.z (s.me.kreg d) (maskOf test))).raiseFlags fl))
    (tests : ∀ n, test n = true ↔ holds n)
    (flags : ((∃ n : Fin 32, (s.me.kreg m.k).getLsbD n = true ∧ invalid n) → fl = flagInv) ∧
      ((¬∃ n : Fin 32, (s.me.kreg m.k).getLsbD n = true ∧ invalid n) → fl = 0)) : s.setsMask i d m holds invalid := by
  refine ⟨_, fl, run, fun n => ⟨fun on => ?_, fun off => ?_⟩, flags⟩
  · rw [mergeK_getLsbD, if_pos on, maskOf_getLsbD]
    exact tests n
  · rw [mergeK_getLsbD, if_neg off]

/-- The flags of the unmasked lanes, where a lane raises either one set of flags or none. -/
theorem laneFlags_of_lanes {mask : W32} {each : Vector Flags 32} {f : Flags} {invalid : Fin 32 → Prop}
    (raises : ∀ n, (invalid n → each[n] = f) ∧ (¬invalid n → each[n] = 0)) :
    ((∃ n : Fin 32, mask.getLsbD n = true ∧ invalid n) → laneFlags mask each = f) ∧
      ((¬∃ n : Fin 32, mask.getLsbD n = true ∧ invalid n) → laneFlags mask each = 0) := by
  refine ⟨fun ⟨n, on, bad⟩ => ?_, fun none_ => ?_⟩ <;> refine BitVec.eq_of_getLsbD_eq fun b _ => Bool.eq_iff_iff.2 ?_ <;>
    rw [laneFlags_getLsbD]
  · constructor
    · rintro ⟨k, -, raised⟩
      by_cases bad' : invalid k
      · rwa [(raises k).1 bad'] at raised
      · simp [(raises k).2 bad'] at raised
    · exact fun raised => ⟨n, on, by rwa [(raises n).1 bad]⟩
  · refine iff_of_false ?_ (by simp)
    rintro ⟨k, on, raised⟩
    simp [(raises k).2 fun bad => none_ ⟨k, on, bad⟩] at raised

/-- A lane of an operand whose elements are whole lanes (R109, R110). -/
theorem State.operand_word (s : State) {ty : ETy} (word : ty.width = 32) (r : GV) (n : Fin 32) :
    (s.operand ty r)[n] = BitVec.ofNat 32 (s.element r .s32 n 0) := by
  have whole := s.operand_element ty r n (j := 0) (by simp [word])
  refine BitVec.eq_of_toNat_eq ?_
  rw [BitVec.toNat_ofNat]
  refine Eq.trans ?_ (Nat.mod_eq_of_lt (s.element_lt r .s32 n 0)).symm
  have same : s.element r ty n 0 = s.element r .s32 n 0 := by
    cases r <;> simp only [State.element, elementOf, word] <;> rfl
  rw [← same, ← whole, elementOf, word, Nat.mul_zero, pow_zero, Nat.div_one, Nat.mod_eq_of_lt (BitVec.isLt _)]

section
variable {s : State} {d : KReg} {a b : GV} {v : VReg} {m : Mask} {ty : ETy} {c : VCond} {classes : BitVec 5}

theorem vcmp_run (plain : s.plain [a, b] []) :
    let rs : Vector (Bool × Flags) 32 := Vector.ofFn fun i => VCond.holds c (s.operand ty a)[i] (s.operand ty b)[i]
    exec (.vcmp c ty d a b m) s = .next (s.retire fun t =>
      (t.setK d (mergeK (s.me.kreg m.k) m.z (s.me.kreg d) (maskOf fun i => rs[i].1))).raiseFlags
        (laneFlags (s.me.kreg m.k) (rs.map Prod.snd))) := by
  refine State.run_advance ?_
  rw [op_bind_ok (ready_plain plain), op_bind_ok (State.srcGV_operand ty (State.plain_src plain (by simp))),
    op_bind_ok (State.srcGV_operand ty (State.plain_src plain (by simp))), op_bind_ok (srcK_eq ..)]
  rw [op_bind_ok (dstK_eq ..), flags_advance _ _ _ (by simp)]

theorem vclass_run (plain : s.plain [.v v] []) :
    exec (.vclass d v classes m) s = .next (s.retire fun t => (t.setK d (mergeK (s.me.kreg m.k) m.z (s.me.kreg d)
      (maskOf fun i => classes.getLsbD (f32Class s.me.v[v][i].toNat)))).raiseFlags 0) := by
  refine State.run_advance ?_
  rw [op_bind_ok (ready_plain plain), op_bind_ok (srcV_eq ..), op_bind_ok (dstK_eq ..), advance_eq, State.following_modMe _ _ (by simp)]
  simp only [Thread.raiseFlags_zero]

/-- A comparison of whole lanes, by what its condition asks of them. -/
theorem vcmp_sets (plain : s.plain [a, b] []) (word : ty.width = 32) {holds invalid : Fin 32 → Prop}
    (test : ∀ n : Fin 32, let r := VCond.holds c (BitVec.ofNat 32 (s.element a .s32 n 0)) (BitVec.ofNat 32 (s.element b .s32 n 0))
      (r.1 = true ↔ holds n) ∧ (invalid n → r.2 = flagInv) ∧ (¬invalid n → r.2 = 0)) :
    s.setsMask (.vcmp c ty d a b m) d m holds invalid := by
  refine State.setsMask_merge (vcmp_run plain) (fun n => ?_) (laneFlags_of_lanes fun n => ?_)
  · simp only [Fin.getElem_fin, Vector.getElem_ofFn]
    have := (test n).1
    rwa [← s.operand_word word, ← s.operand_word word] at this
  · simp only [Fin.getElem_fin, Vector.getElem_map, Vector.getElem_ofFn]
    have := (test n).2
    rwa [← s.operand_word word, ← s.operand_word word] at this

end

end Machine

open Sys2Proof.Machine

/-- Settles O15: each instruction is its function of whole masks, and k0 is no register. -/
theorem maskLogic : Obligations.MaskLogic := by
  unfold Obligations.MaskLogic
  refine ⟨fun s d a b g => ?_, fun t d r x => ⟨rfl, rfl, fun kept => t.kreg_setK kept r x⟩⟩
  dsimp only
  refine ⟨?and, ?or, ?xor, ?not, maskOp_run (fun x _ => x) d a a s, fun plain => ?kg, fun plain => ⟨?popc, ?gk⟩⟩
  case and => exact (maskOp_run (· &&& ·) d a b s).trans (by rw [← BitVec.toNat_and, BitVec.ofNat_toNat, BitVec.setWidth_eq])
  case or => exact (maskOp_run (· ||| ·) d a b s).trans (by rw [← BitVec.toNat_or, BitVec.ofNat_toNat, BitVec.setWidth_eq])
  case xor => exact (maskOp_run (· ^^^ ·) d a b s).trans (by rw [← BitVec.toNat_xor, BitVec.ofNat_toNat, BitVec.setWidth_eq])
  case not => exact (maskOp_run (fun x _ => ~~~x) d a a s).trans (by rw [← BitVec.toNat_not, BitVec.ofNat_toNat, BitVec.setWidth_eq])
  case kg => exact (kmovKg_run plain).trans (by rw [← BitVec.toNat_setWidth, BitVec.ofNat_toNat, BitVec.setWidth_eq])
  case popc =>
    have := kpopc_gives (a := a) plain
    rwa [popNat_eq] at this
  case gk =>
    rw [BitVec.ofNat_toNat]
    exact kmovGk_gives plain

/-- Settles O16: a lane's bit is its comparison or its class, and a lane is invalid as its condition says. -/
theorem vectorComparisons : Obligations.VectorComparisons := by
  unfold Obligations.VectorComparisons
  intro s cc fc d a b v classes m
  refine ⟨fun plain => ⟨fun ty word => ?_, ?_⟩, fun plain => ?_⟩
  · refine vcmp_sets plain (by obtain rfl | rfl := word <;> rfl) fun n => ⟨Cond.holds_iff cc _ _, False.elim, fun _ => rfl⟩
  · exact vcmp_sets plain rfl fun n => FCond.holds_spec fc _ _
  · refine State.setsMask_merge (vclass_run plain) (fun n => ?_) ⟨fun ⟨_, _, none_⟩ => none_.elim, fun _ => rfl⟩
    refine Iff.trans ?_ (exists_congr fun i => and_congr_right fun _ => (f32Class_iff _ i).symm)
    simp

end Sys2Proof
end

section
/-! PROOFS. The lanes of vld and vst (R111, R137, R141, R144, R151): their addresses, their checks, what the access holds, and
the journal entries of a store's remote lanes. -/

namespace Sys2Proof.Machine

/-! ### Checks of addresses (R141) -/

/-- A check of addresses leaves the threads, and whose turn it is. -/
def State.SameThreads (s t : State) : Prop := t.cur = s.cur ∧ t.threads = s.threads

theorem State.SameThreads.me {s t : State} (h : s.SameThreads t) : t.me = s.me := by
  obtain ⟨cur, threads⟩ := h
  rw [State.me, State.thread, cur, threads, State.me, State.thread]

theorem State.SameThreads.trans {s t u : State} (h : s.SameThreads t) (h' : t.SameThreads u) : s.SameThreads u :=
  ⟨h'.1.trans h.1, h'.2.trans h.2⟩

theorem State.step5_sameThreads {s t : State} {w : SlotIx} {need : Need} {lane pa aperture : Nat} {va : W64}
    (h : s.step5 w need lane va aperture = .ok (pa, t)) : s.SameThreads t := by
  have keeps := s.translate_keeps (SlotIx.core w) (s.partOf (SlotIx.cluster w)) va.toNat need
  unfold State.step5 at h
  split at h <;> rename_i answer <;> rw [answer] at keeps
  · split at h <;> cases h
    exact keeps
  all_goals cases h

theorem checkAddr_sameThreads {s t : State} {sp : AccSpec} {n : Nat} {va : W64} {l : Lane} (h : checkAddr sp n va s = .ok (l, t)) :
    s.SameThreads t ∧ l.lane = n ∧ l.va = va := by
  unfold checkAddr at h
  dsimp only at h
  split at h
  · cases h
  split at h
  · cases h
  split at h
  · split at h
    · cases h
    split at h <;> cases h
    exact ⟨⟨rfl, rfl⟩, rfl, rfl⟩
  · split at h
    · cases h
    split at h
    · cases h
    split at h
    · cases h
    · next step =>
      split at h <;> cases h
      exact ⟨State.step5_sameThreads step, rfl, rfl⟩

theorem checkLanes_sameThreads {sp : AccSpec} {as : List (Nat × W64)} {s t : State} {ls : List Lane}
    (h : checkLanes sp as s = .ok (ls, t)) : s.SameThreads t ∧ ls.map (fun l => (l.lane, l.va)) = as := by
  induction as generalizing s ls with
  | nil =>
    cases h
    exact ⟨⟨rfl, rfl⟩, rfl⟩
  | cons a as ih =>
    obtain ⟨n, va⟩ := a
    rw [checkLanes, op_bind] at h
    split at h
    · next l s1 first =>
      rw [op_bind] at h
      split at h
      · next rest t1 later =>
        cases h
        obtain ⟨same, lane, addr⟩ := checkAddr_sameThreads first
        obtain ⟨same', lanes⟩ := ih later
        exact ⟨same.trans same', by rw [List.map_cons, lane, addr, lanes]⟩
      · cases h
    · cases h

/-- The lowest lane that faults reports (R141). -/
theorem checkLanes_faults {sp : AccSpec} {as rest : List (Nat × W64)} {n : Nat} {va : W64} {s : State} {x : List Lane × State} {e : Stop}
    (sound : checkLanes sp as s = .ok x) (fault : checkAddr sp n va x.2 = .error e) :
    checkLanes sp (as ++ (n, va) :: rest) s = .error e := by
  induction as generalizing s x with
  | nil =>
    cases sound
    exact op_bind_error fault
  | cons a as ih =>
    obtain ⟨k, ka⟩ := a
    rw [checkLanes, op_bind] at sound
    rw [List.cons_append, checkLanes]
    split at sound
    · next l s1 first =>
      rw [op_bind_ok first]
      rw [op_bind] at sound
      split at sound
      · next ls t1 later =>
        cases sound
        exact op_bind_error (ih later fault)
      · cases sound
    · cases sound

/-! ### What holds lanes back, and step 7 of R141 -/

theorem remoteReady_ok {l : Lane} {s : State} (h : s.unheld l false) : remoteReady l s = .ok ((), s) := by
  obtain ⟨⟨-, -, -, -, posted⟩, -⟩ := h
  rw [remoteReady]
  split
  · next cl off place =>
    obtain ⟨journal, segments⟩ := posted rfl cl off place
    refine if_neg ?_
    simp only [Bool.or_eq_true, List.any_eq_true, Bool.and_eq_true, beq_iff_eq, not_or, not_exists, not_and]
    refine ⟨fun j hj mine => ?_, fun g hg => by simp [segments g hg]⟩
    exact (journal j hj).resolve_left fun other => other mine
  · rfl

theorem notHeldAll_ok {ls : List Lane} {store : Bool} {s : State} (h : ∀ l ∈ ls, s.unheld l store) :
    notHeldAll store ls s = .ok ((), s) := by
  induction ls with
  | nil => rfl
  | cons l ls ih =>
    rw [notHeldAll, op_bind_ok (notHeld_ok (h l List.mem_cons_self))]
    exact ih fun x hx => h x (List.mem_cons_of_mem _ hx)

theorem remoteReadyAll_ok {ls : List Lane} {s : State} (h : ∀ l ∈ ls, s.unheld l false) : remoteReadyAll ls s = .ok ((), s) := by
  induction ls with
  | nil => rfl
  | cons l ls ih =>
    rw [remoteReadyAll, op_bind_ok (remoteReady_ok (h l List.mem_cons_self))]
    exact ih fun x hx => h x (List.mem_cons_of_mem _ hx)

theorem noBad_ok {ls : List Lane} {s : State} (h : ∀ l ∈ ls, s.fails s.cur l = false) : noBad ls s = .ok ((), s) := by
  have none_ : ls.find? (s.fails s.cur) = none := List.find?_eq_none.2 fun l hl => by simp [h l hl]
  rw [noBad, none_]

theorem noBad_traps {ok rest : List Lane} {l : Lane} {s : State} (sound : ∀ x ∈ ok, s.fails s.cur x = false) (bad : s.fails s.cur l = true) :
    noBad (ok ++ l :: rest) s = .error (.trap 0x0C l.va (BitVec.ofNat 64 l.lane)) := by
  have first : (ok ++ l :: rest).find? (s.fails s.cur) = some l :=
    List.find?_eq_some_iff_append.2 ⟨bad, ok, rest, rfl, fun x hx => by simp [sound x hx]⟩
  rw [noBad, first]

/-! ### Addresses (R144) -/

section
variable {s : State} {a : GReg} {v : VAddr} {imm : BitVec 16} {dsts : List GV}

/-- The address of a lane of vld or vst (R144). -/
def State.laneAddress (s : State) (a : GReg) (v : VAddr) (imm : BitVec 16) (n : Fin 32) : W64 :=
  BitVec.ofInt 64 (match v with
    | .unit b => (s.me.greg a).toNat + (s.me.greg b).toNat + imm.toInt + 4 * n.val
    | .str b c => (s.me.greg a).toNat + (s.me.greg b).toNat + imm.toInt + n.val * (s.me.greg c).toInt
    | .gat b => (s.me.greg a).toNat + (s.me.v[b][n]).toNat + imm.toInt)

/-- The unmasked lanes with their addresses. -/
def State.laneList (s : State) (a : GReg) (v : VAddr) (imm : BitVec 16) (k : KReg) : List (Nat × W64) :=
  ((List.finRange 32).filter fun n : Fin 32 => (s.me.kreg k).getLsbD n.val).map fun n => (n.val, s.laneAddress a v imm n)

theorem filterMap_guard {α β : Type} (p : α → Bool) (f : α → β) (xs : List α) :
    (xs.filterMap fun x => if p x then some (f x) else none) = (xs.filter p).map f := by
  induction xs with
  | nil => rfl
  | cons x xs ih => cases h : p x <;> simp [h, ih]

theorem laneAddrs_eq {base stride : W64} {off : Vec} {x y z : Fin 32 → Int} (n : Fin 32) (hx : base = BitVec.ofInt 64 (x n))
    (hy : BitVec.ofNat 64 n.val * stride = BitVec.ofInt 64 (y n)) (hz : off[n].setWidth 64 = BitVec.ofInt 64 (z n)) :
    (laneAddrs base imm stride off)[n] = BitVec.ofInt 64 (x n + imm.toInt + y n + z n) := by
  simp only [laneAddrs, Fin.getElem_fin, Vector.getElem_ofFn] at hz ⊢
  rw [BitVec.ofInt_add, BitVec.ofInt_add, BitVec.ofInt_add, ← hx, ← hy, ← hz]
  rfl

theorem sum_eq_ofInt (x y : W64) : x + y = BitVec.ofInt 64 (x.toNat + y.toNat : Nat) := by
  rw [BitVec.ofInt_natCast, BitVec.ofNat_add, BitVec.ofNat_toNat, BitVec.ofNat_toNat, BitVec.setWidth_eq, BitVec.setWidth_eq]

/-- The lane addresses of the three forms (R144). -/
theorem vAddrs_eq (plain : ∀ r ∈ GV.g a :: VAddr.sources v, s.me.maps r = false) :
    vAddrs a v imm s = .ok (Vector.ofFn (s.laneAddress a v imm), s) := by
  have own {r : GReg} (mem : GV.g r ∈ GV.g a :: VAddr.sources v) := srcG_plain (plain _ mem)
  have answer {as : Vector W64 32} (each : ∀ n, as[n] = s.laneAddress a v imm n) :
      (pure as : Op (Vector W64 32)) s = .ok (Vector.ofFn (s.laneAddress a v imm), s) := by
    rw [op_pure, show as = Vector.ofFn (s.laneAddress a v imm) from Vector.ext fun n hn => by simpa using each ⟨n, hn⟩]
  rw [vAddrs, op_bind_ok (own (by simp))]
  cases v with
  | unit b =>
    dsimp only
    rw [op_bind_ok (own (by simp [VAddr.sources]))]
    refine answer fun n => ?_
    rw [laneAddrs_eq (x := fun _ => ((s.me.greg a).toNat + (s.me.greg b).toNat : Nat)) (y := fun n => 4 * n.val) (z := fun _ => 0) n
      (sum_eq_ofInt ..) ?_ ?_]
    · rw [State.laneAddress]
      push_cast
      rw [add_zero]
    · rw [BitVec.ofInt_mul, mul_comm]
      rfl
    · simp
  | str b c =>
    dsimp only
    rw [op_bind_ok (own (by simp [VAddr.sources])), op_bind_ok (own (by simp [VAddr.sources]))]
    refine answer fun n => ?_
    rw [laneAddrs_eq (x := fun _ => ((s.me.greg a).toNat + (s.me.greg b).toNat : Nat)) (y := fun n => n.val * (s.me.greg c).toInt) (z := fun _ => 0) n
      (sum_eq_ofInt ..) ?_ ?_]
    · rw [State.laneAddress]
      push_cast
      rw [add_zero]
    · rw [BitVec.ofInt_mul, BitVec.ofInt_toInt]
      rfl
    · simp
  | gat b =>
    refine answer fun n => ?_
    rw [laneAddrs_eq (x := fun _ => (s.me.greg a).toNat) (y := fun _ => 0) (z := fun n => s.me.v[b][n].toNat) n ?_ ?_ ?_]
    · rw [State.laneAddress]
      congr 1
      ring
    · simp
    · simp
    · rw [BitVec.ofInt_natCast, BitVec.ofNat_toNat]

theorem maskedAddrs_eq (k : KReg) : maskedAddrs (s.me.kreg k) (Vector.ofFn (s.laneAddress a v imm)) = s.laneList a v imm k := by
  rw [maskedAddrs, filterMap_guard (fun i : Fin 32 => (s.me.kreg k).getLsbD i.val), State.laneList]
  simp

end

/-! ### What the access holds -/

theorem Lane.split_ne_nil (l : Lane) : l.split ≠ [] := by
  unfold Lane.split
  split <;> simp

theorem flatMap_split_eq_nil {ls : List Lane} : ls.flatMap Lane.split = [] ↔ ls = [] := by
  simp only [List.flatMap_eq_nil_iff, Lane.split_ne_nil, imp_false]
  exact List.eq_nil_iff_forall_not_mem.symm

theorem memIssue_ok {s : State} (quiet_ : s.me.outs = []) : memIssue false s = .ok ((), s) := by simp [memIssue, quiet_]

/-- An access that has lanes to perform is outstanding (R137). -/
theorem addAccess_lanes {s : State} {x : Access} (lanes : x.todo ≠ []) :
    addAccess x s = .ok ((), s.modMe fun t => { t with outs := t.outs ++ [x] }) := by
  have some_ : ((s.modMe fun t => { t with outs := t.outs ++ [x] }).thread s.cur).outs[s.me.outs.length]? = some x := by
    rw [State.modMe, State.modThread_thread_same]
    exact List.getElem?_concat_length ..
  have stays : x.todo.isEmpty = false := by simpa using lanes
  rw [addAccess, op_modify, State.finishAccess, some_]
  simp [stays]

theorem State.modThread_congr {s : State} {w : SlotIx} {f g : Thread → Thread} (h : f (s.thread w) = g (s.thread w)) :
    s.modThread w f = s.modThread w g := congrArg (s.setThread w) h

theorem Thread.outs_nil {t : Thread} (h : t.outs = []) : { t with outs := [] } = t := by
  obtain ⟨⟩ := t
  cases h
  rfl

theorem mergeLanes_nil (z : Bool) (old : Vec) : mergeLanes z old [] = Vector.ofFn fun n => if z then 0 else old[n] := rfl

/-- A vld of no lane completes: every lane of its register is masked (R111, R137). -/
theorem State.finishAccess_masked {s : State} {w : SlotIx} {d : VReg} {z : Bool}
    (outs : (s.thread w).outs = [⟨.vload (some d) z, false, [], [], [], []⟩]) :
    s.finishAccess w 0 = s.modThread w fun t => Thread.setV { t with outs := [] } d (mergeLanes z t.v[d] []) := by
  have first : (s.thread w).outs[0]? = some ⟨.vload (some d) z, false, [], [], [], []⟩ := by rw [outs]; rfl
  have effect : s.finishAccess w 0 = (s.modThread w fun t => { t with outs := t.outs.eraseIdx 0 }).modThread w fun t =>
      t.setV d (mergeLanes z t.v[d] []) := by
    rw [State.finishAccess, first]
    rfl
  rw [effect, State.modThread_modThread]
  refine State.modThread_congr ?_
  rw [outs]
  rfl

/-- An update of the current thread that leaves its IP, then the advance. -/
theorem advance_modMe {s : State} {f g : Thread → Thread} (same : f s.me = g s.me) (ip : (g s.me).ip = s.me.ip) :
    advance (s.modMe f) = .ok ((), (s.modMe g).modMe fun t => { t with ip := s.following }) := by
  rw [State.modMe_congr same, advance_eq, State.following_modMe _ _ ip]

theorem addAccess_masked {s : State} (quiet_ : s.me.outs = []) (d : VReg) (z : Bool) :
    addAccess ⟨.vload (some d) z, false, [], [], [], []⟩ s =
      .ok ((), s.modMe fun t => t.setV d (Vector.ofFn fun n => if z then 0 else s.me.v[d][n])) := by
  rw [addAccess, op_modify, quiet_, List.length_nil, State.finishAccess_masked]
  · refine congrArg (fun x => Except.ok ((), x)) ((State.modMe_modThread ..).trans (State.modMe_congr ?_))
    exact congrArg (fun t : Thread => t.setV d (mergeLanes z s.me.v[d] [])) (Thread.outs_nil quiet_)
  · rw [State.modMe, State.modThread_thread_same]
    exact congrArg (· ++ _) quiet_

section
variable {s t : State} {d : VReg} {a : GReg} {v : VAddr} {imm : BitVec 16} {m : Mask} (quiet_ : s.me.outs = [])

section
variable (plain : s.plain (.g a :: VAddr.sources v) [.v d])
include quiet_ plain

/-- A vld, by the lanes that it checks. -/
theorem memVld_eq : memVld false d a v imm m s = (do
    let ls ← checkLanes (loadSpec 4) (s.laneList a v imm m.k)
    notHeldAll false ls
    remoteReadyAll ls
    noBad ls
    addAccess ⟨.vload d m.z, false, ls.flatMap Lane.split, [], [], []⟩
    advance : Op Unit) s := by
  rw [memVld, op_bind_ok (memIssue_ok quiet_), op_bind_ok (ready_plain plain (keptBy_sub m d _)),
    op_bind_ok (vAddrs_eq fun r hr => State.plain_src plain hr), op_bind_ok (srcK_eq ..), maskedAddrs_eq]
  rfl

theorem vld_faults {as rest : List (Nat × W64)} {n : Nat} {va : W64} {x : List Lane × State} {code : BitVec 8} {va' aux : W64}
    (lanes : s.laneList a v imm m.k = as ++ (n, va) :: rest) (sound : checkLanes (loadSpec 4) as s = .ok x)
    (fault : checkAddr (loadSpec 4) n va x.2 = .error (.trap code va' aux)) : s.traps (.vld d a v imm m) code va' aux := by
  refine State.run_trap ((memVld_eq quiet_ plain).trans (op_bind_error ?_))
  rw [lanes]
  exact checkLanes_faults sound fault

section
variable {ls : List Lane} (checked : checkLanes (loadSpec 4) (s.laneList a v imm m.k) s = .ok (ls, t)) (unheld : ∀ l ∈ ls, t.unheld l false)
include checked unheld

theorem memVld_checked : memVld false d a v imm m s = (do
    noBad ls
    addAccess ⟨.vload d m.z, false, ls.flatMap Lane.split, [], [], []⟩
    advance : Op Unit) t := by
  rw [memVld_eq quiet_ plain, op_bind_ok checked, op_bind_ok (notHeldAll_ok unheld), op_bind_ok (remoteReadyAll_ok unheld)]

theorem vld_bad {ok rest : List Lane} {l : Lane} (split : ls = ok ++ l :: rest) (sound : ∀ x ∈ ok, t.fails s.cur x = false)
    (bad : t.fails s.cur l = true) : s.traps (.vld d a v imm m) 0x0C l.va (BitVec.ofNat 64 l.lane) := by
  obtain ⟨⟨cur, -⟩, -⟩ := checkLanes_sameThreads checked
  refine State.run_trap ((memVld_checked quiet_ plain checked unheld).trans (op_bind_error ?_))
  rw [split]
  exact noBad_traps (by rwa [cur]) (by rwa [cur])

theorem vld_loads (sound : ∀ l ∈ ls, t.fails s.cur l = false) (some_ : ls ≠ []) : exec (.vld d a v imm m) s =
    .next (t.retire fun x => { x with outs := [⟨.vload (some d) m.z, false, ls.flatMap Lane.split, [], [], []⟩] }) := by
  obtain ⟨same, -⟩ := checkLanes_sameThreads checked
  refine State.run_advance_after ?_ same.1
  rw [memVld_checked quiet_ plain checked unheld, op_bind_ok (noBad_ok (by rwa [same.1])),
    op_bind_ok (addAccess_lanes (mt flatMap_split_eq_nil.1 some_))]
  exact advance_modMe (by rw [same.me, quiet_, List.nil_append]) rfl

theorem vld_masked (none_ : ls = []) : exec (.vld d a v imm m) s =
    .next (t.retire fun x => x.setV d (Vector.ofFn fun n => if m.z then 0 else s.me.v[d][n])) := by
  obtain ⟨same, -⟩ := checkLanes_sameThreads checked
  subst none_
  refine State.run_advance_after ?_ same.1
  rw [memVld_checked quiet_ plain checked unheld, op_bind_ok (noBad_ok (by simp)), List.flatMap_nil,
    op_bind_ok (addAccess_masked (by rw [same.me, quiet_]) d m.z), same.me]
  exact advance_modMe rfl rfl

end

end

end

/-! ### Journal entries (R151) -/

/-- The cluster whose local memory a lane addresses through the remote window. -/
def Lane.far? (l : Lane) : Option ClusterIx :=
  match l.place with
  | .remote cl _ => some cl
  | _ => none

theorem Lane.goesTo_iff {l : Lane} {cl : ClusterIx} : l.goesTo cl = true ↔ l.far? = some cl := by
  cases place : l.place <;> simp [Lane.goesTo, Lane.far?, place]

theorem Lane.posted_iff {l : Lane} : l.posted = true ↔ ∃ cl, l.far? = some cl := by
  cases place : l.place <;> simp [Lane.posted, Lane.far?, place]

theorem filter_posted_goesTo (ls : List Lane) (cl : ClusterIx) :
    (ls.filter Lane.posted).filter (fun l => l.goesTo cl) = ls.filter fun l => l.goesTo cl := by
  rw [List.filter_filter]
  refine List.filter_congr fun l _ => ?_
  cases goes : l.goesTo cl
  · rfl
  · exact Lane.posted_iff.2 ⟨cl, Lane.goesTo_iff.1 goes⟩

theorem remoteClusters_eq (ls : List Lane) : remoteClusters ls = (ls.filterMap Lane.far?).foldl
    (fun acc cl => if acc.contains cl then acc else acc ++ [cl]) [] := by
  rw [List.foldl_filterMap, remoteClusters]
  refine List.foldl_ext _ _ _ fun acc l _ => ?_
  unfold Lane.far?
  cases l.place <;> rfl

theorem foldl_distinct {α : Type} [BEq α] [LawfulBEq α] (xs acc : List α) (nodup : acc.Nodup) :
    (xs.foldl (fun acc x => if acc.contains x then acc else acc ++ [x]) acc).Nodup ∧
      ∀ z, z ∈ xs.foldl (fun acc x => if acc.contains x then acc else acc ++ [x]) acc ↔ z ∈ acc ∨ z ∈ xs := by
  induction xs generalizing acc with
  | nil => exact ⟨nodup, by simp⟩
  | cons x xs ih =>
    rw [List.foldl_cons]
    by_cases old : x ∈ acc
    · obtain ⟨nodup', mem⟩ := ih acc nodup
      rw [if_pos (List.contains_iff_mem.2 old)]
      refine ⟨nodup', fun z => (mem z).trans ?_⟩
      rw [List.mem_cons]
      exact ⟨fun h => h.imp_right .inr, fun h => h.elim .inl fun h => h.elim (fun h => .inl (h ▸ old)) .inr⟩
    · obtain ⟨nodup', mem⟩ := ih (acc ++ [x]) (nodup.append (List.nodup_singleton x) (by simpa using old))
      rw [if_neg (mt List.contains_iff_mem.1 old)]
      exact ⟨nodup', fun z => (mem z).trans (by rw [List.mem_append, List.mem_singleton, List.mem_cons, or_assoc])⟩

/-- The destination clusters of the remote lanes, each once (R151). -/
theorem remoteClusters_perm (ls : List Lane) : (remoteClusters (ls.filter Lane.posted)).Perm (ls.filterMap Lane.far?).dedup := by
  have all : (ls.filter Lane.posted).filterMap Lane.far? = ls.filterMap Lane.far? := by
    rw [List.filterMap_filter]
    refine List.filterMap_congr fun l _ => ?_
    cases posted : l.posted
    · cases far : l.far?
      · rfl
      · exact absurd (Lane.posted_iff.2 ⟨_, far⟩) (by simp [posted])
    · rfl
  rw [remoteClusters_eq, all]
  obtain ⟨nodup, mem⟩ := foldl_distinct (ls.filterMap Lane.far?) [] List.nodup_nil
  exact (List.perm_ext_iff_of_nodup nodup (List.nodup_dedup _)).2 fun cl => (mem cl).trans (by simp)

theorem Core.freeEntries_eq (c : Core) : ((List.range 32).filter fun e => ∀ j ∈ c.journal, j.entry ≠ e) = c.freeEntries := by
  rw [Core.freeEntries, indices]
  refine List.filter_congr fun e _ => Bool.eq_iff_iff.2 ?_
  simp

theorem zip_snd_sublist {α β : Type} (xs : List α) (ys : List β) : ((xs.zip ys).map Prod.snd).Sublist ys := by
  induction xs generalizing ys with
  | nil => exact List.nil_sublist ys
  | cons x xs ih =>
    cases ys with
    | nil => exact List.nil_sublist []
    | cons y ys => exact (ih ys).cons_cons y

/-- The journal entry of a store's lanes to a cluster, at a place and with a number (R151). -/
def State.storeEntry (s : State) (ls : List Lane) (x : (ClusterIx × Nat) × Nat) : JEntry where
  entry := x.1.2
  key := s.uids + x.2
  w := s.cur
  uid := s.me.uid
  part := s.me.part
  cl := x.1.1
  epoch := (s.cluster x.1.1).epoch
  kind := .store
  lanes := ls.filter fun l => l.goesTo x.1.1
  va := (((ls.filter fun l => l.goesTo x.1.1).head?).map Lane.va).getD 0
  state := .sent

section
variable {s : State} {ls : List Lane}

/-- The journal entries of the remote lanes of a store, one for each cluster. -/
def State.storeEntries (s : State) (ls : List Lane) : List JEntry :=
  (((remoteClusters ls).zip s.myCore.freeEntries).zip (List.range (remoteClusters ls).length)).map (s.storeEntry ls)

theorem post_sending (some_ : remoteClusters ls ≠ []) (sending : s.sendOut s.cur = true) :
    post false .store ls s = .error (.wait .retryBuffer) := by
  simp [post, some_, sending]

section
variable (passes : s.sendOut s.cur = false ∨ remoteClusters ls = [])
include passes

theorem post_full (full : s.myCore.freeEntries.length < (remoteClusters ls).length) : post false .store ls s = .error (.wait .journal) := by
  rw [post]
  refine (if_neg ?_).trans (if_pos full)
  obtain sent | none_ := passes
  · simp [sent]
  · simp [none_]

theorem post_ok (room : (remoteClusters ls).length ≤ s.myCore.freeEntries.length) : post false .store ls s =
    .ok ((s.storeEntries ls).map JEntry.key, { s with uids := s.uids + (remoteClusters ls).length }.modMyCore fun c =>
      { c with journal := c.journal ++ s.storeEntries ls }) := by
  rw [post]
  refine (if_neg ?_).trans (if_neg (Nat.not_lt.2 room))
  obtain sent | none_ := passes
  · simp [sent]
  · simp [none_]

end

section
variable (room : (remoteClusters ls).length ≤ s.myCore.freeEntries.length)
include room

theorem State.storeEntries_zip_length : ((remoteClusters ls).zip s.myCore.freeEntries).length = (remoteClusters ls).length := by
  rw [List.length_zip, min_eq_left room]

theorem State.storeEntries_length : (s.storeEntries ls).length = (remoteClusters ls).length := by
  rw [State.storeEntries, List.length_map, List.length_zip, State.storeEntries_zip_length room, List.length_range, min_self]

theorem State.storeEntries_cl : (s.storeEntries ls).map JEntry.cl = remoteClusters ls := by
  have each : JEntry.cl ∘ s.storeEntry ls = Prod.fst ∘ Prod.fst := rfl
  rw [State.storeEntries, List.map_map, each, ← List.map_map,
    List.map_fst_zip (by rw [State.storeEntries_zip_length room, List.length_range]), List.map_fst_zip room]

theorem State.storeEntries_key : (s.storeEntries ls).map JEntry.key = (List.range (remoteClusters ls).length).map (s.uids + ·) := by
  have each : JEntry.key ∘ s.storeEntry ls = (s.uids + ·) ∘ Prod.snd := rfl
  rw [State.storeEntries, List.map_map, each, ← List.map_map,
    List.map_snd_zip (by rw [State.storeEntries_zip_length room, List.length_range])]

theorem State.storeEntries_entry : ((s.storeEntries ls).map JEntry.entry).Nodup := by
  have each : JEntry.entry ∘ s.storeEntry ls = Prod.snd ∘ Prod.fst := rfl
  rw [State.storeEntries, List.map_map, each, ← List.map_map,
    List.map_fst_zip (by rw [State.storeEntries_zip_length room, List.length_range])]
  exact (zip_snd_sublist ..).nodup (List.nodup_range.filter _)

end

theorem State.mem_storeEntries {j : JEntry} (mem : j ∈ s.storeEntries ls) : ∃ x, j = s.storeEntry ls x ∧ x.1.2 ∈ s.myCore.freeEntries := by
  obtain ⟨x, hx, rfl⟩ := List.mem_map.1 mem
  exact ⟨x, rfl, (List.of_mem_zip (List.of_mem_zip hx).1).2⟩

end

/-! ### vst (R144) -/

/-- The lanes of a vst with their data. -/
def State.holding (s : State) (d : VReg) (ls : List Lane) : List Lane :=
  ls.map fun l => { l with data := BitVec.ofNat 64 (s.me.v[d][Fin.ofNat 32 l.lane]).toNat }

/-- A store holds its near lanes; a store that has none is not outstanding (R144). -/
theorem storeLanes_ok {t u : State} {ls : List Lane} {keys : List Nat} (posts : post false .store (ls.filter Lane.posted) t = .ok (keys, u))
    (quiet_ : u.me.outs = []) : storeLanes false ls t = .ok ((), u.modMe fun x => { x with outs :=
      if (ls.filter fun l => !l.posted) = [] then [] else
        [⟨.store, false, (ls.filter fun l => !l.posted).flatMap Lane.split, [], keys.map fun k => (0, BitVec.ofNat 64 k), []⟩] }) := by
  rw [storeLanes, op_bind_ok posts]
  by_cases none_ : (ls.filter fun l => !l.posted) = []
  · simp only [none_, if_pos]
    rw [State.modMe, State.modThread_of_eq (Thread.outs_nil quiet_)]
    rfl
  · have some_ : ((ls.filter fun l => !l.posted).flatMap Lane.split).isEmpty = false :=
      Bool.eq_false_iff.2 fun empty => none_ (flatMap_split_eq_nil.1 (List.isEmpty_iff.1 empty))
    simp only [some_, Bool.not_false, if_true]
    rw [addAccess_lanes (mt flatMap_split_eq_nil.1 none_), if_neg none_]
    exact congrArg (fun x => Except.ok ((), x)) (State.modMe_congr (by rw [quiet_, List.nil_append]))

section
variable {s t : State} {d : VReg} {a : GReg} {v : VAddr} {imm : BitVec 16} {k : KReg} (quiet_ : s.me.outs = [])
  (plain : s.plain (.g a :: VAddr.sources v ++ [.v d]) [])
include quiet_ plain

/-- A vst, by the lanes that it checks. -/
theorem memVst_eq : memVst false d a v imm k s = (do
    let ls ← checkLanes (storeSpec 4) (s.laneList a v imm k)
    notHeldAll true ls
    storeLanes false (s.holding d ls)
    advance : Op Unit) s := by
  have data (ls : List Lane) : (ls.map fun l => { l with data := (memVst.laneOfVec s.me.v[d] l.lane).setWidth 64 }) = s.holding d ls := by
    refine List.map_congr_left fun l _ => ?_
    rw [BitVec.ofNat_toNat]
    rfl
  rw [memVst, op_bind_ok (memIssue_ok quiet_), op_bind_ok (ready_plain plain),
    op_bind_ok (vAddrs_eq fun r hr => State.plain_src plain (List.mem_append_left _ hr)), op_bind_ok (srcV_eq ..), op_bind_ok (srcK_eq ..),
    maskedAddrs_eq]
  simp only [data]
  rfl

theorem vst_faults {as rest : List (Nat × W64)} {n : Nat} {va : W64} {x : List Lane × State} {code : BitVec 8} {va' aux : W64}
    (lanes : s.laneList a v imm k = as ++ (n, va) :: rest) (sound : checkLanes (storeSpec 4) as s = .ok x)
    (fault : checkAddr (storeSpec 4) n va x.2 = .error (.trap code va' aux)) : s.traps (.vst d a v imm k) code va' aux := by
  refine State.run_trap ((memVst_eq quiet_ plain).trans (op_bind_error ?_))
  rw [lanes]
  exact checkLanes_faults sound fault

variable {ls : List Lane} (checked : checkLanes (storeSpec 4) (s.laneList a v imm k) s = .ok (ls, t)) (unheld : ∀ l ∈ ls, t.unheld l true)
include checked unheld

theorem memVst_checked : memVst false d a v imm k s = (do
    storeLanes false (s.holding d ls)
    advance : Op Unit) t := by
  rw [memVst_eq quiet_ plain, op_bind_ok checked, op_bind_ok (notHeldAll_ok unheld)]

theorem vst_waits {why : Why} (waits : post false .store ((s.holding d ls).filter Lane.posted) t = .error (.wait why)) :
    s.waits (.vst d a v imm k) why :=
  State.run_wait ((memVst_checked quiet_ plain checked unheld).trans (op_bind_error (op_bind_error waits)))

/-- A vst that nothing stops leaves its near lanes outstanding and its remote ones in the journal. -/
theorem vst_stores (passes : t.sendOut s.cur = false ∨ remoteClusters ((s.holding d ls).filter Lane.posted) = [])
    (room : (remoteClusters ((s.holding d ls).filter Lane.posted)).length ≤ t.myCore.freeEntries.length) :
    let near := (s.holding d ls).filter fun l => !l.posted
    let es := t.storeEntries ((s.holding d ls).filter Lane.posted)
    exec (.vst d a v imm k) s = .next (({ t with uids := t.uids + es.length }.modMyCore fun c =>
      { c with journal := c.journal ++ es }).retire fun x => { x with outs := if near = [] then [] else
        [⟨.store, false, near.flatMap Lane.split, [], es.map fun (j : JEntry) => (0, BitVec.ofNat 64 j.key), []⟩] }) := by
  intro near es
  obtain ⟨same, -⟩ := checkLanes_sameThreads checked
  have posts := post_ok (by rwa [same.1]) room
  rw [← State.storeEntries_length room] at posts
  have me : ({ t with uids := t.uids + es.length }.modMyCore fun c => { c with journal := c.journal ++ es }).me = s.me := same.me
  refine State.run_advance_after ?_ same.1
  rw [memVst_checked quiet_ plain checked unheld, op_bind_ok (storeLanes_ok posts (by rw [me, quiet_])), List.map_map]
  exact advance_modMe rfl rfl

end

/-- The journal entries of a vst name its clusters, each once, and hold its remote lanes (R151). -/
theorem storeEntries_spec {s t : State} {ls : List Lane} (same : s.SameThreads t)
    (room : (remoteClusters (ls.filter Lane.posted)).length ≤ t.myCore.freeEntries.length) :
    let es := t.storeEntries (ls.filter Lane.posted)
    (∀ n < es.length, (es.map JEntry.key)[n]? = some (t.uids + n)) ∧ (es.map JEntry.entry).Nodup ∧ (es.map JEntry.cl).Nodup ∧
      (∀ cl, cl ∈ es.map JEntry.cl ↔ cl ∈ (ls.filterMap Lane.far?).dedup) ∧
      ∀ j ∈ es, j.entry ∈ t.myCore.freeEntries ∧ j.lanes = ls.filter (fun l => l.goesTo j.cl) ∧ j.state = .sent ∧ j.kind = .store ∧
        j.w = s.cur ∧ j.uid = s.me.uid ∧ j.epoch = (t.cluster j.cl).epoch := by
  intro es
  have clusters : es.map JEntry.cl = _ := State.storeEntries_cl room
  have perm := remoteClusters_perm ls
  refine ⟨fun n hn => ?_, State.storeEntries_entry room, ?_, fun cl => ?_, fun j hj => ?_⟩
  · rw [State.storeEntries_length room] at hn
    rw [State.storeEntries_key room, List.getElem?_map, List.getElem?_range hn]
    rfl
  · rw [clusters, perm.nodup_iff]
    exact List.nodup_dedup _
  · rw [clusters, perm.mem_iff]
  · obtain ⟨x, rfl, free⟩ := State.mem_storeEntries hj
    exact ⟨free, filter_posted_goesTo .., rfl, rfl, same.1, congrArg Thread.uid same.me, rfl⟩

/-- Settles O21, by the lanes that the checks let through: a vld holds them all, a vst those that are near, and the journal the
others. -/
theorem vectorAccesses : Obligations.VectorAccesses := by
  unfold Obligations.VectorAccesses
  intro s t d a v imm m g address lanes load store quiet_
  refine ⟨fun plain => ⟨fun as n va rest code x aux split sound fault => vld_faults quiet_ plain split sound fault,
    fun ls checked unheld => ?_⟩, fun plain => ⟨fun as n va rest code x aux split sound fault => vst_faults quiet_ plain split sound fault,
    fun ls checked unheld => ?_⟩⟩
  · exact ⟨(checkLanes_sameThreads checked).2, fun ok l rest split sound bad => vld_bad quiet_ plain checked unheld split sound bad,
      fun sound => ⟨vld_loads quiet_ plain checked unheld sound, vld_masked quiet_ plain checked unheld⟩⟩
  · intro held near far free
    obtain ⟨same, -⟩ := checkLanes_sameThreads checked
    have entries : free = t.myCore.freeEntries := Core.freeEntries_eq _
    have perm : (remoteClusters (held.filter Lane.posted)).Perm far := remoteClusters_perm held
    have nil_iff : remoteClusters (held.filter Lane.posted) = [] ↔ far = [] := by rw [← List.length_eq_zero_iff, perm.length_eq, List.length_eq_zero_iff]
    have lengths : (remoteClusters ((s.holding d ls).filter Lane.posted)).length = far.length := perm.length_eq
    rw [entries]
    refine ⟨fun some_ sending => ?_, fun sent full => ?_, fun passes room => ?_⟩
    · exact vst_waits quiet_ plain checked unheld (post_sending (mt nil_iff.1 some_) (by rwa [same.1]))
    · exact vst_waits quiet_ plain checked unheld (post_full (.inl (by rwa [same.1])) (by rwa [lengths]))
    · rw [← lengths] at room
      exact ⟨_, vst_stores quiet_ plain checked unheld (passes.imp_right nil_iff.2) room, storeEntries_spec same room⟩

end Sys2Proof.Machine
end

section
/-! PROOFS. Refutation of the statement about what a load returns (R139): a state that meets the premises of its clause about
the scalar load and that the model takes elsewhere. -/

namespace Sys2Proof.Machine

/-- A lane numbered 5 that reads the first byte of the local memory. -/
def laneFive : Lane := ⟨5, 0, .own 0 0, 1, [], 0⟩

/-- A thread whose one access is a scalar load of that lane, over a local memory that holds 1. -/
def State.loadFive : State :=
  (State.oneCluster.modCluster 0 fun c => { c with mem := [(0, 1)] }).modThread 0 fun t =>
    { t with outs := [⟨.load (.reg 1) .n8, false, [laneFive], [], [], []⟩] }

theorem State.loadFive_outs :
    (State.loadFive.thread 0).outs = [⟨.load (.reg 1) .n8, false, [laneFive], [], [], []⟩] := by decide +kernel

theorem State.loadFive_direct : laneFive.direct := trivial

theorem State.loadFive_value : State.loadFive.valueAt laneFive = 1 := by decide +kernel

theorem loadReturn_five :
    Leaves (.loadReturn 0 0 (BitVec.allOnes 64)) State.loadFive (fun y => (y.thread 0).greg 1 == 0) = true := by decide +kernel

end Sys2Proof.Machine

namespace Sys2Proof

open Sys2Proof.Machine

/-- Refutes O22: the clause that a scalar load takes what its bytes hold. It allows the lane of that load any number below 32;
a scalar load takes what came for lane 0, so that one whose lane is numbered 5 gives 0. -/
theorem not_loadsReturn : ¬ Obligations.LoadsReturn := by
  unfold Obligations.LoadsReturn
  intro returns
  obtain ⟨scalar, -⟩ := returns State.loadFive 0 false [] (.inl (by decide +kernel))
  have one := of_leaves loadReturn_five
    (scalar 1 .n8 laneFive State.loadFive_outs (by decide) rfl State.loadFive_direct (by decide +kernel) (by decide +kernel))
  rw [State.modThread_thread_same, State.loadFive_value] at one
  exact absurd one (by decide +kernel)

end Sys2Proof
end

section
/-! PROOFS. The evaluation of the events of one cycle at a barrier (R340, R343): their order, which arrivals count, and the
barrier afterwards. -/

namespace Sys2Proof.Machine

/-! ### Order -/

section
variable {α : Type} {key : α → Nat}

theorem insertBy_perm (key : α → Nat) (x : α) (ys : List α) : (insertBy key x ys).Perm (x :: ys) := by
  induction ys with
  | nil => exact List.Perm.refl _
  | cons y ys ih =>
    rw [insertBy]
    split
    · exact List.Perm.refl _
    · exact (ih.cons y).trans (List.Perm.swap x y ys)

theorem insertBy_sorted (x : α) {ys : List α} (h : ys.Pairwise fun a b => key a ≤ key b) :
    (insertBy key x ys).Pairwise fun a b => key a ≤ key b := by
  induction ys with
  | nil => exact List.pairwise_singleton _ x
  | cons y ys ih =>
    obtain ⟨least, sorted⟩ := List.pairwise_cons.1 h
    rw [insertBy]
    split
    · next less =>
      refine List.pairwise_cons.2 ⟨fun z hz => ?_, h⟩
      obtain rfl | hz := List.mem_cons.1 hz
      · exact less.le
      · exact less.le.trans (least z hz)
    · next more =>
      refine List.pairwise_cons.2 ⟨fun z hz => ?_, ih sorted⟩
      obtain rfl | hz := (mem_insertBy key x z ys).1 hz
      · exact Nat.not_lt.1 more
      · exact least z hz

theorem sortBy_spec (key : α → Nat) (xs : List α) : (sortBy key xs).Perm xs ∧ (sortBy key xs).Pairwise fun a b => key a ≤ key b := by
  have gathered (acc : List α) (h : acc.Pairwise fun a b => key a ≤ key b) :
      (xs.foldl (fun acc x => insertBy key x acc) acc).Perm (acc ++ xs) ∧
        (xs.foldl (fun acc x => insertBy key x acc) acc).Pairwise fun a b => key a ≤ key b := by
    induction xs generalizing acc with
    | nil => exact ⟨by simp, h⟩
    | cons x xs ih =>
      obtain ⟨perm, sorted⟩ := ih (insertBy key x acc) (insertBy_sorted x h)
      exact ⟨perm.trans (((insertBy_perm key x acc).append_right xs).trans List.perm_middle.symm), sorted⟩
  exact gathered [] List.Pairwise.nil

/-- A list in strictly ascending order is its elements sorted. -/
theorem sortBy_eq {xs ys : List α} (perm : ys.Perm xs) (strict : ys.Pairwise fun a b => key a < key b) : sortBy key xs = ys := by
  obtain ⟨sorts, sorted⟩ := sortBy_spec key xs
  have distinct : (ys.map key).Nodup := List.pairwise_map.2 (strict.imp fun h => h.ne)
  refine (sorts.trans perm.symm).eq_of_pairwise (fun a b ha hb le ge =>
    List.inj_on_of_nodup_map distinct (perm.symm.mem_iff.1 (sorts.mem_iff.1 ha)) hb (Nat.le_antisymm le ge)) sorted (strict.imp fun h => h.le)

end

/-! ### Which arrivals count (R340, R346) -/

/-- The count that arrivals in order leave from an earlier one, and the late ones. -/
def tally (exp : Nat) : Nat → List BarEvent → Nat × List BarEvent
  | n, [] => (n, [])
  | n, x :: xs =>
    if n + x.weight ≤ exp then tally exp (n + x.weight) xs else ((tally exp n xs).1, x :: (tally exp n xs).2)

theorem tally_fits {exp n : Nat} {x : BarEvent} (h : n + x.weight ≤ exp) (xs : List BarEvent) :
    tally exp n (x :: xs) = tally exp (n + x.weight) xs := if_pos h

theorem tally_late {exp n : Nat} {x : BarEvent} (h : ¬n + x.weight ≤ exp) (xs : List BarEvent) :
    tally exp n (x :: xs) = ((tally exp n xs).1, x :: (tally exp n xs).2) := if_neg h

theorem tally_eq_foldl (exp n : Nat) (xs : List BarEvent) : tally exp n xs = xs.foldl (fun x e =>
    if x.1 + e.weight ≤ exp then (x.1 + e.weight, x.2) else (x.1, x.2 ++ [e])) (n, []) := by
  have gathered (acc : List BarEvent) (n : Nat) : xs.foldl (fun x e =>
      if x.1 + e.weight ≤ exp then (x.1 + e.weight, x.2) else (x.1, x.2 ++ [e])) (n, acc) =
        ((tally exp n xs).1, acc ++ (tally exp n xs).2) := by
    induction xs generalizing acc n with
    | nil => simp [tally]
    | cons x xs ih =>
      rw [List.foldl_cons]
      by_cases fits : n + x.weight ≤ exp
      · rw [if_pos fits, ih, tally_fits fits]
      · rw [if_neg fits, ih, tally_late fits, List.append_assoc, List.singleton_append]
  exact (gathered [] n).symm

theorem tally_sublist (exp n : Nat) (xs : List BarEvent) : (tally exp n xs).2.Sublist xs := by
  induction xs generalizing n with
  | nil => exact List.Sublist.refl []
  | cons x xs ih =>
    by_cases fits : n + x.weight ≤ exp
    · rw [tally_fits fits]
      exact (ih _).cons x
    · rw [tally_late fits]
      exact (ih _).cons_cons x

theorem tally_le (exp n : Nat) (xs : List BarEvent) : (tally exp n xs).1 ≤ max n exp := by
  induction xs generalizing n with
  | nil => exact le_max_left n exp
  | cons x xs ih =>
    by_cases fits : n + x.weight ≤ exp
    · rw [tally_fits fits]
      exact (ih _).trans (by omega)
    · rw [tally_late fits]
      exact ih n

/-- The late ones are their list. -/
theorem filter_mem_of_sublist {α : Type} [DecidableEq α] {xs ys : List α} (sub : ys.Sublist xs) (nodup : xs.Nodup) :
    xs.filter (· ∈ ys) = ys := by
  induction sub with
  | slnil => rfl
  | @cons ys xs x sub ih =>
    obtain ⟨new, nodup⟩ := List.nodup_cons.1 nodup
    rw [List.filter_cons_of_neg (by simpa using mt (sub.subset ·) new), ih nodup]
  | @cons_cons ys xs x sub ih =>
    obtain ⟨new, nodup⟩ := List.nodup_cons.1 nodup
    rw [List.filter_cons_of_pos (by simp)]
    refine congrArg (x :: ·) (Eq.trans (List.filter_congr fun z hz => ?_) (ih nodup))
    have other : z ≠ x := fun same => new (same ▸ hz)
    simp [other]

/-- The verdict of an arrival of a phase, by those that are late. -/
def verdict (phase : BitVec 16) (late : List BarEvent) (e : BarEvent) : Verdict := if e ∈ late then .late else .counted phase

/-- Arrivals that are taken in order, none beyond the 128 contributions. -/
theorem Barrier.takeAll_eq {b : Barrier} {xs : List BarEvent} (nodup : xs.Nodup) (room : b.contribs.length + xs.length ≤ 128) :
    b.takeAll xs = ({ b with
      arr := BitVec.ofNat 16 (tally b.exp.toNat b.arr.toNat xs).1
      contribs := b.contribs ++ (xs.filter (· ∉ (tally b.exp.toNat b.arr.toNat xs).2)).filterMap BarEvent.contrib
      edged := b.edged || (xs.filter (· ∉ (tally b.exp.toNat b.arr.toNat xs).2)).any BarEvent.edge },
      xs.map fun e => (e, verdict b.phase (tally b.exp.toNat b.arr.toNat xs).2 e)) := by
  induction xs generalizing b with
  | nil => simp [Barrier.takeAll, tally]
  | cons x xs ih =>
    obtain ⟨new, nodup⟩ := List.nodup_cons.1 nodup
    rw [List.length_cons] at room
    by_cases fits : b.arr.toNat + x.weight ≤ b.exp.toNat
    · have small : (b.arr + BitVec.ofNat 16 x.weight).toNat = b.arr.toNat + x.weight := by
        have := b.exp.isLt
        rw [BitVec.toNat_add, BitVec.toNat_ofNat, Nat.add_mod_mod, Nat.mod_eq_of_lt (by omega)]
      have uncrowded : (x.contrib.isSome && decide (b.contribs.length ≥ 128)) = false := by
        rw [decide_eq_false (by omega), Bool.and_false]
      have kept : x ∉ (tally b.exp.toNat (b.arr.toNat + x.weight) xs).2 := fun late => new ((tally_sublist ..).subset late)
      have short : x.contrib.toList.length ≤ 1 := by cases x.contrib <;> simp
      simp only [Barrier.takeAll, Barrier.take, gt_iff_lt, Nat.not_lt.2 fits, uncrowded, if_false, Bool.false_eq_true]
      rw [ih nodup (by simp only [List.length_append]; omega)]
      simp only [small, tally_fits fits, List.map_cons, verdict, kept, if_false, List.filter_cons_of_pos (p := fun e => decide (e ∉ _)) (decide_eq_true kept),
        List.filterMap_cons, List.any_cons, Bool.or_assoc]
      cases x.contrib <;> simp
    · have late : x ∈ x :: (tally b.exp.toNat b.arr.toNat xs).2 := List.mem_cons_self
      have same : ∀ e ∈ xs, (e ∈ x :: (tally b.exp.toNat b.arr.toNat xs).2 ↔ e ∈ (tally b.exp.toNat b.arr.toNat xs).2) := by
        intro e he
        have other : e ≠ x := fun same => new (same ▸ he)
        simp [other]
      have counted : (x :: xs).filter (· ∉ x :: (tally b.exp.toNat b.arr.toNat xs).2) =
          xs.filter (· ∉ (tally b.exp.toNat b.arr.toNat xs).2) := by
        rw [List.filter_cons_of_neg (by simp)]
        exact List.filter_congr fun e he => by simp only [same e he]
      have verdicts : (xs.map fun e => (e, verdict b.phase (tally b.exp.toNat b.arr.toNat xs).2 e)) =
          xs.map fun e => (e, verdict b.phase (x :: (tally b.exp.toNat b.arr.toNat xs).2) e) :=
        List.map_congr_left fun e he => by simp only [verdict, same e he]
      simp only [Barrier.takeAll, Barrier.take, gt_iff_lt, Nat.lt_of_not_le fits, if_true]
      rw [ih nodup (by omega), verdicts]
      simp only [tally_late fits, counted, List.map_cons, verdict, late, if_true]

/-! ### The barrier that the arrivals meet (R343) -/

theorem BarEvent.isConfig_iff {e : BarEvent} : e.isConfig = true ↔ ∃ w d n r, e = .config w d n r := by
  cases e <;> simp [BarEvent.isConfig]

/-- A bar.cfg overrides an earlier one. -/
theorem Barrier.configure_configure (b : Barrier) (y : BarEvent) {x : BarEvent} (h : x.isConfig = true) :
    (b.configure y).configure x = b.configure x := by
  obtain ⟨w, d, n, r, rfl⟩ := BarEvent.isConfig_iff.1 h
  cases y <;> rfl

theorem Barrier.configure_foldl (b : Barrier) (ys : List BarEvent) {x : BarEvent} (h : x.isConfig = true) :
    (ys.foldl Barrier.configure b).configure x = b.configure x := by
  induction ys generalizing b with
  | nil => rfl
  | cons y ys ih => rw [List.foldl_cons, ih, Barrier.configure_configure b y h]

/-- The bar.cfg of the highest slot configures the barrier. -/
theorem Barrier.configured {b start : Barrier} {key : BarEvent → Nat} {evs : List BarEvent}
    (none_ : (∀ e ∈ evs, e.isConfig = false) → start = b)
    (last : ∀ x ∈ evs, x.isConfig = true → (∀ e ∈ evs, e.isConfig = true → key e ≤ key x) → start = b.configure x) :
    (sortBy key (evs.filter BarEvent.isConfig)).foldl Barrier.configure b = start := by
  have mem (e : BarEvent) : e ∈ sortBy key (evs.filter BarEvent.isConfig) ↔ e ∈ evs ∧ e.isConfig = true := by rw [mem_sortBy, List.mem_filter]
  obtain ⟨-, sorted⟩ := sortBy_spec key (evs.filter BarEvent.isConfig)
  obtain empty | ⟨xs, x, split⟩ := List.eq_nil_or_concat (sortBy key (evs.filter BarEvent.isConfig))
  · rw [empty]
    refine (none_ fun e he => ?_).symm
    by_contra config
    exact List.not_mem_nil (empty ▸ (mem e).2 ⟨he, Bool.not_eq_false _ ▸ config⟩)
  · rw [split] at mem sorted
    obtain ⟨here, config⟩ := (mem x).1 (by simp)
    rw [split, List.concat_eq_append, List.foldl_append, List.foldl_cons, List.foldl_nil, Barrier.configure_foldl b xs config]
    refine (last x here config fun e he hc => ?_).symm
    obtain before | rfl := List.mem_append.1 (List.concat_eq_append ▸ (mem e).2 ⟨he, hc⟩) |>.imp_right List.mem_singleton.1
    · exact (List.pairwise_append.1 (List.concat_eq_append ▸ sorted)).2.2 e before x (List.mem_singleton_self x)
    · exact Nat.le_refl _

/-! ### The evaluation -/

/-- The events of a cycle, in the order of the evaluation, and the barrier that their bar.cfg leaves. -/
structure Barrier.Cycle (key : BarEvent → Nat) (b start : Barrier) (evs order : List BarEvent) : Prop where
  configured : (sortBy key (evs.filter BarEvent.isConfig)).foldl Barrier.configure b = start
  ordered : sortBy key (evs.filter BarEvent.isLocal) ++ evs.filter BarEvent.isRemote = order
  nodup : order.Nodup
  room : start.contribs.length + order.length ≤ 128
  some_ : evs ≠ []

/-- The count of a phase and its late arrivals. -/
def Barrier.counts (start : Barrier) (order : List BarEvent) : Nat × List BarEvent := tally start.exp.toNat start.arr.toNat order

/-- The count of the next phase and the arrivals beyond it. -/
def Barrier.countsNext (start : Barrier) (order : List BarEvent) : Nat × List BarEvent :=
  tally start.exp.toNat 0 (start.counts order).2

/-- The arrivals that count into the phase. -/
def Barrier.countedOf (start : Barrier) (order : List BarEvent) : List BarEvent := order.filter (· ∉ (start.counts order).2)

def Barrier.bytesAfter (start : Barrier) (evs : List BarEvent) : BitVec 40 := evs.foldl (fun acc x => acc + x.change) start.bytes

/-- The phase advances with the events of the cycle (R340). -/
def Barrier.Advances (start : Barrier) (evs order : List BarEvent) : Prop :=
  (start.counts order).1 = start.exp.toNat ∧ start.bytesAfter evs = 0 ∧ ∀ e ∈ evs, e.isConfig = false

theorem filter_eq_nil_of_sortBy {key : BarEvent → Nat} {evs : List BarEvent} :
    (sortBy key (evs.filter BarEvent.isConfig)).isEmpty = true ↔ ∀ e ∈ evs, e.isConfig = false := by
  rw [List.isEmpty_iff, ← List.length_eq_zero_iff, (sortBy_spec key _).1.length_eq, List.length_eq_zero_iff, List.filter_eq_nil_iff]
  exact forall₂_congr fun e _ => Bool.not_eq_true _ ▸ Iff.rfl

section
variable {key : BarEvent → Nat} {b start : Barrier} {evs order : List BarEvent} (h : Barrier.Cycle key b start evs order)

theorem Barrier.counts_lt (start : Barrier) (order : List BarEvent) : (start.counts order).1 < 2 ^ 16 :=
  (tally_le ..).trans_lt (max_lt start.arr.isLt start.exp.isLt)

theorem Barrier.countsNext_lt (start : Barrier) (order : List BarEvent) : (start.countsNext order).1 < 2 ^ 16 :=
  (tally_le ..).trans_lt (max_lt (by decide) start.exp.isLt)

theorem verdict_filter_ne (phase : BitVec 16) (late xs : List BarEvent) :
    (xs.map fun e => (e, verdict phase late e)).filter (fun x => x.2 != .late) =
      (xs.filter (· ∉ late)).map fun e => (e, Verdict.counted phase) := by
  rw [List.filter_map]
  have keeps : xs.filter ((fun x : BarEvent × Verdict => x.2 != .late) ∘ fun e => (e, verdict phase late e)) = xs.filter (· ∉ late) :=
    List.filter_congr fun e _ => by by_cases mem : e ∈ late <;> simp [verdict, mem]
  rw [keeps]
  refine List.map_congr_left fun e he => ?_
  have kept : e ∉ late := by simpa using (List.mem_filter.1 he).2
  rw [verdict, if_neg kept]

theorem verdict_filter_eq (phase : BitVec 16) (late xs : List BarEvent) :
    ((xs.map fun e => (e, verdict phase late e)).filter (fun x => x.2 == .late)).map Prod.fst = xs.filter (· ∈ late) := by
  rw [List.filter_map, List.map_map]
  have keeps : xs.filter ((fun x : BarEvent × Verdict => x.2 == .late) ∘ fun e => (e, verdict phase late e)) = xs.filter (· ∈ late) :=
    List.filter_congr fun e _ => by by_cases mem : e ∈ late <;> simp [verdict, mem]
  rw [keeps]
  exact List.map_id' _

include h

theorem Barrier.Cycle.advanced_iff : (!evs.isEmpty && BitVec.ofNat 16 (start.counts order).1 == start.exp && start.bytesAfter evs == 0 &&
    (sortBy key (evs.filter BarEvent.isConfig)).isEmpty) = true ↔ start.Advances evs order := by
  have some_ : evs.isEmpty = false := by simpa using h.some_
  have arr : BitVec.ofNat 16 (start.counts order).1 = start.exp ↔ (start.counts order).1 = start.exp.toNat := by
    rw [← BitVec.toNat_inj, BitVec.toNat_ofNat, Nat.mod_eq_of_lt (start.counts_lt order)]
  simp only [Bool.and_eq_true, beq_iff_eq, some_, Bool.not_false, true_and, arr, filter_eq_nil_of_sortBy, Barrier.Advances, and_assoc]

/-- A phase that does not advance. -/
theorem Barrier.Cycle.evaluate_stays (stays : ¬start.Advances evs order) : b.evaluate key evs =
    ⟨{ start with
        arr := BitVec.ofNat 16 (start.counts order).1
        contribs := start.contribs ++ (start.countedOf order).filterMap BarEvent.contrib
        edged := start.edged || (start.countedOf order).any BarEvent.edge
        bytes := start.bytesAfter evs
        port := if (sortBy key (evs.filter BarEvent.isConfig)).isEmpty then [] else [.again] },
      order.map fun e => (e, verdict start.phase (start.counts order).2 e), false, []⟩ := by
  have test := mt h.advanced_iff.1 stays
  simp only [Barrier.evaluate, h.configured, h.ordered, Barrier.takeAll_eq h.nodup h.room]
  exact if_neg test

/-- A phase that advances, and the late arrivals that count into the next one. -/
theorem Barrier.Cycle.evaluate_advances (advances : start.Advances evs order) : b.evaluate key evs =
    ⟨{ start with
        phase := start.phase + 1
        arr := BitVec.ofNat 16 (start.countsNext order).1
        bytes := start.breload
        contribs := ((start.counts order).2.filter (· ∉ (start.countsNext order).2)).filterMap BarEvent.contrib
        edged := start.edged || (start.countedOf order).any BarEvent.edge ||
          ((start.counts order).2.filter (· ∉ (start.countsNext order).2)).any BarEvent.edge
        port := [.again] },
      (start.countedOf order).map fun e => (e, Verdict.counted start.phase), true,
      (start.counts order).2.map fun e => (e, verdict (start.phase + 1) (start.countsNext order).2 e)⟩ := by
  have sub : (start.counts order).2.Sublist order := tally_sublist ..
  have short := sub.length_le
  have room := h.room
  have late : order.filter (· ∈ (start.counts order).2) = (start.counts order).2 := filter_mem_of_sublist sub h.nodup
  simp only [Barrier.evaluate, h.configured, h.ordered, Barrier.takeAll_eq h.nodup h.room]
  refine (if_pos (h.advanced_iff.2 advances)).trans ?_
  have taken := Barrier.takeAll_eq (b := { start with
      arr := 0
      contribs := []
      edged := start.edged || (start.countedOf order).any BarEvent.edge
      phase := start.phase + 1
      bytes := start.breload
      port := [.again] }) (sub.nodup h.nodup) (by simp only [List.length_nil]; omega)
  rw [verdict_filter_eq, verdict_filter_ne, ← Barrier.counts, late, ← Barrier.countedOf]
  rw [taken]
  rfl

end

end Sys2Proof.Machine
end

section
/-! PROOFS. What the answers to the events of a barrier leave of the rest of the device: barriers, partitions, teams, skimmer
actions, trap vectors, journals and instruction caches. -/

namespace Sys2Proof.Machine

/-! ### Relations -/

/-- What every answer to an event of a barrier leaves; skimmer actions may join. -/
structure State.Beside (s y : State) : Prop where
  barrier : ∀ c, (y.cluster c).barrier = (s.cluster c).barrier
  part : ∀ c, (y.cluster c).part = (s.cluster c).part
  teams : ∀ c, (y.cluster c).teams = (s.cluster c).teams
  skims : ∀ c, (s.cluster c).skims ⊆ (y.cluster c).skims
  vectors : ∀ w, (y.thread w).trapvec = (s.thread w).trapvec

/-- What an answer that reaches no journal leaves. -/
structure State.Aside (s y : State) : Prop extends s.Beside y where
  journals : ∀ c, (y.core c).journal = (s.core c).journal

/-- The lines in the instruction caches, and the errors in them. -/
structure State.SameLines (s y : State) : Prop where
  icache : ∀ c, (y.core c).icache = (s.core c).icache
  ue : y.ue = s.ue

section
variable {s y z : State}

theorem State.Beside.refl (s : State) : s.Beside s := ⟨fun _ => rfl, fun _ => rfl, fun _ => rfl, fun _ => List.Subset.refl _, fun _ => rfl⟩

theorem State.Beside.trans (h : s.Beside y) (h' : y.Beside z) : s.Beside z where
  barrier c := (h'.barrier c).trans (h.barrier c)
  part c := (h'.part c).trans (h.part c)
  teams c := (h'.teams c).trans (h.teams c)
  skims c := List.Subset.trans (h.skims c) (h'.skims c)
  vectors w := (h'.vectors w).trans (h.vectors w)

theorem State.Aside.refl (s : State) : s.Aside s := ⟨State.Beside.refl s, fun _ => rfl⟩

theorem State.Aside.trans (h : s.Aside y) (h' : y.Aside z) : s.Aside z :=
  ⟨h.toBeside.trans h'.toBeside, fun c => (h'.journals c).trans (h.journals c)⟩

theorem State.SameLines.refl (s : State) : s.SameLines s := ⟨fun _ => rfl, rfl⟩

theorem State.SameLines.trans (h : s.SameLines y) (h' : y.SameLines z) : s.SameLines z :=
  ⟨fun c => (h'.icache c).trans (h.icache c), h'.ue.trans h.ue⟩

theorem State.Beside.of_same (clusters : y.clusters = s.clusters) (vectors : ∀ w, (y.thread w).trapvec = (s.thread w).trapvec) :
    s.Beside y where
  barrier c := by rw [State.cluster, clusters, State.cluster]
  part c := by rw [State.cluster, clusters, State.cluster]
  teams c := by rw [State.cluster, clusters, State.cluster]
  skims c := by rw [State.cluster, State.cluster, clusters]; exact List.Subset.refl _
  vectors := vectors

theorem State.Aside.of_same (clusters : y.clusters = s.clusters) (cores : y.cores = s.cores)
    (vectors : ∀ w, (y.thread w).trapvec = (s.thread w).trapvec) : s.Aside y :=
  ⟨State.Beside.of_same clusters vectors, fun c => by rw [State.core, cores, State.core]⟩

theorem State.SameLines.of_cores (cores : y.cores = s.cores) (ue : y.ue = s.ue) : s.SameLines y :=
  ⟨fun c => by rw [State.core, cores, State.core], ue⟩

theorem State.modThread_trapvec {w : SlotIx} {f : Thread → Thread} (hf : ∀ t, (f t).trapvec = t.trapvec) (v : SlotIx) :
    ((s.modThread w f).thread v).trapvec = (s.thread v).trapvec := by
  rw [State.modThread_thread]
  split
  · exact hf _
  · rfl

theorem State.aside_modThread (s : State) (w : SlotIx) {f : Thread → Thread} (hf : ∀ t, (f t).trapvec = t.trapvec) :
    s.Aside (s.modThread w f) := State.Aside.of_same rfl rfl (State.modThread_trapvec hf)

theorem State.sameLines_modThread (s : State) (w : SlotIx) (f : Thread → Thread) : s.SameLines (s.modThread w f) := ⟨fun _ => rfl, rfl⟩

theorem State.aside_modCore (s : State) (d : CoreIx) {f : Core → Core} (hf : ∀ c, (f c).journal = c.journal) :
    s.Aside (s.modCore d f) :=
  ⟨State.Beside.of_same rfl fun _ => rfl, fun c => by rw [State.modCore_core]; split; exacts [hf _, rfl]⟩

theorem State.sameLines_modCore (s : State) (d : CoreIx) {f : Core → Core} (hf : ∀ c, (f c).icache = c.icache) :
    s.SameLines (s.modCore d f) :=
  ⟨fun c => by rw [State.modCore_core]; split; exacts [hf _, rfl], rfl⟩

/-- An update of a cluster that leaves its barriers, its partition and its teams, and every skimmer action in progress. -/
theorem State.aside_modCluster (s : State) (d : ClusterIx) {f : Cluster → Cluster}
    (hf : ∀ x, (f x).barrier = x.barrier ∧ (f x).part = x.part ∧ (f x).teams = x.teams ∧ x.skims ⊆ (f x).skims) :
    s.Aside (s.modCluster d f) := by
  have each {P : Cluster → Cluster → Prop} (here : ∀ x, P x (f x)) (else_ : ∀ x, P x x) (c : ClusterIx) :
      P (s.cluster c) ((s.modCluster d f).cluster c) := by
    rw [State.modCluster_cluster]
    split
    · exact here _
    · exact else_ _
  exact ⟨⟨each (P := fun x y => y.barrier = x.barrier) (fun x => (hf x).1) fun _ => rfl,
    each (P := fun x y => y.part = x.part) (fun x => (hf x).2.1) fun _ => rfl,
    each (P := fun x y => y.teams = x.teams) (fun x => (hf x).2.2.1) fun _ => rfl,
    each (P := fun x y => x.skims ⊆ y.skims) (fun x => (hf x).2.2.2) fun _ => List.Subset.refl _, fun _ => rfl⟩, fun _ => rfl⟩

theorem State.Beside.records {t : Thread} (h : s.Beside y) : y.records t = s.records t := by
  rw [State.records, State.taskRecords, State.taskOf, State.teamOf, State.teamAt, h.teams, State.records, State.taskRecords, State.taskOf,
    State.teamOf, State.teamAt]

theorem State.Beside.keepsSkims {c : CoreIx} {kind : SkimKind} {rs : List Region} {uid : Nat} {after : SkimThen} (h : s.Beside y)
    (had : s.skims c kind rs uid after) : y.skims c kind rs uid after := by
  obtain ⟨k, mem, is⟩ := had
  exact ⟨k, h.skims _ mem, is⟩

end

/-! ### Entering a line (R140) -/

theorem State.aside_count (s : State) (c : CoreIx) (code n : Nat) : s.Aside (s.count c code n) := by
  rw [State.count]
  refine State.Aside.trans (State.aside_modCore s c ?_) (State.aside_modCluster _ _ ?_)
  · exact fun _ => rfl
  · exact fun _ => ⟨rfl, rfl, rfl, List.Subset.refl _⟩

theorem State.aside_tlbInsert (s : State) (c : CoreIx) (e : TlbEntry) : s.Aside (s.tlbInsert c e) := by
  rw [State.tlbInsert]
  refine State.Aside.trans (State.aside_modCore s c ?_) (State.aside_modCluster _ _ ?_)
  · exact fun _ => rfl
  · exact fun _ => ⟨rfl, rfl, rfl, List.Subset.refl _⟩

theorem State.aside_translate (s : State) (c : CoreIx) (p : PartIx) (va : Nat) : s.Aside (s.translate c p va needX).1 := by
  have walks (s : State) : s.Aside (s.walkNow c p va needX).1 := by
    simp only [State.walkNow]
    split
    · exact State.Aside.refl s
    · exact State.Aside.refl s
    · exact State.Aside.refl s
    · exact State.Aside.refl s
    · split
      · next write => exact absurd write (by simp [needX])
      · exact State.aside_tlbInsert ..
  simp only [State.translate]
  split
  · exact State.Aside.refl s
  split
  · dsimp only
    refine State.Aside.trans (s.aside_count c 5 1) (State.aside_modCore _ c ?_)
    exact fun _ => rfl
  · exact (s.aside_count c 5 1).trans (walks _)

theorem State.aside_readLine (s : State) (c : CoreIx) (p : PartIx) (va : W64) : s.Aside (s.readLine c p va).1 := by
  have translated := s.aside_translate c p va.toNat
  simp only [State.readLine]
  split
  · exact State.Aside.refl s
  split <;> rename_i heq <;> rw [heq] at translated
  · split <;> exact translated
  · exact translated
  · exact translated

theorem State.aside_fetchLine (s : State) (c : CoreIx) (va : W64) : s.Aside (s.fetchLine c va).1 := by
  have read := s.aside_readLine c (s.partOf (CoreIx.cluster c)) va
  simp only [State.fetchLine]
  split
  · split
    · exact State.Aside.refl s
    · split <;> exact State.Aside.refl s
  · split <;> rename_i heq
    · rw [heq] at read
      dsimp only at read ⊢
      refine State.Aside.trans read (State.aside_modCore _ c ?_)
      intro x
      rw [Core.icachePut]
    · exact read

theorem State.aside_enter (s : State) (c : CoreIx) (ip : W64) : s.Aside (s.enter c ip).1 := by
  have fetched := s.aside_fetchLine c (lineBase ip)
  simp only [State.enter]
  split <;> rename_i heq <;> rw [heq] at fetched
  · exact fetched
  · exact fetched
  · split
    · exact fetched
    · split <;> exact fetched

theorem mem_icachePut (c : Core) (l : ILine) : l ∈ (c.icachePut l).icache := by
  rw [Core.icachePut, keepLast, List.drop_append_of_le_length (by simp only [List.length_append, List.length_singleton]; omega)]
  exact List.mem_append_right _ (List.mem_singleton_self l)

/-- A fetch that leaves the device as it was found its line in the instruction cache, since a line that is read joins it. -/
theorem State.fetchLine_unchanged {s : State} {c : CoreIx} {va : W64} {bs : List Byte} (h : s.fetchLine c va = (s, .line bs)) :
    ∃ l, (s.core c).icache.find? (fun l => l.va == va) = some l := by
  by_contra none_
  rw [← Option.isSome_iff_exists, Option.not_isSome_iff_eq_none] at none_
  simp only [State.fetchLine, none_] at h
  split at h
  · next u bytes _ =>
    have same : ((u.core c).icachePut ⟨va, bytes, none⟩).icache = (s.core c).icache := by
      have unchanged : (u.modCore c fun x => x.icachePut ⟨va, bytes, none⟩) = s := congrArg Prod.fst h
      rw [← unchanged, State.modCore_core_same]
    exact List.find?_eq_none.1 none_ _ (same ▸ mem_icachePut (u.core c) ⟨va, bytes, none⟩) (beq_self_eq_true va)
  · next other =>
    exact other _ _ h

/-- What is fetched from the instruction cache is fetched alike wherever the cache holds the same. -/
theorem State.SameLines.fetchLine {s y : State} (same : s.SameLines y) {c : CoreIx} {va : W64} {bs : List Byte}
    (h : s.fetchLine c va = (s, .line bs)) : y.fetchLine c va = (y, .line bs) := by
  obtain ⟨l, found⟩ := State.fetchLine_unchanged h
  simp only [State.fetchLine, same.icache, same.ue, found] at h ⊢
  split
  · next bad =>
    rw [if_pos bad] at h
    exact nomatch congrArg Prod.snd h
  · next good =>
    rw [if_neg good] at h
    cases poison : l.poison with
    | some code => simp [poison] at h
    | none =>
      simp only [poison] at h
      exact congrArg (Prod.mk y) (congrArg Prod.snd h)

theorem State.SameLines.enter {s y : State} (same : s.SameLines y) {c : CoreIx} {ip : W64} {ps : List Parcel}
    (h : s.enter c ip = (s, .ok ps)) : y.enter c ip = (y, .ok ps) := by
  rcases fetched : s.fetchLine c (lineBase ip) with ⟨u, bs | code | ipa⟩
  · have unchanged : u = s := by
      simp only [State.enter, fetched] at h
      split at h
      · simp at h
      · split at h
        · simp at h
        · exact congrArg Prod.fst h
    subst unchanged
    simp only [State.enter, fetched, same.fetchLine fetched] at h ⊢
    split at h
    · simp at h
    · next ok =>
      rw [if_neg ok]
      split at h
      · simp at h
      · next head =>
        rw [if_neg head]
        exact congrArg (Prod.mk y) (congrArg Prod.snd h)
  · simp [State.enter, fetched] at h
  · simp [State.enter, fetched] at h

end Sys2Proof.Machine
end

section
/-! PROOFS. The answers to the events of a barrier, each by what it leaves (R340, R341, R346, R356). -/

namespace Sys2Proof.Machine

/-! ### Deliveries and traps -/

theorem State.complete_ue (s : State) (f : FuncIx) (q : Fin 16) (r : Completion) : (s.complete f q r).ue = s.ue := by
  simp only [State.complete, State.putRecord, State.busWrite]
  split
  · rfl
  · split <;> rfl

section
variable (s : State) (w : SlotIx)

theorem State.aside_faultRecord (r : Completion) : s.Aside (s.faultRecord w r) :=
  State.Aside.of_same (State.faultRecord_clusters ..) (State.faultRecord_cores ..) fun v =>
    congrArg (fun ts : Vector Thread 16384 => ts[v].trapvec) (State.faultRecord_threads s w r)

theorem State.sameLines_faultRecord (r : Completion) : s.SameLines (s.faultRecord w r) := by
  refine State.SameLines.of_cores (State.faultRecord_cores ..) ?_
  simp only [State.faultRecord]
  split
  · rfl
  · exact State.complete_ue ..

/-- A relation that updates of the thread of a trap, its records and the entry of its handler keep holds of the trap. -/
theorem State.takeTrap_holds {R : State → State → Prop} (trans : ∀ {s y z}, R s y → R y z → R s z)
    (thread : ∀ s f, (∀ t, (f t).trapvec = t.trapvec) → R s (s.modThread w f)) (record : ∀ s r, R s (s.faultRecord w r))
    (code : BitVec 8) (ip va aux : W64)
    (enter : (s.thread w).handler = false → (s.thread w).trapvec ≠ 0 →
      R s (s.enter (SlotIx.core w) ((s.thread w).trapvec.setWidth 64)).1) : R s (s.takeTrap w false code ip va aux) := by
  have stops (priv : Thread → Bool) (entry : BitVec 8) :
      R s ((s.modThread w fun t => t.trapRegs false (priv t) code ip va aux).stopThread w entry) := by
    rw [State.stopThread]
    refine trans (thread s _ ?_) (trans (record _ _) (thread _ _ ?_))
    · exact fun _ => rfl
    · exact fun _ => rfl
  simp only [State.takeTrap, Bool.not_false, Bool.and_true]
  split
  · exact stops (fun _ => true) 0
  next outside =>
  split
  · exact stops Thread.priv 0
  next vector =>
  have entered := enter (Bool.not_eq_true _ ▸ outside) fun e => vector (beq_iff_eq.2 e)
  split <;> rename_i answer
  · rw [answer] at entered
    exact trans entered (thread _ _ (by exact fun _ => rfl))
  · exact stops Thread.priv _
  · split
    · exact stops Thread.priv _
    · exact trans (record _ _) (thread _ _ (by exact fun _ => rfl))

theorem State.aside_takeTrap (code : BitVec 8) (ip va aux : W64) : s.Aside (s.takeTrap w false code ip va aux) :=
  State.takeTrap_holds (R := State.Aside) s w State.Aside.trans (fun s _ hf => s.aside_modThread w hf) (fun s r => s.aside_faultRecord w r) code ip va aux
    fun _ _ => State.aside_enter ..

theorem State.sameLines_takeTrap (code : BitVec 8) (ip va aux : W64)
    (enter : (s.thread w).trapvec ≠ 0 → ∃ ps, s.enter (SlotIx.core w) ((s.thread w).trapvec.setWidth 64) = (s, .ok ps)) :
    s.SameLines (s.takeTrap w false code ip va aux) := by
  refine State.takeTrap_holds (R := State.SameLines) s w State.SameLines.trans (fun s f _ => s.sameLines_modThread w f) (fun s r => s.sameLines_faultRecord w r)
    code ip va aux fun _ vector => ?_
  obtain ⟨ps, entered⟩ := enter vector
  rw [entered]
  exact State.SameLines.refl s

theorem Thread.setG_trapvec (t : Thread) (r : GReg) (x : W64) : (t.setG r x).trapvec = t.trapvec := by
  rw [Thread.setG]
  split <;> rfl

theorem State.aside_deliver (d : Dst) (x : W64) : s.Aside (s.deliver w d x) := by
  cases d with
  | reg r => exact s.aside_modThread w fun t => t.setG_trapvec r x
  | queue k =>
    rw [State.deliver]
    refine State.aside_modCore s (SlotIx.core w) ?_
    exact fun _ => rfl

theorem State.sameLines_deliver (d : Dst) (x : W64) : s.SameLines (s.deliver w d x) := by
  cases d with
  | reg r => exact State.sameLines_modThread s w fun t => t.setG r x
  | queue k =>
    rw [State.deliver]
    refine State.sameLines_modCore s (SlotIx.core w) ?_
    exact fun _ => rfl

theorem State.aside_undo (d : Option Dst) : s.Aside (s.undo w d) := by
  rw [State.undo]
  refine State.Aside.trans (State.aside_modCore s (SlotIx.core w) ?_) (State.aside_modThread _ w ?_)
  · exact fun _ => rfl
  · exact fun _ => rfl

theorem State.sameLines_undo (d : Option Dst) : s.SameLines (s.undo w d) := by
  rw [State.undo]
  refine State.SameLines.trans (State.sameLines_modCore s (SlotIx.core w) ?_) (State.sameLines_modThread _ w _)
  exact fun _ => rfl

end

/-! ### The answers to changes and arrivals -/

/-- What becomes of the journal entry of a remote arrival (R328, R341). -/
def Verdict.entryState : Verdict → SendState
  | .counted _ => .performed
  | _ => .gone 3

section
variable (s : State) (id : Fin 64) (phase : BitVec 16)

theorem State.aside_done (w : SlotIx) : s.Aside (s.modThread w Thread.done) := s.aside_modThread w fun _ => rfl

theorem State.aside_changeOutcome (e : BarEvent) : s.Aside (s.changeOutcome phase e) := by
  cases e with
  | expect w d _ => exact (s.aside_deliver w d _).trans (State.aside_done _ w)
  | config w d _ _ => exact (s.aside_deliver w d _).trans (State.aside_done _ w)
  | _ => exact State.Aside.refl s

theorem State.sameLines_changeOutcome (e : BarEvent) : s.SameLines (s.changeOutcome phase e) := by
  cases e with
  | expect w d _ => exact (s.sameLines_deliver w d _).trans (State.sameLines_modThread _ w _)
  | config w d _ _ => exact (s.sameLines_deliver w d _).trans (State.sameLines_modThread _ w _)
  | _ => exact State.SameLines.refl s

theorem State.arrivalOutcome_answers (w : SlotIx) (d : Dst) (m : Nat) (edge : Bool) :
    s.arrivalOutcome id (.arrive w d m edge none, .counted phase) = (s.deliver w d (phase.setWidth 64)).modThread w Thread.done := rfl

theorem State.arrivalOutcome_gathers (w : SlotIx) (d : Dst) (m : Nat) (edge : Bool) (k : Contrib) :
    s.arrivalOutcome id (.arrive w d m edge (some k), .counted phase) = s.modThread w fun t => { t with
      wait := .group d id phase k.op k.ty
      mark := none
      parkedAt := (s.core (SlotIx.core w)).cycle } := rfl

/-- An arrival that is late, or beyond the 128 contributions, raises BAR_OVER (R340, R346). -/
theorem State.arrivalOutcome_over (w : SlotIx) (d : Dst) (m : Nat) (edge : Bool) (g : Option Contrib) {v : Verdict}
    (late : ∀ phase, v ≠ .counted phase) : ∃ aux, s.arrivalOutcome id (.arrive w d m edge g, v) =
      (s.undo w (some d)).takeTrap w false 0x20 (s.thread w).ip 0 aux := by
  cases v with
  | counted phase => exact absurd rfl (late phase)
  | late => cases g <;> exact ⟨_, rfl⟩
  | crowded => cases g <;> exact ⟨_, rfl⟩

/-- A relation that the answers to arrivals keep holds of each local one. -/
theorem State.arrivalOutcome_holds {R : State → State → Prop} (trans : ∀ {s y z}, R s y → R y z → R s z)
    (thread : ∀ s w f, (∀ t, (f t).trapvec = t.trapvec) → R s (s.modThread w f)) (deliver : ∀ s w d x, R s (s.deliver w d x))
    (undo : ∀ s w d, R s (s.undo w d)) (w : SlotIx) (d : Dst) (m : Nat) (edge : Bool) (g : Option Contrib) (v : Verdict)
    (trap : ∀ aux, R (s.undo w (some d)) ((s.undo w (some d)).takeTrap w false 0x20 (s.thread w).ip 0 aux)) :
    R s (s.arrivalOutcome id (.arrive w d m edge g, v)) := by
  by_cases late : ∃ phase, v = .counted phase
  · obtain ⟨phase, rfl⟩ := late
    cases g with
    | none =>
      rw [State.arrivalOutcome_answers]
      refine trans (deliver s w d (phase.setWidth 64)) (thread _ w Thread.done ?_)
      exact fun _ => rfl
    | some k =>
      rw [State.arrivalOutcome_gathers]
      refine thread s w _ ?_
      exact fun _ => rfl
  · obtain ⟨aux, refused⟩ := State.arrivalOutcome_over s id w d m edge g (fun phase is => late ⟨phase, is⟩)
    rw [refused]
    exact trans (undo ..) (trap aux)

theorem State.aside_arrive (w : SlotIx) (d : Dst) (m : Nat) (edge : Bool) (g : Option Contrib) (v : Verdict) :
    s.Aside (s.arrivalOutcome id (.arrive w d m edge g, v)) :=
  s.arrivalOutcome_holds (R := State.Aside) id State.Aside.trans (fun s w _ hf => s.aside_modThread w hf) (fun s w => s.aside_deliver w)
    (fun s w => s.aside_undo w) w d m edge g v fun _ => State.aside_takeTrap ..

theorem State.arrivalOutcome_remote (key m : Nat) (edge : Bool) (v : Verdict) :
    s.arrivalOutcome id (.remote key m edge, v) = s.setKey key v.entryState := by
  cases v <;> rfl

theorem State.beside_setKey (key : Nat) (st : SendState) : s.Beside (s.setKey key st) := by
  refine State.Beside.of_same ?_ fun w => ?_
  · rw [State.setKey]
  · rw [State.thread, State.setKey_threads, State.thread]

theorem State.setKey_core (key : Nat) (st : SendState) (c : CoreIx) : (s.setKey key st).core c = (s.core c).setKey key st := by
  simp [State.setKey, State.core, mapVector]

theorem State.sameLines_setKey (key : Nat) (st : SendState) : s.SameLines (s.setKey key st) :=
  ⟨fun c => by rw [State.setKey_core, Core.setKey], by rw [State.setKey]⟩

theorem State.beside_arrivalOutcome (r : BarEvent × Verdict) : s.Beside (s.arrivalOutcome id r) := by
  obtain ⟨e, v⟩ := r
  cases e with
  | arrive w d m edge g => exact (s.aside_arrive id w d m edge g v).toBeside
  | remote key m edge =>
    rw [State.arrivalOutcome_remote]
    exact s.beside_setKey key _
  | _ => exact State.Beside.refl s

/-- The handler of an arrival's thread is entered from the instruction cache. -/
def BarEvent.Cached (s : State) (e : BarEvent) : Prop := ∀ w d m g k, e = .arrive w d m g k → (s.thread w).trapvec ≠ 0 →
  ∃ ps, s.enter (SlotIx.core w) ((s.thread w).trapvec.setWidth 64) = (s, .ok ps)

theorem BarEvent.Cached.mono {s y : State} {e : BarEvent} (h : e.Cached s) (same : s.SameLines y)
    (vectors : ∀ w, (y.thread w).trapvec = (s.thread w).trapvec) : e.Cached y := by
  intro w d m g k is vector
  rw [vectors] at vector ⊢
  obtain ⟨ps, entered⟩ := h w d m g k is vector
  exact ⟨ps, same.enter entered⟩

theorem State.sameLines_arrivalOutcome {r : BarEvent × Verdict} (cached : r.1.Cached s) : s.SameLines (s.arrivalOutcome id r) := by
  obtain ⟨e, v⟩ := r
  cases e with
  | arrive w d m edge g =>
    exact s.arrivalOutcome_holds (R := State.SameLines) id State.SameLines.trans (fun s w f _ => s.sameLines_modThread w f)
      (fun s w => s.sameLines_deliver w) (fun s w => s.sameLines_undo w) w d m edge g v fun _ => State.sameLines_takeTrap _ w _ _ _ _
        ((cached.mono (s.sameLines_undo w (some d)) (s.aside_undo w (some d)).vectors) w d m edge g rfl)
  | remote key m edge =>
    rw [State.arrivalOutcome_remote]
    exact s.sameLines_setKey key _
  | _ => exact State.SameLines.refl s

end

/-! ### An advance -/

section
variable (s : State) (cl : ClusterIx) (id : Fin 64) (phase : BitVec 16) (cs : List Contrib) (edged : Bool)

theorem State.groupResult_same (op : GrpOp) (ty : GrpTy) : (s.groupResult cs op ty).1.clusters = s.clusters ∧
    (s.groupResult cs op ty).1.cores = s.cores ∧ (s.groupResult cs op ty).1.ue = s.ue ∧ (s.groupResult cs op ty).1.threads = s.threads := by
  simp only [State.groupResult]
  split <;> exact ⟨rfl, rfl, rfl, rfl⟩

theorem State.aside_groupResult (op : GrpOp) (ty : GrpTy) : s.Aside (s.groupResult cs op ty).1 := by
  obtain ⟨clusters, cores, -, threads⟩ := s.groupResult_same cs op ty
  exact State.Aside.of_same clusters cores fun w => by rw [State.thread, threads, State.thread]

theorem State.aside_startSkim (c : CoreIx) (kind : SkimKind) (rs : List Region) (w : SlotIx) (after : SkimThen) :
    s.Aside (s.startSkim c kind rs w after) := by
  rw [State.startSkim]
  refine s.aside_modCluster _ ?_
  exact fun _ => ⟨rfl, rfl, rfl, List.subset_append_left ..⟩

theorem State.aside_afterBarrier (w : SlotIx) : s.Aside (s.afterBarrier w edged) := by
  simp only [State.afterBarrier]
  split
  · exact s.aside_done w
  · refine (s.aside_startSkim ..).trans (State.aside_modThread _ w ?_)
    exact fun _ => rfl

theorem State.sameLines_afterBarrier (w : SlotIx) : s.SameLines (s.afterBarrier w edged) := by
  simp only [State.afterBarrier]
  split
  · exact s.sameLines_modThread w _
  · exact ⟨fun _ => rfl, rfl⟩

/-- A release, as the state that it leaves to the thread. -/
theorem State.releaseGroup_eq (w : SlotIx) : s.releaseGroup cl id phase cs edged w = s ∨ ∃ d op ty,
    s.releaseGroup cl id phase cs edged w =
      ((s.groupResult cs op ty).1.deliver w d (s.groupResult cs op ty).2).afterBarrier w edged := by
  simp only [State.releaseGroup]
  split
  · split
    · exact .inl rfl
    · exact .inr ⟨_, _, _, rfl⟩
  · exact .inl rfl

theorem State.aside_releaseGroup (w : SlotIx) : s.Aside (s.releaseGroup cl id phase cs edged w) := by
  obtain same | ⟨d, op, ty, released⟩ := s.releaseGroup_eq cl id phase cs edged w
  · rw [same]
    exact State.Aside.refl s
  · rw [released]
    exact ((s.aside_groupResult cs op ty).trans (State.aside_deliver _ w d _)).trans (State.aside_afterBarrier ..)

theorem State.sameLines_releaseGroup (w : SlotIx) : s.SameLines (s.releaseGroup cl id phase cs edged w) := by
  obtain same | ⟨d, op, ty, released⟩ := s.releaseGroup_eq cl id phase cs edged w
  · rw [same]
    exact State.SameLines.refl s
  · obtain ⟨-, cores, ue, -⟩ := s.groupResult_same cs op ty
    rw [released]
    exact ((State.SameLines.of_cores cores ue).trans (State.sameLines_deliver _ w d _)).trans (State.sameLines_afterBarrier ..)

theorem State.resolveMark_same (t : Thread) : (s.resolveMark cl id phase cs t).clusters = s.clusters ∧
    (s.resolveMark cl id phase cs t).cores = s.cores ∧ (s.resolveMark cl id phase cs t).ue = s.ue := by
  simp only [State.resolveMark]
  split
  · exact ⟨rfl, rfl, rfl⟩
  split
  · exact ⟨rfl, rfl, rfl⟩
  · next m _ _ =>
    obtain ⟨clusters, cores, ue, -⟩ := s.groupResult_same cs m.op m.ty
    exact ⟨clusters, cores, ue⟩

theorem State.aside_resolveMark (t : Thread) : s.Aside (s.resolveMark cl id phase cs t) := by
  obtain ⟨clusters, cores, -⟩ := s.resolveMark_same cl id phase cs t
  refine State.Aside.of_same clusters cores fun w => ?_
  obtain ⟨m, same, -⟩ := State.resolveMark_thread cl id phase cs s t w
  rw [same]

theorem State.sameLines_resolveMark (t : Thread) : s.SameLines (s.resolveMark cl id phase cs t) := by
  obtain ⟨-, cores, ue⟩ := s.resolveMark_same cl id phase cs t
  exact State.SameLines.of_cores cores ue

/-- What each release and each resolved mark keeps, an advance keeps. -/
theorem State.barrierAdvance_holds {P : State → Prop} (release : ∀ u w, P u → P (u.releaseGroup cl id phase cs edged w))
    (resolve : ∀ u t, P u → P (u.resolveMark cl id phase cs t)) (h : P s) : P (s.barrierAdvance cl id phase cs edged) := by
  simp only [State.barrierAdvance]
  split
  · exact h
  · exact foldl_holds resolve _ (foldl_holds release _ h)

theorem State.aside_barrierAdvance : s.Aside (s.barrierAdvance cl id phase cs edged) :=
  s.barrierAdvance_holds (P := fun u => s.Aside u) cl id phase cs edged (fun u _ h => h.trans (u.aside_releaseGroup ..))
    (fun u _ h => h.trans (u.aside_resolveMark ..)) (State.Aside.refl s)

theorem State.sameLines_barrierAdvance : s.SameLines (s.barrierAdvance cl id phase cs edged) :=
  s.barrierAdvance_holds (P := fun u => s.SameLines u) cl id phase cs edged (fun u _ h => h.trans (u.sameLines_releaseGroup ..))
    (fun u _ h => h.trans (u.sameLines_resolveMark ..)) (State.SameLines.refl s)

end

end Sys2Proof.Machine
end

section
/-! PROOFS. The evaluation of a barrier as one of its events sees it: what comes before its answer and after it leaves its
thread, or its journal entry (R340). -/

namespace Sys2Proof.Machine

/-! ### The events of one slot, and of one journal entry -/

/-- The slot that an event comes from. -/
def BarEvent.slot? : BarEvent → Option SlotIx
  | .arrive w _ _ _ _ | .expect w _ _ | .config w _ _ _ => some w
  | _ => none

/-- The number of the journal entry that an event comes from. -/
def BarEvent.key? : BarEvent → Option Nat
  | .remote key _ _ => some key
  | _ => none

/-- No two events of a list have the same origin. -/
def Singly {α : Type} (origin : BarEvent → Option α) (xs : List BarEvent) : Prop :=
  xs.Pairwise fun x y => origin x = none ∨ origin x ≠ origin y

section
variable {α : Type} {origin : BarEvent → Option α} {xs ys : List BarEvent}

theorem Singly.symm_rel {x y : BarEvent} (h : origin x = none ∨ origin x ≠ origin y) : origin y = none ∨ origin y ≠ origin x := by
  obtain none_ | differ := h
  · by_cases other : origin y = none
    · exact .inl other
    · exact .inr (none_ ▸ other)
  · exact .inr differ.symm

theorem Singly.perm (h : Singly origin xs) (perm : xs.Perm ys) : Singly origin ys :=
  (perm.pairwise_iff fun h => Singly.symm_rel h).1 h

theorem Singly.sublist (h : Singly origin ys) (sub : xs.Sublist ys) : Singly origin xs := List.Pairwise.sublist sub h

/-- The other events of a list in which one has a given origin have another. -/
theorem Singly.others {x : BarEvent} {a : α} (h : Singly origin (xs ++ x :: ys)) (from_ : origin x = some a) :
    ∀ z ∈ xs ++ ys, origin z ≠ some a := by
  have front : Singly origin (x :: (xs ++ ys)) := h.perm List.perm_middle
  intro z hz same
  obtain none_ | differ := (List.pairwise_cons.1 front).1 z hz
  · exact nomatch none_.symm.trans from_
  · exact differ (from_.trans same.symm)

theorem Singly.unique {x z : BarEvent} {a : α} (h : Singly origin xs) (hx : x ∈ xs) (hz : z ∈ xs) (from_ : origin x = some a)
    (other : z ≠ x) : origin z ≠ some a := by
  obtain ⟨as, bs, rfl⟩ := List.append_of_mem hx
  refine h.others from_ z ?_
  simpa [other] using hz

end

/-! ### What the answers to other events leave -/

section
variable {s : State} {id : Fin 64} {w : SlotIx} {e : BarEvent}

theorem State.changeOutcome_thread (h : e.slot? ≠ some w) (phase : BitVec 16) : (s.changeOutcome phase e).thread w = s.thread w := by
  cases e with
  | expect x d _ => exact (State.deliver_done_spec s x d _).1 w fun same => h (congrArg some same)
  | config x d _ _ => exact (State.deliver_done_spec s x d _).1 w fun same => h (congrArg some same)
  | _ => rfl

theorem State.arrivalOutcome_thread (h : e.slot? ≠ some w) (v : Verdict) : (s.arrivalOutcome id (e, v)).thread w = s.thread w := by
  cases e with
  | arrive x d m edge g => exact (State.arrivalOutcome_spec s id x d m edge g v).1 w fun same => h (congrArg some same)
  | remote key m edge => rw [State.arrivalOutcome_remote, State.thread, State.setKey_threads, State.thread]
  | _ => rfl

/-- The journal entries of a number that stand in one state stand in another. -/
def State.KeepsEntries (key : Nat) (s y : State) : Prop := ∀ c, ∀ j ∈ (s.core c).journal, j.key = key → j ∈ (y.core c).journal

theorem State.KeepsEntries.trans {key : Nat} {s y z : State} (h : s.KeepsEntries key y) (h' : y.KeepsEntries key z) : s.KeepsEntries key z :=
  fun c j mem named => h' c j (h c j mem named) named

theorem State.Aside.keepsEntries {s y : State} (h : s.Aside y) (key : Nat) : s.KeepsEntries key y := fun c j mem _ => by rwa [h.journals c]

theorem State.setKey_journal (s : State) (key : Nat) (st : SendState) (c : CoreIx) :
    ((s.setKey key st).core c).journal = (s.core c).journal.map fun j => if j.key == key then { j with state := st } else j := by
  rw [State.setKey_core]
  rfl

theorem State.setKey_keepsEntries {key other : Nat} (h : other ≠ key) (s : State) (st : SendState) : s.KeepsEntries key (s.setKey other st) := by
  intro c j mem named
  rw [State.setKey_journal]
  exact List.mem_map.2 ⟨j, mem, if_neg (by simpa [named] using h.symm)⟩

theorem State.setKey_sets {s : State} {c : CoreIx} {j : JEntry} (mem : j ∈ (s.core c).journal) (st : SendState) :
    { j with state := st } ∈ ((s.setKey j.key st).core c).journal := by
  rw [State.setKey_journal]
  exact List.mem_map.2 ⟨j, mem, if_pos (beq_self_eq_true _)⟩

theorem State.arrivalOutcome_keepsEntries {key : Nat} (h : e.key? ≠ some key) (v : Verdict) :
    s.KeepsEntries key (s.arrivalOutcome id (e, v)) := by
  cases e with
  | arrive x d m edge g => exact (s.aside_arrive id x d m edge g v).keepsEntries key
  | remote other m edge =>
    rw [State.arrivalOutcome_remote]
    exact State.setKey_keepsEntries (fun same => h (congrArg some same)) s _
  | _ => exact (State.Aside.refl s).keepsEntries key

end

/-! ### A list of answers -/

/-- What an evaluation has left at some point of it, from a state in which it began. -/
structure State.Reaches (s u : State) (evs : List BarEvent) : Prop where
  beside : s.Beside u
  lines : (∀ e ∈ evs, e.Cached s) → s.SameLines u

/-- The answers to arrivals in order, with the verdict of each. -/
def State.answerAll (s : State) (id : Fin 64) (v : BarEvent → Verdict) (xs : List BarEvent) : State :=
  xs.foldl (fun u e => u.arrivalOutcome id (e, v e)) s

theorem State.answerAll_eq_foldl (s : State) (id : Fin 64) (v : BarEvent → Verdict) (xs : List BarEvent) :
    (xs.map fun e => (e, v e)).foldl (State.arrivalOutcome id) s = s.answerAll id v xs := List.foldl_map

section
variable {s u : State} {evs : List BarEvent}

theorem State.Reaches.refl (s : State) (evs : List BarEvent) : s.Reaches s evs := ⟨State.Beside.refl s, fun _ => State.SameLines.refl s⟩

theorem State.Reaches.arrival (h : s.Reaches u evs) {e : BarEvent} (mem : e ∈ evs) (id : Fin 64) (v : Verdict) :
    s.Reaches (u.arrivalOutcome id (e, v)) evs where
  beside := h.beside.trans (u.beside_arrivalOutcome id (e, v))
  lines cached := (h.lines cached).trans (u.sameLines_arrivalOutcome id ((cached e mem).mono (h.lines cached) h.beside.vectors))

theorem State.Reaches.change (h : s.Reaches u evs) (phase : BitVec 16) (e : BarEvent) : s.Reaches (u.changeOutcome phase e) evs where
  beside := h.beside.trans (u.aside_changeOutcome phase e).toBeside
  lines cached := (h.lines cached).trans (u.sameLines_changeOutcome phase e)

theorem State.Reaches.advance (h : s.Reaches u evs) (cl : ClusterIx) (id : Fin 64) (phase : BitVec 16) (cs : List Contrib) (edged : Bool) :
    s.Reaches (u.barrierAdvance cl id phase cs edged) evs where
  beside := h.beside.trans (u.aside_barrierAdvance ..).toBeside
  lines cached := (h.lines cached).trans (u.sameLines_barrierAdvance ..)

theorem State.Reaches.changes (h : s.Reaches u evs) (phase : BitVec 16) (xs : List BarEvent) :
    s.Reaches (xs.foldl (State.changeOutcome phase) u) evs :=
  foldl_holds (P := fun u => s.Reaches u evs) (fun _ e h => h.change phase e) xs h

theorem State.Reaches.answers (h : s.Reaches u evs) (id : Fin 64) (v : BarEvent → Verdict) {xs : List BarEvent} (sub : xs ⊆ evs) :
    s.Reaches (u.answerAll id v xs) evs := by
  induction xs generalizing u with
  | nil => exact h
  | cons x xs ih => exact ih (h.arrival (sub List.mem_cons_self) id (v x)) fun z hz => sub (List.mem_cons_of_mem x hz)

end

theorem State.changes_thread {w : SlotIx} {xs : List BarEvent} (apart : ∀ z ∈ xs, z.slot? ≠ some w) (phase : BitVec 16) (s : State) :
    (xs.foldl (State.changeOutcome phase) s).thread w = s.thread w := by
  induction xs generalizing s with
  | nil => rfl
  | cons z xs ih =>
    exact (ih (fun z hz => apart z (List.mem_cons_of_mem _ hz)) _).trans (State.changeOutcome_thread (apart z List.mem_cons_self) _)

theorem State.answerAll_thread {w : SlotIx} {xs : List BarEvent} (apart : ∀ z ∈ xs, z.slot? ≠ some w) (id : Fin 64)
    (v : BarEvent → Verdict) (s : State) : (s.answerAll id v xs).thread w = s.thread w := by
  induction xs generalizing s with
  | nil => rfl
  | cons z xs ih =>
    exact (ih (fun z hz => apart z (List.mem_cons_of_mem _ hz)) _).trans (State.arrivalOutcome_thread (apart z List.mem_cons_self) _)

/-- What a thread or a journal entry sees of an evaluation: a relation of states that the answers to all events but one keep. -/
structure Bystander (id : Fin 64) (evs : List BarEvent) (x : BarEvent) (R : State → State → Prop) : Prop where
  refl : ∀ s, R s s
  trans : ∀ {s y z}, R s y → R y z → R s z
  change : ∀ u phase, ∀ z ∈ evs, z ≠ x → R u (u.changeOutcome phase z)
  arrival : ∀ u v, ∀ z ∈ evs, z ≠ x → R u (u.arrivalOutcome id (z, v))

section
variable {id : Fin 64} {evs : List BarEvent} {x : BarEvent}

theorem Bystander.thread {w : SlotIx} (singly : Singly BarEvent.slot? evs) (mem : x ∈ evs) (from_ : x.slot? = some w) :
    Bystander id evs x fun s u => u.thread w = s.thread w where
  refl _ := rfl
  trans h h' := h'.trans h
  change _ phase _ hz other := State.changeOutcome_thread (singly.unique mem hz from_ other) phase
  arrival _ v _ hz other := State.arrivalOutcome_thread (singly.unique mem hz from_ other) v

theorem Bystander.entries {key : Nat} (singly : Singly BarEvent.key? evs) (mem : x ∈ evs) (from_ : x.key? = some key) :
    Bystander id evs x (State.KeepsEntries key) where
  refl s := (State.Aside.refl s).keepsEntries key
  trans h h' := h.trans h'
  change u phase z _ _ := (u.aside_changeOutcome phase z).keepsEntries key
  arrival _ v _ hz other := State.arrivalOutcome_keepsEntries (singly.unique mem hz from_ other) v

variable {R : State → State → Prop} (by_ : Bystander id evs x R) {xs : List BarEvent} (sub : xs ⊆ evs)
include by_ sub

theorem Bystander.changes (other : x ∉ xs) (phase : BitVec 16) (s : State) : R s (xs.foldl (State.changeOutcome phase) s) := by
  induction xs generalizing s with
  | nil => exact by_.refl s
  | cons z xs ih =>
    rw [List.mem_cons, not_or] at other
    obtain ⟨differ, other⟩ := other
    exact by_.trans (by_.change s phase z (sub List.mem_cons_self) (Ne.symm differ)) (ih (fun z hz => sub (List.mem_cons_of_mem _ hz)) other _)

theorem Bystander.answers (other : x ∉ xs) (v : BarEvent → Verdict) (s : State) : R s (s.answerAll id v xs) := by
  induction xs generalizing s with
  | nil => exact by_.refl s
  | cons z xs ih =>
    rw [List.mem_cons, not_or] at other
    obtain ⟨differ, other⟩ := other
    exact by_.trans (by_.arrival s (v z) z (sub List.mem_cons_self) (Ne.symm differ)) (ih (fun z hz => sub (List.mem_cons_of_mem _ hz)) other _)

/-- The state in which an event of a list of arrivals is answered. -/
theorem Bystander.answered {s0 s : State} (reached : s0.Reaches s evs) (nodup : xs.Nodup) (mem : x ∈ xs) (v : BarEvent → Verdict) :
    ∃ u, s0.Reaches u evs ∧ R s u ∧ R (u.arrivalOutcome id (x, v x)) (s.answerAll id v xs) := by
  obtain ⟨as, bs, rfl⟩ := List.append_of_mem mem
  have apart := List.nodup_middle.1 nodup
  obtain ⟨new, -⟩ := List.nodup_cons.1 apart
  rw [List.mem_append, not_or] at new
  have before : as ⊆ evs := fun z hz => sub (List.mem_append_left _ hz)
  have after : bs ⊆ evs := fun z hz => sub (List.mem_append_right _ (List.mem_cons_of_mem x hz))
  refine ⟨s.answerAll id v as, reached.answers id v before, by_.answers before new.1 v s, ?_⟩
  have split : s.answerAll id v (as ++ x :: bs) = ((s.answerAll id v as).arrivalOutcome id (x, v x)).answerAll id v bs := by
    rw [State.answerAll, List.foldl_append, List.foldl_cons]
    rfl
  rw [split]
  exact by_.answers after new.2 v _

end

end Sys2Proof.Machine
end

section
/-! PROOFS. The reduction of the contributions to a phase (R125, R346). -/

namespace Sys2Proof.Machine

/-- What a grpred receives of the contributions of its operation and type, in ascending order (R346). -/
def Reduces (op : GrpOp) (ty : GrpTy) (xs : List Contrib) (x : W64) : Prop :=
  let v (k : Contrib) : Sys2Proof.Num := fmtF32.val k.val.toNat
  (op = .sum → x = BitVec.ofNat 64 (xs.map fun k => k.val.toNat).sum) ∧
  (op = .fsum → ∀ k ks, xs = k :: ks → x = ks.foldl (fun a k =>
    BitVec.ofNat 64 (fAdd fmtF32 .rne a.toNat k.val.toNat).1) k.val) ∧
  (op = .min → ty = .n64 → (∃ k ∈ xs, x = k.val) ∧ ∀ k ∈ xs, x.toNat ≤ k.val.toNat) ∧
  (op = .max → ty = .n64 → (∃ k ∈ xs, x = k.val) ∧ ∀ k ∈ xs, k.val.toNat ≤ x.toNat) ∧
  (op = .min → ty = .s64 → (∃ k ∈ xs, x = k.val) ∧ ∀ k ∈ xs, x.toInt ≤ k.val.toInt) ∧
  (op = .max → ty = .s64 → (∃ k ∈ xs, x = k.val) ∧ ∀ k ∈ xs, k.val.toInt ≤ x.toInt) ∧
  (op = .min ∨ op = .max → ty = .f32 → ((∀ k ∈ xs, (v k).isNan = true) → x = BitVec.ofNat 64 fmtF32.nan) ∧
    ((∃ k ∈ xs, (v k).isNan = false) → (∃ k ∈ xs, (v k).isNan = false ∧ x = k.val) ∧
      ∀ k ∈ xs, (v k).isNan = false →
        if op = .max then ¬(fmtF32.val x.toNat).Below (v k) else ¬(v k).Below (fmtF32.val x.toNat)))

theorem sum_eq_ofNat (xs : List W64) : xs.foldl (· + ·) 0 = BitVec.ofNat 64 (xs.map BitVec.toNat).sum := by
  have gathered (a : W64) : xs.foldl (· + ·) a = a + BitVec.ofNat 64 (xs.map BitVec.toNat).sum := by
    induction xs generalizing a with
    | nil => simp
    | cons x xs ih =>
      rw [List.foldl_cons, ih, List.map_cons, List.sum_cons, BitVec.ofNat_add, BitVec.ofNat_toNat, BitVec.setWidth_eq, BitVec.add_assoc]
  simpa using gathered 0

/-- The best contribution of a list by a key. -/
theorem reduce_best (κ : W64 → Int) {step : W64 → W64 → W64} {xs : List Contrib} (some_ : xs ≠ []) {x : W64}
    (is : x = ((xs.map Contrib.val).drop 1).foldl step ((xs.map Contrib.val).headD 0))
    (moves : ∀ a b, step a b = if κ a < κ b then b else a) : (∃ k ∈ xs, x = k.val) ∧ ∀ k ∈ xs, κ k.val ≤ κ x := by
  cases xs with
  | nil => exact absurd rfl some_
  | cons y xs =>
    have best := foldl_firstBest (κ := κ) (P := fun _ => True) (fun a b _ _ => moves a b) (xs.map Contrib.val) y.val fun _ _ => trivial
    obtain ⟨k, mem, same⟩ := List.mem_map.1 (show _ ∈ (y :: xs).map Contrib.val from best.mem)
    rw [is]
    exact ⟨⟨k, mem, same.symm⟩, fun z hz => best.le (List.mem_map_of_mem (f := Contrib.val) hz)⟩

/-- A minimum or maximum of f32 is that of R125. -/
theorem reduce_float (max : Bool) {xs : List Contrib} (some_ : xs ≠ []) {x : W64}
    (is : x = (redMinMax .f32 max ((xs.map Contrib.val).map BitVec.toNat)).1) :
    ((∀ k ∈ xs, (fmtF32.val k.val.toNat).isNan = true) → x = BitVec.ofNat 64 fmtF32.nan) ∧
    ((∃ k ∈ xs, (fmtF32.val k.val.toNat).isNan = false) → (∃ k ∈ xs, (fmtF32.val k.val.toNat).isNan = false ∧ x = k.val) ∧
      ∀ k ∈ xs, (fmtF32.val k.val.toNat).isNan = false → if max = true then ¬(fmtF32.val x.toNat).Below (fmtF32.val k.val.toNat)
        else ¬(fmtF32.val k.val.toNat).Below (fmtF32.val x.toNat)) := by
  have fmt : ETy.fmt .f32 = fmtF32 := rfl
  obtain ⟨v, value, -, nans, numbers⟩ := redMinMax_float (ty := .f32) rfl (max := max) ((xs.map Contrib.val).map BitVec.toNat)
  rw [value] at is
  rw [List.map_map] at nans numbers
  simp only [fmt] at nans numbers
  refine ⟨fun all => ?_, fun ⟨k, mem, number⟩ => ?_⟩
  · rw [is, nans (by simpa using some_) (by simpa using all)]
  · have best := numbers ⟨_, List.mem_map_of_mem mem, number⟩
    obtain ⟨member, isNumber⟩ := List.mem_filter.1 best.mem
    obtain ⟨y, hy, rfl⟩ := List.mem_map.1 member
    have same : x = y.val := by rw [is]; exact BitVec.ofNat_toNat .. |>.trans (BitVec.setWidth_eq _)
    have yNumber : (fmtF32.val y.val.toNat).isNan = false := by simpa using isNumber
    refine ⟨⟨y, hy, yNumber, same⟩, fun z hz zNumber => ?_⟩
    have le := best.le (List.mem_filter.2 ⟨List.mem_map_of_mem (f := BitVec.toNat ∘ Contrib.val) hz, by simpa using zNumber⟩)
    rw [same, Fmt.below_iff fmtF32_ok yNumber zNumber, Fmt.below_iff fmtF32_ok zNumber yNumber]
    cases max <;> simpa [toward] using le

theorem reduceContribs_reduces (op : GrpOp) (ty : GrpTy) {xs : List Contrib} (some_ : xs ≠ []) :
    Reduces op ty xs (reduceContribs op ty (xs.map Contrib.val)) := by
  refine ⟨?_, ?_, ?_, ?_, ?_, ?_, ?_⟩
  · rintro rfl
    refine (sum_eq_ofNat _).trans ?_
    rw [List.map_map]
    rfl
  · rintro rfl k ks rfl
    exact List.foldl_map
  · rintro rfl rfl
    obtain ⟨member, least⟩ := reduce_best (fun a => -(a.toNat : Int)) some_ (x := reduceContribs .min .n64 (xs.map Contrib.val)) rfl
      fun a b => by simp
    exact ⟨member, fun k hk => by simpa only [neg_le_neg_iff, Nat.cast_le] using least k hk⟩
  · rintro rfl rfl
    obtain ⟨member, most⟩ := reduce_best (fun a => (a.toNat : Int)) some_ (x := reduceContribs .max .n64 (xs.map Contrib.val)) rfl
      fun a b => by simp
    exact ⟨member, fun k hk => by simpa only [Nat.cast_le] using most k hk⟩
  · rintro rfl rfl
    obtain ⟨member, least⟩ := reduce_best (fun a => -a.toInt) some_ (x := reduceContribs .min .s64 (xs.map Contrib.val)) rfl
      fun a b => by simp
    exact ⟨member, fun k hk => by simpa only [neg_le_neg_iff] using least k hk⟩
  · rintro rfl rfl
    exact reduce_best BitVec.toInt some_ rfl fun a b => by simp
  · rintro (rfl | rfl) rfl
    · exact reduce_float false some_ rfl
    · exact reduce_float true some_ rfl

end Sys2Proof.Machine
end

section
/-! PROOFS. The evaluation of the events of one cycle at a barrier, put together: what each event is answered (R340, R341, R346). -/

namespace Sys2Proof.Machine

/-! ### The steps of an evaluation -/

/-- The state in which the barrier is as its evaluation leaves it, and no event has been answered. -/
def State.evaluated (s : State) (cl : ClusterIx) (id : Fin 64) (evs : List BarEvent) : State :=
  s.setBarrier cl id { ((s.barrier cl id).evaluate (BarEvent.slot s) evs).after with gathering := false }

/-- The state in which the changes have been answered. -/
def State.changed (s : State) (cl : ClusterIx) (id : Fin 64) (evs : List BarEvent) : State :=
  evs.foldl (State.changeOutcome (s.barrier cl id).phase) (s.evaluated cl id evs)

theorem Barrier.configure_phase (b : Barrier) (xs : List BarEvent) : (xs.foldl Barrier.configure b).phase = b.phase := by
  induction xs generalizing b with
  | nil => rfl
  | cons x xs ih =>
    rw [List.foldl_cons, ih]
    cases x <;> rfl

section
variable {key : BarEvent → Nat} {b start : Barrier} {evs order : List BarEvent} (h : Barrier.Cycle key b start evs order)
include h

theorem Barrier.Cycle.phase : start.phase = b.phase := h.configured ▸ Barrier.configure_phase b _

theorem Barrier.Cycle.start_eq (none_ : ∀ e ∈ evs, e.isConfig = false) : start = b := by
  have empty : (sortBy key (evs.filter BarEvent.isConfig)) = [] := List.isEmpty_iff.1 (filter_eq_nil_of_sortBy.2 none_)
  rw [← h.configured, empty]
  rfl

theorem Barrier.Cycle.subset : order ⊆ evs := by
  rw [← h.ordered]
  intro e he
  obtain mem | mem := List.mem_append.1 he
  · exact List.mem_of_mem_filter ((mem_sortBy ..).1 mem)
  · exact List.mem_of_mem_filter mem

end

/-- Whether an arrival that counts into a cycle that advances has its edge bit (R162). -/
def Barrier.edgedAfter (start : Barrier) (order : List BarEvent) : Bool :=
  start.edged || (start.countedOf order).any BarEvent.edge ||
    ((start.counts order).2.filter (· ∉ (start.countsNext order).2)).any BarEvent.edge

/-- The contributions to a phase. -/
def Barrier.gathered (start : Barrier) (order : List BarEvent) : List Contrib :=
  start.contribs ++ (start.countedOf order).filterMap BarEvent.contrib

theorem State.changed_reaches (s : State) (cl : ClusterIx) (id : Fin 64) (evs : List BarEvent) :
    (s.evaluated cl id evs).Reaches (s.changed cl id evs) evs := (State.Reaches.refl _ evs).changes _ evs

theorem Barrier.countedOf_sublist (start : Barrier) (order : List BarEvent) : (start.countedOf order).Sublist order := List.filter_sublist

theorem Barrier.counts_sublist (start : Barrier) (order : List BarEvent) : (start.counts order).2.Sublist order := tally_sublist ..

theorem Barrier.mem_countedOf {start : Barrier} {order : List BarEvent} {e : BarEvent} :
    e ∈ start.countedOf order ↔ e ∈ order ∧ e ∉ (start.counts order).2 := by
  rw [Barrier.countedOf, List.mem_filter, decide_eq_true_iff]

section
variable {s : State} {cl : ClusterIx} {id : Fin 64} {evs order : List BarEvent} {start : Barrier}
  (h : Barrier.Cycle (BarEvent.slot s) (s.barrier cl id) start evs order)
include h

theorem State.barrierEvents_stays (stays : ¬start.Advances evs order) : s.barrierEvents cl id evs =
    (s.changed cl id evs).answerAll id (verdict start.phase (start.counts order).2) order := by
  rw [← State.answerAll_eq_foldl, State.changed, State.evaluated]
  simp only [State.barrierEvents, h.evaluate_stays stays]
  rfl

theorem State.barrierEvents_advances (advances : start.Advances evs order) : s.barrierEvents cl id evs =
    State.answerAll (((s.changed cl id evs).answerAll id (fun _ => .counted start.phase) (start.countedOf order)).barrierAdvance cl id start.phase
      (start.gathered order) (start.edgedAfter order)) id (verdict (start.phase + 1) (start.countsNext order).2) (start.counts order).2 := by
  have contribs (each : BarEvent × Verdict → List Contrib) (counts : ∀ e p, each (e, .counted p) = e.contrib.toList) :
      ((start.countedOf order).map fun e => (e, Verdict.counted start.phase)).flatMap each = (start.countedOf order).filterMap BarEvent.contrib := by
    rw [List.flatMap_map, List.filterMap_eq_flatMap_toList]
    exact List.flatMap_congr fun e _ => counts e _
  have same := h.start_eq advances.2.2
  rw [← State.answerAll_eq_foldl, ← State.answerAll_eq_foldl, State.changed, State.evaluated]
  simp only [State.barrierEvents, h.evaluate_advances advances]
  rw [← same, contribs _ fun _ _ => rfl]
  rfl

/-! ### How an arrival is answered -/

section
variable {x : BarEvent} {R : State → State → Prop} (by_ : Bystander id evs x R) (begins : R s (s.changed cl id evs))
include by_ begins

/-- An arrival to a phase that does not advance. -/
theorem State.answered_stays (mem : x ∈ order) (stays : ¬start.Advances evs order) : ∃ u, (s.evaluated cl id evs).Reaches u evs ∧ R s u ∧
    R (u.arrivalOutcome id (x, verdict start.phase (start.counts order).2 x)) (s.barrierEvents cl id evs) := by
  obtain ⟨u, reached, before, after⟩ := by_.answered h.subset (s.changed_reaches cl id evs) h.nodup mem
    (verdict start.phase (start.counts order).2)
  rw [State.barrierEvents_stays h stays]
  exact ⟨u, reached, by_.trans begins before, after⟩

/-- An arrival that counts into a phase that advances. -/
theorem State.answered_counted (advances : start.Advances evs order) (mem : x ∈ order) (counted : x ∉ (start.counts order).2) : ∃ u v,
    (s.evaluated cl id evs).Reaches u evs ∧ R s u ∧ R (u.arrivalOutcome id (x, .counted start.phase)) v ∧
    R (v.barrierAdvance cl id start.phase (start.gathered order) (start.edgedAfter order)) (s.barrierEvents cl id evs) := by
  have sub := (start.countedOf_sublist order)
  obtain ⟨u, reached, before, after⟩ := by_.answered (fun z hz => h.subset (sub.subset hz)) (s.changed_reaches cl id evs)
    (sub.nodup h.nodup) (Barrier.mem_countedOf.2 ⟨mem, counted⟩) fun _ => .counted start.phase
  rw [State.barrierEvents_advances h advances]
  exact ⟨u, _, reached, by_.trans begins before, after,
    by_.answers (fun z hz => h.subset ((start.counts_sublist order).subset hz)) counted _ _⟩

/-- A late arrival to a phase that advances is taken again. -/
theorem State.answered_late (advances : start.Advances evs order) (late : x ∈ (start.counts order).2)
    (keeps : ∀ u, R s u → R u (u.barrierAdvance cl id start.phase (start.gathered order) (start.edgedAfter order))) :
    ∃ u, (s.evaluated cl id evs).Reaches u evs ∧ R s u ∧
      R (u.arrivalOutcome id (x, verdict (start.phase + 1) (start.countsNext order).2 x)) (s.barrierEvents cl id evs) := by
  have sub := (start.countedOf_sublist order)
  have subLate := (start.counts_sublist order)
  have first := by_.trans begins (by_.answers (fun z hz => h.subset (sub.subset hz)) (fun mem => (Barrier.mem_countedOf.1 mem).2 late)
    (fun _ => .counted start.phase) (s.changed cl id evs))
  have reached := ((s.changed_reaches cl id evs).answers id (fun _ => .counted start.phase) (fun z hz => h.subset (sub.subset hz))).advance
    cl id start.phase (start.gathered order) (start.edgedAfter order)
  obtain ⟨u, reached, before, after⟩ := by_.answered (fun z hz => h.subset (subLate.subset hz)) reached (subLate.nodup h.nodup) late
    (verdict (start.phase + 1) (start.countsNext order).2)
  rw [State.barrierEvents_advances h advances]
  exact ⟨u, reached, by_.trans (by_.trans first (keeps _ first)) before, after⟩

end

end

end Sys2Proof.Machine
end

section
/-! PROOFS. What the thread or the journal entry of an event finds when a barrier's cycle has been evaluated (R340, R341, R343,
R346, R356, R359). -/

namespace Sys2Proof.Machine

/-! ### One answer -/

/-- A thread that waits for no phase and has no mark of one. -/
def Thread.Free (t : Thread) : Prop := t.mark = none ∧ ∀ d i p op ty, t.wait ≠ .group d i p op ty

/-- BAR_OVER is a synchronous trap of the arrival, which gives nothing back but the entries that it took (R332, R340). -/
theorem State.arrivalOutcome_late (u : State) (id : Fin 64) (w : SlotIx) (d : GReg) (m : Nat) (edge : Bool) (g : Option Contrib) :
    u.arrivalOutcome id (.arrive w (.reg d) m edge g, .late) =
    (u.undo w (some (.reg d))).takeTrap w false 0x20 (u.thread w).ip 0 (BitVec.ofNat 64 id.val) := by
  cases g <;> rfl

section
variable {s u : State} {id : Fin 64} {w : SlotIx} (same : u.thread w = s.thread w) (d : GReg) (m : Nat) (edge : Bool)
include same

theorem State.answers_phase (phase : BitVec 16) : (u.arrivalOutcome id (.arrive w (.reg d) m edge none, .counted phase)).thread w =
    ((s.thread w).setG d (phase.setWidth 64)).done := by
  rw [State.arrivalOutcome_answers, State.modThread_thread_same, State.deliver, State.modThread_thread_same, same]

theorem State.answers_wait (k : Contrib) (phase : BitVec 16) :
    let t := (u.arrivalOutcome id (.arrive w (.reg d) m edge (some k), .counted phase)).thread w
    t.wait = .group (.reg d) id phase k.op k.ty ∧ t.g = (s.thread w).g ∧ t.mark = none := by
  rw [State.arrivalOutcome_gathers, State.modThread_thread_same, same]
  exact ⟨rfl, rfl, rfl⟩

theorem State.undo_thread : (u.undo w (some (.reg d))).thread w = { s.thread w with popped := [] } := by
  rw [State.undo, State.modThread_thread_same]
  exact congrArg (fun t : Thread => { t with popped := [] }) same

section
variable (g : Option Contrib) (outside : (s.thread w).handler = false)
include outside

/-- A thread without a handler stops. -/
theorem State.answers_stop (none_ : (s.thread w).trapvec = 0) :
    let t := (u.arrivalOutcome id (.arrive w (.reg d) m edge g, .late)).thread w
    t.trapcause = causeWord false (s.thread w).priv 0x20 ∧ t.g = (s.thread w).g ∧
      t.trapip = (s.thread w).ip.setWidth 57 ∧ t.trapaux = BitVec.ofNat 64 id.val := by
  have undone := State.undo_thread same d
  obtain ⟨stops, -⟩ := State.takeTrap_noVector (s := u.undo w (some (.reg d))) (w := w) (async := false) 0x20 (u.thread w).ip 0
    (BitVec.ofNat 64 id.val) (by rw [undone]; simp [outside]) (by rw [undone]; exact none_)
  rw [State.arrivalOutcome_late, stops, undone, same]
  exact ⟨(causeWord_eq ..).symm, rfl, rfl, rfl⟩

/-- A thread with a handler enters it. -/
theorem State.answers_enter (vector : (s.thread w).trapvec ≠ 0) {ps : List Parcel}
    (enter : u.enter (SlotIx.core w) ((s.thread w).trapvec.setWidth 64) = (u, .ok ps)) :
    (u.arrivalOutcome id (.arrive w (.reg d) m edge g, .late)).thread w = { s.thread w with
      trapcause := causeWord false (s.thread w).priv 0x20
      trapip := (s.thread w).ip.setWidth 57
      trapva := 0
      trapaux := BitVec.ofNat 64 id.val
      priv := true
      handler := true
      ip := (s.thread w).trapvec.setWidth 64
      wait := .run
      popped := []
      pjent := 0
      edgeDone := false
      parks := false } := by
  have undone := State.undo_thread same d
  have entered := (u.sameLines_undo w (some (.reg d))).enter enter
  have trap := State.takeTrap_enters (s := u.undo w (some (.reg d))) (w := w) (async := false) 0x20 (u.thread w).ip 0
    (BitVec.ofNat 64 id.val) (by rw [undone]; simp [outside]) (by rw [undone]; exact vector) (by rw [undone]; exact entered)
  rw [State.arrivalOutcome_late, trap, State.modThread_thread_same, undone, same, Thread.saving, ← causeWord_eq]
  rfl

end

end

theorem State.answers_entry {s u y : State} {id : Fin 64} {key m : Nat} {edge : Bool} {v : Verdict} (before : s.KeepsEntries key u)
    (after : (u.arrivalOutcome id (.remote key m edge, v)).KeepsEntries key y) {c : CoreIx} {j : JEntry} (mem : j ∈ (s.core c).journal)
    (named : j.key = key) : { j with state := v.entryState } ∈ (y.core c).journal := by
  refine after c _ ?_ named
  rw [State.arrivalOutcome_remote, ← named]
  exact State.setKey_sets (before c j mem named) _

/-! ### Arrivals that count, and arrivals that do not -/

/-- What an arrival that counts into a phase finds; a grpred is still waiting unless its phase has advanced. -/
def State.Counts (s : State) (id : Fin 64) (waiting : Prop) (e : BarEvent) (phase : BitVec 16) (y : State) : Prop :=
  (∀ w d m g, e = .arrive w (.reg d) m g none → y.thread w = ((s.thread w).setG d (phase.setWidth 64)).done) ∧
  (∀ w d m g k, e = .arrive w (.reg d) m g (some k) → waiting →
    (y.thread w).wait = .group (.reg d) id phase k.op k.ty ∧ (y.thread w).g = (s.thread w).g ∧ (y.thread w).mark = none) ∧
  ∀ key m g, e = .remote key m g → ∀ c, ∀ j ∈ (s.core c).journal, j.key = key → { j with state := .performed } ∈ (y.core c).journal

/-- What an arrival beyond the count finds (R340, R356, R359). -/
def State.Overflows (s : State) (id : Fin 64) (handlers : Prop) (e : BarEvent) (y : State) : Prop :=
  (∀ w d m g k, e = .arrive w (.reg d) m g k → (s.thread w).handler = false → (s.thread w).trapvec = 0 →
    (y.thread w).trapcause = causeWord false (s.thread w).priv 0x20 ∧ (y.thread w).g = (s.thread w).g ∧
    (y.thread w).trapip = (s.thread w).ip.setWidth 57 ∧ (y.thread w).trapaux = BitVec.ofNat 64 id.val) ∧
  (∀ w d m g k, e = .arrive w (.reg d) m g k → (s.thread w).handler = false → (s.thread w).trapvec ≠ 0 → handlers →
    y.thread w = { s.thread w with
      trapcause := causeWord false (s.thread w).priv 0x20
      trapip := (s.thread w).ip.setWidth 57
      trapva := 0
      trapaux := BitVec.ofNat 64 id.val
      priv := true
      handler := true
      ip := (s.thread w).trapvec.setWidth 64
      wait := .run
      popped := []
      pjent := 0
      edgeDone := false
      parks := false }) ∧
  ∀ key m g, e = .remote key m g → ∀ c, ∀ j ∈ (s.core c).journal, j.key = key → { j with state := .gone 3 } ∈ (y.core c).journal

/-- An event has been answered, and nothing has come after that for its thread or its journal entry. -/
structure State.AnswersEvent (s0 s y : State) (id : Fin 64) (evs : List BarEvent) (e : BarEvent) (v : Verdict) : Prop where
  thread : ∀ w, e.slot? = some w → ∃ u, s0.Reaches u evs ∧ u.thread w = s.thread w ∧ y.thread w = (u.arrivalOutcome id (e, v)).thread w
  entry : ∀ key, e.key? = some key → ∃ u, s.KeepsEntries key u ∧ (u.arrivalOutcome id (e, v)).KeepsEntries key y

section
variable {s0 s y : State} {id : Fin 64} {evs : List BarEvent} {e : BarEvent}

theorem State.AnswersEvent.counts {phase : BitVec 16} (h : s0.AnswersEvent s y id evs e (.counted phase)) (waiting : Prop) :
    s.Counts id waiting e phase y := by
  refine ⟨?_, ?_, ?_⟩
  · rintro w d m g rfl
    obtain ⟨u, -, same, after⟩ := h.thread w rfl
    exact after.trans (State.answers_phase same d m g phase)
  · rintro w d m g k rfl -
    obtain ⟨u, -, same, after⟩ := h.thread w rfl
    rw [after]
    exact State.answers_wait same d m g k phase
  · rintro key m g rfl c j mem named
    obtain ⟨u, before, after⟩ := h.entry key rfl
    exact State.answers_entry before after mem named

theorem State.AnswersEvent.overflows (h : s0.AnswersEvent s y id evs e .late) (mem : e ∈ evs) {handlers : Prop}
    (cached : handlers → ∀ e ∈ evs, e.Cached s0) (vectors : ∀ w, (s0.thread w).trapvec = (s.thread w).trapvec) :
    s.Overflows id handlers e y := by
  refine ⟨?_, ?_, ?_⟩
  · rintro w d m g k rfl outside none_
    obtain ⟨u, -, same, after⟩ := h.thread w rfl
    rw [after]
    exact State.answers_stop same d m g k outside none_
  · rintro w d m g k rfl outside vector enters
    obtain ⟨u, reached, same, after⟩ := h.thread w rfl
    obtain ⟨ps, entered⟩ := cached enters _ mem w (.reg d) m g k rfl (by rwa [vectors])
    rw [vectors] at entered
    exact after.trans (State.answers_enter same d m g k outside vector ((reached.lines (cached enters)).enter entered))
  · rintro key m g rfl c j mem named
    obtain ⟨u, before, after⟩ := h.entry key rfl
    exact State.answers_entry before after mem named

end

/-! ### The arrivals of a cycle -/

/-- The events of one cycle at the port of a barrier, each of its own thread or journal entry. -/
structure State.PortCycle (s : State) (cl : ClusterIx) (id : Fin 64) (evs order : List BarEvent) (start : Barrier) : Prop where
  cycle : Barrier.Cycle (BarEvent.slot s) (s.barrier cl id) start evs order
  slots : Singly BarEvent.slot? evs
  keys : Singly BarEvent.key? evs
  free : ∀ e ∈ evs, ∀ w, e.slot? = some w → (s.thread w).Free

section
variable {s : State} {cl : ClusterIx} {id : Fin 64} {evs order : List BarEvent} {start : Barrier} (h : s.PortCycle cl id evs order start)
  {e : BarEvent}

theorem BarEvent.changeOutcome_arrival (local_ : e.isLocal = true ∨ e.isRemote = true) (u : State) (phase : BitVec 16) :
    u.changeOutcome phase e = u := by
  cases e <;> simp_all [State.changeOutcome, BarEvent.isLocal, BarEvent.isRemote]

include h

theorem State.PortCycle.arrives (mem : e ∈ order) : e.isLocal = true ∨ e.isRemote = true := by
  rw [← h.cycle.ordered] at mem
  obtain mem | mem := List.mem_append.1 mem
  · exact .inl (List.mem_filter.1 ((mem_sortBy ..).1 mem)).2
  · exact .inr (List.mem_filter.1 mem).2

/-- The answers to the changes are nothing to an arrival. -/
theorem State.PortCycle.begins {R : State → State → Prop} (mem : e ∈ order) (by_ : Bystander id evs e R)
    (start_ : R s (s.evaluated cl id evs)) : R s (s.changed cl id evs) := by
  have all (xs : List BarEvent) (sub : xs ⊆ evs) (u : State) : R u (xs.foldl (State.changeOutcome (s.barrier cl id).phase) u) := by
    induction xs generalizing u with
    | nil => exact by_.refl u
    | cons z xs ih =>
      have rest := ih (fun z hz => sub (List.mem_cons_of_mem _ hz)) (u.changeOutcome (s.barrier cl id).phase z)
      by_cases same : z = e
      · subst same
        rw [BarEvent.changeOutcome_arrival (h.arrives mem)] at rest
        rwa [List.foldl_cons, BarEvent.changeOutcome_arrival (h.arrives mem)]
      · exact by_.trans (by_.change u _ z (sub List.mem_cons_self) same) rest
  exact by_.trans start_ (all evs (List.Subset.refl _) _)

theorem State.PortCycle.answers_stays (stays : ¬start.Advances evs order) (mem : e ∈ order) :
    (s.evaluated cl id evs).AnswersEvent s (s.barrierEvents cl id evs) id evs e (verdict start.phase (start.counts order).2 e) where
  thread w from_ := by
    have by_ := Bystander.thread (id := id) h.slots (h.cycle.subset mem) from_
    exact State.answered_stays h.cycle by_ (h.begins mem by_ rfl) mem stays
  entry key from_ := by
    have by_ := Bystander.entries (id := id) h.keys (h.cycle.subset mem) from_
    obtain ⟨u, -, before, after⟩ := State.answered_stays h.cycle by_ (h.begins mem by_ fun _ _ mem _ => mem) mem stays
    exact ⟨u, before, after⟩

theorem State.PortCycle.answers_late (advances : start.Advances evs order) (late : e ∈ (start.counts order).2) :
    (s.evaluated cl id evs).AnswersEvent s (s.barrierEvents cl id evs) id evs e
      (verdict (start.phase + 1) (start.countsNext order).2 e) where
  thread w from_ := by
    have mem := (start.counts_sublist order).subset late
    have by_ := Bystander.thread (id := id) h.slots (h.cycle.subset mem) from_
    obtain ⟨mark, waits⟩ := h.free e (h.cycle.subset mem) w from_
    exact State.answered_late h.cycle by_ (h.begins mem by_ rfl) advances late fun u same =>
      State.barrierAdvance_thread (by rwa [same]) (by rwa [same]) ..
  entry key from_ := by
    have mem := (start.counts_sublist order).subset late
    have by_ := Bystander.entries (id := id) h.keys (h.cycle.subset mem) from_
    obtain ⟨u, -, before, after⟩ := State.answered_late h.cycle by_ (h.begins mem by_ fun _ _ mem _ => mem) advances late fun u _ =>
      (u.aside_barrierAdvance ..).keepsEntries key
    exact ⟨u, before, after⟩

/-- An arrival that counts into a phase that advances finds that phase; a grpred is released. -/
theorem State.PortCycle.counts_first (advances : start.Advances evs order) (mem : e ∈ order) (counted : e ∉ (start.counts order).2)
    {waiting : Prop} (released : ¬waiting) : s.Counts id waiting e start.phase (s.barrierEvents cl id evs) := by
  refine ⟨?_, fun w d m g k _ waits => absurd waits released, ?_⟩
  · rintro w d m g rfl
    have by_ := Bystander.thread (id := id) (w := w) h.slots (h.cycle.subset mem) rfl
    obtain ⟨u, v, -, before, answer, after⟩ := State.answered_counted h.cycle by_ (h.begins mem by_ rfl) advances mem counted
    obtain ⟨mark, -⟩ := h.free _ (h.cycle.subset mem) w rfl
    have got := answer.trans (State.answers_phase before d m g start.phase)
    rw [after, ← got]
    refine State.barrierAdvance_thread (fun d i p op ty => ?_) ?_ ..
    · rw [got]
      exact nofun
    · rw [got]
      exact (Thread.setG_mark ..).trans mark
  · rintro key m g rfl c j here named
    have by_ := Bystander.entries (id := id) (key := key) h.keys (h.cycle.subset mem) rfl
    obtain ⟨u, v, -, before, answer, after⟩ := State.answered_counted h.cycle by_ (h.begins mem by_ fun _ _ mem _ => mem) advances mem counted
    exact State.answers_entry before ((answer.trans ((v.aside_barrierAdvance ..).keepsEntries key)).trans after) here named

/-- A bar.exp or bar.cfg is answered with the phase in which it counted (R343). -/
theorem State.PortCycle.changed_thread {w : SlotIx} {d : GReg} (mem : e ∈ evs)
    (is : (∃ x, e = .expect w (.reg d) x) ∨ ∃ n r, e = .config w (.reg d) n r) :
    (s.changed cl id evs).thread w = ((s.thread w).setG d (start.phase.setWidth 64)).done := by
  have from_ : e.slot? = some w := by obtain ⟨x, rfl⟩ | ⟨n, r, rfl⟩ := is <;> rfl
  have answer (u : State) (same : u.thread w = s.thread w) : (u.changeOutcome start.phase e).thread w =
      ((s.thread w).setG d (start.phase.setWidth 64)).done := by
    have outcome : u.changeOutcome start.phase e = (u.deliver w (.reg d) (start.phase.setWidth 64)).modThread w Thread.done := by
      obtain ⟨x, rfl⟩ | ⟨n, r, rfl⟩ := is <;> rfl
    rw [outcome, State.modThread_thread_same, State.deliver, State.modThread_thread_same, same]
  have slots := h.slots
  obtain ⟨as, bs, split⟩ := List.append_of_mem mem
  rw [split] at slots
  have apart := slots.others from_
  rw [State.changed, ← h.cycle.phase]
  generalize began : s.evaluated cl id evs = u
  have same : u.thread w = s.thread w := by rw [← began]; rfl
  rw [split, List.foldl_append, List.foldl_cons, State.changes_thread fun z hz => apart z (List.mem_append_right _ hz)]
  exact answer _ ((State.changes_thread (fun z hz => apart z (List.mem_append_left _ hz)) _ u).trans same)

theorem State.PortCycle.answers_change {w : SlotIx} {d : GReg} (mem : e ∈ evs)
    (is : (∃ x, e = .expect w (.reg d) x) ∨ ∃ n r, e = .config w (.reg d) n r) :
    (s.barrierEvents cl id evs).thread w = ((s.thread w).setG d (start.phase.setWidth 64)).done := by
  have from_ : e.slot? = some w := by obtain ⟨x, rfl⟩ | ⟨n, r, rfl⟩ := is <;> rfl
  have new : e ∉ order := fun arrival => by
    obtain ⟨x, rfl⟩ | ⟨n, r, rfl⟩ := is <;> exact absurd (h.arrives arrival) (by simp [BarEvent.isLocal, BarEvent.isRemote])
  have by_ := Bystander.thread (id := id) h.slots mem from_
  have got := h.changed_thread mem is
  by_cases advances : start.Advances evs order
  · have first := (by_.answers (fun z hz => h.cycle.subset ((start.countedOf_sublist order).subset hz))
      (fun mem => new ((start.countedOf_sublist order).subset mem)) (fun _ => .counted start.phase) (s.changed cl id evs)).trans got
    rw [State.barrierEvents_advances h.cycle advances, by_.answers (fun z hz => h.cycle.subset ((start.counts_sublist order).subset hz))
      (fun mem => new ((start.counts_sublist order).subset mem)), ← first]
    obtain ⟨mark, -⟩ := h.free e mem w from_
    refine State.barrierAdvance_thread (fun d i p op ty => ?_) ?_ ..
    · rw [first]
      exact nofun
    · rw [first]
      exact (Thread.setG_mark ..).trans mark
  · rw [State.barrierEvents_stays h.cycle advances, by_.answers h.cycle.subset new, got]

end

end Sys2Proof.Machine
end

section
/-! PROOFS. The grpreds that wait for a phase when it advances (R162, R346). -/

namespace Sys2Proof.Machine

/-- What the first occurrence of a member of a list establishes in a fold. -/
theorem foldl_first {α : Type} {f : State → α → State} {P Q : State → Prop} {xs : List α} {x : α} (mem : x ∈ xs)
    (before : ∀ s z, z ≠ x → P s → P (f s z)) (at_ : ∀ s, P s → Q (f s x)) (after : ∀ s z, Q s → Q (f s z)) {s : State} (h : P s) :
    Q (xs.foldl f s) := by
  induction xs generalizing s with
  | nil => exact nomatch mem
  | cons z xs ih =>
    by_cases same : z = x
    · subst same
      exact foldl_holds after xs (at_ s h)
    · exact ih ((List.mem_cons.1 mem).resolve_left (Ne.symm same)) (before s z same h)

/-! ### One release -/

/-- A grpred of an advanced phase has its result, or waits for the invalidation of the lines that its records cover. -/
def State.Released (s y : State) (q : SlotIx) (d : GReg) (x : W64) (edged : Bool) : Prop :=
  (edged = false ∨ covering (s.records (s.thread q)) = [] → y.thread q = ((s.thread q).setG d x).done) ∧
  (edged = true → covering (s.records (s.thread q)) ≠ [] → y.thread q = { (s.thread q).setG d x with wait := .skimmer } ∧
    y.skims (SlotIx.core q) .invalidate (covering (s.records (s.thread q))) (s.thread q).uid .finish)

theorem State.Released.mono {s y z : State} {q : SlotIx} {d : GReg} {x : W64} {edged : Bool} (h : s.Released y q d x edged)
    (beside : y.Beside z) (same : z.thread q = y.thread q) : s.Released z q d x edged := by
  refine ⟨fun quick => same.trans (h.1 quick), fun edge some_ => ?_⟩
  obtain ⟨thread, skims⟩ := h.2 edge some_
  exact ⟨same.trans thread, beside.keepsSkims skims⟩

theorem State.Released.waits {s y : State} {q : SlotIx} {d : GReg} {x : W64} {edged : Bool} (h : s.Released y q d x edged) (d' : Dst)
    (i : Fin 64) (p : BitVec 16) (op : GrpOp) (ty : GrpTy) : (y.thread q).wait ≠ .group d' i p op ty := by
  by_cases quick : edged = false ∨ covering (s.records (s.thread q)) = []
  · rw [h.1 quick]
    exact nofun
  · rw [not_or] at quick
    rw [(h.2 (Bool.not_eq_false _ ▸ quick.1) quick.2).1]
    exact nofun

theorem State.Released.mark {s y : State} {q : SlotIx} {d : GReg} {x : W64} {edged : Bool} (h : s.Released y q d x edged)
    (mark : (s.thread q).mark = none) : (y.thread q).mark = none := by
  have none_ : ((s.thread q).setG d x).mark = none := (Thread.setG_mark ..).trans mark
  by_cases quick : edged = false ∨ covering (s.records (s.thread q)) = []
  · rw [h.1 quick]
    exact none_
  · rw [not_or] at quick
    rw [(h.2 (Bool.not_eq_false _ ▸ quick.1) quick.2).1]
    exact none_

theorem State.records_setG (s : State) (t : Thread) (d : GReg) (x : W64) : s.records (t.setG d x) = s.records t := by
  rw [Thread.setG]
  split <;> rfl

theorem Thread.setG_uid (t : Thread) (d : GReg) (x : W64) : (t.setG d x).uid = t.uid := by
  rw [Thread.setG]
  split <;> rfl

theorem State.groupResult_of_perm {s : State} {cs xs : List Contrib} {op : GrpOp} {ty : GrpTy} (some_ : xs ≠ [])
    (ascends : xs.Pairwise fun x y => x.order < y.order) (perm : xs.Perm (cs.filter fun k => decide (k.op = op ∧ k.ty = ty))) :
    s.groupResult cs op ty = (s, reduceContribs op ty (xs.map Contrib.val)) := by
  have kinds : (cs.filter fun c => c.op == op && c.ty == ty) = cs.filter fun k => decide (k.op = op ∧ k.ty = ty) :=
    List.filter_congr fun k _ => by rw [Bool.decide_and, Bool.beq_eq_decide_eq, Bool.beq_eq_decide_eq]
  have nonempty : xs.isEmpty = false := by simpa using some_
  rw [State.groupResult, kinds]
  simp only [sortBy_eq perm ascends, nonempty, Bool.false_eq_true, if_false]

section
variable {s u : State} {q : SlotIx} {d : GReg} {x : W64}

theorem State.deliver_released (same : u.thread q = s.thread q) (records : ∀ t, u.records t = s.records t) (edged : Bool) :
    s.Released ((u.deliver q (.reg d) x).afterBarrier q edged) q d x edged := by
  have thread : (u.deliver q (.reg d) x).thread q = (s.thread q).setG d x := by
    rw [State.deliver, State.modThread_thread_same, same]
  have live : liveRegions ((u.deliver q (.reg d) x).records ((u.deliver q (.reg d) x).thread q)) = covering (s.records (s.thread q)) := by
    rw [(u.aside_deliver q (.reg d) x).toBeside.records, records, thread, State.records_setG, covering_eq]
  simp only [State.afterBarrier, live]
  constructor
  · intro quick
    rw [if_pos (by simpa using quick), State.modThread_thread_same, thread]
  · intro edge some_
    rw [if_neg (by simpa [edge] using some_), State.modThread_thread_same]
    refine ⟨congrArg (fun t : Thread => { t with wait := .skimmer }) thread, State.skims_modThread ?_ _ _⟩
    have skims := State.startSkim_skims (u.deliver q (.reg d) x) (SlotIx.core q) .invalidate (covering (s.records (s.thread q))) q .finish
    rwa [thread, Thread.setG_uid] at skims

variable {cl : ClusterIx} {id : Fin 64} {phase : BitVec 16} {op : GrpOp} {ty : GrpTy} {cs xs : List Contrib}
  (waits : (s.thread q).wait = .group (.reg d) id phase op ty) (home : (s.thread q).home = cl) (some_ : xs ≠ [])
  (ascends : xs.Pairwise fun x y => x.order < y.order) (perm : xs.Perm (cs.filter fun k => decide (k.op = op ∧ k.ty = ty)))
include waits home some_ ascends perm

theorem State.releaseGroup_released (same : u.thread q = s.thread q) (records : ∀ t, u.records t = s.records t) (edged : Bool) :
    s.Released (u.releaseGroup cl id phase cs edged q) q d (reduceContribs op ty (xs.map Contrib.val)) edged := by
  have release : u.releaseGroup cl id phase cs edged q =
      (u.deliver q (.reg d) (reduceContribs op ty (xs.map Contrib.val))).afterBarrier q edged := by
    simp only [State.releaseGroup, same, waits, home, bne_self_eq_false, Bool.or_self, Bool.false_eq_true, if_false,
      State.groupResult_of_perm some_ ascends perm]
  rw [release]
  exact State.deliver_released same records edged

/-- Such a grpred is released when the phase advances. -/
theorem State.barrierAdvance_released (mark : (s.thread q).mark = none) (same : u.thread q = s.thread q)
    (records : ∀ t, u.records t = s.records t) (part : (u.cluster (SlotIx.cluster q)).part = some (u.partOf cl)) (edged : Bool) :
    s.Released (u.barrierAdvance cl id phase cs edged) q d (reduceContribs op ty (xs.map Contrib.val)) edged := by
  have gathered : cs.isEmpty = false := by
    refine Bool.eq_false_iff.2 fun empty => some_ ?_
    rw [List.isEmpty_iff.1 empty] at perm
    exact perm.eq_nil
  rw [State.barrierAdvance, gathered]
  simp only [Bool.false_and, Bool.false_eq_true, if_false]
  refine foldl_holds (P := fun y => s.Released y q d (reduceContribs op ty (xs.map Contrib.val)) edged) (fun y t h => ?_) _
    (foldl_first (P := fun y => y.thread q = s.thread q ∧ u.Beside y)
      (Q := fun y => s.Released y q d (reduceContribs op ty (xs.map Contrib.val)) edged) (State.mem_slotsIn part) (fun y w other h => ?_) (fun y h => ?_)
      (fun y w h => ?_) ⟨same, State.Beside.refl u⟩)
  · obtain ⟨m, thread, none_⟩ := State.resolveMark_thread cl id phase cs y t q
    refine h.mono (y.aside_resolveMark ..).toBeside ?_
    rw [thread, none_ (h.mark mark), ← h.mark mark]
  · refine ⟨?_, h.2.trans (y.aside_releaseGroup ..).toBeside⟩
    obtain left | ⟨-, only, -⟩ := State.releaseGroup_spec cl id phase cs edged y w
    · rw [left]
      exact h.1
    · exact (only q other).trans h.1
  · exact State.releaseGroup_released waits home some_ ascends perm h.1 (fun t => h.2.records.trans (records t)) edged
  · refine h.mono (y.aside_releaseGroup ..).toBeside ?_
    obtain left | ⟨⟨d', p, op', ty', group⟩, only, -⟩ := State.releaseGroup_spec cl id phase cs edged y w
    · rw [left]
    · by_cases own : w = q
      · subst own
        exact absurd group (h.waits d' id p op' ty')
      · exact only q own

end

/-! ### The releases of a cycle -/

theorem State.evaluated_cluster (s : State) (cl : ClusterIx) (id : Fin 64) (evs : List BarEvent) (c : ClusterIx) :
    ((s.evaluated cl id evs).cluster c).part = (s.cluster c).part ∧ ((s.evaluated cl id evs).cluster c).teams = (s.cluster c).teams := by
  rw [State.evaluated, State.setBarrier, State.modCluster_cluster]
  split <;> exact ⟨rfl, rfl⟩

theorem State.evaluated_records (s : State) (cl : ClusterIx) (id : Fin 64) (evs : List BarEvent) (t : Thread) :
    (s.evaluated cl id evs).records t = s.records t := by
  rw [State.records, State.taskRecords, State.taskOf, State.teamOf, State.teamAt, (s.evaluated_cluster cl id evs _).2, State.records,
    State.taskRecords, State.taskOf, State.teamOf, State.teamAt]

section
variable {s : State} {cl : ClusterIx} {id : Fin 64} {evs order : List BarEvent} {start : Barrier} (h : s.PortCycle cl id evs order start)
include h

/-- What an evaluation leaves of the rest of the device. -/
theorem State.PortCycle.reaches : (s.evaluated cl id evs).Reaches (s.barrierEvents cl id evs) evs := by
  have changed := s.changed_reaches cl id evs
  by_cases advances : start.Advances evs order
  · rw [State.barrierEvents_advances h.cycle advances]
    exact ((changed.answers id _ fun z hz => h.cycle.subset ((start.countedOf_sublist order).subset hz)).advance cl id _ _ _).answers id _
      fun z hz => h.cycle.subset ((start.counts_sublist order).subset hz)
  · rw [State.barrierEvents_stays h.cycle advances]
    exact changed.answers id _ h.cycle.subset

/-- The barrier afterwards is as the evaluation leaves it. -/
theorem State.PortCycle.barrier : (s.barrierEvents cl id evs).barrier cl id =
    { ((s.barrier cl id).evaluate (BarEvent.slot s) evs).after with gathering := false } := by
  rw [State.barrier, h.reaches.beside.barrier]
  exact State.setBarrier_barrier ..

/-- A grpred that waits for the phase is released when the phase advances, with the reduction of its contributions (R346). -/
theorem State.PortCycle.released (advances : start.Advances evs order) {q : SlotIx} {d : GReg} {op : GrpOp} {ty : GrpTy} {xs : List Contrib}
    (waits : (s.thread q).wait = .group (.reg d) id start.phase op ty) (home : (s.thread q).home = cl) (mark : (s.thread q).mark = none)
    (part : (s.cluster (SlotIx.cluster q)).part = some (s.partOf cl)) (some_ : xs ≠ []) (ascends : xs.Pairwise fun x y => x.order < y.order)
    (perm : xs.Perm ((start.gathered order).filter fun k => decide (k.op = op ∧ k.ty = ty))) :
    s.Released (s.barrierEvents cl id evs) q d (reduceContribs op ty (xs.map Contrib.val)) (start.edgedAfter order) := by
  have apart : ∀ z ∈ evs, z.slot? ≠ some q := fun z hz from_ => (h.free z hz q from_).2 _ _ _ _ _ waits
  have counted : ∀ z ∈ start.countedOf order, z ∈ evs := fun z hz => h.cycle.subset ((start.countedOf_sublist order).subset hz)
  have late : ∀ z ∈ (start.counts order).2, z ∈ evs := fun z hz => h.cycle.subset ((start.counts_sublist order).subset hz)
  have reached := (s.changed_reaches cl id evs).answers id (fun _ => .counted start.phase) counted
  have same : ((s.changed cl id evs).answerAll id (fun _ => .counted start.phase) (start.countedOf order)).thread q = s.thread q :=
    (State.answerAll_thread (fun z hz => apart z (counted z hz)) id _ _).trans (State.changes_thread apart _ _)
  have parts (c : ClusterIx) := (reached.beside.part c).trans (s.evaluated_cluster cl id evs c).1
  have advanced := State.barrierAdvance_released waits home some_ ascends perm mark same
    (fun t => reached.beside.records.trans (s.evaluated_records cl id evs t)) (by rw [State.partOf, parts, parts]; exact part)
    (start.edgedAfter order)
  rw [State.barrierEvents_advances h.cycle advances]
  exact advanced.mono ((State.Reaches.refl _ evs).answers id (verdict (start.phase + 1) (start.countsNext order).2) late).beside (State.answerAll_thread (fun z hz => apart z (late z hz)) id _ _)

end

end Sys2Proof.Machine
end

section
/-! PROOFS. The statement about the evaluation of a barrier (R340, R343, R346). -/

namespace Sys2Proof.Machine

/-! ### What its premises say of a cycle -/

theorem length_filter_disjoint {α : Type} {p q : α → Bool} (apart : ∀ x, q x = true → p x = false) (xs : List α) :
    (xs.filter p).length + (xs.filter q).length ≤ xs.length := by
  have sub : (xs.filter q).Sublist (xs.filter fun x => !p x) := List.monotone_filter_right xs fun x hx => by simp [apart x hx]
  rw [List.length_eq_length_filter_add (l := xs) p]
  exact Nat.add_le_add_left sub.length_le _

theorem BarEvent.isLocal_of_isRemote (e : BarEvent) (h : e.isRemote = true) : e.isLocal = false := by
  cases e <;> simp [BarEvent.isRemote, BarEvent.isLocal] at h ⊢

theorem BarEvent.key_of_isRemote {e : BarEvent} (h : e.isRemote = true) : e.key? ≠ none := by
  cases e <;> simp [BarEvent.isRemote, BarEvent.key?] at h ⊢

theorem BarEvent.edge_iff {e : BarEvent} : e.edge = true ↔ (∃ w d m k, e = .arrive w d m true k) ∨ ∃ n m, e = .remote n m true := by
  cases e <;> simp [BarEvent.edge]

theorem singly_of_map {α : Type} {origin f : BarEvent → Option α} {xs : List BarEvent} (same : ∀ e, f e = origin e)
    (h : (xs.map f).Pairwise fun x y => x = none ∨ x ≠ y) : Singly origin xs := by
  rw [funext same] at h
  exact List.pairwise_map.1 h

theorem BarEvent.slot_iff {e : BarEvent} {w : SlotIx} : e.slot? = some w ↔
    (∃ d m g k, e = .arrive w d m g k) ∨ (∃ d x, e = .expect w d x) ∨ ∃ d n r, e = .config w d n r := by
  cases e <;> simp [BarEvent.slot?]

theorem phase_ne_succ (p : BitVec 16) : p ≠ p + 1 := by
  intro h
  bv_omega

theorem BarEvent.change_bytes (n : Nat) : (BarEvent.bytes n).change = BitVec.ofInt 40 (-n) := by
  rw [BarEvent.change, BitVec.ofInt_neg, BitVec.ofInt_natCast]

section
variable {key : BarEvent → Nat} {b start : Barrier} {evs order : List BarEvent}
  (split : order = order.filter BarEvent.isLocal ++ order.filter BarEvent.isRemote)
  (locals : (order.filter BarEvent.isLocal).Perm (evs.filter BarEvent.isLocal))
  (remotes : order.filter BarEvent.isRemote = evs.filter BarEvent.isRemote)
  (ascends : (order.filter BarEvent.isLocal).Pairwise fun x y => key x < key y)
include split remotes

include locals in
theorem order_length_le : order.length ≤ evs.length := by
  rw [split, List.length_append, locals.length_eq, remotes]
  exact length_filter_disjoint BarEvent.isLocal_of_isRemote evs

include ascends

include locals in
theorem order_eq : sortBy key (evs.filter BarEvent.isLocal) ++ evs.filter BarEvent.isRemote = order := by
  rw [sortBy_eq locals ascends, ← remotes]
  exact split.symm

theorem order_nodup (keys : Singly BarEvent.key? evs) : order.Nodup := by
  have remote : (order.filter BarEvent.isRemote).Nodup := by
    rw [remotes]
    refine (keys.sublist List.filter_sublist).imp_of_mem fun {x y} hx _ apart same => ?_
    obtain none_ | differ := apart
    · exact BarEvent.key_of_isRemote (List.mem_filter.1 hx).2 none_
    · exact differ (congrArg _ same)
  rw [split]
  refine List.Nodup.append (ascends.imp fun less same => absurd less (by rw [same]; exact Nat.lt_irrefl _)) remote fun e here there => ?_
  have local_ := BarEvent.isLocal_of_isRemote e (List.mem_filter.1 there).2
  exact absurd (List.mem_filter.1 here).2 (by simp [local_])

end

theorem Barrier.gathered_of {f : BarEvent → Option Contrib} (same : ∀ e, f e = e.contrib) {start : Barrier} {order : List BarEvent} :
    start.contribs ++ (order.filter fun e => decide (e ∉ (start.counts order).2)).filterMap f = start.gathered order := by
  rw [funext same]
  rfl

/-- The bytes that remain after the changes of a cycle (R340). -/
theorem Barrier.bytesAfter_eq {change : BarEvent → Int} (is : ∀ e, e.change = BitVec.ofInt 40 (change e)) (start : Barrier)
    (evs : List BarEvent) : start.bytesAfter evs = BitVec.ofInt 40 (start.bytes.toInt + (evs.map change).sum) := by
  have gathered (a : BitVec 40) : evs.foldl (fun acc x => acc + x.change) a = BitVec.ofInt 40 (a.toInt + (evs.map change).sum) := by
    induction evs generalizing a with
    | nil => simp
    | cons e evs ih =>
      rw [List.foldl_cons, ih, is, List.map_cons, List.sum_cons, BitVec.ofInt_add, BitVec.ofInt_add, BitVec.ofInt_add, BitVec.ofInt_toInt,
        BitVec.ofInt_toInt, BitVec.add_assoc]
  exact gathered start.bytes

/-- The handlers of the arrivals of a cycle are entered from the instruction caches. -/
def State.HandlersCached (s : State) (evs : List BarEvent) : Prop := ∀ w d m g k, .arrive w d m g k ∈ evs → (s.thread w).trapvec ≠ 0 →
  ∃ ps, s.enter (SlotIx.core w) ((s.thread w).trapvec.setWidth 64) = (s, .ok ps)

theorem State.HandlersCached.evaluated {s : State} {evs : List BarEvent} (cached : s.HandlersCached evs) (cl : ClusterIx) (id : Fin 64) :
    ∀ e ∈ evs, e.Cached (s.evaluated cl id evs) := by
  intro e mem
  refine BarEvent.Cached.mono (s := s) (fun w d m g k is => ?_) ⟨fun _ => rfl, rfl⟩ fun _ => rfl
  subst is
  exact cached w d m g k mem

/-! ### The barrier afterwards -/

section
variable {s : State} {cl : ClusterIx} {id : Fin 64} {evs order : List BarEvent} {start : Barrier} (h : s.PortCycle cl id evs order start)
include h

theorem State.PortCycle.barrier_keeps : ((s.barrierEvents cl id evs).barrier cl id).gathering = false ∧
    ((s.barrierEvents cl id evs).barrier cl id).exp = start.exp ∧
    ((s.barrierEvents cl id evs).barrier cl id).breload = start.breload := by
  rw [h.barrier]
  by_cases advances : start.Advances evs order
  · rw [h.cycle.evaluate_advances advances]
    exact ⟨rfl, rfl, rfl⟩
  · rw [h.cycle.evaluate_stays advances]
    exact ⟨rfl, rfl, rfl⟩

theorem State.PortCycle.barrier_advances (advances : start.Advances evs order) :
    ((s.barrierEvents cl id evs).barrier cl id).phase = start.phase + 1 ∧
    ((s.barrierEvents cl id evs).barrier cl id).arr.toNat = (start.countsNext order).1 ∧
    ((s.barrierEvents cl id evs).barrier cl id).bytes = start.breload ∧
    ((s.barrierEvents cl id evs).barrier cl id).port = [.again] := by
  rw [h.barrier, h.cycle.evaluate_advances advances]
  exact ⟨rfl, (BitVec.toNat_ofNat ..).trans (Nat.mod_eq_of_lt (start.countsNext_lt order)), rfl, rfl⟩

theorem State.PortCycle.barrier_stays (stays : ¬start.Advances evs order) :
    ((s.barrierEvents cl id evs).barrier cl id).phase = start.phase ∧
    ((s.barrierEvents cl id evs).barrier cl id).arr.toNat = (start.counts order).1 ∧
    ((s.barrierEvents cl id evs).barrier cl id).bytes = start.bytesAfter evs ∧
    ((∀ e ∈ evs, e.isConfig = false) → ((s.barrierEvents cl id evs).barrier cl id).port = []) ∧
    ((∃ e ∈ evs, e.isConfig = true) → ((s.barrierEvents cl id evs).barrier cl id).port = [.again]) := by
  rw [h.barrier, h.cycle.evaluate_stays stays]
  refine ⟨rfl, (BitVec.toNat_ofNat ..).trans (Nat.mod_eq_of_lt (start.counts_lt order)), rfl, fun none_ => ?_, fun ⟨e, mem, config⟩ => ?_⟩
  · exact if_pos (filter_eq_nil_of_sortBy.2 none_)
  · exact if_neg fun empty => absurd (filter_eq_nil_of_sortBy.1 empty e mem) (by simp [config])

/-! ### Its arrivals -/

theorem State.PortCycle.counts {e : BarEvent} (mem : e ∈ order) (counted : e ∉ (start.counts order).2) {waiting : Prop}
    (released : start.Advances evs order → ¬waiting) : s.Counts id waiting e start.phase (s.barrierEvents cl id evs) := by
  by_cases advances : start.Advances evs order
  · exact h.counts_first advances mem counted (released advances)
  · have answers := h.answers_stays advances mem
    rw [verdict, if_neg counted] at answers
    exact answers.counts waiting

theorem State.PortCycle.countsNext (advances : start.Advances evs order) {e : BarEvent} (late : e ∈ (start.counts order).2)
    (counted : e ∉ (start.countsNext order).2) (waiting : Prop) :
    s.Counts id waiting e (start.phase + 1) (s.barrierEvents cl id evs) := by
  have answers := h.answers_late advances late
  rw [verdict, if_neg counted] at answers
  exact answers.counts waiting

theorem State.PortCycle.overflows (stays : ¬start.Advances evs order) {e : BarEvent} (late : e ∈ (start.counts order).2) :
    s.Overflows id (s.HandlersCached evs) e (s.barrierEvents cl id evs) := by
  have mem := (start.counts_sublist order).subset late
  have answers := h.answers_stays stays mem
  rw [verdict, if_pos late] at answers
  exact answers.overflows (h.cycle.subset mem) (fun cached => cached.evaluated cl id) fun _ => rfl

theorem State.PortCycle.overflowsNext (advances : start.Advances evs order) {e : BarEvent} (late : e ∈ (start.counts order).2)
    (beyond : e ∈ (start.countsNext order).2) : s.Overflows id (s.HandlersCached evs) e (s.barrierEvents cl id evs) := by
  have answers := h.answers_late advances late
  rw [verdict, if_pos beyond] at answers
  exact answers.overflows (h.cycle.subset ((start.counts_sublist order).subset late)) (fun cached => cached.evaluated cl id) fun _ => rfl

/-! ### Its edge bits (R162) -/

omit h in
theorem Barrier.edgedAfter_eq_false (old : start.edged = false) (plain : ∀ e ∈ order, e.edge = false) : start.edgedAfter order = false := by
  have none_ {xs : List BarEvent} (sub : xs ⊆ order) : xs.any BarEvent.edge = false :=
    List.any_eq_false.2 fun e he => by simp [plain e (sub he)]
  rw [Barrier.edgedAfter, old, none_ (start.countedOf_sublist order).subset,
    none_ (List.Subset.trans (List.filter_sublist).subset (start.counts_sublist order).subset)]
  rfl

omit h in
theorem Barrier.edgedAfter_eq_true (edged : start.edged = true ∨ ∃ e ∈ order, e ∉ (start.counts order).2 ∧ e.edge = true) :
    start.edgedAfter order = true := by
  rw [Barrier.edgedAfter, Bool.or_eq_true, Bool.or_eq_true]
  refine .inl (edged.imp_right fun ⟨e, mem, counted, edge⟩ => ?_)
  exact List.any_eq_true.2 ⟨e, Barrier.mem_countedOf.2 ⟨mem, counted⟩, edge⟩

end

end Sys2Proof.Machine

namespace Sys2Proof

open Sys2Proof.Machine

/-- Settles O52, by the state in which each event is answered: what comes before and after it leaves its thread or its journal
entry. -/
theorem barrierEvaluation : Obligations.BarrierEvaluation := by
  unfold Obligations.BarrierEvaluation
  intro s cl id start order b evs weight change slotOf_ config isLocal isRemote count first bytes advances second got counted handlers
    over_ new reduced some_ fresh configures _ split locals remotes ascends slots keys room free
  have weight_eq : weight = BarEvent.weight := funext fun e => by cases e <;> rfl
  have local_eq : isLocal = BarEvent.isLocal := funext fun e => by cases e <;> rfl
  have remote_eq : isRemote = BarEvent.isRemote := funext fun e => by cases e <;> rfl
  have slot_eq : slotOf_ = BarEvent.slot s := funext fun e => by cases e <;> rfl
  have config_iff (e : BarEvent) : config e ↔ e.isConfig = true := BarEvent.isConfig_iff.symm
  have none_iff : (∀ e ∈ evs, ¬config e) ↔ ∀ e ∈ evs, e.isConfig = false :=
    forall₂_congr fun e _ => by rw [config_iff, Bool.not_eq_true]
  have count_eq (n : Nat) (xs : List BarEvent) : count n xs = tally start.exp.toNat n xs := by
    rw [tally_eq_foldl, ← weight_eq]
  have first_eq : first = start.counts order := count_eq ..
  have second_eq : second = start.countsNext order := (count_eq ..).trans (by rw [first_eq]; rfl)
  have change_eq (e : BarEvent) : e.change = BitVec.ofInt 40 (change e) := by
    cases e with
    | bytes n => exact BarEvent.change_bytes n
    | expect w d x => exact BitVec.ofInt_toInt.symm
    | _ => rfl
  have bytes_eq : start.bytesAfter evs = bytes := Barrier.bytesAfter_eq change_eq start evs
  have advances_iff : advances ↔ start.Advances evs order := by
    rw [Barrier.Advances, bytes_eq, ← none_iff, ← first_eq]
  rw [local_eq] at split locals ascends
  rw [remote_eq] at split remotes
  rw [slot_eq] at ascends
  have byKey : Singly BarEvent.key? evs := singly_of_map (fun e => by cases e <;> rfl) keys
  have cycle : s.PortCycle cl id evs order start := by
    refine ⟨⟨Barrier.configured (fun none_ => fresh (none_iff.2 none_)) (fun x mem is last => ?_), order_eq split locals remotes ascends,
      order_nodup split remotes ascends byKey, ?_, some_⟩, singly_of_map (fun e => by cases e <;> rfl) slots, byKey, fun e mem w from_ => ?_⟩
    · obtain ⟨w, d, n, r, rfl⟩ := BarEvent.isConfig_iff.1 is
      exact configures w d n r mem fun e he hc => slot_eq ▸ last e he ((config_iff e).1 hc)
    · have := order_length_le split locals remotes
      omega
    · exact free e mem w (BarEvent.slot_iff.1 from_)
  obtain ⟨ungathered, exp, breload⟩ := cycle.barrier_keeps
  refine ⟨s.barrierEvents cl id evs, ?_, ungathered, exp, breload, fun adv => ?_, fun stays => ?_, fun e mem on => ?_, fun adv e late => ?_,
    fun stays e late => ?_, fun w d x mem => ?_, fun w d n r mem => ?_, ?_⟩
  · exact (exec_barrierReevaluate cl id s).trans (execBarrierReevaluate_of_port some_)
  · rw [second_eq]
    exact cycle.barrier_advances (advances_iff.1 adv)
  · obtain ⟨phase, arr, left, none_, again⟩ := cycle.barrier_stays (mt advances_iff.2 stays)
    rw [first_eq]
    exact ⟨phase, arr, left.trans bytes_eq, fun fresh => none_ (none_iff.1 fresh), fun ⟨e, mem, hc⟩ => again ⟨e, mem, (config_iff e).1 hc⟩⟩
  · rw [first_eq] at on
    exact cycle.counts mem on fun adv last => phase_ne_succ _ (last (advances_iff.2 adv))
  · rw [first_eq] at late
    rw [second_eq]
    exact ⟨fun on => cycle.countsNext (advances_iff.1 adv) late on _, fun beyond => cycle.overflowsNext (advances_iff.1 adv) late beyond⟩
  · rw [first_eq] at late
    exact cycle.overflows (mt advances_iff.2 stays) late
  · exact cycle.answers_change mem (.inl ⟨x, rfl⟩)
  · exact cycle.answers_change mem (.inr ⟨n, r, rfl⟩)
  · intro adv q d op ty xs waits home mark part nonempty sorted perm edge live
    have edge_iff (e : BarEvent) : edge e ↔ e.edge = true := BarEvent.edge_iff.symm
    rw [first_eq, Barrier.gathered_of (fun e => by cases e <;> rfl)] at perm
    rw [first_eq]
    obtain ⟨quick, waiting⟩ := cycle.released (advances_iff.1 adv) waits home mark part nonempty sorted perm
    refine ⟨reduceContribs op ty (xs.map Contrib.val), reduceContribs_reduces op ty nonempty, fun old plain => quick (.inl ?_),
      fun none_ => quick (.inr none_), fun some_ edged => waiting ?_ some_⟩
    · exact Barrier.edgedAfter_eq_false old fun e mem => Bool.eq_false_iff.2 fun is => plain e mem ((edge_iff e).2 is)
    · exact Barrier.edgedAfter_eq_true (edged.imp_right fun ⟨e, mem, on, is⟩ => ⟨e, mem, on, (edge_iff e).1 is⟩)

end Sys2Proof
end
